-- ==== Sys2Proof/Word.lean ====
section
/-! DEFINITION. The word type, ports, the frame of an instruction word, and the small data that happenings carry. -/

namespace Sys2Proof

/-- A 64-bit instruction word or scalar value. -/
abbrev Word := BitVec 64
/-- A port number (R75). -/
abbrev Port := BitVec 11
/-- One byte. -/
abbrev Byte := BitVec 8
/-- A 256-bit register, latch or queue entry. -/
abbrev Vec := BitVec 256

/-- The frame of an instruction word but for its opcode (R60): IDLE, JOIN, GUARD.N and GUARD.K. -/
structure Hdr where
  idle : BitVec 10
  join : BitVec 1
  gn : BitVec 1
  gk : BitVec 6
deriving DecidableEq, Repr

/-- What a CSI-2 long packet carries (R302): RAW samples of a width, YUV422 8-bit bytes, or a type that a port discards. -/
inductive CsiData where
  | raw8 | raw10 | raw12 | raw14 | raw16 | yuv422 | other
deriving DecidableEq, Repr

/-- The packet header of a CSI-2 short packet (R302): its virtual channel, and whether its ECC is uncorrectable. -/
structure CsiHeader where
  vc : Nat
  eccBad : Bool
deriving DecidableEq, Repr

/-- What an Ethernet frame carries around its payload (R304): destination, EtherType, and whether its FCS is wrong. -/
structure EtherFrame where
  dst : BitVec 48
  etherType : BitVec 16
  fcsBad : Bool
deriving DecidableEq, Repr

/-- The window in which a register write arrives: a function's window (R436, R437), the registrar's (R356), the keeper's own
registers (R309, R390) or the Stoser debug port (R492). -/
inductive RegWindow where
  | function (fn : Nat) | registrar | keeper | stoser (core : Nat)
deriving DecidableEq, Repr

/-- What the keeper reads at boot (R443, R444, log 125): of the configuration record the device number, the enabled forms, the time
source, the port bindings, the station addresses of the lidar ports (R304, log 116) and the lowest accepted versions of the keeper and
registrar firmware; the versions of the two that it has loaded, the SHA-256 digests of both and of the record, and the silicon
stepping. -/
structure BootRecord where
  deviceNumber : BitVec 2
  forms : BitVec 32
  stepping : BitVec 8
  hostTime : Bool
  stations : List (BitVec 48) := []
  bindings : List (Nat × Nat) := []
  lowest : Nat × Nat := (0, 0)
  versions : Nat × Nat := (0, 0)
  digests : BitVec 768 := 0
deriving DecidableEq, Repr

end Sys2Proof
end

