-- ==== Sys2Proof/Config.lean ====
section
/-! DEFINITION. What an implementation fixes, and the free values of the model. -/

namespace Sys2Proof.Config

/-- Device memory, in bytes: the largest that R20 allows (16 channels of 8 GiB). Log 8. -/
def deviceBytes : Nat := 2 ^ 37

/-- A value that the spec leaves open, a fresh one for each value of `State.free` (log 5). It has no body: no proof and no
run can find out what it is. -/
opaque freeValue : Nat → BitVec 64

/-- The bank of CACHE that holds a line, by the line's number and before the count of banks is applied: the spec names none (log 5). -/
opaque lineBank : Nat → Nat

/-- The current in mA that zero-weight MACs can draw of an MX that has no work in a number of cycles of a tick, and that multiply-adds in a
number of idle VM slots of a tick can: the spec states neither (log 50). -/
opaque mxFiller : Nat → Nat
opaque vmFiller : Nat → Nat

/-- The signature that the device identity key makes over bytes 0 to 95 of a report (R445, R446): the key never leaves the keeper, and the
spec states no value (log 125). -/
opaque attSignature : BitVec 768 → BitVec 512

/-- The CRC-16 of a lidar row header's first fourteen bytes (R304): the spec names no polynomial (log 5). -/
opaque headerCrc : List (BitVec 8) → BitVec 16

end Sys2Proof.Config
end

