-- ==== Sys2Proof/Syntax.lean ====
section
/-! DEFINITION. The instructions of the NS4: one constructor for each row of spec/opcode_table.json.
A word carries its frame (`Hdr`, R60) and the fields its description assigns, as raw bit fields; a happening carries the
data that the outside supplies. Reserved bits are not carried: `decode` refuses a word in which one is set (R74). -/

namespace Sys2Proof

/-- Instruction words (R60, R84) and the happenings of the device. -/
inductive Instr where
  /-- NOP, opcode 0x00 (R156). -/
  | nop (h : Hdr)
  /-- ADD, opcode 0x01 (R151). -/
  | add (h : Hdr) (d : Port) (a : Port) (b : Port) (ty : BitVec 5)
  /-- SUB, opcode 0x02 (R151). -/
  | sub (h : Hdr) (d : Port) (a : Port) (b : Port) (ty : BitVec 5)
  /-- MUL, opcode 0x03 (R151). -/
  | mul (h : Hdr) (d : Port) (a : Port) (b : Port) (ty : BitVec 5)
  /-- MULH, opcode 0x04 (R151). -/
  | mulh (h : Hdr) (d : Port) (a : Port) (b : Port) (ty : BitVec 5)
  /-- MULHN, opcode 0x05 (R151). -/
  | mulhn (h : Hdr) (d : Port) (a : Port) (b : Port) (ty : BitVec 5)
  /-- DIV, opcode 0x06 (R152). -/
  | div (h : Hdr) (d : Port) (a : Port) (b : Port) (ty : BitVec 5)
  /-- DIVN, opcode 0x07 (R152). -/
  | divn (h : Hdr) (d : Port) (a : Port) (b : Port) (ty : BitVec 5)
  /-- REM, opcode 0x08 (R152). -/
  | rem (h : Hdr) (d : Port) (a : Port) (b : Port) (ty : BitVec 5)
  /-- REMN, opcode 0x09 (R152). -/
  | remn (h : Hdr) (d : Port) (a : Port) (b : Port) (ty : BitVec 5)
  /-- AND, opcode 0x0A (R151). -/
  | and (h : Hdr) (d : Port) (a : Port) (b : Port) (ty : BitVec 5)
  /-- OR, opcode 0x0B (R151). -/
  | or (h : Hdr) (d : Port) (a : Port) (b : Port) (ty : BitVec 5)
  /-- XOR, opcode 0x0C (R151). -/
  | xor (h : Hdr) (d : Port) (a : Port) (b : Port) (ty : BitVec 5)
  /-- ANDN, opcode 0x0D (R151). -/
  | andn (h : Hdr) (d : Port) (a : Port) (b : Port) (ty : BitVec 5)
  /-- SHL, opcode 0x0E (R151). -/
  | shl (h : Hdr) (d : Port) (a : Port) (b : Port) (ty : BitVec 5)
  /-- SHR, opcode 0x0F (R151). -/
  | shr (h : Hdr) (d : Port) (a : Port) (b : Port) (ty : BitVec 5)
  /-- SAR, opcode 0x10 (R151). -/
  | sar (h : Hdr) (d : Port) (a : Port) (b : Port) (ty : BitVec 5)
  /-- ROT, opcode 0x11 (R151). -/
  | rot (h : Hdr) (d : Port) (a : Port) (b : Port) (ty : BitVec 5)
  /-- CMP, opcode 0x12 (R154). -/
  | cmp (h : Hdr) (d : Port) (a : Port) (b : Port) (cond : BitVec 3) (wd : BitVec 2)
  /-- MIN, opcode 0x13 (R151). -/
  | min (h : Hdr) (d : Port) (a : Port) (b : Port) (ty : BitVec 5)
  /-- MAX, opcode 0x14 (R151). -/
  | max (h : Hdr) (d : Port) (a : Port) (b : Port) (ty : BitVec 5)
  /-- MINN, opcode 0x15 (R151). -/
  | minn (h : Hdr) (d : Port) (a : Port) (b : Port) (ty : BitVec 5)
  /-- MAXN, opcode 0x16 (R151). -/
  | maxn (h : Hdr) (d : Port) (a : Port) (b : Port) (ty : BitVec 5)
  /-- CLZ, opcode 0x17 (R151). -/
  | clz (h : Hdr) (d : Port) (a : Port) (ty : BitVec 5)
  /-- POPC, opcode 0x18 (R151). -/
  | popc (h : Hdr) (d : Port) (a : Port) (ty : BitVec 5)
  /-- SEL, opcode 0x19 (R155). -/
  | sel (h : Hdr) (d : Port) (a : Port) (b : Port) (k : BitVec 5)
  /-- LDI, opcode 0x1A (R157). -/
  | ldi (h : Hdr) (d : Port) (imm : BitVec 27)
  /-- LDIH, opcode 0x1B (R157). -/
  | ldih (h : Hdr) (d : Port) (imm : BitVec 27)
  /-- MOV, opcode 0x1C (R158). -/
  | mov (h : Hdr) (d : Port) (a : Port)
  /-- CAPADD, opcode 0x1D (R165). -/
  | capadd (h : Hdr) (d : Port) (a : Port) (b : Port) (n : BitVec 3)
  /-- CAPSET_WIN, opcode 0x1E (R166). -/
  | capsetWin (h : Hdr) (d : Port) (a : Port) (b : Port)
  /-- CAPSET_RIGHTS, opcode 0x1E (R166). -/
  | capsetRights (h : Hdr) (d : Port) (a : Port) (b : Port)
  /-- CAPSET_CUR, opcode 0x1E (R166). -/
  | capsetCur (h : Hdr) (d : Port) (a : Port) (b : Port)
  /-- CAPSET_UNTAG, opcode 0x1E (R166). -/
  | capsetUntag (h : Hdr) (d : Port) (a : Port) (b : Port)
  /-- CAPGET, opcode 0x1F (R167). -/
  | capget (h : Hdr) (d : Port) (a : Port) (fld : BitVec 3)
  /-- VADD, opcode 0x20 (R174). -/
  | vadd (h : Hdr) (d : Port) (a : Port) (b : Port) (ty : BitVec 5)
  /-- VSUB, opcode 0x21 (R174). -/
  | vsub (h : Hdr) (d : Port) (a : Port) (b : Port) (ty : BitVec 5)
  /-- VMUL, opcode 0x22 (R174). -/
  | vmul (h : Hdr) (d : Port) (a : Port) (b : Port) (ty : BitVec 5)
  /-- VMULH, opcode 0x23 (R174). -/
  | vmulh (h : Hdr) (d : Port) (a : Port) (b : Port) (ty : BitVec 5)
  /-- VMULW, opcode 0x45 (R174). -/
  | vmulw (h : Hdr) (d : Port) (a : Port) (b : Port) (ty : BitVec 5)
  /-- VFMA, opcode 0x24 (R175). -/
  | vfma (h : Hdr) (d : Port) (a : Port) (b : Port) (ty : BitVec 5)
  /-- VFMS, opcode 0x25 (R175). -/
  | vfms (h : Hdr) (d : Port) (a : Port) (b : Port) (ty : BitVec 5)
  /-- VFNMA, opcode 0x26 (R175). -/
  | vfnma (h : Hdr) (d : Port) (a : Port) (b : Port) (ty : BitVec 5)
  /-- VDIV, opcode 0x27 (R174). -/
  | vdiv (h : Hdr) (d : Port) (a : Port) (b : Port) (ty : BitVec 5)
  /-- VSQRT, opcode 0x28 (R176). -/
  | vsqrt (h : Hdr) (d : Port) (a : Port) (ty : BitVec 5)
  /-- VRCP, opcode 0x29 (R176). -/
  | vrcp (h : Hdr) (d : Port) (a : Port) (ty : BitVec 5)
  /-- VRSQ, opcode 0x48 (R176). -/
  | vrsq (h : Hdr) (d : Port) (a : Port) (ty : BitVec 5)
  /-- VEXP2, opcode 0x46 (R177). -/
  | vexp2 (h : Hdr) (d : Port) (a : Port) (ty : BitVec 5)
  /-- VLOG2, opcode 0x47 (R178). -/
  | vlog2 (h : Hdr) (d : Port) (a : Port) (ty : BitVec 5)
  /-- VMIN, opcode 0x2A (R174). -/
  | vmin (h : Hdr) (d : Port) (a : Port) (b : Port) (ty : BitVec 5)
  /-- VMAX, opcode 0x2B (R174). -/
  | vmax (h : Hdr) (d : Port) (a : Port) (b : Port) (ty : BitVec 5)
  /-- VABS, opcode 0x2C (R174). -/
  | vabs (h : Hdr) (d : Port) (a : Port) (ty : BitVec 5)
  /-- VNEG, opcode 0x2D (R174). -/
  | vneg (h : Hdr) (d : Port) (a : Port) (ty : BitVec 5)
  /-- VAND, opcode 0x2E (R174). -/
  | vand (h : Hdr) (d : Port) (a : Port) (b : Port) (ty : BitVec 5)
  /-- VOR, opcode 0x2F (R174). -/
  | vor (h : Hdr) (d : Port) (a : Port) (b : Port) (ty : BitVec 5)
  /-- VXOR, opcode 0x30 (R174). -/
  | vxor (h : Hdr) (d : Port) (a : Port) (b : Port) (ty : BitVec 5)
  /-- VSHL, opcode 0x31 (R174). -/
  | vshl (h : Hdr) (d : Port) (a : Port) (b : Port) (ty : BitVec 5)
  /-- VSHR, opcode 0x32 (R174). -/
  | vshr (h : Hdr) (d : Port) (a : Port) (b : Port) (ty : BitVec 5)
  /-- VSAR, opcode 0x33 (R174). -/
  | vsar (h : Hdr) (d : Port) (a : Port) (b : Port) (ty : BitVec 5)
  /-- VPOPC, opcode 0x43 (R174). -/
  | vpopc (h : Hdr) (d : Port) (a : Port) (ty : BitVec 5)
  /-- VCLZ, opcode 0x44 (R174). -/
  | vclz (h : Hdr) (d : Port) (a : Port) (ty : BitVec 5)
  /-- VCMP, opcode 0x34 (R179). -/
  | vcmp (h : Hdr) (d : Port) (a : Port) (b : Port) (md : BitVec 5)
  /-- VSEL, opcode 0x35 (R180). -/
  | vsel (h : Hdr) (d : Port) (a : Port) (b : Port) (ty : BitVec 5)
  /-- VMERGE, opcode 0x4B (R180). -/
  | vmerge (h : Hdr) (d : Port) (a : Port) (b : Port) (ty : BitVec 5)
  /-- VDOT4, opcode 0x49 (R181). -/
  | vdot4 (h : Hdr) (d : Port) (a : Port) (b : Port) (ty : BitVec 5)
  /-- VDOT2, opcode 0x4A (R181). -/
  | vdot2 (h : Hdr) (d : Port) (a : Port) (b : Port) (ty : BitVec 5)
  /-- VREDS, opcode 0x3F (R182). -/
  | vreds (h : Hdr) (d : Port) (a : Port) (b : Port) (ty : BitVec 5)
  /-- VREDX, opcode 0x40 (R182). -/
  | vredx (h : Hdr) (d : Port) (a : Port) (b : Port) (ty : BitVec 5)
  /-- VSCAN, opcode 0x41 (R183). -/
  | vscan (h : Hdr) (d : Port) (a : Port) (b : Port) (ty : BitVec 5)
  /-- VCLMUL, opcode 0x42 (R184). -/
  | vclmul (h : Hdr) (d : Port) (a : Port) (b : Port) (ty : BitVec 5)
  /-- VPERM, opcode 0x3B (R185). -/
  | vperm (h : Hdr) (d : Port) (a : Port) (b : Port) (ty : BitVec 5)
  /-- VSHUF, opcode 0x3C (R185). -/
  | vshuf (h : Hdr) (d : Port) (a : Port) (b : Port) (ty : BitVec 5)
  /-- VBCAST, opcode 0x3D (R185). -/
  | vbcast (h : Hdr) (d : Port) (a : Port) (b : Port) (ty : BitVec 5)
  /-- VSLIDE, opcode 0x3E (R185). -/
  | vslide (h : Hdr) (d : Port) (a : Port) (b : Port) (ty : BitVec 5)
  /-- VCOMPR, opcode 0x4D (R185). -/
  | vcompr (h : Hdr) (d : Port) (a : Port) (b : Port) (ty : BitVec 5)
  /-- VEXPND, opcode 0x4E (R185). -/
  | vexpnd (h : Hdr) (d : Port) (a : Port) (b : Port) (ty : BitVec 5)
  /-- VIOTA, opcode 0x4C (R185). -/
  | viota (h : Hdr) (d : Port) (a : Port) (ty : BitVec 5)
  /-- VCVT, opcode 0x36 (R186). -/
  | vcvt (h : Hdr) (d : Port) (a : Port) (st : BitVec 5) (ty : BitVec 5)
  /-- VPACK, opcode 0x39 (R187). -/
  | vpack (h : Hdr) (d : Port) (a : Port) (b : Port) (ty : BitVec 5)
  /-- VUNPK, opcode 0x3A (R187). -/
  | vunpk (h : Hdr) (d : Port) (a : Port) (b : Port) (ty : BitVec 5)
  /-- VROUND, opcode 0x4F (R188). -/
  | vround (h : Hdr) (d : Port) (a : Port) (ty : BitVec 5)
  /-- VQNT, opcode 0x37 (R189). -/
  | vqnt (h : Hdr) (d : Port) (a : Port) (b : Port) (ty : BitVec 5)
  /-- VDQNT, opcode 0x38 (R190). -/
  | vdqnt (h : Hdr) (d : Port) (a : Port) (b : Port) (ty : BitVec 5)
  /-- KAND, opcode 0x50 (R191). -/
  | kand (h : Hdr) (d : Port) (a : Port) (b : Port)
  /-- KOR, opcode 0x51 (R191). -/
  | kor (h : Hdr) (d : Port) (a : Port) (b : Port)
  /-- KXOR, opcode 0x52 (R191). -/
  | kxor (h : Hdr) (d : Port) (a : Port) (b : Port)
  /-- KNOT, opcode 0x53 (R191). -/
  | knot (h : Hdr) (d : Port) (a : Port)
  /-- KPOPC, opcode 0x54 (R191). -/
  | kpopc (h : Hdr) (d : Port) (a : Port)
  /-- KFIRST, opcode 0x55 (R191). -/
  | kfirst (h : Hdr) (d : Port) (a : Port)
  /-- KMOV, opcode 0x56 (R191). -/
  | kmov (h : Hdr) (d : Port) (a : Port)
  /-- KMOV_FIRST, opcode 0x56 (R191). -/
  | kmovFirst (h : Hdr) (d : Port) (a : Port)
  /-- NESTW, opcode 0x60 (R196). -/
  | nestw (h : Hdr) (tbl : BitVec 2) (lvl : BitVec 3) (src : Port)
  /-- NESTR, opcode 0x61 (R197). -/
  | nestr (h : Hdr) (gd : BitVec 6) (tbl : BitVec 2) (lvl : BitVec 3) (copy : BitVec 1) (half : BitVec 1)
  /-- GO, opcode 0x62 (R199). -/
  | go (h : Hdr) (mask : BitVec 4) (src : Port)
  /-- NSTAT, opcode 0x63 (R198). -/
  | nstat (h : Hdr) (gd : BitVec 6) (tbl : BitVec 2) (sel : BitVec 3)
  /-- FMTW, opcode 0x64 (R200). -/
  | fmtw (h : Hdr) (idx : BitVec 4) (src : Port)
  /-- FMTSEL, opcode 0x65 (R201). -/
  | fmtsel (h : Hdr) (en : BitVec 1) (lvl : BitVec 3)
  /-- MMA, opcode 0x66 (R206). -/
  | mma (h : Hdr) (close : BitVec 1) (last : BitVec 1) (gang : BitVec 3) (kc : BitVec 3)
  /-- MMAC, opcode 0x67 (R206). -/
  | mmac (h : Hdr) (close : BitVec 1) (last : BitVec 1) (gang : BitVec 3) (kc : BitVec 3)
  /-- RINGCFG, opcode 0x68 (R208). -/
  | ringcfg (h : Hdr) (gd : BitVec 6) (sn : BitVec 4) (dn : BitVec 4)
  /-- RHEAD, opcode 0x69 (R209). -/
  | rhead (h : Hdr) (gd : BitVec 6)
  /-- RPOP, opcode 0x6A (R210). -/
  | rpop (h : Hdr)
  /-- RDISCARD, opcode 0x6B (R210). -/
  | rdiscard (h : Hdr)
  /-- EPCFG_ACT, opcode 0x6C (R212). -/
  | epcfgAct (h : Hdr) (act : BitVec 3)
  /-- EPCFG_BIAS, opcode 0x6C (R212). -/
  | epcfgBias (h : Hdr) (hn : BitVec 6) (en : BitVec 1)
  /-- EPCFG_SCALE, opcode 0x6C (R212). -/
  | epcfgScale (h : Hdr) (hn : BitVec 6) (en : BitVec 1)
  /-- EPCFG_LO, opcode 0x6C (R212). -/
  | epcfgLo (h : Hdr) (src : Port)
  /-- EPCFG_HI, opcode 0x6C (R212). -/
  | epcfgHi (h : Hdr) (src : Port)
  /-- EPRUN, opcode 0x6D (R211). -/
  | eprun (h : Hdr) (hn : BitVec 6)
  /-- DECKLD, opcode 0x6E (R204). -/
  | deckld (h : Hdr) (cn : BitVec 5) (src : Port) (units : BitVec 11)
  /-- DECKSEL, opcode 0x6F (R205). -/
  | decksel (h : Hdr) (units : BitVec 11)
  /-- CCNT, opcode 0x70 (R214). -/
  | ccnt (h : Hdr) (gd : BitVec 6) (eng : BitVec 3)
  /-- CCONS, opcode 0x71 (R214). -/
  | ccons (h : Hdr) (eng : BitVec 3) (n : BitVec 8)
  /-- CDISC, opcode 0x72 (R214). -/
  | cdisc (h : Hdr) (eng : BitVec 3) (n : BitVec 8)
  /-- CDISC_ALL, opcode 0x72 (R214). -/
  | cdiscAll (h : Hdr) (eng : BitVec 3)
  /-- PACE, opcode 0x73 (R215). -/
  | pace (h : Hdr) (eng : BitVec 3) (gap : BitVec 13)
  /-- ASTAGE, opcode 0x74 (R202). -/
  | astage (h : Hdr) (cn : BitVec 5) (kn : BitVec 3) (src : Port)
  /-- PATCH, opcode 0x80 (R233). -/
  | patch (h : Hdr) (hn : BitVec 6) (src : Port) (keep : BitVec 1)
  /-- CELLW, opcode 0x81 (R234). -/
  | cellw (h : Hdr) (src : Port) (item : BitVec 4) (cell : BitVec 8)
  /-- CELLR, opcode 0x82 (R234). -/
  | cellr (h : Hdr) (gd : BitVec 6) (item : BitVec 4) (cell : BitVec 8)
  /-- STEPDOM, opcode 0x83 (R235). -/
  | stepdom (h : Hdr) (dom : BitVec 2) (src : Port) (kind : BitVec 2)
  /-- STEP, opcode 0x84 (R235). -/
  | step (h : Hdr) (dom : BitVec 2) (n : BitVec 8)
  /-- DARUN, opcode 0x85 (R235). -/
  | darun (h : Hdr) (stop : BitVec 4) (run : BitVec 4)
  /-- DASAVE, opcode 0x86 (R236). -/
  | dasave (h : Hdr) (hn : BitVec 6)
  /-- DALOAD, opcode 0x87 (R236). -/
  | daload (h : Hdr) (hn : BitVec 6)
  /-- DAINJ, opcode 0x88 (R237). -/
  | dainj (h : Hdr) (chan : BitVec 4) (src : Port)
  /-- DATAP, opcode 0x89 (R237). -/
  | datap (h : Hdr) (gd : BitVec 6) (clr : BitVec 1) (cell : BitVec 8)
  /-- DASTAT, opcode 0x8A (R237). -/
  | dastat (h : Hdr) (gd : BitVec 6) (clr : BitVec 1) (sel : BitVec 3)
  /-- LD, opcode 0x90 (R278). -/
  | ld (h : Hdr) (d : Port) (cn : BitVec 5) (off : Port) (w : BitVec 3) (ord : BitVec 2) (ag : BitVec 3) (stor : BitVec 3)
  /-- ST, opcode 0x91 (R278). -/
  | st (h : Hdr) (d : Port) (cn : BitVec 5) (off : Port) (w : BitVec 3) (ord : BitVec 2) (ag : BitVec 3) (stor : BitVec 3)
  /-- LDT, opcode 0x92 (R292). -/
  | ldt (h : Hdr) (hn : BitVec 6) (gc : BitVec 6) (d : Port) (w : BitVec 3)
  /-- STT, opcode 0x93 (R292). -/
  | stt (h : Hdr) (hn : BitVec 6) (gc : BitVec 6) (d : Port) (w : BitVec 3)
  /-- GATH, opcode 0x94 (R279). -/
  | gath (h : Hdr) (d : Port) (cn : BitVec 5) (off : Port) (w : BitVec 3) (ord : BitVec 2) (ag : BitVec 3) (stor : BitVec 3)
  /-- SCAT, opcode 0x95 (R279). -/
  | scat (h : Hdr) (d : Port) (cn : BitVec 5) (off : Port) (w : BitVec 3) (ord : BitVec 2) (ag : BitVec 3) (stor : BitVec 3)
  /-- AMO, opcode 0x96 (R281). -/
  | amo (h : Hdr) (d : Port) (cn : BitVec 5) (opn : BitVec 10) (w : BitVec 3) (ord : BitVec 2) (ag : BitVec 3) (stor : BitVec 3)
  /-- CAS, opcode 0x97 (R282). -/
  | cas (h : Hdr) (d : Port) (cn : BitVec 5) (off : Port) (w : BitVec 3) (ord : BitVec 2) (ag : BitVec 3) (stor : BitVec 3)
  /-- AMOF, opcode 0x98 (R283). -/
  | amof (h : Hdr) (d : Port) (cn : BitVec 5) (opn : BitVec 10) (w : BitVec 3) (ord : BitVec 2) (ag : BitVec 3) (stor : BitVec 3)
  /-- FENCE, opcode 0x99 (R262). -/
  | fence (h : Hdr) (ord : BitVec 2) (ag : BitVec 3) (stor : BitVec 3)
  /-- MARK, opcode 0x9A (R259). -/
  | mark (h : Hdr) (ag : BitVec 3) (stor : BitVec 3)
  /-- TALLOC, opcode 0x9B (R289). -/
  | talloc (h : Hdr) (gd : BitVec 6) (hn : BitVec 6) (src : Port)
  /-- TFREE, opcode 0x9C (R290). -/
  | tfree (h : Hdr) (hn : BitVec 6)
  /-- TINFO, opcode 0x9D (R291). -/
  | tinfo (h : Hdr) (gd : BitVec 6) (hn : BitVec 6)
  /-- COPY, opcode 0x9E (R293). -/
  | copy (h : Hdr) (tag : BitVec 6) (dk : BitVec 1) (dst : BitVec 6) (src : Port) (sk : BitVec 1) (sn : BitVec 6)
  /-- COPYP, opcode 0x9F (R295). -/
  | copyp (h : Hdr) (tag : BitVec 6) (hn : BitVec 6)
  /-- TWAITANY, opcode 0xA0 (R297). -/
  | twaitany (h : Hdr) (gd : BitVec 6) (src : Port)
  /-- TWAITALL, opcode 0xA1 (R297). -/
  | twaitall (h : Hdr) (src : Port)
  /-- TFFR, opcode 0xA2 (R297). -/
  | tffr (h : Hdr) (gd : BitVec 6) (src : Port)
  /-- TCLR, opcode 0xA3 (R297). -/
  | tclr (h : Hdr) (src : Port)
  /-- PREF, opcode 0xA4 (R286). -/
  | pref (h : Hdr) (d : Port) (cn : BitVec 5) (off : Port)
  /-- PREFW, opcode 0xA5 (R287). -/
  | prefw (h : Hdr) (d : Port) (a : Port)
  /-- POOLSET, opcode 0xA6 (R298). -/
  | poolset (h : Hdr) (gd : BitVec 6) (src : Port)
  /-- POOLQ_OCC, opcode 0xA7 (R298). -/
  | poolqOcc (h : Hdr) (gd : BitVec 6)
  /-- POOLQ_TKT, opcode 0xA7 (R243). -/
  | poolqTkt (h : Hdr) (gd : BitVec 6) (src : Port)
  /-- CFLUSH, opcode 0xA8 (R285). -/
  | cflush (h : Hdr) (cn : BitVec 5) (off : Port)
  /-- CINV, opcode 0xA9 (R285). -/
  | cinv (h : Hdr) (cn : BitVec 5) (off : Port)
  /-- FOOT, opcode 0xAA (R299). -/
  | foot (h : Hdr) (cn : BitVec 5) (src : Port) (acc : BitVec 2)
  /-- JOB, opcode 0xAB (R300). -/
  | job (h : Hdr) (tag : BitVec 6) (hn : BitVec 6)
  /-- NEAR, opcode 0xAC (R301). -/
  | near (h : Hdr) (tag : BitVec 6) (hn : BitVec 6)
  /-- PUSH, opcode 0xB0 (R322). -/
  | push (h : Hdr) (qn : BitVec 5) (src : Port) (ag : BitVec 3) (stor : BitVec 3)
  /-- POP, opcode 0xB1 (R323). -/
  | pop (h : Hdr) (qn : BitVec 5) (d : Port) (ag : BitVec 3) (stor : BitVec 3)
  /-- POST, opcode 0xB2 (R324). -/
  | post (h : Hdr) (en : BitVec 5) (n : BitVec 8)
  /-- AWAIT, opcode 0xB3 (R325). -/
  | await (h : Hdr) (en : BitVec 5) (n : BitVec 8)
  /-- AWAITN, opcode 0xB4 (R325). -/
  | awaitn (h : Hdr) (gd : BitVec 6) (src : Port)
  /-- BAR, opcode 0xB5 (R329). -/
  | bar (h : Hdr) (bid : BitVec 3) (mask : BitVec 4)
  /-- ROWWAIT, opcode 0xB6 (R332). -/
  | rowwait (h : Hdr) (sn : BitVec 6) (src : Port)
  /-- ROWGET, opcode 0xB7 (R333). -/
  | rowget (h : Hdr) (gd : BitVec 6) (sn : BitVec 6)
  /-- FRMGET_CNT, opcode 0xB8 (R333). -/
  | frmgetCnt (h : Hdr) (gd : BitVec 6) (sn : BitVec 6)
  /-- FRMGET_STAMP, opcode 0xB8 (R333). -/
  | frmgetStamp (h : Hdr) (gd : BitVec 6) (sn : BitVec 6)
  /-- RCSUB, opcode 0xB9 (R338). -/
  | rcsub (h : Hdr) (hn : BitVec 6) (grp : BitVec 4) (m : BitVec 3)
  /-- RCGET, opcode 0xBA (R339). -/
  | rcget (h : Hdr) (gd : BitVec 6) (hb : BitVec 6) (hr : BitVec 6) (grp : BitVec 4)
  /-- RCCFG, opcode 0xBB (R337). -/
  | rccfg (h : Hdr) (grp : BitVec 4) (src : Port) (m : BitVec 3)
  /-- TIMEGET, opcode 0xBC (R341). -/
  | timeget (h : Hdr) (d : Port)
  /-- TIMEGET_ST, opcode 0xBC (R341). -/
  | timegetSt (h : Hdr) (d : Port)
  /-- QSTAT_Q, opcode 0xBD (R327). -/
  | qstatQ (h : Hdr) (d : Port) (n : BitVec 5)
  /-- QSTAT_E, opcode 0xBD (R327). -/
  | qstatE (h : Hdr) (d : Port) (n : BitVec 5)
  /-- STBIND, opcode 0xBE (R334). -/
  | stbind (h : Hdr) (hn : BitVec 6) (sn : BitVec 6) (src : Port) (gd : BitVec 6)
  /-- QDRAIN_Q, opcode 0xBF (R328). -/
  | qdrainQ (h : Hdr) (gd : BitVec 6) (n : BitVec 5)
  /-- QDRAIN_E, opcode 0xBF (R328). -/
  | qdrainE (h : Hdr) (gd : BitVec 6) (n : BitVec 5)
  /-- BR, opcode 0xC0 (R397). -/
  | br (h : Hdr) (disp : BitVec 31)
  /-- BRI, opcode 0xC1 (R398). -/
  | bri (h : Hdr) (a : Port)
  /-- BRI_REL, opcode 0xC1 (R398). -/
  | briRel (h : Hdr) (a : Port)
  /-- CALL, opcode 0xC2 (R399). -/
  | call (h : Hdr) (gn : BitVec 6) (disp : BitVec 31)
  /-- RET, opcode 0xC3 (R398). -/
  | ret (h : Hdr) (a : Port)
  /-- LOOP, opcode 0xC4 (R400). -/
  | loop (h : Hdr) (n : BitVec 2) (disp : BitVec 31)
  /-- LCLOSE, opcode 0xC5 (R400). -/
  | lclose (h : Hdr) (n : BitVec 2) (disp : BitVec 31)
  /-- RRBSET, opcode 0xC6 (R401). -/
  | rrbset (h : Hdr) (a : Port) (b : Port) (ek : BitVec 1) (ev : BitVec 1)
  /-- FORK, opcode 0xC7 (R403). -/
  | fork (h : Hdr)
  /-- JOIN, opcode 0xC8 (R404). -/
  | joinCc (h : Hdr) (cc : BitVec 3) (mask : BitVec 4)
  /-- CCSET, opcode 0xC9 (R405). -/
  | ccset (h : Hdr) (val : BitVec 1) (cc : BitVec 3)
  /-- CCWAIT, opcode 0xCA (R405). -/
  | ccwait (h : Hdr) (val : BitVec 1) (cc : BitVec 3)
  /-- START, opcode 0xCB (R406). -/
  | start (h : Hdr)
  /-- END, opcode 0xCC (R407). -/
  | endStream (h : Hdr)
  /-- YIELD, opcode 0xCD (R408). -/
  | yieldCore (h : Hdr)
  /-- SLEEP, opcode 0xD4 (R409). -/
  | sleep (h : Hdr) (en : BitVec 5)
  /-- SPAWN, opcode 0xCE (R411). -/
  | spawn (h : Hdr) (gd : BitVec 6) (src : Port)
  /-- LAUNCH, opcode 0xCF (R412). -/
  | launch (h : Hdr) (gd : BitVec 6) (hn : BitVec 6)
  /-- SPEC, opcode 0xD0 (R413). -/
  | spec (h : Hdr) (gd : BitVec 6) (hn : BitVec 6)
  /-- DECIDE, opcode 0xD1 (R414). -/
  | decide (h : Hdr) (gd : BitVec 6) (slot : BitVec 1) (succ : BitVec 1)
  /-- TWAIT_LAUNCH, opcode 0xD2 (R415). -/
  | twaitLaunch (h : Hdr) (gd : BitVec 6) (src : Port)
  /-- TWAIT_IDLE, opcode 0xD2 (R415). -/
  | twaitIdle (h : Hdr) (eng : BitVec 3)
  /-- TDONE, opcode 0xD3 (R416). -/
  | tdone (h : Hdr)
  /-- TRAP, opcode 0xE0 (R490). -/
  | trap (h : Hdr) (code : BitVec 16)
  /-- BRK, opcode 0xE1 (R491). -/
  | brk (h : Hdr)
  /-- SNAPR_D, opcode 0xE2 (R500). -/
  | snaprD (h : Hdr) (d : Port) (a : Port)
  /-- SNAPR_V, opcode 0xE2 (R500). -/
  | snaprV (h : Hdr) (d : Port) (a : Port)
  /-- SNAPR_ST, opcode 0xE2 (R500). -/
  | snaprSt (h : Hdr) (d : Port) (a : Port)
  /-- SNAPW_D, opcode 0xE3 (R500). -/
  | snapwD (h : Hdr) (d : Port) (a : Port) (b : Port)
  /-- SNAPW_V, opcode 0xE3 (R500). -/
  | snapwV (h : Hdr) (d : Port) (a : Port) (b : Port)
  /-- CSRR, opcode 0xE4 (R493). -/
  | csrr (h : Hdr) (d : Port) (csr : BitVec 9)
  /-- CSRW, opcode 0xE5 (R493). -/
  | csrw (h : Hdr) (d : Port) (csr : BitVec 9) (b : Port) (opn : BitVec 2)
  /-- IDGET, opcode 0xE6 (R495). -/
  | idget (h : Hdr) (d : Port) (sel : BitVec 3)
  /-- CLKGET, opcode 0xE7 (R496). -/
  | clkget (h : Hdr) (d : Port) (sel : BitVec 2)
  /-- PERFR, opcode 0xE8 (R497). -/
  | perfr (h : Hdr) (d : Port) (n : BitVec 9) (clr : BitVec 1)
  /-- IFENCE, opcode 0xE9 (R498). -/
  | ifence (h : Hdr)
  /-- RESERVED_OPCODE (R85): a word whose opcode is reserved or unlisted. -/
  | reservedOpcode (w : BitVec 64)
  /-- ENGINE_COMMAND_START (R195): a happening. -/
  | engineCommandStart (core eng : Nat)
  /-- ENGINE_COMMAND_FINISH (R195): a happening. -/
  | engineCommandFinish (core eng : Nat)
  /-- K_STEP (R132): a happening. -/
  | kStep (core : Nat)
  /-- ENGINE_AUTUMN_ENTRY (R385): a happening. -/
  | engineAutumnEntry (core eng : Nat)
  /-- DOMAIN_STEP (R225): a happening. -/
  | domainStep (core : Nat)
  /-- DOMAIN_REFERENCE_TRIGGER (R224): a happening. -/
  | domainReferenceTrigger (core dom : Nat)
  /-- DOMAIN_ENGINE_TRIGGER (R224): a happening. -/
  | domainEngineTrigger (core dom : Nat)
  /-- COPYP_END_MARKER (R296): a happening. -/
  | copypEndMarker (core : Nat)
  /-- POOL_REQUEST_STEP (R241): a happening. -/
  | poolRequestStep (core : Nat)
  /-- LOAD_DATA_RETURN (R275): a happening. -/
  | loadDataReturn (core id : Nat)
  /-- ATOMIC_RETURN (R280): a happening. -/
  | atomicReturn (core id : Nat)
  /-- ADDRESS_TRANSLATION (R423): a happening. -/
  | addressTranslation (core id : Nat)
  /-- PUSH_ENTRY_POPPABLE (R322): a happening. -/
  | pushEntryPoppable (core id : Nat)
  /-- POST_ADDITION_LANDS (R324): a happening. -/
  | postAdditionLands (core id : Nat)
  /-- CCSET_VALUE_LANDS (R405): a happening. -/
  | ccsetValueLands (core id : Nat)
  /-- INSTRUCTION_BUFFER_FILL (R61): a happening. -/
  | instructionBufferFill (core stream block : Nat)
  /-- WATCHDOG_EXPIRY (R368): a happening. -/
  | watchdogExpiry (core : Nat)
  /-- FORM_IMBALANCE_TICK (R379): a happening. -/
  | formImbalanceTick (form : Nat) (work : List Nat) (filler : List Nat × BitVec 4)
  /-- THERMAL_CEILING_STEP (R390): a happening. -/
  | thermalCeilingStep (die : Nat) (raise : Bool)
  /-- DEADLINE_MISS (R369): a happening. -/
  | deadlineMiss (lid : Nat)
  /-- FORM_SWAP (R352): a happening. -/
  | formSwap (form : Nat)
  /-- CONTEXT_SAVE (R475): a happening. -/
  | contextSave (core : Nat)
  /-- CONTEXT_RESTORE (R485): a happening. -/
  | contextRestore (core : Nat)
  /-- DIE_QUEUE_POP (R359): a happening. -/
  | dieQueuePop (core : Nat)
  /-- FRAME_DEADLINE (R311): a happening. -/
  | frameDeadline (sn : Nat)
  /-- LBP_ROW_RUN (R307): a happening. -/
  | lbpRowRun (lbp : Nat)
  /-- ROW_PUBLISH (R314): a happening. -/
  | rowPublish (sn : Nat)
  /-- STORE_PERFORMED (R264): a happening. -/
  | storePerformed (core : Nat) (writeBack : Bool) (id : Nat)
  /-- NEAR_PART_DONE (R301): a happening. -/
  | nearPartDone (core : Nat)
  /-- PREFETCH_COMPLETE (R252): a happening. -/
  | prefetchComplete (core token : Nat)
  /-- TIMING_ERROR_REPLAY (R461): a happening. -/
  | timingErrorReplay (core stream : Nat) (commit : Option Nat)
  /-- SOFT_ERROR_CONSUMED (R466): a happening. -/
  | softErrorConsumed (core : Nat) (stream : Option Nat) (store : BitVec 4) (number : BitVec 8) (commit : Bool)
  /-- KEEPER_SCRUB (R465): a happening. -/
  | keeperScrub (corrected : Nat)
  /-- FF_CTL_RESUME (R455): a happening. -/
  | ffCtlResume (core : Nat) (writer : Option Nat)
  /-- FF_CTL_ABANDON (R456): a happening. -/
  | ffCtlAbandon (core : Nat) (writer : Option Nat)
  /-- FF_CTL_ABORT (R460): a happening. -/
  | ffCtlAbort (core : Nat) (writer : Option Nat)
  /-- DEBUG_HALT_REQUEST (R373): a happening. -/
  | debugHaltRequest (core stream : Nat)
  /-- DEBUG_RESUME (R373): a happening. -/
  | debugResume (core stream : Nat)
  /-- INBOX_TAIL (R342): a happening. -/
  | inboxTail (fn : Nat) (tail : BitVec 16)
  /-- LAUNCH_PACKET_ENTRY (R344): a happening. -/
  | launchPacketEntry (fn : Nat)
  /-- TT_COMMIT (R351): a happening. -/
  | ttCommit
  /-- OVERFLOW_DRAIN (R360): a happening. -/
  | overflowDrain (die ctx : Nat)
  /-- URG_FORMS (R389): a happening. -/
  | urgForms (mask : BitVec 32)
  /-- SEASON_REQ_SUMMER (R387): a happening. -/
  | seasonReqSummer (core : Nat) (val : BitVec 64)
  /-- SEASON_REQ_WINTER (R387): a happening. -/
  | seasonReqWinter (core : Nat) (val : BitVec 64)
  /-- SEASON_REQ_MIDWINTER (R387): a happening. -/
  | seasonReqMidwinter (core : Nat) (val : BitVec 64)
  /-- SEASON_ENTRY (R387): a happening. -/
  | seasonEntry (core : Nat)
  /-- SPRING_RAMP_START (R388): a happening. -/
  | springRampStart (die : Nat)
  /-- SPRING_RAMP_DONE (R384): a happening. -/
  | springRampDone (die : Nat)
  /-- THROTTLE_RELAX (R383): a happening. -/
  | throttleRelax (form : Nat)
  /-- THERMAL_TRIP (R391): a happening. -/
  | thermalTrip (die : Nat)
  /-- THERMAL_TRIP_RELEASE (R391): a happening. -/
  | thermalTripRelease (die : Nat)
  /-- SLOW_DOWN_NOTICE_REPEAT (R391): a happening. -/
  | slowDownNoticeRepeat (die : Nat)
  /-- SLOW_DOWN_NOTICE (R392): a happening. -/
  | slowDownNotice (port : Nat) (code : BitVec 6)
  /-- RELEASE_NOTICE (R392): a happening. -/
  | releaseNotice (port : Nat)
  /-- PEER_CEILING_EXPIRY (R392): a happening. -/
  | peerCeilingExpiry (port : Nat)
  /-- MEM_TEMP_READ (R393): a happening. -/
  | memTempRead (channel temp : Nat)
  /-- OT_CMD_INVAL (R427): a happening. -/
  | otCmdInval (fn : Nat) (val : BitVec 64)
  /-- OT_CMD_MIGRATE (R430): a happening. -/
  | otCmdMigrate (fn : Nat) (val : BitVec 64)
  /-- OT_CMD_DIRTY (R428): a happening. -/
  | otCmdDirty (fn : Nat) (val : BitVec 64)
  /-- SHOOT_DOWN_ACK (R429): a happening. -/
  | shootDownAck (receiver : Nat)
  /-- MIGRATION_COPY (R430): a happening. -/
  | migrationCopy
  /-- FUNCTION_LEVEL_RESET (R439): a happening. -/
  | functionLevelReset (fn : Nat)
  /-- FLR_DONE (R439): a happening. -/
  | flrDone (fn : Nat)
  /-- DEVICE_RESET (R443): a happening. -/
  | deviceReset (verified : Bool) (record : BootRecord)
  /-- ATT_CMD (R446): a happening. -/
  | attCmd
  /-- ATTESTATION_REPORT_DONE (R446): a happening. -/
  | attestationReportDone (keeper registrar config r s : BitVec 256)
  /-- HOST_LINK_ERROR (R438): a happening. -/
  | hostLinkError (core id : Nat)
  /-- SCFG_ENABLE (R305): a happening. -/
  | scfgEnable (sn : Nat) (val : BitVec 128)
  /-- SCFG_DISABLE (R305): a happening. -/
  | scfgDisable (sn : Nat) (val : BitVec 128)
  /-- SERR_CTL_CLR (R306): a happening. -/
  | serrCtlClr (sn : Nat) (val : BitVec 64)
  /-- CSI2_FRAME_START (R311): a happening. -/
  | csi2FrameStart (port : Nat) (head : CsiHeader)
  /-- CSI2_FRAME_END (R311): a happening. -/
  | csi2FrameEnd (port : Nat) (head : CsiHeader)
  /-- CSI2_LINE_START (R303): a happening. -/
  | csi2LineStart (port : Nat) (head : CsiHeader) (line : Nat)
  /-- CSI2_LONG_PACKET (R302): a happening. -/
  | csi2LongPacket (port vc : Nat) (kind : CsiData) (eccBad crcBad : Bool) (samples : List (BitVec 16))
  /-- LIDAR_FRAME (R304): a happening. -/
  | lidarFrame (port : Nat) (head : EtherFrame) (payload : List (BitVec 8))
  /-- ROLL_CALL_TICK (R318): a happening. -/
  | rollCallTick
  /-- TIME_SYNC_MESSAGE (R309): a happening. -/
  | timeSyncMessage (host synced : Bool) (time : BitVec 64)
  /-- REGISTER_WRITE (R8): a happening. -/
  | registerWrite (win : RegWindow) (offset : Nat) (val : BitVec 128)
  /-- TALOTH_PORT_TRAINING (R442): a happening. -/
  | talothPortTraining (port : Nat) (peer : Option Nat)
  /-- TALOTH_JOB_PEER_MESSAGE (R300): a happening. -/
  | talothJobPeerMessage (port : Nat) (peer : Nat) (data : List (BitVec 8))
deriving DecidableEq, Repr

end Sys2Proof
end

