-- ==== Sys2Proof/Machine/Encoding.lean ====
section
/-! DEFINITION. What a word's encoding must satisfy: the port space (R75 to R78), what each operand field admits, the limits
of the other fields and the streams in which an opcode is legal (R83, R84). None of it looks at the machine's state. -/

namespace Sys2Proof.Encoding

/-- The port space of R75, as names. -/
inductive PortView where
  | v (n : Nat) | g (n : Nat) | k (n : Nat) | latch (n : Nat) | link (n : Nat) | q (n : Nat) | c (n : Nat)
  | special (n : Nat) | imm (x : BitVec 10) | unassigned
deriving DecidableEq, Repr

/-- The register, latch, queue register, special or immediate that a port number names (R75, R76, R78). Latch n is port
0x200 + n; a special is named by its port number. -/
def view (p : Port) : PortView :=
  let n := p.toNat
  if n < 0x180 then .v n
  else if n < 0x1C0 then .g (n - 0x180)
  else if n < 0x200 then .k (n - 0x1C0)
  else if n < 0x209 then .latch (n - 0x200)
  else if n < 0x210 then .unassigned
  else if n < 0x214 then .link (n - 0x210)
  else if n < 0x280 then .unassigned
  else if n < 0x2A0 then .q (n - 0x280)
  else if n < 0x2C0 then .c (n - 0x2A0)
  else if n < 0x400 then .special n
  else .imm (p.setWidth 10)

/-- ZERO and LC0 to LC3, the specials that a program may write (R77). -/
def specialRw (n : Nat) : Bool := n == 0x2C0 || (0x2C4 ≤ n && n ≤ 0x2C7)

/-- The specials that exist (R77). -/
def specialExists (n : Nat) : Bool :=
  specialRw n || n == 0x2C1 || n == 0x2C2 || (0x2C8 ≤ n && n ≤ 0x2CE) || (0x2D0 ≤ n && n ≤ 0x2D6) ||
    (0x300 ≤ n && n ≤ 0x3FF)

/-- CU.o, which gives a capability where one is admitted (R164). -/
def isCuo (p : Port) : Bool := p == 0x208
/-- A capability register port. -/
def isC (p : Port) : Bool := match view p with | .c _ => true | _ => false

/-- The port of G register n. -/
def portG (n : BitVec 6) : Port := 0x180 + n.setWidth 11
/-- The port of predicate n. -/
def portK (n : BitVec 5) : Port := 0x1C0 + n.setWidth 11
/-- The port of capability register n. -/
def portC (n : BitVec 5) : Port := 0x2A0 + n.setWidth 11
/-- The capability register that names an end of a COPY, or ZERO where the end is a handle (R288). -/
def portOfEnd (kind : BitVec 1) (n : BitVec 6) : Port := if kind = 0 then 0x2A0 + n.setWidth 11 else 0x2C0

/-- What the description of a word admits in one of its port fields. -/
inductive Use where
  /-- A source read as an integer, a predicate or a 64-bit value (R147, R191): any source but a capability register. -/
  | int
  /-- A source of a vector word, or of PUSH: no capability register and no CU.o (R170, R322). -/
  | vec
  /-- The source of MOV (R158, R159). -/
  | any
  /-- A capability register or CU.o (R163). -/
  | cap
  /-- A 256-bit source: a vector register, the own link port, a queue register or a vector latch (R196, R337, R411). -/
  | nest
  /-- The data of SNAPW.v: a vector register, the own link port or a queue register (R489). -/
  | snapSrc
  /-- A vector register as a source (R279). -/
  | vreg
  /-- A source that is read only when the enable bit is 1 (R401). -/
  | opt (en : BitVec 1)
  /-- A predicate that SEL reads (R155). -/
  | kread
  /-- A destination of R148 and R158. -/
  | out
  /-- The destination of a vector word: the same, and no CU.o (R170). -/
  | outW
  /-- The destination of MOV, which may be a capability register (R159). -/
  | outMov
  /-- A destination that must be a vector register (R171, R279). -/
  | outV
  /-- A capability register or ZERO as the destination (R163). -/
  | outCap
  /-- The destination of POP (R323). -/
  | popDst
  /-- The destination of SNAPR.v (R489). -/
  | snapOut
  /-- A G register, named in a port field (R157, R280, R286). -/
  | greg
  /-- A G register, named by number (R193). -/
  | gnum
  /-- The link register of CALL (R395). -/
  | glink
  /-- A capability register, named by number (R72, R288). -/
  | capnum
  /-- The capability register of a COPY end (R288). -/
  | capEnd
  /-- DATA of a load of width code w (R274). -/
  | load (w : BitVec 3)
  /-- DATA of a store of width code w (R274). -/
  | store (w : BitVec 3)
  /-- The destination of LDT (R292). -/
  | ldt (w : BitVec 3)
  /-- The source of STT (R292). -/
  | stt (w : BitVec 3)
deriving DecidableEq, Repr

/-- Whether a use names a destination alone; a destination that is also read counts as a source of nothing here. -/
def Use.isDst : Use → Bool
  | .out | .outW | .outMov | .outV | .outCap | .popDst | .snapOut | .greg | .gnum | .glink | .load _ | .ldt _ => true
  | _ => false

/-- R83: the port is of a kind that the description does not admit in the field, an illegal instruction. `own` is the link
port of the issuing cluster, or 4 where the stream has none. -/
def illegalKind (own : Nat) (u : Use) (p : Port) : Bool :=
  match u, view p with
  | .int, .c _ => true
  | .vec, .c _ => true
  | .vec, _ => isCuo p
  | .cap, .c _ => false
  | .cap, _ => !isCuo p
  | .nest, .v _ => false
  | .nest, .q _ => false
  | .nest, .link n => n != own
  | .nest, .latch n => !(2 ≤ n && n ≤ 5)
  | .nest, _ => true
  | .snapSrc, .v _ => false
  | .snapSrc, .q _ => false
  | .snapSrc, .link n => n != own
  | .snapSrc, _ => true
  | .vreg, .v _ => false
  | .vreg, _ => true
  | .opt en, .c _ => en == 1
  | .out, .c _ => true
  | .out, .imm _ => true
  | .outW, .c _ => true
  | .outW, .imm _ => true
  | .outW, _ => isCuo p
  | .outMov, .imm _ => true
  | .outV, .v _ => false
  | .outV, _ => true
  | .outCap, .c _ => false
  | .outCap, .special n => n != 0x2C0
  | .outCap, _ => true
  | .popDst, .imm _ => true
  | .popDst, .c _ => true
  | .popDst, .latch _ => true
  | .popDst, .special n => specialExists n && !specialRw n
  | .snapOut, .v _ => false
  | .snapOut, .q _ => false
  | .snapOut, .link n => n != own
  | .snapOut, .special n => n != 0x2C0
  | .snapOut, _ => true
  | .greg, .g _ => false
  | .greg, _ => true
  | .load w, .imm _ => w.toNat ≤ 5
  | .load w, .c _ => w != 4
  | .load w, .v n => w == 5 && n % 4 != 0
  | .load w, .g _ => 4 ≤ w.toNat
  | .load w, .k _ => 4 ≤ w.toNat
  | .load w, .q _ => w == 5
  | .load w, .link n => w == 5 || n != own
  | .load w, .special n => !(w == 4 && n == 0x2C0) && (4 ≤ w.toNat || !specialRw n)
  | .load _, .latch _ => true
  | .load _, .unassigned => true
  | .store w, .c _ => w != 4
  | .store _, .imm _ => true
  | .store _, .unassigned => true
  | .store w, .v n => w == 5 && n % 4 != 0
  | .store w, .special n => w == 5 || !specialExists n
  | .store w, _ => w == 5
  | .ldt _, .imm _ => true
  | .ldt _, .c _ => true
  | .ldt w, .v n => w == 5 && n % 4 != 0
  | .ldt w, .g _ => 4 ≤ w.toNat
  | .ldt w, .k _ => 4 ≤ w.toNat
  | .ldt w, .q _ => w == 5
  | .ldt w, .link n => w == 5 || n != own
  | .ldt w, .special n => !(w == 4 && n == 0x2C0) && (4 ≤ w.toNat || !specialRw n)
  | .ldt _, .latch _ => true
  | .ldt _, .unassigned => true
  | .stt _, .c _ => true
  | .stt _, .unassigned => true
  | .stt w, .v n => w == 5 && n % 4 != 0
  | .stt w, .special n => w == 5 || !specialExists n
  | .stt w, _ => isCuo p || w == 5
  | _, _ => false

/-- What of the port space an issuing unit holds (R39, R41, R307): how many vector registers, G registers and capability
registers, whether all 64 predicates or K0 to K15 and K63, which latches (bit n for port 0x200 + n), its own link port (4
for none), whether it has the four link ports as sources (R76), and whether it is a line-buffer processor. -/
structure PortFile where
  vregs : Nat
  gregs : Nat
  cregs : Nat
  fullK : Bool
  latches : BitVec 9
  own : Nat
  links : Bool
  lbp : Bool
deriving DecidableEq, Repr

/-- The specials absent from a line-buffer processor (R307). -/
def lbpAbsent (n : Nat) : Bool := (0x2CA ≤ n && n ≤ 0x2CD) || n == 0x2D6 || 0x300 ≤ n

/-- R75: the port does not exist in the issuing unit for that use, a port fault. -/
def absent (f : PortFile) (u : Use) (p : Port) : Bool :=
  match view p with
  | .v n =>
    let last := match u with | .load w => if w == 5 then n + 3 else n | .store w => if w == 5 then n + 3 else n
                             | .ldt w => if w == 5 then n + 3 else n | .stt w => if w == 5 then n + 3 else n | _ => n
    match u with
    | .opt en => en == 1 && f.vregs ≤ n
    | _ => f.vregs ≤ last
  | .g n => f.gregs ≤ n
  | .k n => !(f.fullK || n < 16 || n == 63)
  | .latch n => u.isDst || !f.latches.getLsbD n
  | .link n => if u.isDst then n != f.own else !f.links
  | .q _ => f.lbp
  | .c n => f.cregs ≤ n
  | .special n => !specialExists n || (u.isDst && !specialRw n) || (f.lbp && lbpAbsent n)
  | .imm _ => false
  | .unassigned => true

/-- R274: a 128 B line needs a vector unit and a declared last register; a name beyond is an illegal DATA port. -/
def lineIllegal (f : PortFile) (u : Use) (p : Port) : Bool :=
  match u, view p with
  | .load w, .v n => w == 5 && (f.lbp || f.vregs ≤ n + 3)
  | .store w, .v n => w == 5 && (f.lbp || f.vregs ≤ n + 3)
  | .ldt w, .v n => w == 5 && (f.lbp || f.vregs ≤ n + 3)
  | .stt w, .v n => w == 5 && (f.lbp || f.vregs ≤ n + 3)
  | _, _ => false

/-- The F type codes: FP32 under any mode, FP16, BF16 (R169). -/
def isF (ty : BitVec 5) : Bool := ty == 8 || ty == 9 || ty == 10 || (16 ≤ ty.toNat && ty.toNat ≤ 20)

/-- R159: a capability moves only from a capability register or CU.o to a capability register. -/
def movPortsOk (d a : Port) : Bool :=
  if isC a then isC d else if isC d then isCuo a else true

/-- The control and status registers that exist (R492). -/
def csrListed (n : Nat) : Bool :=
  n ≤ 0x004 || (0x008 ≤ n && n ≤ 0x00D) || (0x010 ≤ n && n ≤ 0x016) || n == 0x018 || n == 0x019 ||
    (0x020 ≤ n && n ≤ 0x022) || (0x030 ≤ n && n ≤ 0x039) || (0x040 ≤ n && n ≤ 0x043) || n == 0x050

/-- Stream sets of R84, bit s for stream s: CL0 to CL3, LD, ST, MX, EP, CP, DA. -/
def setAll : BitVec 10 := 0x3FF
def setCL : BitVec 10 := 0x00F
def setMem : BitVec 10 := 0x13F
def setMX : BitVec 10 := 0x040

/-- The streams in which an opcode is legal (R84). -/
def legalStreams (op : Nat) : BitVec 10 :=
  if op ≤ 0x1C then setAll
  else if op ≤ 0x1F then setMem
  else if op ≤ 0x4F then setCL
  else if op ≤ 0x56 then setAll
  else if op == 0x61 || op == 0x63 then setAll
  else if op == 0x66 || op == 0x67 then setMX
  else if op == 0x69 then 0x0CF
  else if op == 0x6A || op == 0x6B || op == 0x6D then 0x080
  else if op == 0x6C then 0x08F
  else if op == 0x6E then 0x01F
  else if op == 0x6F then 0x04F
  else if 0x70 ≤ op && op ≤ 0x72 then setAll
  else if op == 0x74 then 0x010
  else if 0x60 ≤ op && op ≤ 0x73 then setCL
  else if op == 0x80 || op == 0x83 || op == 0x86 || op == 0x87 then 0x200
  else if op == 0x8A then setAll
  else if 0x81 ≤ op && op ≤ 0x89 then 0x20F
  else if op == 0x94 || op == 0x95 then setCL
  else if (0x96 ≤ op && op ≤ 0x98) || op == 0xA8 || op == 0xA9 then 0x10F
  else if op == 0x99 then setAll
  else if op == 0x9E || op == 0x9F || (0xAA ≤ op && op ≤ 0xAC) then 0x10F
  else if 0xA0 ≤ op && op ≤ 0xA3 then setAll
  else if op == 0xA4 || op == 0xA5 then 0x11F
  else if op == 0xA6 || op == 0xA7 then setCL
  else if 0x90 ≤ op && op ≤ 0x9D then setMem
  else if op == 0xB0 || op == 0xB1 || op == 0xB5 || (0xB9 ≤ op && op ≤ 0xBB) then setCL
  else if op == 0xBE then 0x01F
  else if 0xB2 ≤ op && op ≤ 0xBF then setAll
  else if (0xC6 ≤ op && op ≤ 0xCA) || (0xCE ≤ op && op ≤ 0xD1) || op == 0xD3 then setCL
  else if 0xC0 ≤ op && op ≤ 0xD4 then setAll
  else if op == 0xE2 || op == 0xE3 then setCL
  else if 0xE0 ≤ op && op ≤ 0xE9 then setAll
  else 0

/-- The opcodes that a line-buffer processor executes (R307). -/
def lbpLegal (op : Nat) : Bool :=
  op ≤ 0x1C || (0x20 ≤ op && op ≤ 0x56) || op == 0x92 || op == 0x93 || op == 0xBC || (0xC0 ≤ op && op ≤ 0xC6) ||
    op == 0xCC || op == 0xE4 || op == 0xE5 || op == 0xE6 || op == 0xE9
/-- The operand ports of a word and what its description admits in each (R76 to R80, R83; PREFW's destination and integer sources by
log 84). -/
def operands : Instr → List (Use × Port)
  | .nop _  => []
  | .add _ d a b _ => [(.out, d), (.int, a), (.int, b)]
  | .sub _ d a b _ => [(.out, d), (.int, a), (.int, b)]
  | .mul _ d a b _ => [(.out, d), (.int, a), (.int, b)]
  | .mulh _ d a b _ => [(.out, d), (.int, a), (.int, b)]
  | .mulhn _ d a b _ => [(.out, d), (.int, a), (.int, b)]
  | .div _ d a b _ => [(.out, d), (.int, a), (.int, b)]
  | .divn _ d a b _ => [(.out, d), (.int, a), (.int, b)]
  | .rem _ d a b _ => [(.out, d), (.int, a), (.int, b)]
  | .remn _ d a b _ => [(.out, d), (.int, a), (.int, b)]
  | .and _ d a b _ => [(.out, d), (.int, a), (.int, b)]
  | .or _ d a b _ => [(.out, d), (.int, a), (.int, b)]
  | .xor _ d a b _ => [(.out, d), (.int, a), (.int, b)]
  | .andn _ d a b _ => [(.out, d), (.int, a), (.int, b)]
  | .shl _ d a b _ => [(.out, d), (.int, a), (.int, b)]
  | .shr _ d a b _ => [(.out, d), (.int, a), (.int, b)]
  | .sar _ d a b _ => [(.out, d), (.int, a), (.int, b)]
  | .rot _ d a b _ => [(.out, d), (.int, a), (.int, b)]
  | .cmp _ d a b _ _ => [(.out, d), (.int, a), (.int, b)]
  | .min _ d a b _ => [(.out, d), (.int, a), (.int, b)]
  | .max _ d a b _ => [(.out, d), (.int, a), (.int, b)]
  | .minn _ d a b _ => [(.out, d), (.int, a), (.int, b)]
  | .maxn _ d a b _ => [(.out, d), (.int, a), (.int, b)]
  | .clz _ d a _ => [(.out, d), (.int, a)]
  | .popc _ d a _ => [(.out, d), (.int, a)]
  | .sel _ d a b k => [(.out, d), (.int, a), (.int, b), (.kread, (portK k))]
  | .ldi _ d _ => [(.out, d)]
  | .ldih _ d _ => [(.greg, d)]
  | .mov _ d a => [(.outMov, d), (.any, a)]
  | .capadd _ d a b _ => [(.outCap, d), (.cap, a), (.int, b)]
  | .capsetWin _ d a b => [(.outCap, d), (.cap, a), (.int, b)]
  | .capsetRights _ d a b => [(.outCap, d), (.cap, a), (.int, b)]
  | .capsetCur _ d a b => [(.outCap, d), (.cap, a), (.int, b)]
  | .capsetUntag _ d a b => [(.outCap, d), (.cap, a), (.int, b)]
  | .capget _ d a _ => [(.out, d), (.cap, a)]
  | .vadd _ d a b _ => [(.outW, d), (.vec, a), (.vec, b)]
  | .vsub _ d a b _ => [(.outW, d), (.vec, a), (.vec, b)]
  | .vmul _ d a b _ => [(.outW, d), (.vec, a), (.vec, b)]
  | .vmulh _ d a b _ => [(.outW, d), (.vec, a), (.vec, b)]
  | .vmulw _ d a b _ => [(.outW, d), (.vec, a), (.vec, b)]
  | .vfma _ d a b _ => [(.outV, d), (.vec, a), (.vec, b)]
  | .vfms _ d a b _ => [(.outV, d), (.vec, a), (.vec, b)]
  | .vfnma _ d a b _ => [(.outV, d), (.vec, a), (.vec, b)]
  | .vdiv _ d a b _ => [(.outW, d), (.vec, a), (.vec, b)]
  | .vsqrt _ d a _ => [(.outW, d), (.vec, a)]
  | .vrcp _ d a _ => [(.outW, d), (.vec, a)]
  | .vrsq _ d a _ => [(.outW, d), (.vec, a)]
  | .vexp2 _ d a _ => [(.outW, d), (.vec, a)]
  | .vlog2 _ d a _ => [(.outW, d), (.vec, a)]
  | .vmin _ d a b _ => [(.outW, d), (.vec, a), (.vec, b)]
  | .vmax _ d a b _ => [(.outW, d), (.vec, a), (.vec, b)]
  | .vabs _ d a _ => [(.outW, d), (.vec, a)]
  | .vneg _ d a _ => [(.outW, d), (.vec, a)]
  | .vand _ d a b _ => [(.outW, d), (.vec, a), (.vec, b)]
  | .vor _ d a b _ => [(.outW, d), (.vec, a), (.vec, b)]
  | .vxor _ d a b _ => [(.outW, d), (.vec, a), (.vec, b)]
  | .vshl _ d a b _ => [(.outW, d), (.vec, a), (.vec, b)]
  | .vshr _ d a b _ => [(.outW, d), (.vec, a), (.vec, b)]
  | .vsar _ d a b _ => [(.outW, d), (.vec, a), (.vec, b)]
  | .vpopc _ d a _ => [(.outW, d), (.vec, a)]
  | .vclz _ d a _ => [(.outW, d), (.vec, a)]
  | .vcmp _ d a b _ => [(.outW, d), (.vec, a), (.vec, b)]
  | .vsel _ d a b _ => [(.outV, d), (.vec, a), (.vec, b)]
  | .vmerge _ d a b _ => [(.outV, d), (.vec, a), (.vec, b)]
  | .vdot4 _ d a b _ => [(.outV, d), (.vec, a), (.vec, b)]
  | .vdot2 _ d a b _ => [(.outV, d), (.vec, a), (.vec, b)]
  | .vreds _ d a b _ => [(.outW, d), (.vec, a), (.vec, b)]
  | .vredx _ d a b _ => [(.outW, d), (.vec, a), (.vec, b)]
  | .vscan _ d a b _ => [(.outW, d), (.vec, a), (.vec, b)]
  | .vclmul _ d a b _ => [(.outW, d), (.vec, a), (.vec, b)]
  | .vperm _ d a b _ => [(.outW, d), (.vec, a), (.vec, b)]
  | .vshuf _ d a b _ => [(.outW, d), (.vec, a), (.vec, b)]
  | .vbcast _ d a b _ => [(.outW, d), (.vec, a), (.vec, b)]
  | .vslide _ d a b _ => [(.outW, d), (.vec, a), (.vec, b)]
  | .vcompr _ d a b _ => [(.outW, d), (.vec, a), (.vec, b)]
  | .vexpnd _ d a b _ => [(.outW, d), (.vec, a), (.vec, b)]
  | .viota _ d a _ => [(.outW, d), (.vec, a)]
  | .vcvt _ d a _ _ => [(.outW, d), (.vec, a)]
  | .vpack _ d a b _ => [(.outW, d), (.vec, a), (.vec, b)]
  | .vunpk _ d a b _ => [(.outW, d), (.vec, a), (.vec, b)]
  | .vround _ d a _ => [(.outW, d), (.vec, a)]
  | .vqnt _ d a b _ => [(.outV, d), (.vec, a), (.vec, b)]
  | .vdqnt _ d a b _ => [(.outW, d), (.vec, a), (.vec, b)]
  | .kand _ d a b => [(.outW, d), (.vec, a), (.vec, b)]
  | .kor _ d a b => [(.outW, d), (.vec, a), (.vec, b)]
  | .kxor _ d a b => [(.outW, d), (.vec, a), (.vec, b)]
  | .knot _ d a => [(.outW, d), (.vec, a)]
  | .kpopc _ d a => [(.outW, d), (.vec, a)]
  | .kfirst _ d a => [(.outW, d), (.vec, a)]
  | .kmov _ d a => [(.outW, d), (.vec, a)]
  | .kmovFirst _ d a => [(.outW, d), (.vec, a)]
  | .nestw _ _ _ src => [(.nest, src)]
  | .nestr _ gd _ _ _ _ => [(.gnum, (portG gd))]
  | .go _ _ src => [(.int, src)]
  | .nstat _ gd _ _ => [(.gnum, (portG gd))]
  | .fmtw _ _ src => [(.int, src)]
  | .fmtsel _ _ _ => []
  | .mma _ _ _ _ _ => []
  | .mmac _ _ _ _ _ => []
  | .ringcfg _ gd _ _ => [(.gnum, (portG gd))]
  | .rhead _ gd => [(.gnum, (portG gd))]
  | .rpop _  => []
  | .rdiscard _  => []
  | .epcfgAct _ _ => []
  | .epcfgBias _ _ _ => []
  | .epcfgScale _ _ _ => []
  | .epcfgLo _ src => [(.int, src)]
  | .epcfgHi _ src => [(.int, src)]
  | .eprun _ _ => []
  | .deckld _ cn src _ => [(.int, src), (.capnum, (portC cn))]
  | .decksel _ _ => []
  | .ccnt _ gd _ => [(.gnum, (portG gd))]
  | .ccons _ _ _ => []
  | .cdisc _ _ _ => []
  | .cdiscAll _ _ => []
  | .pace _ _ _ => []
  | .astage _ cn _ src => [(.int, src), (.capnum, (portC cn))]
  | .patch _ _ src _ => [(.int, src)]
  | .cellw _ src _ _ => [(.int, src)]
  | .cellr _ gd _ _ => [(.gnum, (portG gd))]
  | .stepdom _ _ src _ => [(.int, src)]
  | .step _ _ _ => []
  | .darun _ _ _ => []
  | .dasave _ _ => []
  | .daload _ _ => []
  | .dainj _ _ src => [(.int, src)]
  | .datap _ gd _ _ => [(.gnum, (portG gd))]
  | .dastat _ gd _ _ => [(.gnum, (portG gd))]
  | .ld _ d cn off w _ _ _ => [(.capnum, (portC cn)), (.load w, d), (.int, off)]
  | .st _ d cn off w _ _ _ => [(.capnum, (portC cn)), (.store w, d), (.int, off)]
  | .ldt _ _ gc d w => [(.gnum, (portG gc)), (.ldt w, d)]
  | .stt _ _ gc d w => [(.gnum, (portG gc)), (.stt w, d)]
  | .gath _ d cn off _ _ _ _ => [(.capnum, (portC cn)), (.outV, d), (.vreg, off)]
  | .scat _ d cn off _ _ _ _ => [(.capnum, (portC cn)), (.vreg, d), (.vreg, off)]
  | .amo _ d cn _ _ _ _ _ => [(.capnum, (portC cn)), (.greg, d)]
  | .cas _ d cn off _ _ _ _ => [(.capnum, (portC cn)), (.greg, d), (.int, off)]
  | .amof _ d cn _ _ _ _ _ => [(.capnum, (portC cn)), (.greg, d)]
  | .fence _ _ _ _ => []
  | .mark _ _ _ => []
  | .talloc _ gd _ src => [(.gnum, (portG gd)), (.int, src)]
  | .tfree _ _ => []
  | .tinfo _ gd _ => [(.gnum, (portG gd))]
  | .copy _ _ dk dst src sk sn => [(.int, src), (.capEnd, (portOfEnd sk sn)), (.capEnd, (portOfEnd dk dst))]
  | .copyp _ _ _ => []
  | .twaitany _ gd src => [(.gnum, (portG gd)), (.int, src)]
  | .twaitall _ src => [(.int, src)]
  | .tffr _ gd src => [(.gnum, (portG gd)), (.int, src)]
  | .tclr _ src => [(.int, src)]
  | .pref _ d cn off => [(.capnum, (portC cn)), (.greg, d), (.int, off)]
  | .prefw _ d a => [(.out, d), (.int, a)]
  | .poolset _ gd src => [(.gnum, (portG gd)), (.int, src)]
  | .poolqOcc _ gd => [(.gnum, (portG gd))]
  | .poolqTkt _ gd src => [(.gnum, (portG gd)), (.int, src)]
  | .cflush _ cn off => [(.capnum, (portC cn)), (.int, off)]
  | .cinv _ cn off => [(.capnum, (portC cn)), (.int, off)]
  | .foot _ cn src _ => [(.int, src), (.capnum, (portC cn))]
  | .job _ _ _ => []
  | .near _ _ _ => []
  | .push _ _ src _ _ => [(.vec, src)]
  | .pop _ _ d _ _ => [(.popDst, d)]
  | .post _ _ _ => []
  | .await _ _ _ => []
  | .awaitn _ gd src => [(.gnum, (portG gd)), (.int, src)]
  | .bar _ _ _ => []
  | .rowwait _ _ src => [(.int, src)]
  | .rowget _ gd _ => [(.gnum, (portG gd))]
  | .frmgetCnt _ gd _ => [(.gnum, (portG gd))]
  | .frmgetStamp _ gd _ => [(.gnum, (portG gd))]
  | .rcsub _ _ _ _ => []
  | .rcget _ gd _ _ _ => [(.gnum, (portG gd))]
  | .rccfg _ _ src _ => [(.nest, src)]
  | .timeget _ d => [(.out, d)]
  | .timegetSt _ d => [(.out, d)]
  | .qstatQ _ d _ => [(.out, d)]
  | .qstatE _ d _ => [(.out, d)]
  | .stbind _ _ _ src gd => [(.gnum, (portG gd)), (.int, src)]
  | .qdrainQ _ gd _ => [(.gnum, (portG gd))]
  | .qdrainE _ gd _ => [(.gnum, (portG gd))]
  | .br _ _ => []
  | .bri _ a => [(.int, a)]
  | .briRel _ a => [(.int, a)]
  | .call _ gn _ => [(.glink, (portG gn))]
  | .ret _ a => [(.int, a)]
  | .loop _ _ _ => []
  | .lclose _ _ _ => []
  | .rrbset _ a b ek ev => [(.opt ev, a), (.opt ek, b)]
  | .fork _  => []
  | .joinCc _ _ _ => []
  | .ccset _ _ _ => []
  | .ccwait _ _ _ => []
  | .start _  => []
  | .endStream _  => []
  | .yieldCore _  => []
  | .sleep _ _ => []
  | .spawn _ gd src => [(.gnum, (portG gd)), (.nest, src)]
  | .launch _ gd _ => [(.gnum, (portG gd))]
  | .spec _ gd _ => [(.gnum, (portG gd))]
  | .decide _ gd _ _ => [(.gnum, (portG gd))]
  | .twaitLaunch _ gd src => [(.gnum, (portG gd)), (.int, src)]
  | .twaitIdle _ _ => []
  | .tdone _  => []
  | .trap _ _ => []
  | .brk _  => []
  | .snaprD _ d a => [(.out, d), (.int, a)]
  | .snaprV _ d a => [(.snapOut, d), (.int, a)]
  | .snaprSt _ d a => [(.out, d), (.int, a)]
  | .snapwD _ d a b => [(.out, d), (.int, a), (.int, b)]
  | .snapwV _ d a b => [(.out, d), (.int, a), (.snapSrc, b)]
  | .csrr _ d _ => [(.out, d)]
  | .csrw _ d _ b _ => [(.out, d), (.int, b)]
  | .idget _ d _ => [(.out, d)]
  | .clkget _ d _ => [(.out, d)]
  | .perfr _ d _ _ => [(.out, d)]
  | .ifence _  => []
  | .reservedOpcode _ => []
  | .engineCommandStart _ _ => []
  | .engineCommandFinish _ _ => []
  | .kStep _ => []
  | .engineAutumnEntry _ _ => []
  | .domainStep _ => []
  | .domainReferenceTrigger _ _ => []
  | .domainEngineTrigger _ _ => []
  | .copypEndMarker _ => []
  | .poolRequestStep _ => []
  | .loadDataReturn _ _ => []
  | .atomicReturn _ _ => []
  | .addressTranslation _ _ => []
  | .pushEntryPoppable _ _ => []
  | .postAdditionLands _ _ => []
  | .ccsetValueLands _ _ => []
  | .instructionBufferFill _ _ _ => []
  | .watchdogExpiry _ => []
  | .deadlineMiss _ => []
  | .formSwap _ => []
  | .contextSave _ => []
  | .contextRestore _ => []
  | .dieQueuePop _ => []
  | .frameDeadline _ => []
  | .lbpRowRun _ => []
  | .rowPublish _ => []
  | .storePerformed _ _ _ => []
  | .nearPartDone _ => []
  | .prefetchComplete _ _ => []
  | .timingErrorReplay _ _ _ => []
  | .softErrorConsumed _ _ _ _ _ => []
  | .keeperScrub _ => []
  | .ffCtlResume _ _ => []
  | .ffCtlAbandon _ _ => []
  | .ffCtlAbort _ _ => []
  | .debugHaltRequest _ _ => []
  | .debugResume _ _ => []
  | .inboxTail _ _ => []
  | .launchPacketEntry _ => []
  | .ttCommit => []
  | .overflowDrain _ _ => []
  | .urgForms _ => []
  | .seasonReqSummer _ _ => []
  | .seasonReqWinter _ _ => []
  | .seasonReqMidwinter _ _ => []
  | .seasonEntry _ => []
  | .springRampStart _ => []
  | .springRampDone _ => []
  | .formImbalanceTick _ _ _ => []
  | .throttleRelax _ => []
  | .thermalCeilingStep _ _ => []
  | .thermalTrip _ => []
  | .thermalTripRelease _ => []
  | .slowDownNoticeRepeat _ => []
  | .slowDownNotice _ _ => []
  | .releaseNotice _ => []
  | .peerCeilingExpiry _ => []
  | .memTempRead _ _ => []
  | .otCmdInval _ _ => []
  | .otCmdMigrate _ _ => []
  | .otCmdDirty _ _ => []
  | .shootDownAck _ => []
  | .migrationCopy => []
  | .functionLevelReset _ => []
  | .flrDone _ => []
  | .deviceReset _ _ => []
  | .attCmd => []
  | .attestationReportDone _ _ _ _ _ => []
  | .hostLinkError _ _ => []
  | .scfgEnable _ _ => []
  | .scfgDisable _ _ => []
  | .serrCtlClr _ _ => []
  | .csi2FrameStart _ _ => []
  | .csi2FrameEnd _ _ => []
  | .csi2LineStart _ _ _ => []
  | .csi2LongPacket _ _ _ _ _ _ => []
  | .lidarFrame _ _ _ => []
  | .rollCallTick => []
  | .timeSyncMessage _ _ _ => []
  | .registerWrite _ _ _ => []
  | .talothPortTraining _ _ => []
  | .talothJobPeerMessage _ _ _ => []

/-- The limits on field values that the descriptions give: type codes, ranges, and illegal combinations (R83). -/
def fieldsOk : Instr → Bool
  | .nop _  => true
  | .add _ _ _ _ ty => decide (ty.toNat ≤ 7)
  | .sub _ _ _ _ ty => decide (ty.toNat ≤ 7)
  | .mul _ _ _ _ ty => decide (ty.toNat ≤ 7)
  | .mulh _ _ _ _ ty => decide (ty.toNat ≤ 3)
  | .mulhn _ _ _ _ ty => decide (4 ≤ ty.toNat ∧ ty.toNat ≤ 7)
  | .div _ _ _ _ ty => decide (ty.toNat ≤ 3)
  | .divn _ _ _ _ ty => decide (4 ≤ ty.toNat ∧ ty.toNat ≤ 7)
  | .rem _ _ _ _ ty => decide (ty.toNat ≤ 3)
  | .remn _ _ _ _ ty => decide (4 ≤ ty.toNat ∧ ty.toNat ≤ 7)
  | .and _ _ _ _ ty => decide (ty.toNat ≤ 7)
  | .or _ _ _ _ ty => decide (ty.toNat ≤ 7)
  | .xor _ _ _ _ ty => decide (ty.toNat ≤ 7)
  | .andn _ _ _ _ ty => decide (ty.toNat ≤ 7)
  | .shl _ _ _ _ ty => decide (ty.toNat ≤ 7)
  | .shr _ _ _ _ ty => decide (4 ≤ ty.toNat ∧ ty.toNat ≤ 7)
  | .sar _ _ _ _ ty => decide (ty.toNat ≤ 3)
  | .rot _ _ _ _ ty => decide (ty.toNat ≤ 7)
  | .cmp _ _ _ _ cond _ => decide (cond.toNat ≤ 6)
  | .min _ _ _ _ ty => decide (ty.toNat ≤ 3)
  | .max _ _ _ _ ty => decide (ty.toNat ≤ 3)
  | .minn _ _ _ _ ty => decide (4 ≤ ty.toNat ∧ ty.toNat ≤ 7)
  | .maxn _ _ _ _ ty => decide (4 ≤ ty.toNat ∧ ty.toNat ≤ 7)
  | .clz _ _ _ ty => decide (ty.toNat ≤ 7)
  | .popc _ _ _ ty => decide (ty.toNat ≤ 7)
  | .sel _ _ _ _ _ => true
  | .ldi _ _ _ => true
  | .ldih _ _ _ => true
  | .mov _ d a => decide (movPortsOk d a)
  | .capadd _ _ _ _ _ => true
  | .capsetWin _ _ _ _ => true
  | .capsetRights _ _ _ _ => true
  | .capsetCur _ _ _ _ => true
  | .capsetUntag _ _ _ _ => true
  | .capget _ _ _ _ => true
  | .vadd _ _ _ _ ty => decide ((ty.toNat ≤ 7 ∨ isF ty))
  | .vsub _ _ _ _ ty => decide ((ty.toNat ≤ 7 ∨ isF ty))
  | .vmul _ _ _ _ ty => decide ((ty.toNat ≤ 7 ∨ isF ty))
  | .vmulh _ _ _ _ ty => decide (ty.toNat ≤ 7)
  | .vmulw _ _ _ _ ty => decide (ty.toNat ∈ [0, 1, 2, 4, 5, 6, 9, 10])
  | .vfma _ _ _ _ ty => decide ((ty.toNat ≤ 7 ∨ isF ty))
  | .vfms _ _ _ _ ty => decide ((ty.toNat ≤ 7 ∨ isF ty))
  | .vfnma _ _ _ _ ty => decide ((ty.toNat ≤ 7 ∨ isF ty))
  | .vdiv _ _ _ _ ty => decide ((ty.toNat ≤ 7 ∨ isF ty))
  | .vsqrt _ _ _ ty => decide (isF ty)
  | .vrcp _ _ _ ty => decide (isF ty)
  | .vrsq _ _ _ ty => decide (isF ty)
  | .vexp2 _ _ _ ty => decide (isF ty)
  | .vlog2 _ _ _ ty => decide (isF ty)
  | .vmin _ _ _ _ ty => decide ((ty.toNat ≤ 7 ∨ isF ty))
  | .vmax _ _ _ _ ty => decide ((ty.toNat ≤ 7 ∨ isF ty))
  | .vabs _ _ _ ty => decide ((ty.toNat ≤ 7 ∨ isF ty))
  | .vneg _ _ _ ty => decide ((ty.toNat ≤ 7 ∨ isF ty))
  | .vand _ _ _ _ ty => decide (ty.toNat ≤ 7)
  | .vor _ _ _ _ ty => decide (ty.toNat ≤ 7)
  | .vxor _ _ _ _ ty => decide (ty.toNat ≤ 7)
  | .vshl _ _ _ _ ty => decide (ty.toNat ≤ 7)
  | .vshr _ _ _ _ ty => decide (4 ≤ ty.toNat ∧ ty.toNat ≤ 7)
  | .vsar _ _ _ _ ty => decide (ty.toNat ≤ 3)
  | .vpopc _ _ _ ty => decide (ty.toNat ≤ 7)
  | .vclz _ _ _ ty => decide (ty.toNat ≤ 7)
  | .vcmp _ _ _ _ md => decide (md.toNat ≤ 27)
  | .vsel _ _ _ _ ty => decide (ty.toNat ≤ 20)
  | .vmerge _ _ _ _ ty => decide (ty.toNat ≤ 7)
  | .vdot4 _ _ _ _ ty => decide (ty.toNat ∈ [0, 4, 11, 12, 13, 14, 15])
  | .vdot2 _ _ _ _ ty => decide (ty.toNat ∈ [1, 5, 9, 10])
  | .vreds _ _ _ _ ty => decide ((ty.toNat ≤ 7 ∨ isF ty))
  | .vredx _ _ _ _ ty => decide ((ty.toNat ≤ 7 ∨ isF ty))
  | .vscan _ _ _ _ ty => decide ((ty.toNat ≤ 7 ∨ isF ty))
  | .vclmul _ _ _ _ ty => decide (4 ≤ ty.toNat ∧ ty.toNat ≤ 7)
  | .vperm _ _ _ _ ty => decide (ty.toNat ≤ 20)
  | .vshuf _ _ _ _ ty => decide (ty.toNat ≤ 20)
  | .vbcast _ _ _ _ ty => decide (ty.toNat ≤ 20)
  | .vslide _ _ _ _ ty => decide (ty.toNat ≤ 20)
  | .vcompr _ _ _ _ ty => decide (ty.toNat ≤ 20)
  | .vexpnd _ _ _ _ ty => decide (ty.toNat ≤ 20)
  | .viota _ _ _ ty => decide (ty.toNat ≤ 7)
  | .vcvt _ _ _ st ty => decide (st.toNat ≤ 12 ∧ (ty.toNat ≤ 12 ∨ (16 ≤ ty.toNat ∧ ty.toNat ≤ 20)))
  | .vpack _ _ _ _ ty => decide (ty.toNat ∈ [0, 1, 2, 4, 5, 6, 9, 10])
  | .vunpk _ _ _ _ ty => decide (ty.toNat ∈ [0, 1, 2, 4, 5, 6, 9, 10, 11, 12])
  | .vround _ _ _ ty => decide (isF ty)
  | .vqnt _ _ _ _ ty => decide (13 ≤ ty.toNat ∧ ty.toNat ≤ 15)
  | .vdqnt _ _ _ _ ty => decide (13 ≤ ty.toNat ∧ ty.toNat ≤ 15)
  | .kand _ _ _ _ => true
  | .kor _ _ _ _ => true
  | .kxor _ _ _ _ => true
  | .knot _ _ _ => true
  | .kpopc _ _ _ => true
  | .kfirst _ _ _ => true
  | .kmov _ _ _ => true
  | .kmovFirst _ _ _ => true
  | .nestw _ _ lvl _ => decide (lvl.toNat ≤ 5)
  | .nestr _ _ _ lvl _ _ => decide (lvl.toNat ≤ 5)
  | .go _ mask _ => decide (mask ≠ 0)
  | .nstat _ _ _ _ => true
  | .fmtw _ _ _ => true
  | .fmtsel _ _ lvl => decide (lvl.toNat ≤ 5)
  | .mma _ _ _ _ _ => true
  | .mmac _ _ _ _ _ => true
  | .ringcfg _ _ sn dn => decide (2 ≤ dn.toNat ∧ dn.toNat ≤ 8 ∧ 2 ≤ sn.toNat ∧ sn.toNat ≤ 8)
  | .rhead _ _ => true
  | .rpop _  => true
  | .rdiscard _  => true
  | .epcfgAct _ act => decide (act.toNat ≤ 4)
  | .epcfgBias _ hn en => decide ((en = 1 ∨ hn = 0))
  | .epcfgScale _ hn en => decide ((en = 1 ∨ hn = 0))
  | .epcfgLo _ _ => true
  | .epcfgHi _ _ => true
  | .eprun _ _ => true
  | .deckld _ _ _ units => decide (units.toNat ≤ 1536)
  | .decksel _ units => decide (units.toNat ≤ 1535)
  | .ccnt _ _ eng => decide (eng.toNat ≤ 5)
  | .ccons _ eng n => decide (eng.toNat ≤ 5 ∧ n ≠ 0)
  | .cdisc _ eng n => decide (eng.toNat ≤ 5 ∧ n ≠ 0)
  | .cdiscAll _ eng => decide (eng.toNat ≤ 5)
  | .pace _ eng _ => decide (eng.toNat ≤ 5)
  | .astage _ _ _ _ => true
  | .patch _ _ _ _ => true
  | .cellw _ _ item _ => decide (item.toNat ≤ 4)
  | .cellr _ _ item _ => decide (item.toNat ≤ 5)
  | .stepdom _ _ _ _ => true
  | .step _ _ n => decide (n ≠ 0)
  | .darun _ stop run => decide (stop &&& run = 0)
  | .dasave _ _ => true
  | .daload _ _ => true
  | .dainj _ _ _ => true
  | .datap _ _ _ _ => true
  | .dastat _ _ _ sel => decide (sel.toNat ≤ 4)
  | .ld _ _ _ _ w ord ag stor => decide (w.toNat ≤ 5 ∧ ord.toNat ≤ 1 ∧ ag.toNat ≤ 5 ∧ stor.toNat ≤ 6)
  | .st _ _ _ _ w ord ag stor => decide (w.toNat ≤ 5 ∧ (ord = 0 ∨ ord = 2) ∧ ag.toNat ≤ 5 ∧ stor.toNat ≤ 6)
  | .ldt _ _ _ _ w => decide (w.toNat ≤ 5)
  | .stt _ _ _ _ w => decide (w.toNat ≤ 5)
  | .gath _ _ _ _ w ord ag stor => decide (w.toNat ≤ 3 ∧ ord.toNat ≤ 1 ∧ ag.toNat ≤ 5 ∧ stor.toNat ≤ 6)
  | .scat _ _ _ _ w ord ag stor => decide (w.toNat ≤ 3 ∧ (ord = 0 ∨ ord = 2) ∧ ag.toNat ≤ 5 ∧ stor.toNat ≤ 6)
  | .amo _ _ _ opn w _ ag stor => decide (opn.toNat ≤ 8 ∧ (w = 2 ∨ w = 3) ∧ ag.toNat ≤ 5 ∧ stor.toNat ≤ 6)
  | .cas _ _ _ _ w _ ag stor => decide ((w = 2 ∨ w = 3) ∧ ag.toNat ≤ 5 ∧ stor.toNat ≤ 6)
  | .amof _ _ _ opn w _ ag stor => decide (opn.toNat ≤ 4 ∧ (if opn.toNat ≤ 2 then w = 2 else w = 1) ∧ ag.toNat ≤ 5 ∧ stor.toNat ≤ 6)
  | .fence _ _ ag stor => decide (ag.toNat ≤ 5 ∧ stor.toNat ≤ 6)
  | .mark _ ag stor => decide (ag.toNat ≤ 5 ∧ stor.toNat ≤ 6)
  | .talloc _ _ _ _ => true
  | .tfree _ _ => true
  | .tinfo _ _ _ => true
  | .copy _ _ dk dst _ sk sn => decide ((sk = 1 ∨ sn.toNat ≤ 31) ∧ (dk = 1 ∨ dst.toNat ≤ 31))
  | .copyp _ _ _ => true
  | .twaitany _ _ _ => true
  | .twaitall _ _ => true
  | .tffr _ _ _ => true
  | .tclr _ _ => true
  | .pref _ _ _ _ => true
  | .prefw _ _ _ => true
  | .poolset _ _ _ => true
  | .poolqOcc _ _ => true
  | .poolqTkt _ _ _ => true
  | .cflush _ _ _ => true
  | .cinv _ _ _ => true
  | .foot _ _ _ acc => decide (acc ≠ 0)
  | .job _ _ _ => true
  | .near _ _ _ => true
  | .push _ _ _ ag stor => decide (ag.toNat ≤ 5 ∧ stor.toNat ≤ 6)
  | .pop _ _ _ ag stor => decide (ag.toNat ≤ 5 ∧ stor.toNat ≤ 6)
  | .post _ _ n => decide (n ≠ 0)
  | .await _ _ n => decide (n ≠ 0)
  | .awaitn _ _ _ => true
  | .bar _ _ mask => decide (mask ≠ 0)
  | .rowwait _ _ _ => true
  | .rowget _ _ _ => true
  | .frmgetCnt _ _ _ => true
  | .frmgetStamp _ _ _ => true
  | .rcsub _ _ _ _ => true
  | .rcget _ _ _ _ _ => true
  | .rccfg _ _ _ _ => true
  | .timeget _ _ => true
  | .timegetSt _ _ => true
  | .qstatQ _ _ _ => true
  | .qstatE _ _ _ => true
  | .stbind _ _ _ _ _ => true
  | .qdrainQ _ _ _ => true
  | .qdrainE _ _ _ => true
  | .br _ _ => true
  | .bri _ _ => true
  | .briRel _ _ => true
  | .call _ _ _ => true
  | .ret _ _ => true
  | .loop _ _ _ => true
  | .lclose _ _ _ => true
  | .rrbset _ a b ek ev => decide ((ev = 1 ∨ ek = 1) ∧ (ev = 1 ∨ a = 0) ∧ (ek = 1 ∨ b = 0))
  | .fork _  => true
  | .joinCc h _ mask => decide (mask ≠ 0 ∧ h.join = 0)
  | .ccset _ _ _ => true
  | .ccwait _ _ _ => true
  | .start _  => true
  | .endStream _  => true
  | .yieldCore _  => true
  | .sleep _ _ => true
  | .spawn _ _ _ => true
  | .launch _ _ _ => true
  | .spec _ _ _ => true
  | .decide _ _ _ _ => true
  | .twaitLaunch _ _ _ => true
  | .twaitIdle _ eng => decide (eng.toNat ≤ 5)
  | .tdone _  => true
  | .trap _ _ => true
  | .brk _  => true
  | .snaprD _ _ _ => true
  | .snaprV _ _ _ => true
  | .snaprSt _ _ _ => true
  | .snapwD _ _ _ _ => true
  | .snapwV _ _ _ _ => true
  | .csrr _ _ csr => decide (csrListed csr.toNat)
  | .csrw _ _ csr _ opn => decide (csr = 0 ∧ opn.toNat ≤ 2)
  | .idget _ _ sel => decide (sel.toNat ≤ 4)
  | .clkget _ _ sel => decide (sel.toNat ≤ 2)
  | .perfr _ _ n _ => decide (n.toNat ≤ 11)
  | .ifence _  => true
  | .reservedOpcode w => legalStreams (w.toNat / 2 ^ 45 % 256) == 0
  | .engineCommandStart _ _ => true
  | .engineCommandFinish _ _ => true
  | .kStep _ => true
  | .engineAutumnEntry _ _ => true
  | .domainStep _ => true
  | .domainReferenceTrigger _ _ => true
  | .domainEngineTrigger _ _ => true
  | .copypEndMarker _ => true
  | .poolRequestStep _ => true
  | .loadDataReturn _ _ => true
  | .atomicReturn _ _ => true
  | .addressTranslation _ _ => true
  | .pushEntryPoppable _ _ => true
  | .postAdditionLands _ _ => true
  | .ccsetValueLands _ _ => true
  | .instructionBufferFill _ _ _ => true
  | .watchdogExpiry _ => true
  | .deadlineMiss _ => true
  | .formSwap _ => true
  | .contextSave _ => true
  | .contextRestore _ => true
  | .dieQueuePop _ => true
  | .frameDeadline _ => true
  | .lbpRowRun _ => true
  | .rowPublish _ => true
  | .storePerformed _ _ _ => true
  | .nearPartDone _ => true
  | .prefetchComplete _ _ => true
  | .timingErrorReplay _ _ _ => true
  | .softErrorConsumed _ _ _ _ _ => true
  | .keeperScrub _ => true
  | .ffCtlResume _ _ => true
  | .ffCtlAbandon _ _ => true
  | .ffCtlAbort _ _ => true
  | .debugHaltRequest _ _ => true
  | .debugResume _ _ => true
  | .inboxTail _ _ => true
  | .launchPacketEntry _ => true
  | .ttCommit => true
  | .overflowDrain _ _ => true
  | .urgForms _ => true
  | .seasonReqSummer _ _ => true
  | .seasonReqWinter _ _ => true
  | .seasonReqMidwinter _ _ => true
  | .seasonEntry _ => true
  | .springRampStart _ => true
  | .springRampDone _ => true
  | .formImbalanceTick _ _ _ => true
  | .throttleRelax _ => true
  | .thermalCeilingStep _ _ => true
  | .thermalTrip _ => true
  | .thermalTripRelease _ => true
  | .slowDownNoticeRepeat _ => true
  | .slowDownNotice _ _ => true
  | .releaseNotice _ => true
  | .peerCeilingExpiry _ => true
  | .memTempRead _ _ => true
  | .otCmdInval _ _ => true
  | .otCmdMigrate _ _ => true
  | .otCmdDirty _ _ => true
  | .shootDownAck _ => true
  | .migrationCopy => true
  | .functionLevelReset _ => true
  | .flrDone _ => true
  | .deviceReset _ _ => true
  | .attCmd => true
  | .attestationReportDone _ _ _ _ _ => true
  | .hostLinkError _ _ => true
  | .scfgEnable _ _ => true
  | .scfgDisable _ _ => true
  | .serrCtlClr _ _ => true
  | .csi2FrameStart _ _ => true
  | .csi2FrameEnd _ _ => true
  | .csi2LineStart _ _ _ => true
  | .csi2LongPacket _ _ _ _ _ _ => true
  | .lidarFrame _ _ _ => true
  | .rollCallTick => true
  | .timeSyncMessage _ _ _ => true
  | .registerWrite _ _ _ => true
  | .talothPortTraining _ _ => true
  | .talothJobPeerMessage _ _ _ => true

/-- The frame of a word; a happening has none. -/
def hdr : Instr → Option Hdr
  | .nop h  => some h
  | .add h _ _ _ _ => some h
  | .sub h _ _ _ _ => some h
  | .mul h _ _ _ _ => some h
  | .mulh h _ _ _ _ => some h
  | .mulhn h _ _ _ _ => some h
  | .div h _ _ _ _ => some h
  | .divn h _ _ _ _ => some h
  | .rem h _ _ _ _ => some h
  | .remn h _ _ _ _ => some h
  | .and h _ _ _ _ => some h
  | .or h _ _ _ _ => some h
  | .xor h _ _ _ _ => some h
  | .andn h _ _ _ _ => some h
  | .shl h _ _ _ _ => some h
  | .shr h _ _ _ _ => some h
  | .sar h _ _ _ _ => some h
  | .rot h _ _ _ _ => some h
  | .cmp h _ _ _ _ _ => some h
  | .min h _ _ _ _ => some h
  | .max h _ _ _ _ => some h
  | .minn h _ _ _ _ => some h
  | .maxn h _ _ _ _ => some h
  | .clz h _ _ _ => some h
  | .popc h _ _ _ => some h
  | .sel h _ _ _ _ => some h
  | .ldi h _ _ => some h
  | .ldih h _ _ => some h
  | .mov h _ _ => some h
  | .capadd h _ _ _ _ => some h
  | .capsetWin h _ _ _ => some h
  | .capsetRights h _ _ _ => some h
  | .capsetCur h _ _ _ => some h
  | .capsetUntag h _ _ _ => some h
  | .capget h _ _ _ => some h
  | .vadd h _ _ _ _ => some h
  | .vsub h _ _ _ _ => some h
  | .vmul h _ _ _ _ => some h
  | .vmulh h _ _ _ _ => some h
  | .vmulw h _ _ _ _ => some h
  | .vfma h _ _ _ _ => some h
  | .vfms h _ _ _ _ => some h
  | .vfnma h _ _ _ _ => some h
  | .vdiv h _ _ _ _ => some h
  | .vsqrt h _ _ _ => some h
  | .vrcp h _ _ _ => some h
  | .vrsq h _ _ _ => some h
  | .vexp2 h _ _ _ => some h
  | .vlog2 h _ _ _ => some h
  | .vmin h _ _ _ _ => some h
  | .vmax h _ _ _ _ => some h
  | .vabs h _ _ _ => some h
  | .vneg h _ _ _ => some h
  | .vand h _ _ _ _ => some h
  | .vor h _ _ _ _ => some h
  | .vxor h _ _ _ _ => some h
  | .vshl h _ _ _ _ => some h
  | .vshr h _ _ _ _ => some h
  | .vsar h _ _ _ _ => some h
  | .vpopc h _ _ _ => some h
  | .vclz h _ _ _ => some h
  | .vcmp h _ _ _ _ => some h
  | .vsel h _ _ _ _ => some h
  | .vmerge h _ _ _ _ => some h
  | .vdot4 h _ _ _ _ => some h
  | .vdot2 h _ _ _ _ => some h
  | .vreds h _ _ _ _ => some h
  | .vredx h _ _ _ _ => some h
  | .vscan h _ _ _ _ => some h
  | .vclmul h _ _ _ _ => some h
  | .vperm h _ _ _ _ => some h
  | .vshuf h _ _ _ _ => some h
  | .vbcast h _ _ _ _ => some h
  | .vslide h _ _ _ _ => some h
  | .vcompr h _ _ _ _ => some h
  | .vexpnd h _ _ _ _ => some h
  | .viota h _ _ _ => some h
  | .vcvt h _ _ _ _ => some h
  | .vpack h _ _ _ _ => some h
  | .vunpk h _ _ _ _ => some h
  | .vround h _ _ _ => some h
  | .vqnt h _ _ _ _ => some h
  | .vdqnt h _ _ _ _ => some h
  | .kand h _ _ _ => some h
  | .kor h _ _ _ => some h
  | .kxor h _ _ _ => some h
  | .knot h _ _ => some h
  | .kpopc h _ _ => some h
  | .kfirst h _ _ => some h
  | .kmov h _ _ => some h
  | .kmovFirst h _ _ => some h
  | .nestw h _ _ _ => some h
  | .nestr h _ _ _ _ _ => some h
  | .go h _ _ => some h
  | .nstat h _ _ _ => some h
  | .fmtw h _ _ => some h
  | .fmtsel h _ _ => some h
  | .mma h _ _ _ _ => some h
  | .mmac h _ _ _ _ => some h
  | .ringcfg h _ _ _ => some h
  | .rhead h _ => some h
  | .rpop h  => some h
  | .rdiscard h  => some h
  | .epcfgAct h _ => some h
  | .epcfgBias h _ _ => some h
  | .epcfgScale h _ _ => some h
  | .epcfgLo h _ => some h
  | .epcfgHi h _ => some h
  | .eprun h _ => some h
  | .deckld h _ _ _ => some h
  | .decksel h _ => some h
  | .ccnt h _ _ => some h
  | .ccons h _ _ => some h
  | .cdisc h _ _ => some h
  | .cdiscAll h _ => some h
  | .pace h _ _ => some h
  | .astage h _ _ _ => some h
  | .patch h _ _ _ => some h
  | .cellw h _ _ _ => some h
  | .cellr h _ _ _ => some h
  | .stepdom h _ _ _ => some h
  | .step h _ _ => some h
  | .darun h _ _ => some h
  | .dasave h _ => some h
  | .daload h _ => some h
  | .dainj h _ _ => some h
  | .datap h _ _ _ => some h
  | .dastat h _ _ _ => some h
  | .ld h _ _ _ _ _ _ _ => some h
  | .st h _ _ _ _ _ _ _ => some h
  | .ldt h _ _ _ _ => some h
  | .stt h _ _ _ _ => some h
  | .gath h _ _ _ _ _ _ _ => some h
  | .scat h _ _ _ _ _ _ _ => some h
  | .amo h _ _ _ _ _ _ _ => some h
  | .cas h _ _ _ _ _ _ _ => some h
  | .amof h _ _ _ _ _ _ _ => some h
  | .fence h _ _ _ => some h
  | .mark h _ _ => some h
  | .talloc h _ _ _ => some h
  | .tfree h _ => some h
  | .tinfo h _ _ => some h
  | .copy h _ _ _ _ _ _ => some h
  | .copyp h _ _ => some h
  | .twaitany h _ _ => some h
  | .twaitall h _ => some h
  | .tffr h _ _ => some h
  | .tclr h _ => some h
  | .pref h _ _ _ => some h
  | .prefw h _ _ => some h
  | .poolset h _ _ => some h
  | .poolqOcc h _ => some h
  | .poolqTkt h _ _ => some h
  | .cflush h _ _ => some h
  | .cinv h _ _ => some h
  | .foot h _ _ _ => some h
  | .job h _ _ => some h
  | .near h _ _ => some h
  | .push h _ _ _ _ => some h
  | .pop h _ _ _ _ => some h
  | .post h _ _ => some h
  | .await h _ _ => some h
  | .awaitn h _ _ => some h
  | .bar h _ _ => some h
  | .rowwait h _ _ => some h
  | .rowget h _ _ => some h
  | .frmgetCnt h _ _ => some h
  | .frmgetStamp h _ _ => some h
  | .rcsub h _ _ _ => some h
  | .rcget h _ _ _ _ => some h
  | .rccfg h _ _ _ => some h
  | .timeget h _ => some h
  | .timegetSt h _ => some h
  | .qstatQ h _ _ => some h
  | .qstatE h _ _ => some h
  | .stbind h _ _ _ _ => some h
  | .qdrainQ h _ _ => some h
  | .qdrainE h _ _ => some h
  | .br h _ => some h
  | .bri h _ => some h
  | .briRel h _ => some h
  | .call h _ _ => some h
  | .ret h _ => some h
  | .loop h _ _ => some h
  | .lclose h _ _ => some h
  | .rrbset h _ _ _ _ => some h
  | .fork h  => some h
  | .joinCc h _ _ => some h
  | .ccset h _ _ => some h
  | .ccwait h _ _ => some h
  | .start h  => some h
  | .endStream h  => some h
  | .yieldCore h  => some h
  | .sleep h _ => some h
  | .spawn h _ _ => some h
  | .launch h _ _ => some h
  | .spec h _ _ => some h
  | .decide h _ _ _ => some h
  | .twaitLaunch h _ _ => some h
  | .twaitIdle h _ => some h
  | .tdone h  => some h
  | .trap h _ => some h
  | .brk h  => some h
  | .snaprD h _ _ => some h
  | .snaprV h _ _ => some h
  | .snaprSt h _ _ => some h
  | .snapwD h _ _ _ => some h
  | .snapwV h _ _ _ => some h
  | .csrr h _ _ => some h
  | .csrw h _ _ _ _ => some h
  | .idget h _ _ => some h
  | .clkget h _ _ => some h
  | .perfr h _ _ _ => some h
  | .ifence h  => some h
  | .reservedOpcode _ => none
  | .engineCommandStart _ _ => none
  | .engineCommandFinish _ _ => none
  | .kStep _ => none
  | .engineAutumnEntry _ _ => none
  | .domainStep _ => none
  | .domainReferenceTrigger _ _ => none
  | .domainEngineTrigger _ _ => none
  | .copypEndMarker _ => none
  | .poolRequestStep _ => none
  | .loadDataReturn _ _ => none
  | .atomicReturn _ _ => none
  | .addressTranslation _ _ => none
  | .pushEntryPoppable _ _ => none
  | .postAdditionLands _ _ => none
  | .ccsetValueLands _ _ => none
  | .instructionBufferFill _ _ _ => none
  | .watchdogExpiry _ => none
  | .deadlineMiss _ => none
  | .formSwap _ => none
  | .contextSave _ => none
  | .contextRestore _ => none
  | .dieQueuePop _ => none
  | .frameDeadline _ => none
  | .lbpRowRun _ => none
  | .rowPublish _ => none
  | .storePerformed _ _ _ => none
  | .nearPartDone _ => none
  | .prefetchComplete _ _ => none
  | .timingErrorReplay _ _ _ => none
  | .softErrorConsumed _ _ _ _ _ => none
  | .keeperScrub _ => none
  | .ffCtlResume _ _ => none
  | .ffCtlAbandon _ _ => none
  | .ffCtlAbort _ _ => none
  | .debugHaltRequest _ _ => none
  | .debugResume _ _ => none
  | .inboxTail _ _ => none
  | .launchPacketEntry _ => none
  | .ttCommit => none
  | .overflowDrain _ _ => none
  | .urgForms _ => none
  | .seasonReqSummer _ _ => none
  | .seasonReqWinter _ _ => none
  | .seasonReqMidwinter _ _ => none
  | .seasonEntry _ => none
  | .springRampStart _ => none
  | .springRampDone _ => none
  | .formImbalanceTick _ _ _ => none
  | .throttleRelax _ => none
  | .thermalCeilingStep _ _ => none
  | .thermalTrip _ => none
  | .thermalTripRelease _ => none
  | .slowDownNoticeRepeat _ => none
  | .slowDownNotice _ _ => none
  | .releaseNotice _ => none
  | .peerCeilingExpiry _ => none
  | .memTempRead _ _ => none
  | .otCmdInval _ _ => none
  | .otCmdMigrate _ _ => none
  | .otCmdDirty _ _ => none
  | .shootDownAck _ => none
  | .migrationCopy => none
  | .functionLevelReset _ => none
  | .flrDone _ => none
  | .deviceReset _ _ => none
  | .attCmd => none
  | .attestationReportDone _ _ _ _ _ => none
  | .hostLinkError _ _ => none
  | .scfgEnable _ _ => none
  | .scfgDisable _ _ => none
  | .serrCtlClr _ _ => none
  | .csi2FrameStart _ _ => none
  | .csi2FrameEnd _ _ => none
  | .csi2LineStart _ _ _ => none
  | .csi2LongPacket _ _ _ _ _ _ => none
  | .lidarFrame _ _ _ => none
  | .rollCallTick => none
  | .timeSyncMessage _ _ _ => none
  | .registerWrite _ _ _ => none
  | .talothPortTraining _ _ => none
  | .talothJobPeerMessage _ _ _ => none

/-- The major opcode of a word (R84); a reserved word shows its own; a happening has none and reads 0. -/
def opcode : Instr → BitVec 8
  | .nop _  => 0x00
  | .add _ _ _ _ _ => 0x01
  | .sub _ _ _ _ _ => 0x02
  | .mul _ _ _ _ _ => 0x03
  | .mulh _ _ _ _ _ => 0x04
  | .mulhn _ _ _ _ _ => 0x05
  | .div _ _ _ _ _ => 0x06
  | .divn _ _ _ _ _ => 0x07
  | .rem _ _ _ _ _ => 0x08
  | .remn _ _ _ _ _ => 0x09
  | .and _ _ _ _ _ => 0x0A
  | .or _ _ _ _ _ => 0x0B
  | .xor _ _ _ _ _ => 0x0C
  | .andn _ _ _ _ _ => 0x0D
  | .shl _ _ _ _ _ => 0x0E
  | .shr _ _ _ _ _ => 0x0F
  | .sar _ _ _ _ _ => 0x10
  | .rot _ _ _ _ _ => 0x11
  | .cmp _ _ _ _ _ _ => 0x12
  | .min _ _ _ _ _ => 0x13
  | .max _ _ _ _ _ => 0x14
  | .minn _ _ _ _ _ => 0x15
  | .maxn _ _ _ _ _ => 0x16
  | .clz _ _ _ _ => 0x17
  | .popc _ _ _ _ => 0x18
  | .sel _ _ _ _ _ => 0x19
  | .ldi _ _ _ => 0x1A
  | .ldih _ _ _ => 0x1B
  | .mov _ _ _ => 0x1C
  | .capadd _ _ _ _ _ => 0x1D
  | .capsetWin _ _ _ _ => 0x1E
  | .capsetRights _ _ _ _ => 0x1E
  | .capsetCur _ _ _ _ => 0x1E
  | .capsetUntag _ _ _ _ => 0x1E
  | .capget _ _ _ _ => 0x1F
  | .vadd _ _ _ _ _ => 0x20
  | .vsub _ _ _ _ _ => 0x21
  | .vmul _ _ _ _ _ => 0x22
  | .vmulh _ _ _ _ _ => 0x23
  | .vmulw _ _ _ _ _ => 0x45
  | .vfma _ _ _ _ _ => 0x24
  | .vfms _ _ _ _ _ => 0x25
  | .vfnma _ _ _ _ _ => 0x26
  | .vdiv _ _ _ _ _ => 0x27
  | .vsqrt _ _ _ _ => 0x28
  | .vrcp _ _ _ _ => 0x29
  | .vrsq _ _ _ _ => 0x48
  | .vexp2 _ _ _ _ => 0x46
  | .vlog2 _ _ _ _ => 0x47
  | .vmin _ _ _ _ _ => 0x2A
  | .vmax _ _ _ _ _ => 0x2B
  | .vabs _ _ _ _ => 0x2C
  | .vneg _ _ _ _ => 0x2D
  | .vand _ _ _ _ _ => 0x2E
  | .vor _ _ _ _ _ => 0x2F
  | .vxor _ _ _ _ _ => 0x30
  | .vshl _ _ _ _ _ => 0x31
  | .vshr _ _ _ _ _ => 0x32
  | .vsar _ _ _ _ _ => 0x33
  | .vpopc _ _ _ _ => 0x43
  | .vclz _ _ _ _ => 0x44
  | .vcmp _ _ _ _ _ => 0x34
  | .vsel _ _ _ _ _ => 0x35
  | .vmerge _ _ _ _ _ => 0x4B
  | .vdot4 _ _ _ _ _ => 0x49
  | .vdot2 _ _ _ _ _ => 0x4A
  | .vreds _ _ _ _ _ => 0x3F
  | .vredx _ _ _ _ _ => 0x40
  | .vscan _ _ _ _ _ => 0x41
  | .vclmul _ _ _ _ _ => 0x42
  | .vperm _ _ _ _ _ => 0x3B
  | .vshuf _ _ _ _ _ => 0x3C
  | .vbcast _ _ _ _ _ => 0x3D
  | .vslide _ _ _ _ _ => 0x3E
  | .vcompr _ _ _ _ _ => 0x4D
  | .vexpnd _ _ _ _ _ => 0x4E
  | .viota _ _ _ _ => 0x4C
  | .vcvt _ _ _ _ _ => 0x36
  | .vpack _ _ _ _ _ => 0x39
  | .vunpk _ _ _ _ _ => 0x3A
  | .vround _ _ _ _ => 0x4F
  | .vqnt _ _ _ _ _ => 0x37
  | .vdqnt _ _ _ _ _ => 0x38
  | .kand _ _ _ _ => 0x50
  | .kor _ _ _ _ => 0x51
  | .kxor _ _ _ _ => 0x52
  | .knot _ _ _ => 0x53
  | .kpopc _ _ _ => 0x54
  | .kfirst _ _ _ => 0x55
  | .kmov _ _ _ => 0x56
  | .kmovFirst _ _ _ => 0x56
  | .nestw _ _ _ _ => 0x60
  | .nestr _ _ _ _ _ _ => 0x61
  | .go _ _ _ => 0x62
  | .nstat _ _ _ _ => 0x63
  | .fmtw _ _ _ => 0x64
  | .fmtsel _ _ _ => 0x65
  | .mma _ _ _ _ _ => 0x66
  | .mmac _ _ _ _ _ => 0x67
  | .ringcfg _ _ _ _ => 0x68
  | .rhead _ _ => 0x69
  | .rpop _  => 0x6A
  | .rdiscard _  => 0x6B
  | .epcfgAct _ _ => 0x6C
  | .epcfgBias _ _ _ => 0x6C
  | .epcfgScale _ _ _ => 0x6C
  | .epcfgLo _ _ => 0x6C
  | .epcfgHi _ _ => 0x6C
  | .eprun _ _ => 0x6D
  | .deckld _ _ _ _ => 0x6E
  | .decksel _ _ => 0x6F
  | .ccnt _ _ _ => 0x70
  | .ccons _ _ _ => 0x71
  | .cdisc _ _ _ => 0x72
  | .cdiscAll _ _ => 0x72
  | .pace _ _ _ => 0x73
  | .astage _ _ _ _ => 0x74
  | .patch _ _ _ _ => 0x80
  | .cellw _ _ _ _ => 0x81
  | .cellr _ _ _ _ => 0x82
  | .stepdom _ _ _ _ => 0x83
  | .step _ _ _ => 0x84
  | .darun _ _ _ => 0x85
  | .dasave _ _ => 0x86
  | .daload _ _ => 0x87
  | .dainj _ _ _ => 0x88
  | .datap _ _ _ _ => 0x89
  | .dastat _ _ _ _ => 0x8A
  | .ld _ _ _ _ _ _ _ _ => 0x90
  | .st _ _ _ _ _ _ _ _ => 0x91
  | .ldt _ _ _ _ _ => 0x92
  | .stt _ _ _ _ _ => 0x93
  | .gath _ _ _ _ _ _ _ _ => 0x94
  | .scat _ _ _ _ _ _ _ _ => 0x95
  | .amo _ _ _ _ _ _ _ _ => 0x96
  | .cas _ _ _ _ _ _ _ _ => 0x97
  | .amof _ _ _ _ _ _ _ _ => 0x98
  | .fence _ _ _ _ => 0x99
  | .mark _ _ _ => 0x9A
  | .talloc _ _ _ _ => 0x9B
  | .tfree _ _ => 0x9C
  | .tinfo _ _ _ => 0x9D
  | .copy _ _ _ _ _ _ _ => 0x9E
  | .copyp _ _ _ => 0x9F
  | .twaitany _ _ _ => 0xA0
  | .twaitall _ _ => 0xA1
  | .tffr _ _ _ => 0xA2
  | .tclr _ _ => 0xA3
  | .pref _ _ _ _ => 0xA4
  | .prefw _ _ _ => 0xA5
  | .poolset _ _ _ => 0xA6
  | .poolqOcc _ _ => 0xA7
  | .poolqTkt _ _ _ => 0xA7
  | .cflush _ _ _ => 0xA8
  | .cinv _ _ _ => 0xA9
  | .foot _ _ _ _ => 0xAA
  | .job _ _ _ => 0xAB
  | .near _ _ _ => 0xAC
  | .push _ _ _ _ _ => 0xB0
  | .pop _ _ _ _ _ => 0xB1
  | .post _ _ _ => 0xB2
  | .await _ _ _ => 0xB3
  | .awaitn _ _ _ => 0xB4
  | .bar _ _ _ => 0xB5
  | .rowwait _ _ _ => 0xB6
  | .rowget _ _ _ => 0xB7
  | .frmgetCnt _ _ _ => 0xB8
  | .frmgetStamp _ _ _ => 0xB8
  | .rcsub _ _ _ _ => 0xB9
  | .rcget _ _ _ _ _ => 0xBA
  | .rccfg _ _ _ _ => 0xBB
  | .timeget _ _ => 0xBC
  | .timegetSt _ _ => 0xBC
  | .qstatQ _ _ _ => 0xBD
  | .qstatE _ _ _ => 0xBD
  | .stbind _ _ _ _ _ => 0xBE
  | .qdrainQ _ _ _ => 0xBF
  | .qdrainE _ _ _ => 0xBF
  | .br _ _ => 0xC0
  | .bri _ _ => 0xC1
  | .briRel _ _ => 0xC1
  | .call _ _ _ => 0xC2
  | .ret _ _ => 0xC3
  | .loop _ _ _ => 0xC4
  | .lclose _ _ _ => 0xC5
  | .rrbset _ _ _ _ _ => 0xC6
  | .fork _  => 0xC7
  | .joinCc _ _ _ => 0xC8
  | .ccset _ _ _ => 0xC9
  | .ccwait _ _ _ => 0xCA
  | .start _  => 0xCB
  | .endStream _  => 0xCC
  | .yieldCore _  => 0xCD
  | .sleep _ _ => 0xD4
  | .spawn _ _ _ => 0xCE
  | .launch _ _ _ => 0xCF
  | .spec _ _ _ => 0xD0
  | .decide _ _ _ _ => 0xD1
  | .twaitLaunch _ _ _ => 0xD2
  | .twaitIdle _ _ => 0xD2
  | .tdone _  => 0xD3
  | .trap _ _ => 0xE0
  | .brk _  => 0xE1
  | .snaprD _ _ _ => 0xE2
  | .snaprV _ _ _ => 0xE2
  | .snaprSt _ _ _ => 0xE2
  | .snapwD _ _ _ _ => 0xE3
  | .snapwV _ _ _ _ => 0xE3
  | .csrr _ _ _ => 0xE4
  | .csrw _ _ _ _ _ => 0xE5
  | .idget _ _ _ => 0xE6
  | .clkget _ _ _ => 0xE7
  | .perfr _ _ _ _ => 0xE8
  | .ifence _  => 0xE9
  | .reservedOpcode w => BitVec.ofNat 8 (w.toNat / 2 ^ 45)
  | .engineCommandStart _ _ => 0
  | .engineCommandFinish _ _ => 0
  | .kStep _ => 0
  | .engineAutumnEntry _ _ => 0
  | .domainStep _ => 0
  | .domainReferenceTrigger _ _ => 0
  | .domainEngineTrigger _ _ => 0
  | .copypEndMarker _ => 0
  | .poolRequestStep _ => 0
  | .loadDataReturn _ _ => 0
  | .atomicReturn _ _ => 0
  | .addressTranslation _ _ => 0
  | .pushEntryPoppable _ _ => 0
  | .postAdditionLands _ _ => 0
  | .ccsetValueLands _ _ => 0
  | .instructionBufferFill _ _ _ => 0
  | .watchdogExpiry _ => 0
  | .deadlineMiss _ => 0
  | .formSwap _ => 0
  | .contextSave _ => 0
  | .contextRestore _ => 0
  | .dieQueuePop _ => 0
  | .frameDeadline _ => 0
  | .lbpRowRun _ => 0
  | .rowPublish _ => 0
  | .storePerformed _ _ _ => 0
  | .nearPartDone _ => 0
  | .prefetchComplete _ _ => 0
  | .timingErrorReplay _ _ _ => 0
  | .softErrorConsumed _ _ _ _ _ => 0
  | .keeperScrub _ => 0
  | .ffCtlResume _ _ => 0
  | .ffCtlAbandon _ _ => 0
  | .ffCtlAbort _ _ => 0
  | .debugHaltRequest _ _ => 0
  | .debugResume _ _ => 0
  | .inboxTail _ _ => 0
  | .launchPacketEntry _ => 0
  | .ttCommit => 0
  | .overflowDrain _ _ => 0
  | .urgForms _ => 0
  | .seasonReqSummer _ _ => 0
  | .seasonReqWinter _ _ => 0
  | .seasonReqMidwinter _ _ => 0
  | .seasonEntry _ => 0
  | .springRampStart _ => 0
  | .springRampDone _ => 0
  | .formImbalanceTick _ _ _ => 0
  | .throttleRelax _ => 0
  | .thermalCeilingStep _ _ => 0
  | .thermalTrip _ => 0
  | .thermalTripRelease _ => 0
  | .slowDownNoticeRepeat _ => 0
  | .slowDownNotice _ _ => 0
  | .releaseNotice _ => 0
  | .peerCeilingExpiry _ => 0
  | .memTempRead _ _ => 0
  | .otCmdInval _ _ => 0
  | .otCmdMigrate _ _ => 0
  | .otCmdDirty _ _ => 0
  | .shootDownAck _ => 0
  | .migrationCopy => 0
  | .functionLevelReset _ => 0
  | .flrDone _ => 0
  | .deviceReset _ _ => 0
  | .attCmd => 0
  | .attestationReportDone _ _ _ _ _ => 0
  | .hostLinkError _ _ => 0
  | .scfgEnable _ _ => 0
  | .scfgDisable _ _ => 0
  | .serrCtlClr _ _ => 0
  | .csi2FrameStart _ _ => 0
  | .csi2FrameEnd _ _ => 0
  | .csi2LineStart _ _ _ => 0
  | .csi2LongPacket _ _ _ _ _ _ => 0
  | .lidarFrame _ _ _ => 0
  | .rollCallTick => 0
  | .timeSyncMessage _ _ _ => 0
  | .registerWrite _ _ _ => 0
  | .talothPortTraining _ _ => 0
  | .talothJobPeerMessage _ _ _ => 0

end Sys2Proof.Encoding
end

