-- ==== Sys2Proof/WellFormed.lean ====
section
/-! DEFINITION. When an instruction is well formed: what R83 asks of a word's encoding whatever stream issues it. Where the
issuing stream matters (its legal opcodes, its register file, its own link port), the issue of the word judges it. -/

namespace Sys2Proof

/-- Why an instruction is not well formed. -/
inductive IllFormed where
  /-- A type code, range or combination of fields that the description names illegal (R83). -/
  | fields
  /-- A port of a kind that the description does not admit in its field (R83). -/
  | port
deriving DecidableEq, Repr

/-- The first check of R83 that an instruction fails in every stream. A link port counts as the issuer's own here. -/
def illFormed (i : Instr) : Option IllFormed :=
  if !Encoding.fieldsOk i then some .fields
  else if (Encoding.operands i).any (fun x =>
      match Encoding.view x.2 with
      | .link n => Encoding.illegalKind n x.1 x.2
      | _ => Encoding.illegalKind 4 x.1 x.2) then some .port
  else none

/-- No check of R83 that is independent of the stream fails. -/
def wellFormed (i : Instr) : Bool := (illFormed i).isNone

end Sys2Proof
end

