-- ==== Sys2Proof/Decode.lean ====
section
/-! DEFINITION. Decoding of instruction words, total on any 64 bits, and the encoder (R60, R69, R84). -/

namespace Sys2Proof

/-- Appends the bits of y below those of acc. -/
def appBits {m : Nat} (acc : Nat) (y : BitVec m) : Nat := acc * 2 ^ m + y.toNat
/-- The w bits of x from bit lo upwards. -/
def bitsAt (lo w x : Nat) : BitVec w := BitVec.ofNat w (x / 2 ^ lo)
/-- A field with its width. -/
def bits {w : Nat} (x : BitVec w) : (w : Nat) × BitVec w := ⟨w, x⟩
/-- The fields of a list one below the other, the first most significant. -/
def catBits : List ((w : Nat) × BitVec w) → Nat → Nat
  | [], a => a
  | x :: xs, a => catBits xs (appBits a x.2)
/-- A word from its frame (R60), its opcode and the fields below GUARD. -/
def packWord (h : Hdr) (op : BitVec 8) (fs : List ((w : Nat) × BitVec w)) : BitVec 64 :=
  BitVec.ofNat 64 (catBits (bits h.idle :: bits h.join :: bits op :: bits h.gn :: bits h.gk :: fs) 0)
/-- The field of a word at bit lo, n bits wide. -/
def field (w : BitVec 64) (lo n : Nat) : BitVec n := bitsAt lo n w.toNat
/-- The frame of a word (R60). -/
def hdrOf (w : BitVec 64) : Hdr := ⟨field w 54 10, field w 53 1, field w 44 1, field w 38 6⟩
/-- The major opcode of a word (R60). -/
def opOf (w : BitVec 64) : BitVec 8 := field w 45 8
/-- The words of an instruction, from the encoding tables of the spec (R60, R69, R84); a happening has no word. -/
def encode : Instr → Option (BitVec 64)
  | .nop h  => some (packWord h 0x00 [bits 0#38])
  | .add h d a b ty => some (packWord h 0x01 [bits d, bits a, bits b, bits ty])
  | .sub h d a b ty => some (packWord h 0x02 [bits d, bits a, bits b, bits ty])
  | .mul h d a b ty => some (packWord h 0x03 [bits d, bits a, bits b, bits ty])
  | .mulh h d a b ty => some (packWord h 0x04 [bits d, bits a, bits b, bits ty])
  | .mulhn h d a b ty => some (packWord h 0x05 [bits d, bits a, bits b, bits ty])
  | .div h d a b ty => some (packWord h 0x06 [bits d, bits a, bits b, bits ty])
  | .divn h d a b ty => some (packWord h 0x07 [bits d, bits a, bits b, bits ty])
  | .rem h d a b ty => some (packWord h 0x08 [bits d, bits a, bits b, bits ty])
  | .remn h d a b ty => some (packWord h 0x09 [bits d, bits a, bits b, bits ty])
  | .and h d a b ty => some (packWord h 0x0A [bits d, bits a, bits b, bits ty])
  | .or h d a b ty => some (packWord h 0x0B [bits d, bits a, bits b, bits ty])
  | .xor h d a b ty => some (packWord h 0x0C [bits d, bits a, bits b, bits ty])
  | .andn h d a b ty => some (packWord h 0x0D [bits d, bits a, bits b, bits ty])
  | .shl h d a b ty => some (packWord h 0x0E [bits d, bits a, bits b, bits ty])
  | .shr h d a b ty => some (packWord h 0x0F [bits d, bits a, bits b, bits ty])
  | .sar h d a b ty => some (packWord h 0x10 [bits d, bits a, bits b, bits ty])
  | .rot h d a b ty => some (packWord h 0x11 [bits d, bits a, bits b, bits ty])
  | .cmp h d a b cond wd => some (packWord h 0x12 [bits d, bits a, bits b, bits cond, bits wd])
  | .min h d a b ty => some (packWord h 0x13 [bits d, bits a, bits b, bits ty])
  | .max h d a b ty => some (packWord h 0x14 [bits d, bits a, bits b, bits ty])
  | .minn h d a b ty => some (packWord h 0x15 [bits d, bits a, bits b, bits ty])
  | .maxn h d a b ty => some (packWord h 0x16 [bits d, bits a, bits b, bits ty])
  | .clz h d a ty => some (packWord h 0x17 [bits d, bits a, bits 0#11, bits ty])
  | .popc h d a ty => some (packWord h 0x18 [bits d, bits a, bits 0#11, bits ty])
  | .sel h d a b k => some (packWord h 0x19 [bits d, bits a, bits b, bits k])
  | .ldi h d imm => some (packWord h 0x1A [bits d, bits imm])
  | .ldih h d imm => some (packWord h 0x1B [bits d, bits imm])
  | .mov h d a => some (packWord h 0x1C [bits d, bits a, bits 0#16])
  | .capadd h d a b n => some (packWord h 0x1D [bits d, bits a, bits b, bits 0#2, bits n])
  | .capsetWin h d a b => some (packWord h 0x1E [bits d, bits a, bits b, bits 0#5])
  | .capsetRights h d a b => some (packWord h 0x1E [bits d, bits a, bits b, bits 1#5])
  | .capsetCur h d a b => some (packWord h 0x1E [bits d, bits a, bits b, bits 2#5])
  | .capsetUntag h d a b => some (packWord h 0x1E [bits d, bits a, bits b, bits 3#5])
  | .capget h d a fld => some (packWord h 0x1F [bits d, bits a, bits 0#11, bits 0#2, bits fld])
  | .vadd h d a b ty => some (packWord h 0x20 [bits d, bits a, bits b, bits ty])
  | .vsub h d a b ty => some (packWord h 0x21 [bits d, bits a, bits b, bits ty])
  | .vmul h d a b ty => some (packWord h 0x22 [bits d, bits a, bits b, bits ty])
  | .vmulh h d a b ty => some (packWord h 0x23 [bits d, bits a, bits b, bits ty])
  | .vmulw h d a b ty => some (packWord h 0x45 [bits d, bits a, bits b, bits ty])
  | .vfma h d a b ty => some (packWord h 0x24 [bits d, bits a, bits b, bits ty])
  | .vfms h d a b ty => some (packWord h 0x25 [bits d, bits a, bits b, bits ty])
  | .vfnma h d a b ty => some (packWord h 0x26 [bits d, bits a, bits b, bits ty])
  | .vdiv h d a b ty => some (packWord h 0x27 [bits d, bits a, bits b, bits ty])
  | .vsqrt h d a ty => some (packWord h 0x28 [bits d, bits a, bits 0#11, bits ty])
  | .vrcp h d a ty => some (packWord h 0x29 [bits d, bits a, bits 0#11, bits ty])
  | .vrsq h d a ty => some (packWord h 0x48 [bits d, bits a, bits 0#11, bits ty])
  | .vexp2 h d a ty => some (packWord h 0x46 [bits d, bits a, bits 0#11, bits ty])
  | .vlog2 h d a ty => some (packWord h 0x47 [bits d, bits a, bits 0#11, bits ty])
  | .vmin h d a b ty => some (packWord h 0x2A [bits d, bits a, bits b, bits ty])
  | .vmax h d a b ty => some (packWord h 0x2B [bits d, bits a, bits b, bits ty])
  | .vabs h d a ty => some (packWord h 0x2C [bits d, bits a, bits 0#11, bits ty])
  | .vneg h d a ty => some (packWord h 0x2D [bits d, bits a, bits 0#11, bits ty])
  | .vand h d a b ty => some (packWord h 0x2E [bits d, bits a, bits b, bits ty])
  | .vor h d a b ty => some (packWord h 0x2F [bits d, bits a, bits b, bits ty])
  | .vxor h d a b ty => some (packWord h 0x30 [bits d, bits a, bits b, bits ty])
  | .vshl h d a b ty => some (packWord h 0x31 [bits d, bits a, bits b, bits ty])
  | .vshr h d a b ty => some (packWord h 0x32 [bits d, bits a, bits b, bits ty])
  | .vsar h d a b ty => some (packWord h 0x33 [bits d, bits a, bits b, bits ty])
  | .vpopc h d a ty => some (packWord h 0x43 [bits d, bits a, bits 0#11, bits ty])
  | .vclz h d a ty => some (packWord h 0x44 [bits d, bits a, bits 0#11, bits ty])
  | .vcmp h d a b md => some (packWord h 0x34 [bits d, bits a, bits b, bits md])
  | .vsel h d a b ty => some (packWord h 0x35 [bits d, bits a, bits b, bits ty])
  | .vmerge h d a b ty => some (packWord h 0x4B [bits d, bits a, bits b, bits ty])
  | .vdot4 h d a b ty => some (packWord h 0x49 [bits d, bits a, bits b, bits ty])
  | .vdot2 h d a b ty => some (packWord h 0x4A [bits d, bits a, bits b, bits ty])
  | .vreds h d a b ty => some (packWord h 0x3F [bits d, bits a, bits b, bits ty])
  | .vredx h d a b ty => some (packWord h 0x40 [bits d, bits a, bits b, bits ty])
  | .vscan h d a b ty => some (packWord h 0x41 [bits d, bits a, bits b, bits ty])
  | .vclmul h d a b ty => some (packWord h 0x42 [bits d, bits a, bits b, bits ty])
  | .vperm h d a b ty => some (packWord h 0x3B [bits d, bits a, bits b, bits ty])
  | .vshuf h d a b ty => some (packWord h 0x3C [bits d, bits a, bits b, bits ty])
  | .vbcast h d a b ty => some (packWord h 0x3D [bits d, bits a, bits b, bits ty])
  | .vslide h d a b ty => some (packWord h 0x3E [bits d, bits a, bits b, bits ty])
  | .vcompr h d a b ty => some (packWord h 0x4D [bits d, bits a, bits b, bits ty])
  | .vexpnd h d a b ty => some (packWord h 0x4E [bits d, bits a, bits b, bits ty])
  | .viota h d a ty => some (packWord h 0x4C [bits d, bits a, bits 0#11, bits ty])
  | .vcvt h d a st ty => some (packWord h 0x36 [bits d, bits a, bits 1#1, bits 0#5, bits st, bits ty])
  | .vpack h d a b ty => some (packWord h 0x39 [bits d, bits a, bits b, bits ty])
  | .vunpk h d a b ty => some (packWord h 0x3A [bits d, bits a, bits b, bits ty])
  | .vround h d a ty => some (packWord h 0x4F [bits d, bits a, bits 0#11, bits ty])
  | .vqnt h d a b ty => some (packWord h 0x37 [bits d, bits a, bits b, bits ty])
  | .vdqnt h d a b ty => some (packWord h 0x38 [bits d, bits a, bits b, bits ty])
  | .kand h d a b => some (packWord h 0x50 [bits d, bits a, bits b, bits 0#5])
  | .kor h d a b => some (packWord h 0x51 [bits d, bits a, bits b, bits 0#5])
  | .kxor h d a b => some (packWord h 0x52 [bits d, bits a, bits b, bits 0#5])
  | .knot h d a => some (packWord h 0x53 [bits d, bits a, bits 0#16])
  | .kpopc h d a => some (packWord h 0x54 [bits d, bits a, bits 0#16])
  | .kfirst h d a => some (packWord h 0x55 [bits d, bits a, bits 0#16])
  | .kmov h d a => some (packWord h 0x56 [bits d, bits a, bits 0#11, bits 0#5])
  | .kmovFirst h d a => some (packWord h 0x56 [bits d, bits a, bits 0#11, bits 1#5])
  | .nestw h tbl lvl src => some (packWord h 0x60 [bits 0#5, bits tbl, bits 0#4, bits lvl, bits src, bits 0#13])
  | .nestr h gd tbl lvl copy half => some (packWord h 0x61 [bits 0#1, bits gd, bits 0#2, bits tbl, bits lvl, bits 0#11, bits 0#11, bits copy, bits half])
  | .go h mask src => some (packWord h 0x62 [bits 0#3, bits mask, bits 0#7, bits src, bits 0#13])
  | .nstat h gd tbl sel => some (packWord h 0x63 [bits 0#1, bits gd, bits 0#5, bits tbl, bits 0#11, bits 0#10, bits sel])
  | .fmtw h idx src => some (packWord h 0x64 [bits 0#3, bits idx, bits 0#7, bits src, bits 0#13])
  | .fmtsel h en lvl => some (packWord h 0x65 [bits 0#25, bits 0#9, bits en, bits lvl])
  | .mma h close last gang kc => some (packWord h 0x66 [bits 0#2, bits close, bits last, bits gang, bits 0#4, bits kc, bits 0#24])
  | .mmac h close last gang kc => some (packWord h 0x67 [bits 0#2, bits close, bits last, bits gang, bits 0#4, bits kc, bits 0#24])
  | .ringcfg h gd sn dn => some (packWord h 0x68 [bits 0#1, bits gd, bits 0#7, bits 0#11, bits 0#5, bits sn, bits dn])
  | .rhead h gd => some (packWord h 0x69 [bits 0#1, bits gd, bits 0#31])
  | .rpop h  => some (packWord h 0x6A [bits 0#38])
  | .rdiscard h  => some (packWord h 0x6B [bits 0#38])
  | .epcfgAct h act => some (packWord h 0x6C [bits 0#4, bits 0#3, bits 0#7, bits 0#11, bits 0#10, bits act])
  | .epcfgBias h hn en => some (packWord h 0x6C [bits 0#4, bits 1#3, bits 0#1, bits hn, bits 0#11, bits 0#12, bits en])
  | .epcfgScale h hn en => some (packWord h 0x6C [bits 0#4, bits 2#3, bits 0#1, bits hn, bits 0#11, bits 0#12, bits en])
  | .epcfgLo h src => some (packWord h 0x6C [bits 0#4, bits 3#3, bits 0#7, bits src, bits 0#13])
  | .epcfgHi h src => some (packWord h 0x6C [bits 0#4, bits 4#3, bits 0#7, bits src, bits 0#13])
  | .eprun h hn => some (packWord h 0x6D [bits 0#1, bits hn, bits 0#31])
  | .deckld h cn src units => some (packWord h 0x6E [bits 0#2, bits cn, bits 0#7, bits src, bits 0#2, bits units])
  | .decksel h units => some (packWord h 0x6F [bits 0#25, bits 0#2, bits units])
  | .ccnt h gd eng => some (packWord h 0x70 [bits 0#1, bits gd, bits 0#4, bits eng, bits 0#24])
  | .ccons h eng n => some (packWord h 0x71 [bits 0#7, bits 0#4, bits eng, bits 0#11, bits 0#5, bits n])
  | .cdisc h eng n => some (packWord h 0x72 [bits 0#7, bits 0#4, bits eng, bits 0#11, bits 0#4, bits 0#1, bits n])
  | .cdiscAll h eng => some (packWord h 0x72 [bits 0#7, bits 0#4, bits eng, bits 0#11, bits 0#4, bits 1#1, bits 0#8])
  | .pace h eng gap => some (packWord h 0x73 [bits 0#7, bits 0#4, bits eng, bits 0#11, bits gap])
  | .astage h cn kn src => some (packWord h 0x74 [bits 0#2, bits cn, bits 0#4, bits kn, bits src, bits 0#13])
  | .patch h hn src keep => some (packWord h 0x80 [bits 0#1, bits hn, bits 0#7, bits src, bits 0#12, bits keep])
  | .cellw h src item cell => some (packWord h 0x81 [bits 0#14, bits src, bits 0#1, bits item, bits cell])
  | .cellr h gd item cell => some (packWord h 0x82 [bits 0#1, bits gd, bits 0#7, bits 0#11, bits 0#1, bits item, bits cell])
  | .stepdom h dom src kind => some (packWord h 0x83 [bits 0#7, bits 0#5, bits dom, bits src, bits 0#11, bits kind])
  | .step h dom n => some (packWord h 0x84 [bits 0#7, bits 0#5, bits dom, bits 0#11, bits 0#5, bits n])
  | .darun h stop run => some (packWord h 0x85 [bits 0#25, bits 0#5, bits stop, bits run])
  | .dasave h hn => some (packWord h 0x86 [bits 0#1, bits hn, bits 0#31])
  | .daload h hn => some (packWord h 0x87 [bits 0#1, bits hn, bits 0#31])
  | .dainj h chan src => some (packWord h 0x88 [bits 0#7, bits 0#3, bits chan, bits src, bits 0#13])
  | .datap h gd clr cell => some (packWord h 0x89 [bits 0#1, bits gd, bits 0#18, bits 0#4, bits clr, bits cell])
  | .dastat h gd clr sel => some (packWord h 0x8A [bits 0#1, bits gd, bits 0#18, bits 0#9, bits clr, bits sel])
  | .ld h d cn off w ord ag stor => some (packWord h 0x90 [bits d, bits cn, bits off, bits w, bits ord, bits ag, bits stor])
  | .st h d cn off w ord ag stor => some (packWord h 0x91 [bits d, bits cn, bits off, bits w, bits ord, bits ag, bits stor])
  | .ldt h hn gc d w => some (packWord h 0x92 [bits 0#1, bits hn, bits 0#1, bits gc, bits d, bits 0#10, bits w])
  | .stt h hn gc d w => some (packWord h 0x93 [bits 0#1, bits hn, bits 0#1, bits gc, bits d, bits 0#10, bits w])
  | .gath h d cn off w ord ag stor => some (packWord h 0x94 [bits d, bits cn, bits off, bits w, bits ord, bits ag, bits stor])
  | .scat h d cn off w ord ag stor => some (packWord h 0x95 [bits d, bits cn, bits off, bits w, bits ord, bits ag, bits stor])
  | .amo h d cn opn w ord ag stor => some (packWord h 0x96 [bits d, bits cn, bits 1#1, bits opn, bits w, bits ord, bits ag, bits stor])
  | .cas h d cn off w ord ag stor => some (packWord h 0x97 [bits d, bits cn, bits off, bits w, bits ord, bits ag, bits stor])
  | .amof h d cn opn w ord ag stor => some (packWord h 0x98 [bits d, bits cn, bits 1#1, bits opn, bits w, bits ord, bits ag, bits stor])
  | .fence h ord ag stor => some (packWord h 0x99 [bits 0#30, bits ord, bits ag, bits stor])
  | .mark h ag stor => some (packWord h 0x9A [bits 0#32, bits ag, bits stor])
  | .talloc h gd hn src => some (packWord h 0x9B [bits 0#1, bits gd, bits 0#1, bits hn, bits src, bits 0#13])
  | .tfree h hn => some (packWord h 0x9C [bits 0#8, bits hn, bits 0#24])
  | .tinfo h gd hn => some (packWord h 0x9D [bits 0#1, bits gd, bits 0#1, bits hn, bits 0#24])
  | .copy h tag dk dst src sk sn => some (packWord h 0x9E [bits 0#1, bits tag, bits dk, bits dst, bits src, bits 0#6, bits sk, bits sn])
  | .copyp h tag hn => some (packWord h 0x9F [bits 0#1, bits tag, bits 0#1, bits hn, bits 0#24])
  | .twaitany h gd src => some (packWord h 0xA0 [bits 0#1, bits gd, bits 0#7, bits src, bits 0#13])
  | .twaitall h src => some (packWord h 0xA1 [bits 0#14, bits src, bits 0#13])
  | .tffr h gd src => some (packWord h 0xA2 [bits 0#1, bits gd, bits 0#7, bits src, bits 0#13])
  | .tclr h src => some (packWord h 0xA3 [bits 0#14, bits src, bits 0#13])
  | .pref h d cn off => some (packWord h 0xA4 [bits d, bits cn, bits off, bits 0#11])
  | .prefw h d a => some (packWord h 0xA5 [bits d, bits a, bits 0#16])
  | .poolset h gd src => some (packWord h 0xA6 [bits 0#1, bits gd, bits 0#7, bits src, bits 0#13])
  | .poolqOcc h gd => some (packWord h 0xA7 [bits 0#1, bits gd, bits 0#7, bits 0#11, bits 0#12, bits 0#1])
  | .poolqTkt h gd src => some (packWord h 0xA7 [bits 0#1, bits gd, bits 0#7, bits src, bits 0#12, bits 1#1])
  | .cflush h cn off => some (packWord h 0xA8 [bits 0#11, bits cn, bits off, bits 0#11])
  | .cinv h cn off => some (packWord h 0xA9 [bits 0#11, bits cn, bits off, bits 0#11])
  | .foot h cn src acc => some (packWord h 0xAA [bits 0#2, bits cn, bits 0#7, bits src, bits 0#11, bits acc])
  | .job h tag hn => some (packWord h 0xAB [bits 0#1, bits tag, bits 0#1, bits hn, bits 0#24])
  | .near h tag hn => some (packWord h 0xAC [bits 0#1, bits tag, bits 0#1, bits hn, bits 0#24])
  | .push h qn src ag stor => some (packWord h 0xB0 [bits 0#2, bits qn, bits 0#7, bits src, bits 0#7, bits ag, bits stor])
  | .pop h qn d ag stor => some (packWord h 0xB1 [bits 0#2, bits qn, bits 0#7, bits d, bits 0#7, bits ag, bits stor])
  | .post h en n => some (packWord h 0xB2 [bits 0#9, bits en, bits 0#11, bits 0#5, bits n])
  | .await h en n => some (packWord h 0xB3 [bits 0#9, bits en, bits 0#11, bits 0#5, bits n])
  | .awaitn h gd src => some (packWord h 0xB4 [bits 0#1, bits gd, bits 0#7, bits src, bits 0#13])
  | .bar h bid mask => some (packWord h 0xB5 [bits 0#11, bits bid, bits 0#11, bits 0#9, bits mask])
  | .rowwait h sn src => some (packWord h 0xB6 [bits 0#8, bits sn, bits src, bits 0#13])
  | .rowget h gd sn => some (packWord h 0xB7 [bits 0#1, bits gd, bits 0#1, bits sn, bits 0#24])
  | .frmgetCnt h gd sn => some (packWord h 0xB8 [bits 0#1, bits gd, bits 0#1, bits sn, bits 0#23, bits 0#1])
  | .frmgetStamp h gd sn => some (packWord h 0xB8 [bits 0#1, bits gd, bits 0#1, bits sn, bits 0#23, bits 1#1])
  | .rcsub h hn grp m => some (packWord h 0xB9 [bits 0#1, bits hn, bits 0#3, bits grp, bits 0#11, bits 0#10, bits m])
  | .rcget h gd hb hr grp => some (packWord h 0xBA [bits 0#1, bits gd, bits 0#1, bits hb, bits 0#11, bits 0#3, bits hr, bits grp])
  | .rccfg h grp src m => some (packWord h 0xBB [bits 0#10, bits grp, bits src, bits 0#10, bits m])
  | .timeget h d => some (packWord h 0xBC [bits d, bits 0#22, bits 0#5])
  | .timegetSt h d => some (packWord h 0xBC [bits d, bits 0#22, bits 1#5])
  | .qstatQ h d n => some (packWord h 0xBD [bits d, bits 1024#11, bits 0#11, bits n])
  | .qstatE h d n => some (packWord h 0xBD [bits d, bits 1025#11, bits 0#11, bits n])
  | .stbind h hn sn src gd => some (packWord h 0xBE [bits 0#1, bits hn, bits 0#1, bits sn, bits src, bits 0#7, bits gd])
  | .qdrainQ h gd n => some (packWord h 0xBF [bits 0#1, bits gd, bits 0#2, bits n, bits 0#11, bits 0#12, bits 0#1])
  | .qdrainE h gd n => some (packWord h 0xBF [bits 0#1, bits gd, bits 0#2, bits n, bits 0#11, bits 0#12, bits 1#1])
  | .br h disp => some (packWord h 0xC0 [bits 0#7, bits disp])
  | .bri h a => some (packWord h 0xC1 [bits 0#11, bits a, bits 0#11, bits 0#5])
  | .briRel h a => some (packWord h 0xC1 [bits 0#11, bits a, bits 0#11, bits 1#5])
  | .call h gn disp => some (packWord h 0xC2 [bits 0#1, bits gn, bits disp])
  | .ret h a => some (packWord h 0xC3 [bits 0#11, bits a, bits 0#16])
  | .loop h n disp => some (packWord h 0xC4 [bits 0#5, bits n, bits disp])
  | .lclose h n disp => some (packWord h 0xC5 [bits 0#5, bits n, bits disp])
  | .rrbset h a b ek ev => some (packWord h 0xC6 [bits 0#11, bits a, bits b, bits 0#3, bits ek, bits ev])
  | .fork h  => some (packWord h 0xC7 [bits 0#38])
  | .joinCc h cc mask => some (packWord h 0xC8 [bits cc, bits mask, bits 0#31])
  | .ccset h val cc => some (packWord h 0xC9 [bits 0#33, bits 0#1, bits val, bits cc])
  | .ccwait h val cc => some (packWord h 0xCA [bits 0#3, bits val, bits cc, bits 0#31])
  | .start h  => some (packWord h 0xCB [bits 0#38])
  | .endStream h  => some (packWord h 0xCC [bits 0#38])
  | .yieldCore h  => some (packWord h 0xCD [bits 0#38])
  | .sleep h en => some (packWord h 0xD4 [bits 0#33, bits en])
  | .spawn h gd src => some (packWord h 0xCE [bits 0#1, bits gd, bits 0#7, bits src, bits 0#13])
  | .launch h gd hn => some (packWord h 0xCF [bits 0#1, bits gd, bits 0#1, bits hn, bits 0#24])
  | .spec h gd hn => some (packWord h 0xD0 [bits 0#1, bits gd, bits 0#1, bits hn, bits 0#24])
  | .decide h gd slot succ => some (packWord h 0xD1 [bits 0#1, bits gd, bits 0#6, bits slot, bits 0#11, bits 0#12, bits succ])
  | .twaitLaunch h gd src => some (packWord h 0xD2 [bits 0#1, bits gd, bits 0#7, bits src, bits 0#12, bits 0#1])
  | .twaitIdle h eng => some (packWord h 0xD2 [bits 0#7, bits 0#4, bits eng, bits 0#11, bits 0#12, bits 1#1])
  | .tdone h  => some (packWord h 0xD3 [bits 0#38])
  | .trap h code => some (packWord h 0xE0 [bits 0#22, bits code])
  | .brk h  => some (packWord h 0xE1 [bits 0#38])
  | .snaprD h d a => some (packWord h 0xE2 [bits d, bits a, bits 0#11, bits 0#5])
  | .snaprV h d a => some (packWord h 0xE2 [bits d, bits a, bits 0#11, bits 1#5])
  | .snaprSt h d a => some (packWord h 0xE2 [bits d, bits a, bits 0#11, bits 2#5])
  | .snapwD h d a b => some (packWord h 0xE3 [bits d, bits a, bits b, bits 0#5])
  | .snapwV h d a b => some (packWord h 0xE3 [bits d, bits a, bits b, bits 1#5])
  | .csrr h d csr => some (packWord h 0xE4 [bits d, bits 1#1, bits 0#1, bits csr, bits 0#16])
  | .csrw h d csr b opn => some (packWord h 0xE5 [bits d, bits 1#1, bits 0#1, bits csr, bits b, bits 0#3, bits opn])
  | .idget h d sel => some (packWord h 0xE6 [bits d, bits 0#22, bits 0#2, bits sel])
  | .clkget h d sel => some (packWord h 0xE7 [bits d, bits 0#22, bits 0#3, bits sel])
  | .perfr h d n clr => some (packWord h 0xE8 [bits d, bits 1#1, bits 0#1, bits n, bits 0#15, bits clr])
  | .ifence h  => some (packWord h 0xE9 [bits 0#38])
  | .reservedOpcode w => some w
  | .engineCommandStart _ _ => none
  | .engineCommandFinish _ _ => none
  | .kStep _ => none
  | .engineAutumnEntry _ _ => none
  | .domainStep _ => none
  | .domainReferenceTrigger _ _ => none
  | .domainEngineTrigger _ _ => none
  | .copypEndMarker _ => none
  | .poolRequestStep _ => none
  | .loadDataReturn _ _ => none
  | .atomicReturn _ _ => none
  | .addressTranslation _ _ => none
  | .pushEntryPoppable _ _ => none
  | .postAdditionLands _ _ => none
  | .ccsetValueLands _ _ => none
  | .instructionBufferFill _ _ _ => none
  | .watchdogExpiry _ => none
  | .deadlineMiss _ => none
  | .formSwap _ => none
  | .contextSave _ => none
  | .contextRestore _ => none
  | .dieQueuePop _ => none
  | .frameDeadline _ => none
  | .lbpRowRun _ => none
  | .rowPublish _ => none
  | .storePerformed _ _ _ => none
  | .nearPartDone _ => none
  | .prefetchComplete _ _ => none
  | .timingErrorReplay _ _ _ => none
  | .softErrorConsumed _ _ _ _ _ => none
  | .keeperScrub _ => none
  | .ffCtlResume _ _ => none
  | .ffCtlAbandon _ _ => none
  | .ffCtlAbort _ _ => none
  | .debugHaltRequest _ _ => none
  | .debugResume _ _ => none
  | .inboxTail _ _ => none
  | .launchPacketEntry _ => none
  | .ttCommit => none
  | .overflowDrain _ _ => none
  | .urgForms _ => none
  | .seasonReqSummer _ _ => none
  | .seasonReqWinter _ _ => none
  | .seasonReqMidwinter _ _ => none
  | .seasonEntry _ => none
  | .springRampStart _ => none
  | .springRampDone _ => none
  | .formImbalanceTick _ _ _ => none
  | .throttleRelax _ => none
  | .thermalCeilingStep _ _ => none
  | .thermalTrip _ => none
  | .thermalTripRelease _ => none
  | .slowDownNoticeRepeat _ => none
  | .slowDownNotice _ _ => none
  | .releaseNotice _ => none
  | .peerCeilingExpiry _ => none
  | .memTempRead _ _ => none
  | .otCmdInval _ _ => none
  | .otCmdMigrate _ _ => none
  | .otCmdDirty _ _ => none
  | .shootDownAck _ => none
  | .migrationCopy => none
  | .functionLevelReset _ => none
  | .flrDone _ => none
  | .deviceReset _ _ => none
  | .attCmd => none
  | .attestationReportDone _ _ _ _ _ => none
  | .hostLinkError _ _ => none
  | .scfgEnable _ _ => none
  | .scfgDisable _ _ => none
  | .serrCtlClr _ _ => none
  | .csi2FrameStart _ _ => none
  | .csi2FrameEnd _ _ => none
  | .csi2LineStart _ _ _ => none
  | .csi2LongPacket _ _ _ _ _ _ => none
  | .lidarFrame _ _ _ => none
  | .rollCallTick => none
  | .timeSyncMessage _ _ _ => none
  | .registerWrite _ _ _ => none
  | .talothPortTraining _ _ => none
  | .talothJobPeerMessage _ _ _ => none

/-- Readers of the opcodes 0x00 to 0x1F (R84). -/
def rows0 : List (Nat × (BitVec 64 → Option Instr)) := [
  (0x00, fun w => some (.nop (hdrOf w))),
  (0x01, fun w => some (.add (hdrOf w) (field w 27 11) (field w 16 11) (field w 5 11) (field w 0 5))),
  (0x02, fun w => some (.sub (hdrOf w) (field w 27 11) (field w 16 11) (field w 5 11) (field w 0 5))),
  (0x03, fun w => some (.mul (hdrOf w) (field w 27 11) (field w 16 11) (field w 5 11) (field w 0 5))),
  (0x04, fun w => some (.mulh (hdrOf w) (field w 27 11) (field w 16 11) (field w 5 11) (field w 0 5))),
  (0x05, fun w => some (.mulhn (hdrOf w) (field w 27 11) (field w 16 11) (field w 5 11) (field w 0 5))),
  (0x06, fun w => some (.div (hdrOf w) (field w 27 11) (field w 16 11) (field w 5 11) (field w 0 5))),
  (0x07, fun w => some (.divn (hdrOf w) (field w 27 11) (field w 16 11) (field w 5 11) (field w 0 5))),
  (0x08, fun w => some (.rem (hdrOf w) (field w 27 11) (field w 16 11) (field w 5 11) (field w 0 5))),
  (0x09, fun w => some (.remn (hdrOf w) (field w 27 11) (field w 16 11) (field w 5 11) (field w 0 5))),
  (0x0A, fun w => some (.and (hdrOf w) (field w 27 11) (field w 16 11) (field w 5 11) (field w 0 5))),
  (0x0B, fun w => some (.or (hdrOf w) (field w 27 11) (field w 16 11) (field w 5 11) (field w 0 5))),
  (0x0C, fun w => some (.xor (hdrOf w) (field w 27 11) (field w 16 11) (field w 5 11) (field w 0 5))),
  (0x0D, fun w => some (.andn (hdrOf w) (field w 27 11) (field w 16 11) (field w 5 11) (field w 0 5))),
  (0x0E, fun w => some (.shl (hdrOf w) (field w 27 11) (field w 16 11) (field w 5 11) (field w 0 5))),
  (0x0F, fun w => some (.shr (hdrOf w) (field w 27 11) (field w 16 11) (field w 5 11) (field w 0 5))),
  (0x10, fun w => some (.sar (hdrOf w) (field w 27 11) (field w 16 11) (field w 5 11) (field w 0 5))),
  (0x11, fun w => some (.rot (hdrOf w) (field w 27 11) (field w 16 11) (field w 5 11) (field w 0 5))),
  (0x12, fun w => some (.cmp (hdrOf w) (field w 27 11) (field w 16 11) (field w 5 11) (field w 2 3) (field w 0 2))),
  (0x13, fun w => some (.min (hdrOf w) (field w 27 11) (field w 16 11) (field w 5 11) (field w 0 5))),
  (0x14, fun w => some (.max (hdrOf w) (field w 27 11) (field w 16 11) (field w 5 11) (field w 0 5))),
  (0x15, fun w => some (.minn (hdrOf w) (field w 27 11) (field w 16 11) (field w 5 11) (field w 0 5))),
  (0x16, fun w => some (.maxn (hdrOf w) (field w 27 11) (field w 16 11) (field w 5 11) (field w 0 5))),
  (0x17, fun w => some (.clz (hdrOf w) (field w 27 11) (field w 16 11) (field w 0 5))),
  (0x18, fun w => some (.popc (hdrOf w) (field w 27 11) (field w 16 11) (field w 0 5))),
  (0x19, fun w => some (.sel (hdrOf w) (field w 27 11) (field w 16 11) (field w 5 11) (field w 0 5))),
  (0x1A, fun w => some (.ldi (hdrOf w) (field w 27 11) (field w 0 27))),
  (0x1B, fun w => some (.ldih (hdrOf w) (field w 27 11) (field w 0 27))),
  (0x1C, fun w => some (.mov (hdrOf w) (field w 27 11) (field w 16 11))),
  (0x1D, fun w => some (.capadd (hdrOf w) (field w 27 11) (field w 16 11) (field w 5 11) (field w 0 3))),
  (0x1E, fun w => if field w 0 5 = 0#5 then some (.capsetWin (hdrOf w) (field w 27 11) (field w 16 11) (field w 5 11)) else if field w 0 5 = 1#5 then some (.capsetRights (hdrOf w) (field w 27 11) (field w 16 11) (field w 5 11)) else if field w 0 5 = 2#5 then some (.capsetCur (hdrOf w) (field w 27 11) (field w 16 11) (field w 5 11)) else if field w 0 5 = 3#5 then some (.capsetUntag (hdrOf w) (field w 27 11) (field w 16 11) (field w 5 11)) else none),
  (0x1F, fun w => some (.capget (hdrOf w) (field w 27 11) (field w 16 11) (field w 0 3)))]

/-- Readers of the opcodes 0x20 to 0x3F (R84). -/
def rows1 : List (Nat × (BitVec 64 → Option Instr)) := [
  (0x20, fun w => some (.vadd (hdrOf w) (field w 27 11) (field w 16 11) (field w 5 11) (field w 0 5))),
  (0x21, fun w => some (.vsub (hdrOf w) (field w 27 11) (field w 16 11) (field w 5 11) (field w 0 5))),
  (0x22, fun w => some (.vmul (hdrOf w) (field w 27 11) (field w 16 11) (field w 5 11) (field w 0 5))),
  (0x23, fun w => some (.vmulh (hdrOf w) (field w 27 11) (field w 16 11) (field w 5 11) (field w 0 5))),
  (0x24, fun w => some (.vfma (hdrOf w) (field w 27 11) (field w 16 11) (field w 5 11) (field w 0 5))),
  (0x25, fun w => some (.vfms (hdrOf w) (field w 27 11) (field w 16 11) (field w 5 11) (field w 0 5))),
  (0x26, fun w => some (.vfnma (hdrOf w) (field w 27 11) (field w 16 11) (field w 5 11) (field w 0 5))),
  (0x27, fun w => some (.vdiv (hdrOf w) (field w 27 11) (field w 16 11) (field w 5 11) (field w 0 5))),
  (0x28, fun w => some (.vsqrt (hdrOf w) (field w 27 11) (field w 16 11) (field w 0 5))),
  (0x29, fun w => some (.vrcp (hdrOf w) (field w 27 11) (field w 16 11) (field w 0 5))),
  (0x2A, fun w => some (.vmin (hdrOf w) (field w 27 11) (field w 16 11) (field w 5 11) (field w 0 5))),
  (0x2B, fun w => some (.vmax (hdrOf w) (field w 27 11) (field w 16 11) (field w 5 11) (field w 0 5))),
  (0x2C, fun w => some (.vabs (hdrOf w) (field w 27 11) (field w 16 11) (field w 0 5))),
  (0x2D, fun w => some (.vneg (hdrOf w) (field w 27 11) (field w 16 11) (field w 0 5))),
  (0x2E, fun w => some (.vand (hdrOf w) (field w 27 11) (field w 16 11) (field w 5 11) (field w 0 5))),
  (0x2F, fun w => some (.vor (hdrOf w) (field w 27 11) (field w 16 11) (field w 5 11) (field w 0 5))),
  (0x30, fun w => some (.vxor (hdrOf w) (field w 27 11) (field w 16 11) (field w 5 11) (field w 0 5))),
  (0x31, fun w => some (.vshl (hdrOf w) (field w 27 11) (field w 16 11) (field w 5 11) (field w 0 5))),
  (0x32, fun w => some (.vshr (hdrOf w) (field w 27 11) (field w 16 11) (field w 5 11) (field w 0 5))),
  (0x33, fun w => some (.vsar (hdrOf w) (field w 27 11) (field w 16 11) (field w 5 11) (field w 0 5))),
  (0x34, fun w => some (.vcmp (hdrOf w) (field w 27 11) (field w 16 11) (field w 5 11) (field w 0 5))),
  (0x35, fun w => some (.vsel (hdrOf w) (field w 27 11) (field w 16 11) (field w 5 11) (field w 0 5))),
  (0x36, fun w => some (.vcvt (hdrOf w) (field w 27 11) (field w 16 11) (field w 5 5) (field w 0 5))),
  (0x37, fun w => some (.vqnt (hdrOf w) (field w 27 11) (field w 16 11) (field w 5 11) (field w 0 5))),
  (0x38, fun w => some (.vdqnt (hdrOf w) (field w 27 11) (field w 16 11) (field w 5 11) (field w 0 5))),
  (0x39, fun w => some (.vpack (hdrOf w) (field w 27 11) (field w 16 11) (field w 5 11) (field w 0 5))),
  (0x3A, fun w => some (.vunpk (hdrOf w) (field w 27 11) (field w 16 11) (field w 5 11) (field w 0 5))),
  (0x3B, fun w => some (.vperm (hdrOf w) (field w 27 11) (field w 16 11) (field w 5 11) (field w 0 5))),
  (0x3C, fun w => some (.vshuf (hdrOf w) (field w 27 11) (field w 16 11) (field w 5 11) (field w 0 5))),
  (0x3D, fun w => some (.vbcast (hdrOf w) (field w 27 11) (field w 16 11) (field w 5 11) (field w 0 5))),
  (0x3E, fun w => some (.vslide (hdrOf w) (field w 27 11) (field w 16 11) (field w 5 11) (field w 0 5))),
  (0x3F, fun w => some (.vreds (hdrOf w) (field w 27 11) (field w 16 11) (field w 5 11) (field w 0 5)))]

/-- Readers of the opcodes 0x40 to 0x68 (R84). -/
def rows2 : List (Nat × (BitVec 64 → Option Instr)) := [
  (0x40, fun w => some (.vredx (hdrOf w) (field w 27 11) (field w 16 11) (field w 5 11) (field w 0 5))),
  (0x41, fun w => some (.vscan (hdrOf w) (field w 27 11) (field w 16 11) (field w 5 11) (field w 0 5))),
  (0x42, fun w => some (.vclmul (hdrOf w) (field w 27 11) (field w 16 11) (field w 5 11) (field w 0 5))),
  (0x43, fun w => some (.vpopc (hdrOf w) (field w 27 11) (field w 16 11) (field w 0 5))),
  (0x44, fun w => some (.vclz (hdrOf w) (field w 27 11) (field w 16 11) (field w 0 5))),
  (0x45, fun w => some (.vmulw (hdrOf w) (field w 27 11) (field w 16 11) (field w 5 11) (field w 0 5))),
  (0x46, fun w => some (.vexp2 (hdrOf w) (field w 27 11) (field w 16 11) (field w 0 5))),
  (0x47, fun w => some (.vlog2 (hdrOf w) (field w 27 11) (field w 16 11) (field w 0 5))),
  (0x48, fun w => some (.vrsq (hdrOf w) (field w 27 11) (field w 16 11) (field w 0 5))),
  (0x49, fun w => some (.vdot4 (hdrOf w) (field w 27 11) (field w 16 11) (field w 5 11) (field w 0 5))),
  (0x4A, fun w => some (.vdot2 (hdrOf w) (field w 27 11) (field w 16 11) (field w 5 11) (field w 0 5))),
  (0x4B, fun w => some (.vmerge (hdrOf w) (field w 27 11) (field w 16 11) (field w 5 11) (field w 0 5))),
  (0x4C, fun w => some (.viota (hdrOf w) (field w 27 11) (field w 16 11) (field w 0 5))),
  (0x4D, fun w => some (.vcompr (hdrOf w) (field w 27 11) (field w 16 11) (field w 5 11) (field w 0 5))),
  (0x4E, fun w => some (.vexpnd (hdrOf w) (field w 27 11) (field w 16 11) (field w 5 11) (field w 0 5))),
  (0x4F, fun w => some (.vround (hdrOf w) (field w 27 11) (field w 16 11) (field w 0 5))),
  (0x50, fun w => some (.kand (hdrOf w) (field w 27 11) (field w 16 11) (field w 5 11))),
  (0x51, fun w => some (.kor (hdrOf w) (field w 27 11) (field w 16 11) (field w 5 11))),
  (0x52, fun w => some (.kxor (hdrOf w) (field w 27 11) (field w 16 11) (field w 5 11))),
  (0x53, fun w => some (.knot (hdrOf w) (field w 27 11) (field w 16 11))),
  (0x54, fun w => some (.kpopc (hdrOf w) (field w 27 11) (field w 16 11))),
  (0x55, fun w => some (.kfirst (hdrOf w) (field w 27 11) (field w 16 11))),
  (0x56, fun w => if field w 0 5 = 0#5 then some (.kmov (hdrOf w) (field w 27 11) (field w 16 11)) else if field w 0 5 = 1#5 then some (.kmovFirst (hdrOf w) (field w 27 11) (field w 16 11)) else none),
  (0x60, fun w => some (.nestw (hdrOf w) (field w 31 2) (field w 24 3) (field w 13 11))),
  (0x61, fun w => some (.nestr (hdrOf w) (field w 31 6) (field w 27 2) (field w 24 3) (field w 1 1) (field w 0 1))),
  (0x62, fun w => some (.go (hdrOf w) (field w 31 4) (field w 13 11))),
  (0x63, fun w => some (.nstat (hdrOf w) (field w 31 6) (field w 24 2) (field w 0 3))),
  (0x64, fun w => some (.fmtw (hdrOf w) (field w 31 4) (field w 13 11))),
  (0x65, fun w => some (.fmtsel (hdrOf w) (field w 3 1) (field w 0 3))),
  (0x66, fun w => some (.mma (hdrOf w) (field w 35 1) (field w 34 1) (field w 31 3) (field w 24 3))),
  (0x67, fun w => some (.mmac (hdrOf w) (field w 35 1) (field w 34 1) (field w 31 3) (field w 24 3))),
  (0x68, fun w => some (.ringcfg (hdrOf w) (field w 31 6) (field w 4 4) (field w 0 4)))]

/-- Readers of the opcodes 0x69 to 0x98 (R84). -/
def rows3 : List (Nat × (BitVec 64 → Option Instr)) := [
  (0x69, fun w => some (.rhead (hdrOf w) (field w 31 6))),
  (0x6A, fun w => some (.rpop (hdrOf w))),
  (0x6B, fun w => some (.rdiscard (hdrOf w))),
  (0x6C, fun w => if field w 31 3 = 0#3 then some (.epcfgAct (hdrOf w) (field w 0 3)) else if field w 31 3 = 1#3 then some (.epcfgBias (hdrOf w) (field w 24 6) (field w 0 1)) else if field w 31 3 = 2#3 then some (.epcfgScale (hdrOf w) (field w 24 6) (field w 0 1)) else if field w 31 3 = 3#3 then some (.epcfgLo (hdrOf w) (field w 13 11)) else if field w 31 3 = 4#3 then some (.epcfgHi (hdrOf w) (field w 13 11)) else none),
  (0x6D, fun w => some (.eprun (hdrOf w) (field w 31 6))),
  (0x6E, fun w => some (.deckld (hdrOf w) (field w 31 5) (field w 13 11) (field w 0 11))),
  (0x6F, fun w => some (.decksel (hdrOf w) (field w 0 11))),
  (0x70, fun w => some (.ccnt (hdrOf w) (field w 31 6) (field w 24 3))),
  (0x71, fun w => some (.ccons (hdrOf w) (field w 24 3) (field w 0 8))),
  (0x72, fun w => if field w 8 1 = 0#1 then some (.cdisc (hdrOf w) (field w 24 3) (field w 0 8)) else if field w 8 1 = 1#1 then some (.cdiscAll (hdrOf w) (field w 24 3)) else none),
  (0x73, fun w => some (.pace (hdrOf w) (field w 24 3) (field w 0 13))),
  (0x74, fun w => some (.astage (hdrOf w) (field w 31 5) (field w 24 3) (field w 13 11))),
  (0x80, fun w => some (.patch (hdrOf w) (field w 31 6) (field w 13 11) (field w 0 1))),
  (0x81, fun w => some (.cellw (hdrOf w) (field w 13 11) (field w 8 4) (field w 0 8))),
  (0x82, fun w => some (.cellr (hdrOf w) (field w 31 6) (field w 8 4) (field w 0 8))),
  (0x83, fun w => some (.stepdom (hdrOf w) (field w 24 2) (field w 13 11) (field w 0 2))),
  (0x84, fun w => some (.step (hdrOf w) (field w 24 2) (field w 0 8))),
  (0x85, fun w => some (.darun (hdrOf w) (field w 4 4) (field w 0 4))),
  (0x86, fun w => some (.dasave (hdrOf w) (field w 31 6))),
  (0x87, fun w => some (.daload (hdrOf w) (field w 31 6))),
  (0x88, fun w => some (.dainj (hdrOf w) (field w 24 4) (field w 13 11))),
  (0x89, fun w => some (.datap (hdrOf w) (field w 31 6) (field w 8 1) (field w 0 8))),
  (0x8A, fun w => some (.dastat (hdrOf w) (field w 31 6) (field w 3 1) (field w 0 3))),
  (0x90, fun w => some (.ld (hdrOf w) (field w 27 11) (field w 22 5) (field w 11 11) (field w 8 3) (field w 6 2) (field w 3 3) (field w 0 3))),
  (0x91, fun w => some (.st (hdrOf w) (field w 27 11) (field w 22 5) (field w 11 11) (field w 8 3) (field w 6 2) (field w 3 3) (field w 0 3))),
  (0x92, fun w => some (.ldt (hdrOf w) (field w 31 6) (field w 24 6) (field w 13 11) (field w 0 3))),
  (0x93, fun w => some (.stt (hdrOf w) (field w 31 6) (field w 24 6) (field w 13 11) (field w 0 3))),
  (0x94, fun w => some (.gath (hdrOf w) (field w 27 11) (field w 22 5) (field w 11 11) (field w 8 3) (field w 6 2) (field w 3 3) (field w 0 3))),
  (0x95, fun w => some (.scat (hdrOf w) (field w 27 11) (field w 22 5) (field w 11 11) (field w 8 3) (field w 6 2) (field w 3 3) (field w 0 3))),
  (0x96, fun w => some (.amo (hdrOf w) (field w 27 11) (field w 22 5) (field w 11 10) (field w 8 3) (field w 6 2) (field w 3 3) (field w 0 3))),
  (0x97, fun w => some (.cas (hdrOf w) (field w 27 11) (field w 22 5) (field w 11 11) (field w 8 3) (field w 6 2) (field w 3 3) (field w 0 3))),
  (0x98, fun w => some (.amof (hdrOf w) (field w 27 11) (field w 22 5) (field w 11 10) (field w 8 3) (field w 6 2) (field w 3 3) (field w 0 3)))]

/-- Readers of the opcodes 0x99 to 0xBB (R84). -/
def rows4 : List (Nat × (BitVec 64 → Option Instr)) := [
  (0x99, fun w => some (.fence (hdrOf w) (field w 6 2) (field w 3 3) (field w 0 3))),
  (0x9A, fun w => some (.mark (hdrOf w) (field w 3 3) (field w 0 3))),
  (0x9B, fun w => some (.talloc (hdrOf w) (field w 31 6) (field w 24 6) (field w 13 11))),
  (0x9C, fun w => some (.tfree (hdrOf w) (field w 24 6))),
  (0x9D, fun w => some (.tinfo (hdrOf w) (field w 31 6) (field w 24 6))),
  (0x9E, fun w => some (.copy (hdrOf w) (field w 31 6) (field w 30 1) (field w 24 6) (field w 13 11) (field w 6 1) (field w 0 6))),
  (0x9F, fun w => some (.copyp (hdrOf w) (field w 31 6) (field w 24 6))),
  (0xA0, fun w => some (.twaitany (hdrOf w) (field w 31 6) (field w 13 11))),
  (0xA1, fun w => some (.twaitall (hdrOf w) (field w 13 11))),
  (0xA2, fun w => some (.tffr (hdrOf w) (field w 31 6) (field w 13 11))),
  (0xA3, fun w => some (.tclr (hdrOf w) (field w 13 11))),
  (0xA4, fun w => some (.pref (hdrOf w) (field w 27 11) (field w 22 5) (field w 11 11))),
  (0xA5, fun w => some (.prefw (hdrOf w) (field w 27 11) (field w 16 11))),
  (0xA6, fun w => some (.poolset (hdrOf w) (field w 31 6) (field w 13 11))),
  (0xA7, fun w => if field w 0 1 = 0#1 then some (.poolqOcc (hdrOf w) (field w 31 6)) else if field w 0 1 = 1#1 then some (.poolqTkt (hdrOf w) (field w 31 6) (field w 13 11)) else none),
  (0xA8, fun w => some (.cflush (hdrOf w) (field w 22 5) (field w 11 11))),
  (0xA9, fun w => some (.cinv (hdrOf w) (field w 22 5) (field w 11 11))),
  (0xAA, fun w => some (.foot (hdrOf w) (field w 31 5) (field w 13 11) (field w 0 2))),
  (0xAB, fun w => some (.job (hdrOf w) (field w 31 6) (field w 24 6))),
  (0xAC, fun w => some (.near (hdrOf w) (field w 31 6) (field w 24 6))),
  (0xB0, fun w => some (.push (hdrOf w) (field w 31 5) (field w 13 11) (field w 3 3) (field w 0 3))),
  (0xB1, fun w => some (.pop (hdrOf w) (field w 31 5) (field w 13 11) (field w 3 3) (field w 0 3))),
  (0xB2, fun w => some (.post (hdrOf w) (field w 24 5) (field w 0 8))),
  (0xB3, fun w => some (.await (hdrOf w) (field w 24 5) (field w 0 8))),
  (0xB4, fun w => some (.awaitn (hdrOf w) (field w 31 6) (field w 13 11))),
  (0xB5, fun w => some (.bar (hdrOf w) (field w 24 3) (field w 0 4))),
  (0xB6, fun w => some (.rowwait (hdrOf w) (field w 24 6) (field w 13 11))),
  (0xB7, fun w => some (.rowget (hdrOf w) (field w 31 6) (field w 24 6))),
  (0xB8, fun w => if field w 0 1 = 0#1 then some (.frmgetCnt (hdrOf w) (field w 31 6) (field w 24 6)) else if field w 0 1 = 1#1 then some (.frmgetStamp (hdrOf w) (field w 31 6) (field w 24 6)) else none),
  (0xB9, fun w => some (.rcsub (hdrOf w) (field w 31 6) (field w 24 4) (field w 0 3))),
  (0xBA, fun w => some (.rcget (hdrOf w) (field w 31 6) (field w 24 6) (field w 4 6) (field w 0 4))),
  (0xBB, fun w => some (.rccfg (hdrOf w) (field w 24 4) (field w 13 11) (field w 0 3)))]

/-- Readers of the opcodes 0xBC to 0xE6 (R84). -/
def rows5 : List (Nat × (BitVec 64 → Option Instr)) := [
  (0xBC, fun w => if field w 0 5 = 0#5 then some (.timeget (hdrOf w) (field w 27 11)) else if field w 0 5 = 1#5 then some (.timegetSt (hdrOf w) (field w 27 11)) else none),
  (0xBD, fun w => if field w 16 11 = 1024#11 then some (.qstatQ (hdrOf w) (field w 27 11) (field w 0 5)) else if field w 16 11 = 1025#11 then some (.qstatE (hdrOf w) (field w 27 11) (field w 0 5)) else none),
  (0xBE, fun w => some (.stbind (hdrOf w) (field w 31 6) (field w 24 6) (field w 13 11) (field w 0 6))),
  (0xBF, fun w => if field w 0 1 = 0#1 then some (.qdrainQ (hdrOf w) (field w 31 6) (field w 24 5)) else if field w 0 1 = 1#1 then some (.qdrainE (hdrOf w) (field w 31 6) (field w 24 5)) else none),
  (0xC0, fun w => some (.br (hdrOf w) (field w 0 31))),
  (0xC1, fun w => if field w 0 5 = 0#5 then some (.bri (hdrOf w) (field w 16 11)) else if field w 0 5 = 1#5 then some (.briRel (hdrOf w) (field w 16 11)) else none),
  (0xC2, fun w => some (.call (hdrOf w) (field w 31 6) (field w 0 31))),
  (0xC3, fun w => some (.ret (hdrOf w) (field w 16 11))),
  (0xC4, fun w => some (.loop (hdrOf w) (field w 31 2) (field w 0 31))),
  (0xC5, fun w => some (.lclose (hdrOf w) (field w 31 2) (field w 0 31))),
  (0xC6, fun w => some (.rrbset (hdrOf w) (field w 16 11) (field w 5 11) (field w 1 1) (field w 0 1))),
  (0xC7, fun w => some (.fork (hdrOf w))),
  (0xC8, fun w => some (.joinCc (hdrOf w) (field w 35 3) (field w 31 4))),
  (0xC9, fun w => some (.ccset (hdrOf w) (field w 3 1) (field w 0 3))),
  (0xCA, fun w => some (.ccwait (hdrOf w) (field w 34 1) (field w 31 3))),
  (0xCB, fun w => some (.start (hdrOf w))),
  (0xCC, fun w => some (.endStream (hdrOf w))),
  (0xCD, fun w => some (.yieldCore (hdrOf w))),
  (0xCE, fun w => some (.spawn (hdrOf w) (field w 31 6) (field w 13 11))),
  (0xCF, fun w => some (.launch (hdrOf w) (field w 31 6) (field w 24 6))),
  (0xD0, fun w => some (.spec (hdrOf w) (field w 31 6) (field w 24 6))),
  (0xD1, fun w => some (.decide (hdrOf w) (field w 31 6) (field w 24 1) (field w 0 1))),
  (0xD2, fun w => if field w 0 1 = 0#1 then some (.twaitLaunch (hdrOf w) (field w 31 6) (field w 13 11)) else if field w 0 1 = 1#1 then some (.twaitIdle (hdrOf w) (field w 24 3)) else none),
  (0xD3, fun w => some (.tdone (hdrOf w))),
  (0xD4, fun w => some (.sleep (hdrOf w) (field w 0 5))),
  (0xE0, fun w => some (.trap (hdrOf w) (field w 0 16))),
  (0xE1, fun w => some (.brk (hdrOf w))),
  (0xE2, fun w => if field w 0 5 = 0#5 then some (.snaprD (hdrOf w) (field w 27 11) (field w 16 11)) else if field w 0 5 = 1#5 then some (.snaprV (hdrOf w) (field w 27 11) (field w 16 11)) else if field w 0 5 = 2#5 then some (.snaprSt (hdrOf w) (field w 27 11) (field w 16 11)) else none),
  (0xE3, fun w => if field w 0 5 = 0#5 then some (.snapwD (hdrOf w) (field w 27 11) (field w 16 11) (field w 5 11)) else if field w 0 5 = 1#5 then some (.snapwV (hdrOf w) (field w 27 11) (field w 16 11) (field w 5 11)) else none),
  (0xE4, fun w => some (.csrr (hdrOf w) (field w 27 11) (field w 16 9))),
  (0xE5, fun w => some (.csrw (hdrOf w) (field w 27 11) (field w 16 9) (field w 5 11) (field w 0 2))),
  (0xE6, fun w => some (.idget (hdrOf w) (field w 27 11) (field w 0 3)))]

/-- Readers of the opcodes 0xE7 to 0xE9 (R84). -/
def rows6 : List (Nat × (BitVec 64 → Option Instr)) := [
  (0xE7, fun w => some (.clkget (hdrOf w) (field w 27 11) (field w 0 2))),
  (0xE8, fun w => some (.perfr (hdrOf w) (field w 27 11) (field w 16 9) (field w 0 1))),
  (0xE9, fun w => some (.ifence (hdrOf w)))]

/-- The opcode map (R84): the reader of each listed opcode. -/
def opcodeRows : List (Nat × (BitVec 64 → Option Instr)) :=
  rows0 ++ rows1 ++ rows2 ++ rows3 ++ rows4 ++ rows5 ++ rows6

/-- The instruction whose assigned fields a word of a listed opcode holds; none where a field that selects the form holds
a value that no form has, or the opcode is not listed. -/
def readFields (w : BitVec 64) : Option Instr :=
  match opcodeRows.lookup (opOf w).toNat with
  | some f => f w
  | none => none

/-- Why a word of a listed opcode is no instruction. -/
inductive Reject where
  /-- A field that selects the form of the opcode holds a value that no form has (R83). -/
  | noForm (op : BitVec 8)
  /-- A reserved field is not zero (R74). -/
  | reservedField (op : BitVec 8)
deriving DecidableEq, Repr

/-- The instruction that a word encodes. A word of a reserved or unlisted opcode is RESERVED_OPCODE (R85). -/
def decode (w : BitVec 64) : Except Reject Instr :=
  if (opcodeRows.lookup (opOf w).toNat).isNone then .ok (.reservedOpcode w)
  else match readFields w with
    | none => .error (.noForm (opOf w))
    | some i => if encode i = some w then .ok i else .error (.reservedField (opOf w))

/-- The word at the low end of a byte list, little-endian, with the rest of the list; none where bytes are missing (R5). -/
def decodeBytes : List (BitVec 8) → Option (Except Reject Instr × List (BitVec 8))
  | b0 :: b1 :: b2 :: b3 :: b4 :: b5 :: b6 :: b7 :: rest =>
    some (decode (BitVec.ofNat 64 (catBits [bits b7, bits b6, bits b5, bits b4, bits b3, bits b2, bits b1, bits b0] 0)), rest)
  | _ => none

/-- The instruction that the decoder reads from a word of nbits bits, the bits above them zero. -/
def decodeTableWord (nbits w : Nat) : Option Instr :=
  match decode (BitVec.ofNat 64 (w % 2 ^ (min nbits 64))) with
  | .ok i => some i
  | .error _ => none

end Sys2Proof
end

