-- ==== Sys2Proof/Machine/Tab.lean ====
section
/-! DEFINITION. Sparse tables: the one representation of memories and register files. A table is a list of (key, value) pairs
in rising order of the keys; a key that is not listed reads as the table's default. -/

namespace Sys2Proof

/-- A sparse table. A memory is a table of bytes, which is a list of `Host.Cell`. -/
abbrev Tab (α : Type) := List (Nat × α)

namespace Machine

/-- The value at key k; an unlisted key reads as d. -/
def tabGet {α : Type} (d : α) : Tab α → Nat → α
  | [], _ => d
  | (j, v) :: t, k => if j = k then v else tabGet d t k

/-- The table without key k. -/
def tabDel {α : Type} : Tab α → Nat → Tab α
  | [], _ => []
  | (j, v) :: t, k => if j = k then tabDel t k else (j, v) :: tabDel t k

/-- The table with v at key k, listed whatever v is. -/
def tabPut {α : Type} : Tab α → Nat → α → Tab α
  | [], k, v => [(k, v)]
  | (j, w) :: t, k, v =>
    if k < j then (k, v) :: (j, w) :: t
    else if k = j then (k, v) :: t
    else (j, w) :: tabPut t k v

/-- The table with v at key k in canonical form: writing the default removes the entry. -/
def tabSet {α : Type} [DecidableEq α] (d : α) (t : Tab α) (k : Nat) (v : α) : Tab α :=
  if v = d then tabDel t k else tabPut t k v

/-- Keys strictly rising. -/
def tabSorted {α : Type} : Tab α → Bool
  | [] => true
  | [_] => true
  | (j, _) :: (k, w) :: t => j < k && tabSorted ((k, w) :: t)

/-- The canonical form: keys strictly rising and no entry equal to the default. -/
def tabWf {α : Type} [DecidableEq α] (d : α) (t : Tab α) : Bool :=
  tabSorted t && t.all (fun x => x.2 ≠ d)

/-- The keys listed, in rising order. -/
def tabKeys {α : Type} (t : Tab α) : List Nat := t.map Prod.fst

end Machine
end Sys2Proof
end

