-- ==== Sys2Proof/Machine/State.lean ====
section
/-! DEFINITION. The state of the NS4: every piece of state that the spec gives the machine, as plain data. -/

namespace Sys2Proof.Machine

/-- A memory: (address, byte) pairs in canonical form; an unlisted address reads 0 (log 2). -/
abbrev Memory := List Host.Cell

/-- The memory's canonical form: addresses strictly rising and no byte equal to what an unlisted address reads as. -/
def Memory.wf (m : Memory) : Bool := tabWf (0 : Byte) m

/-- Why a step stops the machine. -/
inductive Fault where
  /-- Raised by an access whose physical address lies beyond the installed device memory (R20): the spec gives no such
  address. Safe: the machine stops where hardware behaviour is not described. -/
  | noSuchAddress (addr : Nat)
deriving DecidableEq, Repr

/-- Why the model gives no meaning. -/
inductive Refusal where
  /-- Raised by an arm of `exec` whose instruction has no meaning yet. Safe. -/
  | notModelled (mnemonic : String)
deriving DecidableEq, Repr

/-- A capability with its tag (R160). -/
structure Cap where
  bits : BitVec 128 := 0
  tag : Bool := false
deriving DecidableEq, Repr

/-- What happened to a stream's next word in the current cycle (R64, R65). -/
inductive Verdict where
  | none | issued | taken | idle | blocked | missed | replayed | faulted
deriving DecidableEq, Repr

/-- One region of a footprint list (R299). -/
structure Region where
  cap : Cap := {}
  access : BitVec 2 := 0
  off : Nat := 0
  len : Nat := 0
deriving DecidableEq, Repr

/-- One stream of a core (R16, R39, R478), or a line-buffer processor (R307). -/
structure Stream where
  /-- Word index of the next word (R61). -/
  pc : Nat := 0
  /-- Byte offset of the code object within the kernel's object, and its length in words (R26). -/
  codeOff : Nat := 0
  codeLen : Nat := 0
  started : Bool := false
  ended : Bool := false
  /-- Debug-halted (R373). -/
  halted : Bool := false
  /-- Arrived at START (R406). -/
  atStart : Bool := false
  /-- Members of the join group, bit i for CLi; zero when forked (R43). -/
  group : BitVec 4 := 0
  /-- The idle count (R64) and whether it has been loaded from the next word. -/
  idle : Nat := 0
  idleLoaded : Bool := false
  /-- The instruction buffer: words by index, and which 16-word blocks are present (R61). -/
  ibuf : Tab Word := []
  blocks : BitVec 64 := 0
  /-- Accesses numbered below this must be performed before a refill starts (R498). -/
  fillAfter : Nat := 0
  status : BitVec 32 := 0
  rrbV : Nat := 0
  rrbK : Nat := 0
  lc : Tab (BitVec 32) := []
  g : Tab Word := []
  k : Tab (BitVec 32) := []
  v : Tab Vec := []
  c : Tab Cap := []
  /-- Output latches by the index of R478: SA SM VA VM VX VT KU MU CU (R76). -/
  latch : Tab Vec := []
  /-- The tag of CU.o (R164). -/
  cuTag : Bool := false
  /-- The own link port (R48). -/
  link : Vec := 0
  foot : List Region := []
  perf : Tab Word := []
  /-- Cycles since reset in which SLEEP has stopped the unit's clock, for CYCLE (R496). -/
  stopped : Word := 0
  /-- Clock stopped by SLEEP, and cycles left of its wake (R409). -/
  asleep : Bool := false
  wake : Nat := 0
  /-- This cycle is a replayed one (R461), and how many in succession (R463). -/
  replay : Bool := false
  replays : Nat := 0
  verdict : Verdict := .none
  /-- The word issued in this cycle ends the stream (R407). -/
  ending : Bool := false
deriving DecidableEq, Repr

/-- Whether a queue entry can be popped (R80, R275, R322, R500). -/
inductive QState where
  /-- Landed. -/
  | ready
  /-- Reserved by a load or SNAPR whose data has not landed, or by a result in flight; named by its number. -/
  | awaits (id : Nat)
  /-- Pushed by PUSH, its release not complete. -/
  | release (id : Nat)
deriving DecidableEq, Repr

/-- One entry of a queue register (R40). -/
structure QEnt where
  val : Vec := 0
  state : QState := .ready
  /-- Marked by QDRAIN: discarded when it would become poppable (R328). -/
  marked : Bool := false
  /-- Pushed in this cycle: takes a slot of this cycle and can be popped from the next (R82). -/
  fresh : Bool := false
  /-- Pushed by a load: the youngest reservations of R480. -/
  load : Bool := false
  /-- Its parity is wrong: found at the pop (R466). -/
  bad : Bool := false
deriving DecidableEq, Repr

/-- A queue register: its entries, oldest first, and how many it held at the start of the cycle. -/
structure Queue where
  ents : List QEnt := []
  held : Nat := 0
deriving DecidableEq, Repr

/-- An event (R324), with the additions that land at the end of the cycle (R326). -/
structure Event where
  count : Nat := 0
  ovf : Bool := false
  adds : Nat := 0
deriving DecidableEq, Repr

/-- A condition-code record (R402). -/
structure CcRec where
  value : Bool := false
  mask : BitVec 4 := 0
  arrived : BitVec 4 := 0
  /-- Clusters of a complete JOIN that a stall kept from issuing in its cycle. -/
  leaving : BitVec 4 := 0
deriving DecidableEq, Repr

/-- A barrier record (R329, R480). -/
structure Barrier where
  mask : BitVec 4 := 0
  arrived : BitVec 4 := 0
  /-- Participants of a complete barrier that have not departed yet. -/
  leaving : BitVec 4 := 0
deriving DecidableEq, Repr

/-- An engine completion record (R213); `skip` counts discarded commands still to finish, whose completions are not counted
(R214). -/
structure Comp where
  out : Nat := 0
  done : Nat := 0
  skip : Nat := 0
deriving DecidableEq, Repr

/-- The progress of an active nest table (R120). -/
structure NestRun where
  live : Bool := false
  idx : List Nat := []
  base : List Nat := []
  delivered : Word := 0
deriving DecidableEq, Repr

/-- The tile of a sensor stream that a handle names, and the ring slot that holds it (R312, R313, R334). -/
structure SensorTile where
  stream : Nat := 0
  frame : Nat := 0
  tile : Nat := 0
  slot : Nat := 0
deriving DecidableEq, Repr

/-- A tile handle (R244): its descriptor, the storage it names, and the sensor tile it is bound to. -/
structure Handle where
  desc : Word := 0
  tile : Nat := 0
  bound : Option SensorTile := none
deriving DecidableEq, Repr

/-- The storage of a POOL or TSTORE tile (R246); it outlives TFREE while commands name it (R290). -/
structure TileStore where
  bytes : Memory := []
  foot : Nat := 0
  tstore : Bool := false
  freed : Bool := false
deriving DecidableEq, Repr

/-- A pool request's ticket and outcome (R243). -/
structure Ticket where
  ticket : BitVec 16 := 0
  pending : Bool := false
  code : BitVec 3 := 0
deriving DecidableEq, Repr

/-- The pool's role counts, in banks (R238). -/
structure PoolRoles where
  reg : Nat := 0
  scr : Nat := 0
  cache : Nat := 64
  mat : Nat := 0
deriving DecidableEq, Repr

/-- The pool request machinery (R240 to R243): next step 0 CACHE, 1 SCR, 2 MAT, 3 REG, 4 finish. -/
structure PoolReq where
  counter : BitVec 16 := 0
  pending : Bool := false
  /-- The ticket of the pending request. -/
  ticket : BitVec 16 := 0
  /-- Its last step is done: the counts take effect at the end of this cycle (R241). -/
  ending : Bool := false
  want : PoolRoles := {}
  step : Nat := 0
  tickets : List Ticket := []
deriving DecidableEq, Repr

/-- The result ring and the stage area (R124, R126, R140). -/
structure Ring where
  d : Nat := 0
  s : Nat := 0
  hd : Nat := 0
  tl : Nat := 0
  /-- RPOP has made tile TL current (R141). -/
  current : Bool := false
  /-- A tile is open at the head, and the entry index of its last K-step. -/
  openTile : Bool := false
  openEntry : Nat := 0
  /-- The recorded entry index of each ring slot (R135). -/
  entries : Tab Nat := []
  /-- Stage slots: 0 EMPTY, 1 FILLING, 2 FULL. -/
  stage : Tab Nat := []
  deckBase : Nat := 0
  /-- RINGCFGs still to take effect, in issue order: D, S, and the ends of cycle until then (R208). -/
  coming : List (Nat × Nat × Nat) := []
deriving DecidableEq, Repr

/-- The season of a unit or form (R384). -/
inductive Season where
  | summer | autumn | winter | midwinter | spring
deriving DecidableEq, Repr

/-- A command in an engine's queue (R66, R481): the instruction, what its ports gave at issue, and what it latched. -/
structure Cmd where
  ins : Instr
  src : Vec := 0
  stream : Nat := 0
  /-- The shadow table that a GO latched (R122). -/
  nest : List (BitVec 128) := []
  /-- The footprint list that a JOB or NEAR took (R299). -/
  foot : List Region := []
  /-- The tile storage that each handle of the command named at issue (R290). -/
  tiles : List (Nat × Handle) := []
  /-- Accesses of the stream numbered below this precede the command (R267). -/
  since : Nat := 0
  /-- The cycle count of the queue's acceptance: 0 in the cycle of entry. -/
  age : Nat := 0
deriving DecidableEq, Repr

/-- A running command (R195, R471): what is left of it. -/
structure Run where
  cmd : Cmd
  /-- Cycles to its finish, where the spec states its length; none while it waits or its length is open. -/
  left : Option Nat := none
  progress : Nat := 0
  /-- The iteration that it drew (R120). -/
  iter : List Int := []
  idx : List Nat := []
  /-- The format-table entry fixed at its start (R200), and its block edge. -/
  entry : Nat := 0
  edge : Nat := 16
  span : Nat := 16
  cyc : Nat := 1
  steps : Nat := 0
  /-- The capability or capabilities read at its start. -/
  caps : List Cap := []
  /-- Partial results of a NEAR job (R301), or data received by a JOB (R300). -/
  data : List Byte := []
  peers : Nat := 0
  flags : BitVec 6 := 0
  /-- The contents of a format-table entry at the command's start (R200). -/
  fmt : Word := 0
  /-- Its work is complete and it waits for its end (an end marker's queue, a peer). -/
  waiting : Bool := false
  /-- It has raised a fault and stands until RESUME (R450, R455). -/
  failed : Bool := false
deriving DecidableEq, Repr

/-- One engine of a core (R66, R195, R385). -/
structure Engine where
  queue : List Cmd := []
  run : Option Run := none
  /-- Cycles since the queue last accepted a command, and since a command last started (R65, R66). -/
  accAge : Nat := 8192
  startAge : Nat := 8192
  /-- Cycles with an empty queue and no running command, and of a wake left (R385). -/
  idleFor : Nat := 0
  wake : Nat := 0
  season : Season := .summer
  /-- A timing error replays this cycle (R461), and how many in succession (R463). -/
  stall : Bool := false
  replays : Nat := 0
deriving DecidableEq, Repr

/-- A step-clock domain (R223), with the rows counted for the row taps of each reading domain (R221). -/
structure Domain where
  kind : Nat := 0
  run : Bool := false
  stream : Nat := 0
  lost : Bool := false
  divm : Nat := 0
  phase : Nat := 0
  pend : Nat := 0
  rowNum : BitVec 16 := 0
  rowFrm : BitVec 32 := 0
  steps : Word := 0
  /-- Rows counted since the last committed step of reading domain 0 to 3. -/
  taps : List Nat := [0, 0, 0, 0]
deriving DecidableEq, Repr

/-- The integrator field (R216, R222, R223, R229). -/
structure Dda where
  cells : Tab Vec := []
  doms : Tab Domain := []
  chans : Tab Int := []
  wrap : Bool := false
  injsat : Bool := false
  /-- WRAP or LOST bits set in this cycle, which survive a clear (R227): bits 0 to 3 LOST of a domain, bit 4 WRAP, bit 5 INJSAT. -/
  fresh : BitVec 6 := 0
  /-- Domains that have stepped in this cycle (R225, R227). -/
  stepped : BitVec 4 := 0
deriving DecidableEq, Repr

/-- The state that the streams and engines of a core share (R68). -/
structure Shared where
  q : Tab Queue := []
  ev : Tab Event := []
  tags : Word := 0
  tagOut : Tab Nat := []
  cc : Tab CcRec := []
  bars : Tab Barrier := []
  comp : Tab Comp := []
  pace : Tab Nat := []
  fmtLevel : BitVec 32 := 0
  fmt : Tab Word := []
  /-- Level records at key 12 t + 6 copy + level (R118). -/
  nest : Tab (BitVec 128) := []
  nestRun : Tab NestRun := []
  epcfg : BitVec 96 := 0
  ring : Ring := {}
  /-- The ring slots and stage slots of MAT: slot i at byte 16,384 i (R124). -/
  mat : Memory := []
  /-- The deck region: byte o of slice n at 49,152 n + o (R127), and DECKV (R477). -/
  deck : Memory := []
  deckV : Bool := false
  pool : PoolRoles := {}
  poolReq : PoolReq := {}
  handles : Tab Handle := []
  tiles : Tab TileStore := []
  tileCtr : Nat := 0
  ct : Tab Word := []
  engines : Tab Engine := []
  dda : Dda := {}
  /-- WD_BUDGET and the hidden sub-count (R367). -/
  budget : BitVec 32 := 0
  countK : BitVec 32 := 0
  subCount : Nat := 0
deriving DecidableEq, Repr

/-- Where a result goes besides its unit's latch (R81); rotating names are resolved at issue (R50). -/
inductive Dest where
  | none | v (n : Nat) | g (n : Nat) | k (n : Nat) | q (n : Nat) (id : Nat) | lc (n : Nat) | link | c (n : Nat)
  /-- Vn to Vn + 3, resolved each on its own (R274). -/
  | line (a b c d : Nat)
deriving DecidableEq, Repr

/-- The kinds of access that stand in a stream's queues (R257), and the releases that wait for them. -/
inductive AccKind where
  | load | store | gather | scatter | capLoad | capStore
  | atomic (op : Nat) (arg cmp : Word)
  | atomicF (op : Nat) (arg : Word)
  | fence | mark | flush | inval
  | tileLoad | tileStore
  /-- PREF with its token (R257, R286). -/
  | prefetch (token : Nat)
  /-- PUSH of the entry `id`, POST of n to an event, CCSET of a bit, publication of a SPAWN's descriptor. -/
  | pushRel (q : Nat) | postRel (ev n : Nat) | ccRel (bit : Nat) (live : Bool) | spawnPub (desc : BitVec 256)
  /-- A departure from a BAR or JOIN: later accesses follow those of the streams of the mask numbered below `before` (R267). -/
  | rendezvous (mask before : Nat)
deriving DecidableEq, Repr

/-- One piece of an access: byte position in the object (or in the tile), size, and its lane. -/
structure Piece where
  pos : Nat
  size : Nat
  lane : Nat := 0
  /-- Physical address of each byte once translated: host memory or device memory, and the address. -/
  at_ : List (Bool × Nat) := []
deriving DecidableEq, Repr

/-- An access that has issued and has not been performed (R275, R276, R482). -/
structure Access where
  id : Nat
  stream : Nat
  kind : AccKind
  cap : Cap := {}
  /-- The capability register that the word named (R452). -/
  reg : Nat := 0
  pieces : List Piece := []
  /-- W, ORD, AGENT and STOR of the word (R72). -/
  w : Nat := 0
  ord : Nat := 0
  agent : Nat := 0
  stor : Nat := 0
  data : BitVec 1024 := 0
  dest : Dest := .none
  /-- DATA as a port with rotating names resolved, for a held-access record (R482). -/
  port : Port := 0
  /-- The handle's storage for a tile access: tile storage number, or the sensor tile of a BOUND handle. -/
  handle : Handle := {}
  /-- Cycles since issue, and commit stages left (R462). -/
  age : Nat := 0
  lag : Nat := 0
  /-- Repeats of its present commit stage, and whether this cycle is one (R463). -/
  repeats : Nat := 0
  again : Bool := false
  translated : Bool := false
  /-- Held at the memory port by a fault of translation (R450). -/
  held : Bool := false
  /-- Issued again from a held-access record, so that R273's checks are still to be made again (R472). -/
  recheck : Bool := false
  /-- It is to be performed now, since a tile load or the retirement of the task follows it (R37, R257, R292). -/
  urged : Bool := false
  /-- An access that only orders others, in SAVE: no store, atomic or release stands before it, so that none waits for it (R470). -/
  passed : Bool := false
deriving DecidableEq, Repr

/-- What stalls at a memory port because its page migrates (R430): an access of a core by number, an engine's attempt, a fill of an
instruction buffer, the image of a core's save or restore, or bytes that a unit of the device writes into an object. -/
inductive StallAt where
  | access (core id : Nat)
  | engine (core eng : Nat)
  | fill (core stream block : Nat)
  | image (core : Nat)
  | write (ctx obj off : Nat) (bytes : List Byte)
deriving DecidableEq, Repr

/-- A result in flight (R81, R479): it lands at the end of the cycle in which `left` reaches 0. -/
structure Flight where
  stream : Nat
  /-- Latch index, 15 for none. -/
  unit : Nat := 15
  dest : Dest := .none
  val : BitVec 1024 := 0
  tag : Bool := false
  flags : BitVec 6 := 0
  left : Nat := 1
  /-- Issue order (R82, R275). -/
  id : Nat := 0
  /-- A load, whose DATA an already landed later word keeps (R275). -/
  load : Bool := false
  /-- The access whose data it is: a save gives up a load's data and holds its access again (R472). -/
  acc : Option Access := none
  /-- A SNAPR or SNAPW: the kind 1 to 5, selector and data (R499). -/
  snap : Nat := 0
  snapSel : Word := 0
  snapData : Vec := 0
deriving DecidableEq, Repr

/-- A sector of the CACHE role (R249): key 2 × (physical address / 32) + 1 for host memory. -/
structure CacheSector where
  data : BitVec 256 := 0
  dirty : BitVec 32 := 0
  tags : BitVec 2 := 0
  ctx : Nat := 0
  /-- Its bytes came from a poisoned sector: store code and sector number (R466). -/
  bad : Option (Nat × Nat) := none
deriving DecidableEq, Repr

/-- A translation-cache entry (R424). -/
structure TlbEntry where
  ctx : Nat
  obj : Nat
  page : Nat
  pg : Bool := false
  host : Bool := false
  isLocal : Bool := false
  code : Bool := false
  frame : Nat := 0
deriving DecidableEq, Repr

/-- The fault frame (R451). -/
structure FaultFrame where
  cause : Word := 0
  stream : Word := 0
  info : Word := 0
  pcs : Tab Nat := []
  /-- This cycle's fault, for the choice of R453: 0 none, 1 soft error, 2 stream, 3 watchdog. -/
  rank : Nat := 0
deriving DecidableEq, Repr

/-- The identity under which stores are held provisional (R55, R458). -/
inductive Ident where
  | spec (ctx slot succ : Nat)
  | idem (ctx lid gen task : Nat)
deriving DecidableEq, Repr

/-- The state of a core as dispatch sees it (R355). -/
inductive TtState where
  | idle | restore | run | save | popwait | filler | faulted
deriving DecidableEq, Repr

/-- A task bound to a core (R34, R35, R349). -/
structure Task where
  index : Nat := 0
  lid : Nat := 0
  gen : Nat := 0
  ctx : Nat := 0
  prio : Nat := 0
  ccls : Nat := 0
  poolFix : Bool := false
  spec : Bool := false
  slot : Nat := 0
  succ : Nat := 0
  idem : Bool := false
  vregs : Nat := 0
  lv : List Nat := []
  kobj : Nat := 0
  koff : Nat := 0
  /-- A child of SPAWN, with its three arguments (R358). -/
  args : List Word := []
  /-- The slot of the save area that held it when dispatch bound it (R484). -/
  saved : Option Nat := none
deriving DecidableEq, Repr

/-- A prefetch token (R286). -/
structure PrefToken where
  token : Nat
  ctx : Nat
  obj : Nat
  first : Nat
  len : Nat
deriving DecidableEq, Repr

/-- One core (R15, R16). -/
structure Core where
  sh : Shared := {}
  /-- The shared state as it stood at the start of the cycle (R68, R82). -/
  soc : Shared := {}
  streams : Tab Stream := []
  flight : List Flight := []
  acc : List Access := []
  cache : Tab CacheSector := []
  /-- Banks of CACHE with a dirty sector at the start of the cycle (R239). -/
  dirtyAt : Nat := 0
  otc : List TlbEntry := []
  prefs : List PrefToken := []
  prefCtr : BitVec 16 := 0
  frame : FaultFrame := {}
  ffl : FaultFrame := {}
  fflPc : Nat := 0
  dbg : Word := 0
  /-- Halt requests of the debug port that a save or a restore holds back (R488). -/
  haltAsked : BitVec 10 := 0
  /-- A fault of this cycle stops the core at its end (R449). -/
  stopping : Bool := false
  /-- A synchronous trap of this cycle: an at-issue fault, TRAP or BRK (R469). -/
  trapped : Bool := false
  /-- Members of a bundle that has been found to issue in this cycle, each in its own slot (R44, R66). -/
  pass : BitVec 4 := 0
  /-- A pre-emption request (R468) and whether a YIELD asks for one (R408). -/
  preempt : Bool := false
  yielding : Bool := false
  /-- START rendezvous completed in this cycle, and JOINs completed, by condition-code bit (R404, R406). -/
  startGo : Bool := false
  /-- Streams of a complete START that a stall kept from issuing in its cycle. -/
  startLeft : BitVec 10 := 0
  joinGo : BitVec 8 := 0
  /-- A FORK issued in this cycle by a member (R403), a TDONE (R416), a group split by its transfers (R47). -/
  forking : BitVec 4 := 0
  /-- Streams that issued TDONE in this cycle, and whether a YIELD issued in it (R368, R416). -/
  tdone : BitVec 10 := 0
  /-- Streams that a BRK of this cycle halts at its end (R491). -/
  halting : BitVec 10 := 0
  yielded : Bool := false
  tt : TtState := .idle
  task : Option Task := none
  /-- The context of the task last bound, and the function that owned it then (R440, R441). -/
  lastCtx : Option Nat := none
  lastFn : Nat := 0
  /-- Filler in mA that R379 asks for in this tick. -/
  fillerMa : Nat := 0
  perf : Tab Word := []
  /-- CLK_SET target codes (R382): the reset value is not given, all five hold 40, the nominal 1.4 GHz (R14); log 1. -/
  clkSet : BitVec 30 := 0x28A28A28
  /-- The target codes in force since the last tick boundary. -/
  clkNow : BitVec 30 := 0x28A28A28
  /-- The seasons of the ten units at the start of the cycle (R386). -/
  seasonAt : BitVec 30 := 0
  seasonRes : BitVec 4 := 0
  seasonReq : Word := 0
  /-- Units that the pending request names and that have not reached its target: bits 0 to 5 the engines, bit 6 the form (R387). -/
  seasonLeft : BitVec 7 := 0
  /-- An engine has entered WINTER since the form was last swapped (R380). -/
  balanced : Bool := false
  /-- What filler could not use in this tick (R376): cycles of clusters whose VM slot was not idle or whose clock did not run, and cycles
  of MX with a started command or out of SUMMER. -/
  vmUsed : Nat := 0
  mxUsed : Nat := 0
  /-- The number of the first access, result or release of this cycle. -/
  seqAt : Nat := 0
  /-- Snapshot bytes, by offset, that SNAPW has written and that the core's records cannot hold: they read back, and RESUME is refused
  until they are corrected (R487). -/
  snapBad : Tab Byte := []
  /-- Writes to FF_CTL taken in this cycle, with their writers (none the registrar): one takes effect at its end (R454). -/
  ctl : List (Option Nat × Nat) := []
  /-- Handles that STBIND has bound in this cycle, each with the number of its result (R313). -/
  binds : List (Nat × Nat) := []
  /-- Core counters of the cycle in progress, which `perf` takes at the start of the next (R497). -/
  perfNow : Tab Word := []
  /-- Core counters that PERFR has cleared in the cycle in progress, to the same end (R497). -/
  perfClr : List Nat := []
  /-- TIME at the end of the cycle in which a pre-emption request was taken (R477). -/
  timeSaved : Word := 0
  /-- The slot that the save in progress took (R474). -/
  saveSlot : Nat := 0
deriving DecidableEq, Repr

/-- A child descriptor in a die queue (R358). -/
structure Child where
  desc : BitVec 256
  ctx : Nat := 0
  spec : Bool := false
  slot : Nat := 0
  succ : Nat := 0
  /-- Reserved at issue and not yet published (R462). -/
  published : Bool := true
  id : Nat := 0
deriving DecidableEq, Repr

/-- A ramp that waits or runs (R388). -/
structure Ramp where
  /-- Core of the request; the whole form where `form` holds; else an engine. -/
  core : Nat
  form : Bool := false
  eng : Nat := 0
  units : Nat := 0
  reserve : Bool := false
  running : Bool := false
  /-- Ticks of its SPRING still to pass (R384). -/
  ticks : Nat := 0
deriving DecidableEq, Repr

/-- One array die. -/
structure Die where
  queue : List Child := []
  /-- Entries of the queue that a DECIDE of this cycle has freed: they count as free from the next cycle (R361). -/
  freed : Nat := 0
  tlb : List TlbEntry := []
  slewResv : Nat := 8
  ramps : List Ramp := []
  /-- THERM_ALLOW in permille (R390); no reset value is given: log 1. -/
  thermAllow : Nat := 1000
  /-- The die's power in its last 1,024 ticks, mW, newest first; whether its average exceeds the allowance; ticks that it has stayed
  below 95 % of it; whether CEIL has moved in this tick (R390, log 117). -/
  power : List Nat := []
  excess : Bool := false
  cool : Nat := 0
  moved : Bool := false
  trip : Bool := false
  /-- Ticks since the die's last slow-down notice (R391). -/
  tripTicks : Nat := 0
  /-- Cores awaiting the context engine, with a save (true) or a restore (R354). -/
  order : List (Nat × Bool) := []
deriving DecidableEq, Repr

/-- One form (R12). -/
structure Form where
  imb : Word := 0
  lim : Nat := 40
  action : Nat := 2
  floor : Nat := 0
  thr : Nat := 0
  /-- The thermal ceiling; CEIL is its least with the peer ceiling (R383). -/
  ceil : Nat := 48
  /-- Consecutive ticks with PEAK below half the limit; whether THR has fallen in this one; whether PEAK reached the limit in the
  last (R379, R383). -/
  calm : Nat := 0
  relaxed : Bool := false
  hot : Bool := false
  /-- Whether some core's filler ran at its full capacity in the last tick (R379). -/
  full : Bool := false
  /-- Work currents of the four cores in the last tick, mA; a reading of the tick in progress: work, filler, and the cores whose filler
  ran at full capacity; whether the tick that has just ended still has to be computed (R377, log 50). -/
  work : List Nat := []
  reading : Option (List Nat × List Nat × BitVec 4) := none
  ticked : Bool := false
  temp : BitVec 16 := 0
  season : Season := .summer
  active : Tab (BitVec 128) := []
  next : Tab (BitVec 128) := []
  /-- Cycles since reset in which its cores had no clock, for CYCLE (R496). -/
  stopped : Word := 0
deriving DecidableEq, Repr

/-- A launch-table entry (R346). -/
structure Launch where
  active : Bool := false
  /-- Freed in this cycle: the entry and its reserve are taken until the cycle's end (R347). -/
  freeing : Bool := false
  gen : Nat := 0
  ctx : Nat := 0
  packet : List Byte := []
  tasks : Nat := 0
  remain : Nat := 0
  retired : Nat := 0
  /-- Tasks retired before this cycle: a loser's retirement in the cycle of DECIDE counts toward nothing (R361). -/
  before : Nat := 0
  faulted : Bool := false
  dln : Nat := 0
  elapsed : Nat := 0
  miss : Bool := false
  wdb : BitVec 32 := 0
  prio : Nat := 0
  ccls : Nat := 0
  poolFix : Bool := false
  spec : Bool := false
  slot : Nat := 0
  succ : Nat := 0
  spilled : Bool := false
  /-- The state of the last launch that held the entry, for TWAIT (R415). -/
  lastState : Nat := 0
  fn : Nat := 0
  reserve : Nat := 0
  dies : BitVec 2 := 0
  /-- The order of entry, and the declared footprints: object, access code, offset and length (R26, R271). -/
  stamp : Nat := 0
  foot : List (Nat × Nat × Nat × Nat) := []
deriving DecidableEq, Repr

/-- A context (R432). -/
structure Context where
  cfg : Word := 0
  save : Word := 0
  sread : Word := 0
  otRoot : Word := 0
  otLen : BitVec 32 := 0
  /-- Pending speculations: bit s for slot s (R55). -/
  specs : BitVec 2 := 0
  /-- Bytes of the tile store quota in use (R246). -/
  tsUsed : Nat := 0
  /-- The die of each descriptor in the overflow queue object, oldest first, and descriptors whose publication there is still to
  come, with their dies (R360, R462). -/
  ovfDies : List Nat := []
  ovfComing : List (Nat × BitVec 256) := []
  /-- Its entries that a DECIDE of this cycle has freed (R361). -/
  ovfFreed : Nat := 0
deriving DecidableEq, Repr

/-- A host function (R342, R435, R436). -/
structure HostFn where
  inboxBase : Word := 0
  slots : Nat := 0
  tail : BitVec 16 := 0
  head : BitVec 16 := 0
  noRec : Bool := false
  lnchErr : Bool := false
  flrBusy : Bool := false
  otArg : Word := 0
  otCode : BitVec 2 := 0
  otBusy : Bool := false
  otData : BitVec 512 := 0
  /-- MSI-X vectors raised: completions, faults, deadlines, keeper. -/
  msix : BitVec 4 := 0
deriving DecidableEq, Repr

/-- A table command, queued or running (R427, R429, R430). -/
structure OtCmd where
  fn : Nat
  op : Nat
  ctx : Nat
  obj : Nat
  page : Nat
  /-- Receivers that have not acknowledged; none before the shoot-down is sent. -/
  waits : Option (List Nat) := none
  arg : Word := 0
deriving DecidableEq, Repr

/-- A task that ABORT has returned to the registrar, with the object and page of FF_INFO (R460). -/
structure Returned where
  ctx : Nat
  lid : Nat
  gen : Nat
  task : Nat
  info : Word
deriving DecidableEq, Repr

/-- A notice (R357). -/
structure Notice where
  kind : Nat
  core : Nat := 0
  form : Nat := 0
  lid : Nat := 0
  task : Nat := 0
  ctx : Nat := 0
  detail : Nat := 0
deriving DecidableEq, Repr

/-- A provisional byte of a speculation or an idempotent task (R55, R458), or a provisional tag (size 0). -/
structure ProvByte where
  ident : Ident
  addr : Nat
  val : Byte := 0
deriving DecidableEq, Repr

/-- The place of a poisoned word outside device memory (R464, R466): a vector register of a stream, a word of 8 bytes of MAT, of the
deck, of a tile, of a sensor stream's ring slot, or a cell. -/
inductive Mark where
  | vreg (core stream n : Nat)
  | mat (core w : Nat)
  | deck (core w : Nat)
  | tile (core t w : Nat)
  | ringTile (stream slot w : Nat)
  | cell (core n : Nat)
deriving DecidableEq, Repr

/-- The state of an L2 sector (R251). -/
inductive SectorState where
  | invalid | clean | dirty | provisional
deriving DecidableEq, Repr

/-- A line of L2 (R250, R251): the states of its four sectors, lowest first, and when it was last used. -/
structure L2Line where
  secs : List SectorState := [.invalid, .invalid, .invalid, .invalid]
  used : Nat := 0
deriving DecidableEq, Repr

/-- A row in an input buffer or on its way through a chain: its number, class, stamp and samples, and the processor that it stands
before (R307, R308). -/
structure ChainRow where
  frame : Nat
  row : Nat
  /-- 0 GOOD, 1 MISSING, 2 CORRUPT, 3 FLUSH. -/
  cls : Nat := 0
  stamp : Word := 0
  samples : List (BitVec 16) := []
  stage : Nat := 0
deriving DecidableEq, Repr

/-- What is known of a row that has entered the chain until it is published (R309, R310). -/
structure RowInfo where
  cls : Nat := 0
  stamp : Word := 0
  ok : Bool := false
deriving DecidableEq, Repr

/-- An output row that the last processor has emitted and that waits to be published (R314). -/
structure OutRow where
  frame : Nat
  row : Nat
  bytes : List Byte := []
deriving DecidableEq, Repr

/-- A tile slot of a stream's ring (R311 to R313). -/
structure RingTile where
  frame : Nat := 0
  tile : Nat := 0
  live : Bool := false
  avail : Bool := false
  bytes : Memory := []
  first : Word := 0
  last : Word := 0
  validity : Word := 0
deriving DecidableEq, Repr

/-- A frame that a sensor stream receives (R311). -/
structure OpenFrame where
  frame : Nat
  /-- Rows that have arrived or are MISSING; the last line number accepted; the row announced by a line start; whether the next
  long packet belongs to a discarded line start (R303). -/
  nextRow : Nat := 0
  lastLine : Nat := 0
  announced : Option Nat := none
  skipNext : Bool := false
  /-- Ticks since its first accepted packet, and the stamp that a MISSING row takes (R309). -/
  ticks : Nat := 0
  lastStamp : Word := 0
deriving DecidableEq, Repr

/-- A sensor stream (R305, R314). -/
structure Sensor where
  scfg : BitVec 128 := 0
  /-- SCFG as it was when EN was last set: what the position and the tiles of a stopped stream go by (R305). -/
  ran : BitVec 128 := 0
  skip : Nat := 0
  drop : Nat := 0
  corrupt : Nat := 0
  missing : Nat := 0
  frame : BitVec 32 := 0
  row : BitVec 16 := 0
  /-- Frames opened, and frames closed, since EN was set (R314, R333). -/
  frames : Nat := 0
  closed : BitVec 32 := 0
  lastStamp : Word := 0
  opened : Option OpenFrame := none
  /-- LFRAME of the latest frame of a lidar stream (R304). -/
  lframe : Option Nat := none
  /-- LFRAME and stamp of a row that found the buffer full before a row of its frame had been accepted (R309, R311). -/
  early : Option (Nat × Word) := none
  /-- Rows of the stream in the chain's input buffer, bad rows without samples (R310). -/
  input : List ChainRow := []
  /-- Frame, number and samples of the last good row that entered the chain. -/
  good : Option (Nat × Nat × List (BitVec 16)) := none
  /-- Rows before a processor of the chain, oldest first; rows that the last one has emitted. -/
  chain : List ChainRow := []
  out : List OutRow := []
  /-- Rows that have entered the chain and are not published, by 8192 × frame + row. -/
  rows : Tab RowInfo := []
  tiles : Tab RingTile := []
deriving DecidableEq, Repr

/-- The memory of a line-buffer processor: program, line buffer, output row (R307, R308). -/
structure Lbp where
  code : Tab Word := []
  len : Nat := 0
  /-- The 64 newest rows of each stream of its port, newest first. -/
  h0 : Tab (List (List (BitVec 16))) := []
  h1 : Memory := []
  /-- Frame, number and bytes of the last good row emitted, by stream: what a faulted run's row is filled from (R308, R310). -/
  last : Tab (Nat × Nat × List Byte) := []
  /-- Rows of a stream that INTERP keeps until the next good row: number, and bytes where the run did not fault (R310). -/
  wait : Tab (List (Nat × Option (List Byte))) := []
  running : Bool := false
  stream : Nat := 0
  row : Nat := 0
  frame : Nat := 0
  cls : Nat := 0
  failed : Bool := false
deriving DecidableEq, Repr

/-- A tile offered to a roll-call group (R317). -/
structure Offer where
  tile : SensorTile
  time : Int
  first : Word := 0
  last : Word := 0
deriving DecidableEq, Repr

/-- A member of a roll-call group (R316): its record, its offered tiles, and held offers of PENDING tiles. -/
structure Member where
  record : BitVec 128 := 0
  offers : List Offer := []
  held : List SensorTile := []
deriving DecidableEq, Repr

/-- A released set (R319): T_ref and, for each member, its offer and flag. -/
structure RollSet where
  tref : Int
  entries : List (Option Offer × Nat)
deriving DecidableEq, Repr

/-- A roll-call group (R316 to R319). -/
structure RollGroup where
  members : Tab Member := []
  /-- The open set's T_ref and the reference offer that opened it. -/
  opened : Option Offer := none
  heldRef : Option Offer := none
  queue : List RollSet := []
  lost : Nat := 0
  /-- RG_ASSIGN (R337): context, and whether assigned. -/
  ctx : Nat := 0
  assigned : Bool := false
  /-- Tiles of the sets that RCGET has taken in this cycle, which pins them to its end (R313). -/
  given : List SensorTile := []
  /-- Records of the RCCFGs of this cycle, in order: they land at its end (R337). -/
  coming : List (Nat × BitVec 128) := []
deriving DecidableEq, Repr

/-- A saved task's core as its save left it: a restore takes from here what the image has no room for (log 21). -/
structure SaveSide where
  ctx : Nat
  lid : Nat
  gen : Nat
  task : Nat
  core : Core := {}
  /-- Poison in its registers, tiles and field, with the core that it ran on. -/
  marks : List Mark := []
deriving DecidableEq, Repr

/-- Which part of a core's cycle the cursor stands at: its preparation, a stream in the order of R66 (first or second pass over
a rendezvous that a later stream completes), or its end. -/
inductive Phase where
  | prepare | stream (n : Nat) | again (n : Nat) | finish
deriving DecidableEq, Repr

/-- The machine. -/
structure State where
  /-- Cores 0 to 127, and line-buffer processor l as unit 128 + l. -/
  cores : Tab Core := []
  /-- A core that is not listed: as after reset, but for the cycles that have passed over its engines (R385). -/
  rest : Core := {}
  dies : Tab Die := []
  forms : Tab Form := []
  launches : Tab Launch := []
  ctxs : Tab Context := []
  fns : Tab HostFn := []
  /-- The timetable's staging registers (R348). -/
  ttSel : BitVec 5 := 0
  ttRec : Tab (BitVec 128) := []
  ttResult : BitVec 3 := 0
  urgForms : BitVec 32 := 0
  /-- URG_FORMS bits asked for whose forms still ramp (R389). -/
  urgWanted : BitVec 32 := 0
  /-- The notice ring: NR_BASE as written, the base in effect, and the registrar's local memory that holds the notices (R357). -/
  nrBase : Word := 0
  nrAt : Word := 0
  nrSize : Nat := 0
  nrHead : Nat := 0
  nrTail : Nat := 0
  nrLost : Bool := false
  regMem : Memory := []
  /-- Tasks that the registrar has got back by ABORT, the latest last (R460). -/
  returned : List Returned := []
  otQueue : List OtCmd := []
  /-- Device memory and host memory (R20, R263). -/
  dev : Memory := []
  host : Memory := []
  /-- Tags of 16 B granules of device memory, by granule (R426). -/
  devTags : Tab Bool := []
  /-- Summary bits of the tag store, by 4 KiB unit (R426). -/
  tagSums : Tab Bool := []
  /-- The lines of L2 that hold a sector, by physical address / 128, and the count that orders their uses (R250, R251). -/
  l2 : Tab L2Line := []
  l2Clock : Nat := 0
  /-- Dirty bitmap bits, by 4 KiB unit (R428). -/
  dirtyUnits : Tab Bool := []
  /-- Poisoned sectors of L2 and device memory: store code and sector number; poisoned words elsewhere (R466). -/
  poison : List (Nat × Nat) := []
  marks : List Mark := []
  prov : List ProvByte := []
  provTags : List (Ident × Nat × Bool) := []
  tagBase : Word := 0
  tagBaseSet : Bool := false
  attNonce : BitVec 256 := 0
  attBusy : Bool := false
  attDone : Bool := false
  attReport : BitVec 1280 := 0
  memTherm : BitVec 128 := 0
  coolReads : Tab Nat := []
  /-- The time base (R309, R341) and ticks since reset (R496). -/
  time : Word := 0
  tick : Word := 0
  /-- Cycles since reset of a clock that never stops (R496). -/
  clock : Word := 0
  tbStep : Bool := false
  sync : Bool := false
  hostTime : Bool := false
  /-- Nanoseconds that the next tick adds to TIME, and that are still to be slewed off it (R309). -/
  timeAhead : Nat := 0
  slewOwed : Nat := 0
  /-- Configuration (R443, R444). -/
  boot : BootRecord := { deviceNumber := 0, forms := 0xFFFFFFFF, stepping := 0, hostTime := false }
  bootErr : Bool := false
  powered : Bool := true
  /-- Taloth: the peer of each trained port, and peer ceilings with their age in ticks (R391, R392). -/
  peers : Tab Nat := []
  peerCeil : Tab (Nat × Nat) := []
  /-- Messages sent on the Taloth ports: port and bytes. -/
  sent : List (Nat × List Byte) := []
  corrected : Nat := 0
  sensors : Tab Sensor := []
  lbps : Tab Lbp := []
  /-- Faults of line-buffer processors of which the keeper has been notified (R308). -/
  lbpFaults : Nat := 0
  groups : Tab RollGroup := []
  side : List SaveSide := []
  /-- What the SNAPWs that land in this cycle write at its end: core, offset and bytes (R500). -/
  snapDue : List (Nat × Nat × List Byte) := []
  /-- A number for the next access, result or release, in issue order. -/
  seq : Nat := 0
  /-- Names the next free value (log 5). -/
  free : Nat := 0
  /-- Happenings that the rules fix to this moment, and happenings from outside with the steps to let pass before each (log 3, 4). -/
  due : List Instr := []
  outside : List (Nat × Instr) := []
  /-- Where the cycle stands: core, phase, and rounds of cycles to the next reference tick. -/
  curCore : Nat := 0
  phase : Phase := .prepare
  rounds : Nat := 56
  /-- Cycles after which a happening of the memory system or of dispatch whose moment the spec leaves open takes place by itself;
  0 leaves every such moment to `outside` (log 4). -/
  patience : Nat := 8
  /-- What stalls at the memory ports, in the order in which it stalled (R430). -/
  stalls : List StallAt := []
  /-- Set within a step that meets an address that does not exist (R20); the step then answers a fault. -/
  broken : Option Nat := none
deriving DecidableEq, Repr

/-- The machine right after device reset: nothing bound, memory unlisted, every register at the value of INVENTORY.md. -/
def State.reset : State := {}

end Sys2Proof.Machine
end

