-- ==== Sys2Proof/Machine/Ops.lean ====
section
/-! DEFINITION. The named operations over the state: reading and writing cores, streams, queues and shared records, delivering
results, taking an exception and returning from one, and the life of a word from its encoding faults to its retirement. -/

namespace Sys2Proof.Machine

/-! ## Bit helpers -/

/-- The two's-complement value of a bit vector. -/
def sint {w : Nat} (x : BitVec w) : Int := x.toInt
/-- Bits lo to lo + w - 1 of a number. -/
def slice (x lo w : Nat) : Nat := x / 2 ^ lo % 2 ^ w
/-- A bit vector from an exact integer, modulo 2^w. -/
def ofZ (w : Nat) (z : Int) : BitVec w := BitVec.ofInt w z
/-- One bit as a number. -/
def b2n (b : Bool) : Nat := if b then 1 else 0
/-- Replaces bits lo to lo + w - 1 of x by v. -/
def putBits {n : Nat} (x : BitVec n) (lo w v : Nat) : BitVec n :=
  let mask : BitVec n := BitVec.ofNat n ((2 ^ w - 1) * 2 ^ lo)
  (x &&& ~~~mask) ||| (BitVec.ofNat n (v % 2 ^ w * 2 ^ lo))
/-- Bits as a number, from flags listed lowest first. -/
def flagBits : List Bool → Nat
  | [] => 0
  | b :: t => b2n b + 2 * flagBits t
/-- A little-endian number from bytes (R5). -/
def leNat : List Byte → Nat
  | [] => 0
  | b :: t => b.toNat + 256 * leNat t
/-- The n low bytes of a number, little-endian. -/
def leBytes : Nat → Nat → List Byte
  | 0, _ => []
  | n + 1, x => BitVec.ofNat 8 x :: leBytes n (x / 256)
/-- Replaces element n of a list. -/
def listSet {α : Type} (l : List α) (n : Nat) (v : α) : List α := l.set n v

/-! ## Bytes of a memory -/

/-- The byte at an address; an unlisted address reads 0. -/
def rdByte (m : Memory) (a : Nat) : Byte := tabGet 0 m a
/-- The memory with one byte written, in canonical form. -/
def wrByte (m : Memory) (a : Nat) (b : Byte) : Memory := tabSet 0 m a b
/-- n bytes from an address. -/
def rdBytes (m : Memory) (a n : Nat) : List Byte := (List.range n).map fun i => rdByte m (a + i)
/-- Writes a list of bytes from an address upwards. -/
def wrBytes : Memory → Nat → List Byte → Memory
  | m, _, [] => m
  | m, a, b :: t => wrBytes (wrByte m a b) (a + 1) t
/-- Zeroes n bytes from an address upwards. -/
def zeroBytes (m : Memory) (a n : Nat) : Memory := m.filter fun x => !(a ≤ x.1 && x.1 < a + n)

/-! ## Cores, streams and shared state -/

def State.core (s : State) (c : Nat) : Core := tabGet s.rest s.cores c
def State.setCore (s : State) (c : Nat) (x : Core) : State := { s with cores := tabPut s.cores c x }
def State.modCore (s : State) (c : Nat) (f : Core → Core) : State := s.setCore c (f (s.core c))
def Core.stream (x : Core) (n : Nat) : Stream := tabGet {} x.streams n
def Core.setStream (x : Core) (n : Nat) (t : Stream) : Core := { x with streams := tabPut x.streams n t }
def Core.modStream (x : Core) (n : Nat) (f : Stream → Stream) : Core := x.setStream n (f (x.stream n))
def State.stream (s : State) (c n : Nat) : Stream := (s.core c).stream n
def State.modStream (s : State) (c n : Nat) (f : Stream → Stream) : State := s.modCore c fun x => x.modStream n f
def State.sh (s : State) (c : Nat) : Shared := (s.core c).sh
def State.soc (s : State) (c : Nat) : Shared := (s.core c).soc
def State.modSh (s : State) (c : Nat) (f : Shared → Shared) : State := s.modCore c fun x => { x with sh := f x.sh }
def State.die (s : State) (d : Nat) : Die := tabGet {} s.dies d
def State.modDie (s : State) (d : Nat) (f : Die → Die) : State := { s with dies := tabPut s.dies d (f (s.die d)) }
def State.form (s : State) (f : Nat) : Form := tabGet {} s.forms f
def State.modForm (s : State) (n : Nat) (f : Form → Form) : State := { s with forms := tabPut s.forms n (f (s.form n)) }
def State.launch (s : State) (l : Nat) : Launch := tabGet {} s.launches l
def State.modLaunch (s : State) (l : Nat) (f : Launch → Launch) : State :=
  { s with launches := tabPut s.launches l (f (s.launch l)) }
def State.ctx (s : State) (c : Nat) : Context := tabGet {} s.ctxs c
def State.modCtx (s : State) (c : Nat) (f : Context → Context) : State := { s with ctxs := tabPut s.ctxs c (f (s.ctx c)) }
def State.fn (s : State) (n : Nat) : HostFn := tabGet {} s.fns n
def State.modFn (s : State) (n : Nat) (f : HostFn → HostFn) : State := { s with fns := tabPut s.fns n (f (s.fn n)) }
def State.sensor (s : State) (n : Nat) : Sensor := tabGet {} s.sensors n
def State.modSensor (s : State) (n : Nat) (f : Sensor → Sensor) : State :=
  { s with sensors := tabPut s.sensors n (f (s.sensor n)) }
def State.lbp (s : State) (n : Nat) : Lbp := tabGet {} s.lbps n
def State.modLbp (s : State) (n : Nat) (f : Lbp → Lbp) : State := { s with lbps := tabPut s.lbps n (f (s.lbp n)) }
def State.group (s : State) (n : Nat) : RollGroup := tabGet {} s.groups n
def State.modGroup (s : State) (n : Nat) (f : RollGroup → RollGroup) : State :=
  { s with groups := tabPut s.groups n (f (s.group n)) }
def Shared.queue (x : Shared) (n : Nat) : Queue := tabGet {} x.q n
def Shared.setQueue (x : Shared) (n : Nat) (q : Queue) : Shared := { x with q := tabSet {} x.q n q }
def Shared.event (x : Shared) (n : Nat) : Event := tabGet {} x.ev n
def Shared.setEvent (x : Shared) (n : Nat) (e : Event) : Shared := { x with ev := tabSet {} x.ev n e }
def Shared.compRec (x : Shared) (e : Nat) : Comp := tabGet {} x.comp e
def Shared.setComp (x : Shared) (e : Nat) (r : Comp) : Shared := { x with comp := tabSet {} x.comp e r }
def Shared.engine (x : Shared) (e : Nat) : Engine := tabGet {} x.engines e
def Shared.setEngine (x : Shared) (e : Nat) (r : Engine) : Shared := { x with engines := tabPut x.engines e r }
def Shared.modEngine (x : Shared) (e : Nat) (f : Engine → Engine) : Shared := x.setEngine e (f (x.engine e))
def Shared.handle (x : Shared) (h : Nat) : Handle := tabGet {} x.handles h
def Shared.setHandle (x : Shared) (h : Nat) (v : Handle) : Shared := { x with handles := tabSet {} x.handles h v }
def Shared.tile (x : Shared) (t : Nat) : TileStore := tabGet {} x.tiles t
def Shared.setTile (x : Shared) (t : Nat) (v : TileStore) : Shared := { x with tiles := tabPut x.tiles t v }
def Shared.nestRec (x : Shared) (t copy l : Nat) : BitVec 128 := tabGet 0 x.nest (12 * t + 6 * copy + l)
def Shared.setNestRec (x : Shared) (t copy l : Nat) (v : BitVec 128) : Shared :=
  { x with nest := tabSet 0 x.nest (12 * t + 6 * copy + l) v }
def Shared.nestRunOf (x : Shared) (t : Nat) : NestRun := tabGet {} x.nestRun t
def Shared.setNestRun (x : Shared) (t : Nat) (v : NestRun) : Shared := { x with nestRun := tabSet {} x.nestRun t v }

/-- The die of a core (R12). -/
def dieOf (c : Nat) : Nat := if c < 64 then 0 else 1
/-- The form of a core (R12). -/
def formOf (c : Nat) : Nat := c / 4

/-- A unit number from 128 is a line-buffer processor. -/
def isLbp (c : Nat) : Bool := 128 ≤ c

/-- The stream at which the cursor stands. -/
def State.curStream (s : State) : Nat :=
  match s.phase with
  | .stream n => n
  | .again n => n
  | _ => 0

/-- The task bound to the core of the cursor, with every field zero where none is bound. -/
def State.task (s : State) (c : Nat) : Task := ((s.core c).task).getD {}

/-- Takes the next number in issue order. -/
def State.tickSeq (s : State) : State := { s with seq := s.seq + 1 }

/-- Whether what stalls belongs to the task of core c. -/
def StallAt.isOf (c : Nat) : StallAt → Bool
  | .access d _ | .engine d _ | .fill d _ _ | .image d => d == c
  | .write .. => false
/-- Something comes to stall at a memory port (R430), behind what stalls there already. -/
def State.noteStall (s : State) (x : StallAt) : State := if s.stalls.contains x then s else { s with stalls := s.stalls ++ [x] }

/-- A free value and the state that has used it up (log 5). -/
def State.takeFree (s : State) : Word × State := (Config.freeValue s.free, { s with free := s.free + 1 })

/-- Adds to a performance counter of a stream (R497). -/
def Stream.count (t : Stream) (n : Nat) : Stream := { t with perf := tabSet 0 t.perf n (tabGet 0 t.perf n + 1) }
/-- Adds to a performance counter of a core (R497). -/
def Core.count (x : Core) (n : Nat) : Core := { x with perfNow := tabSet 0 x.perfNow n (tabGet 0 x.perfNow n + 1) }
/-- The core's counters after the clears and with the counts of the last cycle: what the new one reads (R497). -/
def Core.addCounts (x : Core) : Core :=
  let cleared := x.perfClr.foldl (fun t k => tabSet 0 t k 0) x.perf
  { x with perf := x.perfNow.foldl (fun t p => tabSet 0 t p.1 (tabGet 0 t p.1 + p.2)) cleared, perfNow := [], perfClr := [] }

/-- Poisoned words that are overwritten whole are poisoned no longer (R466). -/
def State.heal (s : State) (p : Mark → Bool) : State :=
  match s.marks with
  | [] => s
  | ms => { s with marks := ms.filter fun m => !p m }
/-- The core that holds a marked word, whether it lies in the deck, and the mark on another core. -/
def Mark.onCore : Mark → Option Nat
  | .vreg c _ _ | .mat c _ | .deck c _ | .tile c _ _ | .cell c _ => some c
  | .ringTile .. => none
def Mark.inDeck : Mark → Bool
  | .deck .. => true
  | _ => false
def Mark.moved (c : Nat) : Mark → Mark
  | .vreg _ a b => .vreg c a b
  | .mat _ w => .mat c w
  | .deck _ w => .deck c w
  | .tile _ t w => .tile c t w
  | .cell _ n => .cell c n
  | m => m
/-- Whether a word of 8 bytes lies within n bytes from off. -/
def wordIn (w off n : Nat) : Bool := off ≤ 8 * w && 8 * w + 8 ≤ off + n

/-! ## Notices (R357) and host vectors (R435) -/

/-- The 32 bytes of a notice written at a moment of TIME. -/
def Notice.bytes (n : Notice) (time : Word) : List Byte :=
  [n.kind, n.core, n.form, n.lid].map (BitVec.ofNat 8) ++ leBytes 4 (n.task % 2 ^ 24 + n.ctx % 16 * 2 ^ 24) ++
    leBytes 8 (n.detail % 256) ++ leBytes 8 time.toNat ++ leBytes 8 0
/-- Posts a notice into its entry of the ring; one that finds the ring full, as every one does before NR_SIZE is written, is lost
(log 22). -/
def State.notice (s : State) (n : Notice) : State :=
  if s.nrSize ≤ s.nrTail - s.nrHead then { s with nrLost := true }
  else { s with regMem := wrBytes s.regMem (s.nrAt.toNat + 32 * (s.nrTail % s.nrSize)) (n.bytes s.time), nrTail := s.nrTail + 1 }

/-- The function that owns a context (R432). -/
def State.fnOfCtx (s : State) (c : Nat) : Nat := slice (s.ctx c).cfg.toNat 23 3

/-- Raises an MSI-X vector of a function: 0 completions, 1 faults, 2 deadlines, 3 keeper (R435). -/
def State.msix (s : State) (fn v : Nat) : State :=
  s.modFn fn fun f => { f with msix := f.msix ||| BitVec.ofNat 4 (2 ^ v) }

/-- The keeper's vector, which the physical function gets: the keeper has found or done what its function is to learn of (R435, log 51). -/
def State.keeperVector (s : State) : State := s.msix 0 3

/-! ## Queue registers (R80, R82) -/

/-- The entries at the front that can be popped now. -/
def Queue.ripe (q : Queue) : Nat := (q.ents.takeWhile fun e => e.state = .ready ∧ !e.fresh).length
/-- Slots taken in this cycle. -/
def Queue.taken (q : Queue) : Nat := (q.ents.filter fun e => e.fresh).length
/-- Whether a push must wait: the entries at the start of the cycle and the slots taken since fill the queue (R65, R82). -/
def Queue.full (q : Queue) : Bool := 8 ≤ q.held + q.taken
/-- Appends an entry that takes a slot of this cycle. -/
def Queue.push (q : Queue) (e : QEnt) : Queue := { q with ents := q.ents ++ [{ e with fresh := true }] }
/-- Takes the oldest entry. -/
def Queue.pop (q : Queue) : Vec × Queue :=
  match q.ents with
  | [] => (0, q)
  | e :: t => (e.val, { q with ents := t })
/-- Discards marked entries at the front that have become poppable (R328). -/
def dropMarked : List QEnt → List QEnt
  | e :: t => if e.marked ∧ e.state = .ready then dropMarked t else e :: t
  | [] => []
/-- The end of a cycle: slots taken become entries held. -/
def Queue.settle (q : Queue) : Queue :=
  let es := dropMarked (q.ents.map fun e => { e with fresh := false })
  { ents := es, held := es.length }
/-- Fills the reserved entry of a number. -/
def Queue.fill (q : Queue) (id : Nat) (v : Vec) : Queue :=
  { q with ents := q.ents.map fun e => if e.state = .awaits id then { e with val := v, state := .ready, load := false } else e }
/-- The release of a PUSH has completed: its entry is poppable from the next cycle; one that QDRAIN has marked is discarded (R328). -/
def Queue.release (q : Queue) (id : Nat) : Queue :=
  let es := dropMarked (q.ents.map fun e => if e.state = .release id then { e with state := .ready } else e)
  { ents := es, held := (es.filter fun e => !e.fresh).length }

/-! ## Taking an exception (R449 to R453) -/

/-- FF_CAUSE with a class, AFTER and IDEM (R451); earlier LOST bits stay. -/
def causeWord (cls : Nat) (after idem : Bool) (lost : Nat) : Word :=
  BitVec.ofNat 64 (cls + 2 ^ 12 + b2n after * 2 ^ 13 + b2n idem * 2 ^ 14 + lost * 2 ^ 21)
/-- LOSTC and LOST of a frame: bits [31:21]. -/
def lostOf (f : FaultFrame) : Nat := slice f.cause.toNat 21 11
/-- The LOST bit of a stream, or LOSTC. -/
def lostBit : Option Nat → Nat
  | some st => 2 ^ (st + 1)
  | none => 1
/-- The rank of R453: soft errors, then streams in order, then the watchdog; less is reported first. -/
def faultRank (cls : Nat) (st : Option Nat) : Nat :=
  if cls = 9 then 1 else match st with | some n => 2 + n | none => 20
/-- The frame with a fault recorded: class, reporting stream, information (R451, R452). -/
def FaultFrame.record (f : FaultFrame) (cls : Nat) (st : Option Nat) (info : Word) (after idem : Bool) (lost : Nat) :
    FaultFrame :=
  { f with
    cause := causeWord cls after idem lost
    stream := (match st with | some n => BitVec.ofNat 64 n | none => 16)
    info := info
    rank := faultRank cls st }
/-- VALID of a frame. -/
def FaultFrame.valid (f : FaultFrame) : Bool := f.cause.getLsbD 12
/-- A fault of core c: the frame takes it if no fault of this cycle comes before it (R453), else an after-issue fault sets its
LOST bit; the core stops at the end of the cycle (R449). A stopped core records after-issue faults as lost. -/
def Core.takeFault (x : Core) (st : Option Nat) (cls : Nat) (info : Word) (after : Bool) : Core :=
  let idem := (x.task.getD {}).idem
  let lost := lostOf x.frame
  let x := { x with trapped := x.trapped || !after || cls == 10 || cls == 11 }
  let lose (f : FaultFrame) : FaultFrame :=
    if after then { f with cause := f.cause ||| BitVec.ofNat 64 (lostBit st * 2 ^ 21) } else f
  if !x.stopping && x.frame.valid then { x with frame := lose x.frame }
  else if !x.stopping then
    { x with frame := x.frame.record cls st info after idem 0, stopping := true }
  else if faultRank cls st < x.frame.rank then
    let old := x.frame
    let oldLost := if old.cause.getLsbD 13 then
        lostBit (if old.stream.getLsbD 4 then none else some (old.stream.toNat % 16)) else 0
    { x with frame := old.record cls st info after idem (lost ||| oldLost) }
  else { x with frame := lose x.frame }
/-- The shared entry of every exception of the array cores (R447 to R453). A fault in a line-buffer processor ends its run
(R308) and stops no core. -/
def State.takeFault (s : State) (c : Nat) (st : Option Nat) (cls : Nat) (info : Word) (after : Bool) : State :=
  if isLbp c then
    (s.modLbp (c - 128) fun l => { l with failed := true }).modStream c 0 fun t =>
      { t with ended := true, verdict := .faulted }
  else s.modCore c fun x =>
    let x := x.takeFault st cls info after
    match st with
    | some n => if after then x else x.modStream n fun t => { t with verdict := .faulted }
    | none => x

/-- FF_INFO of an illegal instruction: the opcode, and the engine where a command raised it (R452). -/
def illegalInfo (op : BitVec 8) (eng : Option Nat := none) : Word :=
  BitVec.ofNat 64 (op.toNat * 256 + (match eng with | some e => 8 + e | none => 0))

/-- Causes of the capability fault (R452). -/
inductive CapCause where
  | tag | rights | bounds | align | object
deriving DecidableEq, Repr

/-- The code of a cause. -/
def CapCause.code : CapCause → Nat
  | .tag => 0 | .rights => 1 | .bounds => 2 | .align => 3 | .object => 4

/-- FF_INFO of a capability fault (R452): cause, engine, register or CU.o, space and its number. -/
def capInfo (cause : CapCause) (reg : Nat := 0) (cuo : Bool := false) (eng : Option Nat := none)
    (space number : Nat := 0) : Word :=
  BitVec.ofNat 64 (cause.code + (match eng with | some e => 8 + 16 * e | none => 0) + b2n cuo * 128 +
    (if cuo then 0 else reg % 32) * 256 + space * 8192 + number % 64 * 65536)

/-! ## Returning from an exception (R455, R494) -/

/-- The pc recorded for a stream in the frame. -/
def FaultFrame.pcOf (f : FaultFrame) (st : Nat) : Nat := tabGet 0 f.pcs st

/-- RESUME: the FFL registers take the frame, the frame clears, and each stream that has not ended continues at its pc, its
IDLE counted from the resume cycle; held accesses go to the memory port again. -/
def Core.resume (x : Core) : Core :=
  let rep := if x.frame.stream.getLsbD 4 then 0 else x.frame.stream.toNat % 16
  let streams := (List.range 10).foldl (fun (y : Core) n =>
    y.modStream n fun t => if t.ended then t else { t with pc := x.frame.pcOf n, idleLoaded := false, verdict := .none }) x
  { streams with
    ffl := { x.frame with pcs := [] }
    fflPc := x.frame.pcOf rep
    frame := {}
    tt := .run
    sh := { streams.sh with engines := streams.sh.engines.map fun g =>
      (g.1, { g.2 with run := match g.2.run with | some r => some { r with failed := false } | none => none }) }
    acc := x.acc.map fun a => { a with held := false, translated := a.translated && !a.held } }

/-! ## Results (R81, R82) -/

/-- The physical vector register that a name reaches (R49). -/
def physV (rrb n : Nat) : Nat := if 256 ≤ n then 256 + (n - 256 + rrb) % 128 else n
/-- The physical predicate that a name reaches (R49). -/
def physK (rrb n : Nat) : Nat := if 32 ≤ n ∧ n ≤ 62 then 32 + (n - 32 + rrb) % 31 else n

/-- Where a destination port leads; K63 and ZERO discard, a queue register takes the number of its reservation. -/
def destOf (t : Stream) (p : Port) (id : Nat) : Dest :=
  match Encoding.view p with
  | .v n => .v (physV t.rrbV n)
  | .g n => .g n
  | .k n => if n = 63 then .none else .k (physK t.rrbK n)
  | .q n => .q n id
  | .link _ => .link
  | .c n => .c n
  | .special n => if 0x2C4 ≤ n ∧ n ≤ 0x2C7 then .lc (n - 0x2C4) else .none
  | _ => .none

/-- Writes a landed result into its destination. -/
def Stream.write (t : Stream) (d : Dest) (val : BitVec 1024) (tag : Bool) : Stream :=
  match d with
  | .v n => { t with v := tabSet 0 t.v n (val.setWidth 256) }
  | .g n => { t with g := tabSet 0 t.g n (val.setWidth 64) }
  | .k n => { t with k := tabSet 0 t.k n (val.setWidth 32) }
  | .lc n => { t with lc := tabSet 0 t.lc n (val.setWidth 32) }
  | .link => { t with link := val.setWidth 256 }
  | .c n => { t with c := tabSet {} t.c n ⟨val.setWidth 128, tag⟩ }
  | .line a b c d =>
    -- a register that a later word has already written is out of the destination (R275)
    let w (v : Tab Vec) (r i : Nat) : Tab Vec := if 384 ≤ r then v else tabSet 0 v r ((val >>> (256 * i)).setWidth 256)
    { t with v := w (w (w (w t.v a 0) b 1) c 2) d 3 }
  | _ => t

/-- Writes a unit's output latch (R76): the index of R478; CU.o keeps its tag (R164). -/
def Stream.writeLatch (t : Stream) (unit : Nat) (val : BitVec 1024) (tag : Bool) : Stream :=
  if 9 ≤ unit then t
  else
    let t := { t with latch := tabSet 0 t.latch unit (val.setWidth 256) }
    if unit = 8 then { t with cuTag := tag } else t

/-- Delivers a result of latency L of the cursor's stream to a destination port and a latch (R81). A push takes effect in the issue
cycle whatever L is; latch and flags land with L (R80, R81, log 9). -/
def State.deliverTo (s : State) (unit lat : Nat) (p : Port) (val : BitVec 1024) (flags : BitVec 6 := 0) (tag : Bool := false) :
    State :=
  let c := s.curCore
  let st := s.curStream
  let id := s.seq
  let dest := destOf (s.stream c st) p id
  let s := s.tickSeq
  match dest with
  | .q n _ =>
    let s := s.modSh c fun x => x.setQueue n ((x.queue n).push { val := val.setWidth 256 })
    if 9 ≤ unit ∧ flags = 0 then s
    else s.modCore c fun x => { x with flight := x.flight ++ [{ stream := st, unit, val, flags, left := lat, id, tag }] }
  | _ =>
    s.modCore c fun x =>
      { x with flight := x.flight ++ [{ stream := st, unit, dest, val, flags, left := lat, id, tag }] }
/-- Delivers what a load or a snapshot word returns: a queue register's entry is reserved at issue and filled on landing (R275,
R500). -/
def State.reserveTo (s : State) (unit lat : Nat) (p : Port) (val : BitVec 1024) : State :=
  let c := s.curCore
  let st := s.curStream
  let id := s.seq
  let dest := destOf (s.stream c st) p id
  let s := s.tickSeq
  let s := match dest with
    | .q n _ => s.modSh c fun x => x.setQueue n ((x.queue n).push { state := .awaits id })
    | _ => s
  s.modCore c fun x => { x with flight := x.flight ++ [{ stream := st, unit, dest, val, left := lat, id }] }

/-- A 64-bit value to a G register by number, no latch (R193). -/
def State.deliverG (s : State) (lat : Nat) (gd : BitVec 6) (v : Word) : State :=
  s.deliverTo 15 lat (Encoding.portG gd) (v.setWidth 1024)

/-! ## The life of a word (R62 to R65, R83) -/

/-- What the body of a word answers. -/
inductive Out where
  /-- It has issued with its effects; the next word in sequence follows. -/
  | done (s : State)
  /-- It has issued and transfers control to a word index. -/
  | goto (s : State) (target : Int)
  /-- It blocks in this cycle (R65); the state may hold an arrival. -/
  | wait (s : State)
  /-- It raises an at-issue fault; the state holds the pops alone. -/
  | trap (s : State) (cls : Nat) (info : Word)
deriving Repr

/-- In a line-buffer processor the one control register is STATUS (R492). -/
def lbpFields : Instr → Bool
  | .csrr _ _ csr => csr == 0
  | _ => true
/-- The encoding fault of a word, illegal instruction before port fault (R83): its class and FF_INFO. Of several absent ports it
records the guard's, else that of the first operand in the order of `Encoding.operands` (DESIGN CHOICE, log 110). -/
def encodingFault (f : Encoding.PortFile) (st : Nat) (i : Instr) (h : Hdr) : Option (Nat × Word) :=
  let op := Encoding.opcode i
  let ops := Encoding.operands i
  let legal := if f.lbp then Encoding.lbpLegal op.toNat && lbpFields i && h.join == 0
    else (Encoding.legalStreams op.toNat).getLsbD st && (h.join == 0 || st < 4)
  if !legal || !Encoding.fieldsOk i || ops.any (fun x => Encoding.illegalKind f.own x.1 x.2 || Encoding.lineIllegal f x.1 x.2)
  then some (1, illegalInfo op)
  else if ops.any (fun x => x.1 == .glink && Encoding.absent f x.1 x.2) then some (1, illegalInfo op)
  else if !(f.fullK || h.gk.toNat < 16 || h.gk == 63) then some (2, BitVec.ofNat 64 (0x1C0 + h.gk.toNat))
  else match ops.find? (fun x => Encoding.absent f x.1 x.2) with
    | some x => some (2, BitVec.ofNat 64 x.2.toNat)
    | none => none

/-- Predicate n as a stream reads it: K63 reads all ones (R49, R75). -/
def Stream.readK (t : Stream) (n : Nat) : BitVec 32 :=
  if n = 63 then BitVec.allOnes 32 else tabGet 0 t.k (physK t.rrbK n)

/-- The guard of a word (R62). -/
def Stream.guard (t : Stream) (h : Hdr) : Bool := (t.readK h.gk.toNat).getLsbD 0 != (h.gn == 1)

/-- The port file of the unit at the cursor (R39, R41, R76, R307). -/
def portFile (s : State) (c st : Nat) : Encoding.PortFile :=
  if isLbp c then ⟨64, 64, 0, true, 0x07F, 4, false, true⟩
  else if st < 4 then
    let n := (s.task c).vregs
    ⟨if n = 384 then 384 else min n 256, 64, 32, true, 0x1FF, st, true, false⟩
  else if st = 4 ∨ st = 5 ∨ st = 8 then ⟨0, 16, 8, false, 0x1C3, 4, false, false⟩
  else ⟨0, 16, 0, false, 0x043, 4, false, false⟩

/-- Another cluster's link port that a word names as a source while no join group holds both clusters: the port fault of R48, which
depends on state and so stands apart from the faults of the encoding (R83). -/
def strayLink (s : State) (c st : Nat) (i : Instr) : Option Port :=
  (Encoding.operands i).findSome? fun x =>
    if x.1.isDst then none
    else match Encoding.view x.2 with
      | .link n => if n = st ∨ (s.stream c st).group.getLsbD n then none else some x.2
      | _ => none

/-- Queue registers that a word pops through its ports, one for each naming (R80). -/
def popsOf (i : Instr) : List Nat :=
  (Encoding.operands i).filterMap fun x =>
    if x.1.isDst then none
    else match x.1, Encoding.view x.2 with
      | .opt en, .q n => if en = 1 then some n else none
      | _, .q n => some n
      | _, _ => none
/-- Queue registers that a word pushes or reserves through its ports. -/
def pushesOf (i : Instr) : List Nat :=
  (Encoding.operands i).filterMap fun x =>
    if x.1.isDst then match Encoding.view x.2 with | .q n => some n | _ => none else none
/-- R65, items 1 and 2: a port names a queue register with too few poppable entries, or a full one. -/
def portsBlocked (x : Shared) (i : Instr) : Bool :=
  let pops := popsOf i
  pops.any (fun n => (x.queue n).ripe < (pops.filter (· = n)).length) || (pushesOf i).any fun n => (x.queue n).full

/-- A word issues: the stream's next word and counters (R64, R497). -/
def State.retire (s : State) (c st : Nat) (next : Nat) (taken : Bool) : State :=
  s.modStream c st fun t =>
    let t := { t with pc := next, idleLoaded := false, replays := 0, verdict := if taken then .taken else .issued }
    let t := t.count 0
    if taken then t.count 4 else t
/-- A word blocks in this cycle (R65). -/
def State.block (s : State) (c st : Nat) : State := s.modStream c st fun t => { t with verdict := .blocked }

/-- The pops of a word's queue sources, without its other effects. -/
def State.popAll (s : State) (c : Nat) (i : Instr) : State :=
  s.modSh c fun x => (popsOf i).foldl (fun y n => y.setQueue n ((y.queue n).pop).2) x

/-- Carries out what a word's body answers. A transfer outside the code object, and a last word that leads beyond it, raise
the illegal instruction at the word, which then writes nothing but its pops (R61, R396, R447). -/
def finishWord (i : Instr) (s : State) (o : Out) : Host.Outcome State Fault Refusal :=
  let c := s.curCore
  let st := s.curStream
  let t := s.stream c st
  let beyond (n : Int) : Bool := n < 0 || (t.codeLen : Int) ≤ n
  let astray := (s.popAll c i).takeFault c (some st) 1 (illegalInfo (Encoding.opcode i)) false
  match o with
  | .done s' =>
    if (s'.stream c st).ending then .next (s'.retire c st t.pc false)
    else if beyond (t.pc + 1) then .next astray
    else .next (s'.retire c st (t.pc + 1) false)
  | .goto s' n => if beyond n then .next astray else .next (s'.retire c st n.toNat true)
  | .wait s' => .next (s'.block c st)
  | .trap s' cls info => .next (s'.takeFault c (some st) cls info false)

/-- A word whose guard is false issues with no other effect (R63); at the last index of its code object it raises the illegal
instruction, as any word there that leads on in sequence (R396, log 126). -/
def guardedOff (i : Instr) (s : State) : Host.Outcome State Fault Refusal :=
  let c := s.curCore
  let st := s.curStream
  let t := s.stream c st
  if t.codeLen ≤ t.pc + 1 then .next (s.takeFault c (some st) 1 (illegalInfo (Encoding.opcode i)) false)
  else .next (s.retire c st (t.pc + 1) false)

/-- The issue of a word at the cursor: its encoding faults whatever the guard, its guard, its queue ports, and its body. A word whose
link source is astray waits as its body says, and then faults. -/
def issueWord (i : Instr) (s : State) (body : State → Out) : Host.Outcome State Fault Refusal :=
  match Encoding.hdr i with
  | none => .next s
  | some h =>
    let c := s.curCore
    let st := s.curStream
    match encodingFault (portFile s c st) st i h with
    | some f => .next (s.takeFault c (some st) f.1 f.2 false)
    | none =>
      if !(s.stream c st).guard h then guardedOff i s
      else if portsBlocked (s.sh c) i then .next (s.block c st)
      else match strayLink s c st i with
        | some p => finishWord i s (match body s with | .wait u => .wait u | _ => .trap (s.popAll c i) 2 (p.setWidth 64))
        | none => finishWord i s (body s)

/-! ## Engine commands (R65, R66, R213) -/

/-- The pacing gap of an engine as it stands at the start of the cycle (R215). -/
def gapOf (x : Shared) (e : Nat) : Nat := max 1 (tabGet 0 x.pace e)
/-- R65, items 4 and 5: the queue is full at the start of the cycle, its running command counted (R481), or the pacing gap has not passed. -/
def engineBusy (cur soc : Shared) (e : Nat) : Bool :=
  16 ≤ (soc.engine e).queue.length + b2n (soc.engine e).run.isSome || (cur.engine e).accAge < gapOf soc e
/-- A command enters an engine's queue (R66, R58). -/
def Shared.accept (x : Shared) (e : Nat) (cmd : Cmd) : Shared :=
  let g := x.engine e
  let r := x.compRec e
  (x.setEngine e { g with queue := g.queue ++ [cmd], accAge := 0, idleFor := 0 }).setComp e { r with out := r.out + 1 }
/-- The tile storage that a handle of a command names at issue (R290). -/
def namedTiles (x : Shared) (hs : List Nat) : List (Nat × Handle) := hs.map fun h => (h, x.handle h)

/-- Sends one command to each engine listed; OUT above 2^32 - 1 is an illegal instruction (R213). -/
def sendCommands (i : Instr) (s : State) (cmds : List (Nat × Cmd)) : Out :=
  let c := s.curCore
  if cmds.any fun x => 2 ^ 32 - 1 ≤ ((s.sh c).compRec x.1).out then .trap s 1 (illegalInfo (Encoding.opcode i))
  else
    let s := s.tickSeq.modSh c fun x => cmds.foldl (fun y z => y.accept z.1 { z.2 with since := s.seq }) x
    .done (s.modStream c s.curStream fun t => cmds.foldl (fun u _ => u.count 7) t)

/-- The life of a command word: it waits under R65, items 4 and 5, before it reads its ports. -/
def commandWord (i : Instr) (engs : List Nat) (s : State) (body : State → Out) : Host.Outcome State Fault Refusal :=
  issueWord i s fun s =>
    let c := s.curCore
    if engs.any fun e => engineBusy (s.sh c) (s.soc c) e then .wait s else body s

/-! ## Joining and leaving (R44 to R46) -/

/-- Every stream of a core, in the stream order of R66. -/
def allStreams : List Nat := [0, 1, 2, 3, 4, 5, 6, 7, 8, 9]
/-- The started streams that have not ended. -/
def Core.liveStreams (x : Core) : List Nat := allStreams.filter fun n => (x.stream n).started && !(x.stream n).ended
/-- The clusters of a mask. -/
def maskList (m : BitVec 4) : List Nat := [0, 1, 2, 3].filter fun n => m.getLsbD n
/-- Cluster n leaves its group and becomes forked (R45). -/
def Core.leave (x : Core) (n : Nat) : Core :=
  let g := (x.stream n).group
  let rest : BitVec 4 := g &&& ~~~(BitVec.ofNat 4 (2 ^ n))
  let x := (maskList rest).foldl (fun (y : Core) m => y.modStream m fun t => { t with group := rest }) x
  x.modStream n fun t => { t with group := 0 }
/-- The group of a mask dissolves. -/
def Core.dissolve (x : Core) (m : BitVec 4) : Core :=
  (maskList m).foldl (fun (y : Core) n => y.modStream n fun t => { t with group := 0 }) x
/-- The clusters of a mask form a group. -/
def Core.unite (x : Core) (m : BitVec 4) : Core :=
  (maskList m).foldl (fun (y : Core) n => y.modStream n fun t => { t with group := m }) x

end Sys2Proof.Machine
end

