-- ==== Sys2Proof/Machine/Operands.lean ====
section
/-! DEFINITION. Reading operands: every port of R75 to R78 as a value, popping queue registers (R80), and the widening of
R79. -/

namespace Sys2Proof.Machine

/-- The number of a special of an array core's stream (R77). -/
def specialOf (s : State) (c st n : Nat) : Word :=
  let t := s.stream c st
  let k := s.task c
  if n = 0x2C1 then BitVec.allOnes 64
  else if 0x2C4 ≤ n ∧ n ≤ 0x2C7 then (tabGet 0 t.lc (n - 0x2C4)).setWidth 64
  else if n = 0x2C8 then BitVec.ofNat 64 t.rrbV
  else if n = 0x2C9 then BitVec.ofNat 64 t.rrbK
  else if isLbp c then
    -- R307: the specials of a line-buffer processor carry the row
    let l := s.lbp (c - 128)
    if n = 0x2CE then BitVec.ofNat 64 l.stream
    else if n = 0x2D0 then BitVec.ofNat 64 l.row
    else if n = 0x2D1 then BitVec.ofNat 64 l.frame
    else if n = 0x2D2 then BitVec.ofNat 64 l.cls
    else 0
  else if n = 0x2CA then BitVec.ofNat 64 c
  else if n = 0x2CB then BitVec.ofNat 64 (formOf c)
  else if n = 0x2CC then BitVec.ofNat 64 (dieOf c)
  else if n = 0x2CD then BitVec.ofNat 64 st
  else if n = 0x2CE then BitVec.ofNat 64 k.index
  else if 0x2D0 ≤ n ∧ n ≤ 0x2D5 then BitVec.ofNat 64 (k.lv.getD (n - 0x2D0) 0)
  else if n = 0x2D6 then BitVec.ofNat 64 k.ctx
  else if 0x300 ≤ n then tabGet 0 (s.sh c).ct (n - 0x300)
  else 0

/-- The value of a port that is no queue register, as 256 bits: scalars zero-extended from 64 bits, predicates from 32,
immediates sign-extended to 64 (R78, R79). CU.o with a capability gives its bits [63:0] to a plain reader (R164). -/
def portValue (s : State) (c st : Nat) (p : Port) : Vec :=
  let t := s.stream c st
  match Encoding.view p with
  | .v n => tabGet 0 t.v (physV t.rrbV n)
  | .g n => (tabGet 0 t.g n).setWidth 256
  | .k n => (t.readK n).setWidth 256
  | .latch n => if n = 8 then ((tabGet 0 t.latch 8).setWidth 64).setWidth 256 else tabGet 0 t.latch n
  | .link n => (s.stream c n).link
  | .q n => (((s.sh c).queue n).pop).1
  | .c _ => 0
  | .special n => (specialOf s c st n).setWidth 256
  | .imm x => (x.signExtend 64).setWidth 256
  | .unassigned => 0

/-- Whether a port gives a 256-bit value rather than a scalar (R79): vector register, vector latch, link or queue register; and
MU.o, which the rule does not class (DESIGN CHOICE, log 110). -/
def isVectorPort (p : Port) : Bool :=
  match Encoding.view p with
  | .v _ | .link _ | .q _ => true
  | .latch n => (2 ≤ n && n ≤ 5) || n == 7
  | _ => false
/-- An immediate port. -/
def isImm (p : Port) : Bool := match Encoding.view p with | .imm _ => true | _ => false
/-- A predicate port. -/
def isPred (p : Port) : Bool := match Encoding.view p with | .k _ => true | _ => false

/-- Reads a source of the cursor's stream; a queue register is popped (R80). -/
def State.read (s : State) (p : Port) : Vec × State :=
  let c := s.curCore
  let v := portValue s c s.curStream p
  match Encoding.view p with
  | .q n => (v, s.modSh c fun x => x.setQueue n ((x.queue n).pop).2)
  | _ => (v, s)

/-- Reads a source as a 64-bit value (R147). -/
def State.readInt (s : State) (p : Port) : Word × State :=
  let r := s.read p
  (r.1.setWidth 64, r.2)

/-- The capability that a port gives where one is admitted (R164): a register, or CU.o, whose plain 64-bit value reads as an
untagged capability. -/
def capOf (s : State) (c st : Nat) (p : Port) : Cap :=
  let t := s.stream c st
  match Encoding.view p with
  | .c n => tabGet {} t.c n
  | .latch 8 => ⟨(tabGet 0 t.latch 8).setWidth 128, t.cuTag⟩
  | _ => {}

/-! ## Fields of a capability (R160, R161) -/

def Cap.cur (c : Cap) : Nat := slice c.bits.toNat 0 32
def Cap.len (c : Cap) : Nat := slice c.bits.toNat 32 32
def Cap.base (c : Cap) : Nat := slice c.bits.toNat 64 32
def Cap.rights (c : Cap) : BitVec 8 := (c.bits >>> 96).setWidth 8
def Cap.obj (c : Cap) : Nat := slice c.bits.toNat 104 24
/-- Whether a right of R161 is held: 0 READ, 1 WRITE, 2 EXEC, 3 CAPLOAD, 4 CAPSTORE, 5 ATOMIC, 6 PERSIST, 7 DERIVE. -/
def Cap.has (c : Cap) (r : Nat) : Bool := c.rights.getLsbD r
/-- Replaces a field of a capability. -/
def Cap.put (c : Cap) (lo w v : Nat) : Cap := { c with bits := putBits c.bits lo w v }

/-! ## Lanes (R79, R96, R170) -/

/-- Lane i of width w of a vector. -/
def lane (x : Vec) (w i : Nat) : Nat := slice x.toNat (w * i) w
/-- A vector from lane values of width w, lane 0 first. -/
def fromLanes (w : Nat) : List Nat → Vec
  | ls => BitVec.ofNat 256 (ls.foldr (fun v acc => v % 2 ^ w + 2 ^ w * acc) 0)
/-- The same w bits in every lane. -/
def splat (w v : Nat) : Vec := fromLanes w (List.replicate (256 / w) v)

/-- A source of a lane operation at lane width w (R79, R170): a vector whole; LANEID as the lane numbers; a scalar's low w
bits in every lane, a predicate's too (DESIGN CHOICE, log 110). `conv` gives what an immediate becomes in a lane. -/
def widen (p : Port) (raw : Vec) (w : Nat) (conv : Int → Nat) : Vec :=
  if isVectorPort p then raw
  else if p == 0x2C2 then fromLanes w (List.range (256 / w))
  else match Encoding.view p with
    | .imm x => splat w (conv x.toInt)
    | .special 0x2C1 => BitVec.allOnes 256
    | _ => splat w raw.toNat

end Sys2Proof.Machine
end

