-- ==== Sys2Proof/Machine/Formats.lean ====
section
/-! DEFINITION. Number formats, rounding and exact arithmetic (R92 to R115): every floating-point result is an exact value that
one function, `roundTo`, rounds. -/

namespace Sys2Proof.Machine

/-- A binary format (R92): total bits, exponent bits, fraction bits, bias; E4M3 has no infinity (R95). -/
structure Fmt where
  size : Nat
  ebits : Nat
  fbits : Nat
  bias : Nat
  e4m3 : Bool := false
deriving DecidableEq, Repr

def fp32 : Fmt := ⟨32, 8, 23, 127, false⟩
def fp16 : Fmt := ⟨16, 5, 10, 15, false⟩
def bf16 : Fmt := ⟨16, 8, 7, 127, false⟩
def e5m2 : Fmt := ⟨8, 5, 2, 15, false⟩
def e4m3 : Fmt := ⟨8, 4, 3, 7, true⟩

/-- Precision with the implicit bit, and the least normal exponent (R92). -/
def Fmt.p (f : Fmt) : Nat := f.fbits + 1
def Fmt.emin (f : Fmt) : Int := 1 - (f.bias : Int)
/-- The largest finite value as significand and exponent of its last place. -/
def Fmt.maxSig (f : Fmt) : Nat := if f.e4m3 then 14 else 2 ^ f.p - 1
def Fmt.maxQ (f : Fmt) : Int :=
  (if f.e4m3 then (2 ^ f.ebits - 1 : Nat) else (2 ^ f.ebits - 2 : Nat) : Int) - f.bias - f.fbits
/-- Patterns: the canonical NaN (R94), infinity, and the largest finite number. -/
def Fmt.nan (f : Fmt) : Nat := if f.e4m3 then 0x7F else (2 ^ f.ebits - 1) * 2 ^ f.fbits + 2 ^ (f.fbits - 1)
def Fmt.inf (f : Fmt) : Nat := (2 ^ f.ebits - 1) * 2 ^ f.fbits
def Fmt.big (f : Fmt) : Nat := if f.e4m3 then 0x7E else (2 ^ f.ebits - 1) * 2 ^ f.fbits - 1
def Fmt.signBit (f : Fmt) : Nat := 2 ^ (f.size - 1)

/-- An exact value: a NaN, signalling or quiet; an infinity; or (-1)^neg × m × 2^e, zero where m is 0. -/
inductive FVal where
  | nan (signalling : Bool)
  | inf (neg : Bool)
  | fin (neg : Bool) (m : Nat) (e : Int)
deriving DecidableEq, Repr

/-- The value of a pattern (R92, R94, R95). -/
def Fmt.val (f : Fmt) (x : Nat) : FVal :=
  let neg := x / f.signBit % 2 = 1
  let e := slice x f.fbits f.ebits
  let m := slice x 0 f.fbits
  if e = 2 ^ f.ebits - 1 ∧ (!f.e4m3 ∨ m = 7) then
    if f.e4m3 then .nan false
    else if m = 0 then .inf neg
    else .nan (m < 2 ^ (f.fbits - 1))
  else if e = 0 then .fin neg m (f.emin - f.fbits)
  else .fin neg (2 ^ f.fbits + m) (e - f.bias - f.fbits)

/-- The rounding modes (R104), in STATUS.RM's order. -/
inductive RMode where
  | rne | rtz | rdn | rup | rna
deriving DecidableEq, Repr

/-- The mode of a code of STATUS.RM; 5 to 7 are never held (R107). -/
def RMode.ofCode : Nat → RMode
  | 1 => .rtz | 2 => .rdn | 3 => .rup | 4 => .rna | _ => .rne

/-- Exception flags in STATUS[5:0] order (R107). -/
abbrev Flags := BitVec 6
def fNV : Flags := 1
def fDZ : Flags := 2
def fOF : Flags := 4
def fUF : Flags := 8
def fNX : Flags := 16
def fSAT : Flags := 32

/-- Rounds m + δ to an integer multiple of 2^k (k ≥ 0), where δ lies strictly between 0 and 1 when `sticky`: the multiple and
whether it is inexact (R104). -/
def roundShift (mode : RMode) (neg : Bool) (m : Nat) (k : Nat) (sticky : Bool) : Nat × Bool :=
  let lo := m / 2 ^ k
  let rem := m % 2 ^ k
  -- twice the remainder against one unit, in units of 2^k
  let above := 2 * rem > 2 ^ k || (2 * rem == 2 ^ k && sticky)
  let tie := 2 * rem == 2 ^ k && !sticky
  let inexact := rem != 0 || sticky
  let up := match mode with
    | .rne => above || (tie && lo % 2 == 1)
    | .rna => above || tie
    | .rtz => false
    | .rup => inexact && !neg
    | .rdn => inexact && neg
  (if up then lo + 1 else lo, inexact)

/-- What an overflow gives (R105). -/
def Fmt.overflow (f : Fmt) (mode : RMode) (neg : Bool) : Nat :=
  let sign := if neg then f.signBit else 0
  if f.e4m3 then sign + f.big
  else match mode with
    | .rne | .rna => sign + f.inf
    | .rtz => sign + f.big
    | .rup => if neg then sign + f.big else f.inf
    | .rdn => if neg then sign + f.inf else f.big

/-- round_to of R104 and R105 with the flags of R108: the exact value is (-1)^neg × (m + δ) × 2^e, with 0 < δ < 1 where `sticky`
and δ = 0 otherwise; a sticky value comes with at least two bits more than the format holds. -/
def roundTo (f : Fmt) (mode : RMode) (neg : Bool) (m : Nat) (e : Int) (sticky : Bool := false) : Nat × Flags :=
  let sign := if neg then f.signBit else 0
  if m = 0 then (sign, if sticky then fNX ||| fUF else 0)
  else
    let ex : Int := (Nat.log2 m : Int) + e
    let rnd (q : Int) : Nat × Bool :=
      if q ≤ e then (m * 2 ^ (e - q).toNat, sticky) else roundShift mode neg m (q - e).toNat sticky
    let q : Int := max ex f.emin - f.p + 1
    let r := rnd q
    let (n, q) := if r.1 = 2 ^ f.p then (2 ^ (f.p - 1), q + 1) else (r.1, q)
    if f.maxQ < q ∨ (q = f.maxQ ∧ f.maxSig < n) then
      (f.overflow mode neg, fOF ||| fNX ||| (if f.e4m3 then fSAT else 0))
    else
      let tiny := ex < f.emin && !((rnd (ex - f.p + 1)).1 == 2 ^ f.p && ex + 1 == f.emin)
      let flags : Flags := (if r.2 then fNX else 0) ||| (if r.2 && tiny then fUF else 0)
      if n < 2 ^ f.fbits then (sign + n, flags)
      else (sign + ((q + f.fbits + f.bias).toNat * 2 ^ f.fbits + (n - 2 ^ f.fbits)), flags)

/-- A result that is a value: NaN, infinity or rounded. -/
def Fmt.make (f : Fmt) (mode : RMode) : FVal → Nat × Flags
  | .nan s => (f.nan, if s then fNV else 0)
  | .inf neg => if f.e4m3 then ((if neg then f.signBit else 0) + f.big, fSAT) else ((if neg then f.signBit else 0) + f.inf, 0)
  | .fin neg m e => roundTo f mode neg m e

/-- The signed significand of a finite value. -/
def signed (neg : Bool) (m : Nat) : Int := if neg then -(m : Int) else m
/-- A finite value from a signed significand. -/
def ofSigned (z : Int) (e : Int) : FVal := .fin (z < 0) z.natAbs e

def FVal.isNan : FVal → Bool | .nan _ => true | _ => false
def FVal.isSnan : FVal → Bool | .nan s => s | _ => false
def FVal.isInf : FVal → Bool | .inf _ => true | _ => false
def FVal.isZero : FVal → Bool | .fin _ m _ => m == 0 | _ => false
def FVal.neg : FVal → FVal
  | .nan s => .nan s
  | .inf n => .inf (!n)
  | .fin n m e => .fin (!n) m e
def FVal.isNeg : FVal → Bool | .inf n => n | .fin n _ _ => n | .nan _ => false

/-- An exact product; 0 × ∞ is a NaN and sets NV (R108). -/
def mulVal (a b : FVal) : FVal × Flags :=
  let nv : Flags := if a.isSnan || b.isSnan then fNV else 0
  if (a.isInf && b.isZero) || (a.isZero && b.isInf) then (.nan false, nv ||| fNV)
  else if a.isNan || b.isNan then (.nan false, nv)
  else match a, b with
    | .fin n m e, .fin n' m' e' => (.fin (n != n') (m * m') (e + e'), nv)
    | _, _ => (.inf (a.isNeg != b.isNeg), nv)

/-- The exact sum of two finite values as a signed significand and exponent. -/
def addExact (z e z' e' : Int) : Int × Int :=
  let q := min e e'
  (z * 2 ^ (e - q).toNat + z' * 2 ^ (e' - q).toNat, q)

/-- The exact sum of the finite values of a list. -/
def sumExact : List FVal → Int × Int
  | [] => (0, 0)
  | .fin n m e :: t => let r := sumExact t; if m = 0 then r else if r.1 = 0 then (signed n m, e) else addExact (signed n m) e r.1 r.2
  | _ :: t => sumExact t

/-- The sum of terms, rounded once: NaN for a NaN term or opposite infinities, which set NV; the sign of a zero sum as IEEE
754 gives it (R93, R108). Flags of the terms' own NaNs are the caller's. -/
def sumTerms (f : Fmt) (mode : RMode) (ts : List FVal) : Nat × Flags :=
  if ts.any FVal.isNan then (f.nan, 0)
  else
    let infs := ts.filter FVal.isInf
    match infs with
    | x :: _ => if infs.any (fun y => y.isNeg != x.isNeg) then (f.nan, fNV) else f.make mode x
    | [] =>
      let r := sumExact ts
      if r.1 = 0 then
        if ts.all (fun t => t.isZero && t.isNeg) then (f.signBit, 0)
        else if ts.all (fun t => t.isZero && !t.isNeg) then (0, 0)
        else (if mode = .rdn then f.signBit else 0, 0)
      else roundTo f mode (r.1 < 0) r.1.natAbs r.2

/-- NV of signalling NaN operands. -/
def snanFlag (ts : List FVal) : Flags := if ts.any FVal.isSnan then fNV else 0

def addF (f : Fmt) (mode : RMode) (a b : FVal) : Nat × Flags :=
  let r := sumTerms f mode [a, b]; (r.1, r.2 ||| snanFlag [a, b])
def mulF (f : Fmt) (mode : RMode) (a b : FVal) : Nat × Flags :=
  let p := mulVal a b; let r := f.make mode p.1; (r.1, r.2 ||| p.2)
/-- a × b + c rounded once (R175). -/
def fmaF (f : Fmt) (mode : RMode) (a b c : FVal) : Nat × Flags :=
  let p := mulVal a b
  let r := sumTerms f mode [p.1, c]; (r.1, r.2 ||| p.2 ||| snanFlag [c])

/-- The number of bits of m. -/
def bitLen (m : Nat) : Nat := if m = 0 then 0 else Nat.log2 m + 1

/-- A correctly rounded quotient (R174). -/
def divF (f : Fmt) (mode : RMode) (a b : FVal) : Nat × Flags :=
  let nv := snanFlag [a, b]
  let neg := a.isNeg != b.isNeg
  if a.isNan || b.isNan then (f.nan, nv)
  else match a, b with
    | .inf _, .inf _ => (f.nan, fNV)
    | .inf _, _ => f.make mode (.inf neg)
    | _, .inf _ => (if neg then f.signBit else 0, 0)
    | .fin _ m e, .fin _ m' e' =>
      if m = 0 ∧ m' = 0 then (f.nan, fNV)
      else if m' = 0 then ((f.make mode (.inf neg)).1, fDZ)
      else if m = 0 then (if neg then f.signBit else 0, 0)
      else
        let k := f.p + 3 + bitLen m' - bitLen m
        let n := m * 2 ^ k
        roundTo f mode neg (n / m') (e - e' - k) (n % m' != 0)
    | _, _ => (f.nan, nv)

/-- The integer square root, one bit a step from bit k - 1 downwards. -/
def isqrtGo (n : Nat) : Nat → Nat → Nat
  | 0, r => r
  | k + 1, r => let r' := r + 2 ^ k; isqrtGo n k (if r' * r' ≤ n then r' else r)
def isqrt (n : Nat) : Nat := isqrtGo n (bitLen n / 2 + 1) 0

/-- A finite positive value with an even exponent and at least 2 (p + 3) significand bits. -/
def evenForm (f : Fmt) (m : Nat) (e : Int) : Nat × Int :=
  let k := 2 * (f.p + 3) - bitLen m
  let k := if (e - k) % 2 = 0 then k else k + 1
  (m * 2 ^ k, e - k)

/-- A correctly rounded square root (R176). -/
def sqrtF (f : Fmt) (mode : RMode) (a : FVal) : Nat × Flags :=
  match a with
  | .nan s => (f.nan, if s then fNV else 0)
  | .inf neg => if neg then (f.nan, fNV) else f.make mode (.inf false)
  | .fin neg m e =>
    if m = 0 then (if neg then f.signBit else 0, 0)
    else if neg then (f.nan, fNV)
    else
      let r := evenForm f m e
      let q := isqrt r.1
      roundTo f mode false q (r.2 / 2) (q * q != r.1)

/-- A correctly rounded reciprocal square root (R176). -/
def rsqrtF (f : Fmt) (mode : RMode) (a : FVal) : Nat × Flags :=
  match a with
  | .nan s => (f.nan, if s then fNV else 0)
  | .inf neg => if neg then (f.nan, fNV) else (0, 0)
  | .fin neg m e =>
    if m = 0 then ((f.make mode (.inf neg)).1, fDZ)
    else if neg then (f.nan, fNV)
    else
      let r := evenForm f m e
      let n := bitLen r.1 / 2 + f.p + 4
      let q := isqrt (2 ^ (2 * n) / r.1)
      roundTo f mode false q (-(r.2 / 2) - n) (q * q * r.1 != 2 ^ (2 * n))

/-- A correctly rounded reciprocal (R176). -/
def rcpF (f : Fmt) (mode : RMode) (a : FVal) : Nat × Flags :=
  match a with
  | .fin neg 0 _ => ((f.make mode (.inf neg)).1, fDZ)
  | _ => divF f mode (.fin false 1 0) a

/-- Comparison of two values that are no NaN: less, with −0 equal to +0. -/
def ltVal : FVal → FVal → Bool
  | .inf n, .inf n' => n && !n'
  | .inf n, _ => n
  | _, .inf n' => !n'
  | .fin n m e, .fin n' m' e' => (addExact (signed n m) e (-(signed n' m')) e').1 < 0
  | _, _ => false
def eqVal : FVal → FVal → Bool
  | .inf n, .inf n' => n == n'
  | .fin n m e, .fin n' m' e' => (addExact (signed n m) e (-(signed n' m')) e').1 == 0
  | _, _ => false
/-- Less in the order of VMIN and VMAX, in which −0 < +0 (R174). -/
def ltTotal (a b : FVal) : Bool := ltVal a b || (a.isZero && b.isZero && a.isNeg && !b.isNeg)

/-- VMIN and VMAX of two patterns (R174). -/
def minMaxF (f : Fmt) (wantMax : Bool) (x y : Nat) : Nat × Flags :=
  let a := f.val x
  let b := f.val y
  if a.isNan || b.isNan then (f.nan, snanFlag [a, b])
  else if wantMax then (if ltTotal a b then y else x, 0)
  else (if ltTotal b a then y else x, 0)

/-- A value rounded to an integer by a mode, with whether it is inexact (R112, R188). -/
def roundInt (mode : RMode) (neg : Bool) (m : Nat) (e : Int) : Int × Bool :=
  if 0 ≤ e then (signed neg (m * 2 ^ e.toNat), false)
  else let r := roundShift mode neg m (-e).toNat false; (signed neg r.1, r.2)

/-- VROUND of a pattern (R188). -/
def roundIntegral (f : Fmt) (mode : RMode) (x : Nat) : Nat × Flags :=
  match f.val x with
  | .nan s => (f.nan, if s then fNV else 0)
  | .inf _ => (x, 0)
  | .fin neg m e =>
    if m = 0 then (x, 0)
    else
      let r := roundInt mode neg m e
      if r.1 = 0 then (if neg then f.signBit else 0, if r.2 then fNX else 0)
      else ((roundTo f .rtz (r.1 < 0) r.1.natAbs 0).1, if r.2 then fNX else 0)

/-- Clamps an exact integer to a type of width w: the clamped value and whether it clamped (R112, R113). -/
def clampInt (w : Nat) (sgn : Bool) (z : Int) : Int × Bool :=
  let lo : Int := if sgn then -(2 ^ (w - 1)) else 0
  let hi : Int := if sgn then 2 ^ (w - 1) - 1 else 2 ^ w - 1
  if z < lo then (lo, true) else if hi < z then (hi, true) else (z, false)

/-- Floating point to integer (R112). -/
def floatToInt (mode : RMode) (w : Nat) (sgn : Bool) (a : FVal) : Int × Flags :=
  match a with
  | .nan _ => (0, fNV)
  | .inf neg => ((clampInt w sgn (if neg then -(2 ^ 80) else 2 ^ 80)).1, fNV ||| fSAT)
  | .fin neg m e =>
    let r := roundInt mode neg m e
    let k := clampInt w sgn r.1
    (k.1, if k.2 then fNV ||| fSAT else if r.2 then fNX else 0)

/-- Integer to floating point (R113). -/
def intToFloat (f : Fmt) (mode : RMode) (z : Int) : Nat × Flags := roundTo f mode (z < 0) z.natAbs 0

/-- Float to float (R111). -/
def convF (f : Fmt) (mode : RMode) (a : FVal) : Nat × Flags := f.make mode a

/-! ## Scaled integers (R98 to R102, R114) -/

/-- k bits read as two's complement. -/
def sext (k x : Nat) : Int := (BitVec.ofNat k x).toInt
/-- The FP32 value of an element under a scale (R98, R99, R115). -/
def mxVal (k : Nat) (scale : Nat) (e : Int) : FVal :=
  if scale = 0xFF then .nan false else ofSigned e ((scale : Int) - 127 - (k - 2 : Nat))
/-- The scale of R114 for a block: 0xFF where some value is no number or infinite. -/
def mxScale (xs : List FVal) : Nat :=
  if xs.any fun x => x.isNan || x.isInf then 0xFF
  else
    let top := xs.foldl (fun (acc : Option Int) x => match x with
      | .fin _ m e => if m = 0 then acc else
          let l := (Nat.log2 m : Int) + e; some (match acc with | some a => max a l | none => l)
      | _ => acc) none
    match top with
    | none => 0
    | some l => (min (max (l + 127) 0) 254).toNat
/-- One element under a scale below 0xFF (R114, R189): the element and its flags. -/
def mxElem (k : Nat) (scale : Nat) (mode : RMode) (x : FVal) : Int × Flags :=
  match x with
  | .fin neg m e =>
    let r := roundInt mode neg m (e + (k - 2 : Nat) - ((scale : Int) - 127))
    let lim : Int := 2 ^ (k - 1) - 1
    let t := max (-lim) (min lim r.1)
    (t, (if r.1.natAbs > 2 ^ (k - 1) then fSAT else 0) ||| (if r.2 || t ≠ r.1 then fNX else 0))
  | _ => (0, 0)

/-! ## FP32 steps on patterns, RNE (R177, R178, R143) -/

def v32 (x : Nat) : FVal := fp32.val x
def add32 (x y : Nat) : Nat := (addF fp32 .rne (v32 x) (v32 y)).1
def mul32 (x y : Nat) : Nat := (mulF fp32 .rne (v32 x) (v32 y)).1
def div32 (x y : Nat) : Nat := (divF fp32 .rne (v32 x) (v32 y)).1
def neg32 (x : Nat) : Nat := if x < 2 ^ 31 then x + 2 ^ 31 else x - 2 ^ 31

/-- Whether a finite value is an integer. -/
def isIntegral (m : Nat) (e : Int) : Bool := 0 ≤ e || m % 2 ^ (-e).toNat == 0

/-- The FP32 routine of R177 with its flags: for an integer x ≥ 128 or x < −150 those of the routine's lines, NX among them (DESIGN
CHOICE, log 138). -/
def exp2Core (a : FVal) : Nat × Flags :=
  match a with
  | .nan s => (fp32.nan, if s then fNV else 0)
  | .inf neg => (if neg then 0 else fp32.inf, 0)
  | .fin neg m e =>
    if !ltVal a (.fin false 128 0) then (fp32.inf, fOF ||| fNX)
    else if ltVal a (.fin true 150 0) then (0, fUF ||| fNX)
    else
      let n := (roundInt .rne neg m e).1
      let d := addExact (signed neg m) e (-n) 0
      let f := (roundTo fp32 .rne (d.1 < 0) d.1.natAbs d.2).1
      let p := [0x39218489, 0x3AAEC3FF, 0x3C1D955B, 0x3D635847, 0x3E75FDF0, 0x3F317218, 0x3F800000].foldl
        (fun acc c => add32 (mul32 acc f) c) 0x377FE6A3
      let r := match v32 p with
        | .fin ng m' e' => (roundTo fp32 .rne ng m' (e' + n)).1
        | _ => p
      let nx := !isIntegral m e
      (r, (if nx then fNX else 0) ||| (if nx && ltVal a (.fin true 126 0) then fUF else 0))

/-- The FP32 routine of R178 with its flags. -/
def log2Core (a : FVal) : Nat × Flags :=
  match a with
  | .nan s => (fp32.nan, if s then fNV else 0)
  | .inf neg => if neg then (fp32.nan, fNV) else (fp32.inf, 0)
  | .fin neg m e =>
    if m = 0 then (fp32.signBit + fp32.inf, fDZ)
    else if neg then (fp32.nan, fNV)
    else
      let l := Nat.log2 m
      -- the significand in [1, 2): m × 2^-l
      let big := ltVal (v32 0x3FB504F3) (.fin false m (-(l : Int)))
      let ex : Int := (l : Int) + e + (if big then 1 else 0)
      let sh : Int := -(l : Int) - (if big then 1 else 0)
      let t := addExact m sh (-1) 0
      let tb := (roundTo fp32 .rne (t.1 < 0) t.1.natAbs t.2).1
      let u := addExact m sh 1 0
      let ub := (roundTo fp32 .rne (u.1 < 0) u.1.natAbs u.2).1
      let s := div32 tb ub
      let z := mul32 s s
      let q := [0x3ED30BB1, 0x3F13BB63, 0x3F76384F, 0x4038AA3B].foldl (fun acc c => add32 (mul32 acc z) c) 0x3EA4258A
      let r := add32 (intToFloat fp32 .rne ex).1 (mul32 q s)
      (r, if m = 2 ^ l then 0 else fNX)

/-- VEXP2 and VLOG2 in a lane format: the FP32 routine, then one rounding with its own flags to a narrower format (R177). -/
def viaFp32 (f : Fmt) (core : FVal → Nat × Flags) (x : Nat) : Nat × Flags :=
  let r := core (f.val x)
  if f = fp32 then r
  else let n := f.make .rne (v32 r.1); (n.1, r.2 ||| n.2)

/-- The lane format of a floating-point type code (R70). -/
def fmtOf (ty : Nat) : Fmt :=
  if ty = 9 then fp16 else if ty = 10 then bf16 else if ty = 11 then e4m3 else if ty = 12 then e5m2 else fp32
/-- The lane width of a type code (R70, R169). -/
def widthOf (ty : Nat) : Nat :=
  match ty with
  | 0 => 8 | 1 => 16 | 2 => 32 | 3 => 64 | 4 => 8 | 5 => 16 | 6 => 32 | 7 => 64
  | 9 => 16 | 10 => 16 | 11 => 8 | 12 => 8 | 13 => 8 | 14 => 8 | 15 => 8 | _ => 32
/-- Whether an integer type code is signed. -/
def signedTy (ty : Nat) : Bool := ty < 4
/-- The element bits of an MX type code (R98). -/
def mxBits (ty : Nat) : Nat := if ty = 13 then 4 else if ty = 14 then 6 else 8

end Sys2Proof.Machine
end

