-- ==== Sys2Proof/Machine/Flags.lean ====
section
/-! DEFINITION. STATUS (R107): the rounding mode that a word takes, the exception flags and how they land, writes by CSRW. -/

namespace Sys2Proof.Machine

/-- STATUS.RM of a stream. -/
def Stream.rm (t : Stream) : RMode := RMode.ofCode (slice t.status.toNat 8 3)

/-- The rounding mode of a type code (R70, R106): codes 16 to 20 fix it, the others use STATUS.RM as it stands at issue. -/
def rmOf (t : Stream) (ty : Nat) : RMode := if 16 ≤ ty ∧ ty ≤ 20 then RMode.ofCode (ty - 16) else t.rm

/-- Flags OR-ed into STATUS (R109). -/
def Stream.addFlags (t : Stream) (f : Flags) : Stream := { t with status := t.status ||| f.setWidth 32 }

/-- The flags whose TE bit is 1 (R107, R110). -/
def enabledFlags (status : BitVec 32) (f : Flags) : Flags := f &&& (status >>> 16).setWidth 6

/-- CSRW to STATUS (R107): TE and RM take the value, except that 5 to 7 leaves RM; a one clears a flag. -/
def writeStatus (old new : BitVec 32) : BitVec 32 :=
  let te := new &&& 0x003F0000
  let rm := if slice new.toNat 8 3 < 5 then new &&& 0x700 else old &&& 0x700
  te ||| rm ||| (old &&& 0x3F &&& ~~~new)

/-- STATUS as an image gives it: reserved bits read 0, and RM of 5 to 7 leaves the field as it was (R3, R107). -/
def loadStatus (old new : BitVec 32) : BitVec 32 :=
  (new &&& 0x003F003F) ||| (if slice new.toNat 8 3 < 5 then new &&& 0x700 else old &&& 0x700)

/-- The OR of the flags of lanes. -/
def orFlags (l : List Flags) : Flags := l.foldl (· ||| ·) 0

end Sys2Proof.Machine
end

