-- ==== Sys2Proof/Machine/Scalar.lean ====
section
/-! DEFINITION. Scalar, integer and capability-arithmetic instructions, opcodes 0x00 to 0x1F (R146 to R167). -/

namespace Sys2Proof.Machine

/-! ## Shared operations -/

/-- An operand of width w as R147 reads it: signed for an .i type, unsigned for an .n type. -/
def operandZ (ty : Nat) (x : Word) : Int :=
  let v := x.toNat % 2 ^ widthOf ty
  if signedTy ty then (BitVec.ofNat (widthOf ty) v).toInt else v
/-- A result modulo 2^w, extended to 64 bits as its type says (R148). -/
def extendZ (ty : Nat) (z : Int) : Word :=
  let r := BitVec.ofInt (widthOf ty) z
  if signedTy ty then BitVec.ofInt 64 r.toInt else BitVec.ofNat 64 r.toNat
/-- The operand as w plain bits. -/
def operandN (ty : Nat) (x : Word) : Nat := x.toNat % 2 ^ widthOf ty
/-- The shift count of R151. -/
def shiftCount (ty : Nat) (y : Word) : Nat := y.toNat % widthOf ty

/-- Quotient and remainder of R152 at width w. -/
def divRem (w : Nat) (a b : Int) : Int × Int :=
  if b = 0 then (2 ^ w - 1, a) else (a.tdiv b, a - a.tdiv b * b)
/-- The latency of R153. -/
def divLatency (w : Nat) : Nat := if w = 8 then 6 else if w = 16 then 10 else if w = 32 then 18 else 34
/-- Leading zeros of w bits. -/
def clzN (w x : Nat) : Nat := w - bitLen x
/-- Set bits of the low w bits. -/
def popN : Nat → Nat → Nat
  | 0, _ => 0
  | w + 1, x => x % 2 + popN w (x / 2)
/-- The index of the lowest set bit among w bits; w where there is none. -/
def firstSet (w x : Nat) : Nat := ((List.range w).find? fun i => x.testBit i).getD w
/-- a rotated left by s in w bits. -/
def rotl (w a s : Nat) : Nat := (a * 2 ^ s + a / 2 ^ (w - s)) % 2 ^ w

/-- A word of two 64-bit sources and one result in a unit. -/
def binaryWord (i : Instr) (unit lat : Nat) (d a b : Port) (f : Word → Word → Word) (s : State) :
    Host.Outcome State Fault Refusal :=
  issueWord i s fun s =>
    let x := s.readInt a
    let y := x.2.readInt b
    .done (y.2.deliverTo unit lat d ((f x.1 y.1).setWidth 1024))
/-- A word of one 64-bit source and one result in a unit. -/
def unaryWord (i : Instr) (unit lat : Nat) (d a : Port) (f : Word → Word) (s : State) : Host.Outcome State Fault Refusal :=
  issueWord i s fun s =>
    let x := s.readInt a
    .done (x.2.deliverTo unit lat d ((f x.1).setWidth 1024))

/-- The conditions of CMP (R154). -/
def cmpHolds (cond : BitVec 3) (wd : BitVec 2) (x y : Word) : Bool :=
  let w := 8 * 2 ^ wd.toNat
  let a := x.toNat % 2 ^ w
  let b := y.toNat % 2 ^ w
  let sa := (BitVec.ofNat w a).toInt
  let sb := (BitVec.ofNat w b).toInt
  match cond.toNat with
  | 0 => a == b
  | 1 => a != b
  | 2 => sa < sb
  | 3 => sb ≤ sa
  | 4 => a < b
  | 5 => b ≤ a
  | _ => (a &&& b) != 0

/-! ## Integer operations (R151) -/

def execNop (h : Hdr) (s : State) := issueWord (.nop h) s fun s => .done s
def execAdd (h : Hdr) (d a b : Port) (ty : BitVec 5) (s : State) :=
  binaryWord (.add h d a b ty) 0 1 d a b (fun x y => extendZ ty.toNat (operandZ ty.toNat x + operandZ ty.toNat y)) s
def execSub (h : Hdr) (d a b : Port) (ty : BitVec 5) (s : State) :=
  binaryWord (.sub h d a b ty) 0 1 d a b (fun x y => extendZ ty.toNat (operandZ ty.toNat x - operandZ ty.toNat y)) s
def execMul (h : Hdr) (d a b : Port) (ty : BitVec 5) (s : State) :=
  binaryWord (.mul h d a b ty) 1 3 d a b (fun x y => extendZ ty.toNat (operandZ ty.toNat x * operandZ ty.toNat y)) s
/-- The high half of the exact product (R151). -/
def mulHigh (ty : Nat) (x y : Word) : Word := extendZ ty ((operandZ ty x * operandZ ty y) / 2 ^ widthOf ty)
def execMulh (h : Hdr) (d a b : Port) (ty : BitVec 5) (s : State) :=
  binaryWord (.mulh h d a b ty) 1 3 d a b (mulHigh ty.toNat) s
def execMulhn (h : Hdr) (d a b : Port) (ty : BitVec 5) (s : State) :=
  binaryWord (.mulhn h d a b ty) 1 3 d a b (mulHigh ty.toNat) s
/-- The quotient (R152). -/
def quotient (ty : Nat) (x y : Word) : Word := extendZ ty (divRem (widthOf ty) (operandZ ty x) (operandZ ty y)).1
/-- The remainder (R152). -/
def remainder (ty : Nat) (x y : Word) : Word := extendZ ty (divRem (widthOf ty) (operandZ ty x) (operandZ ty y)).2
def execDiv (h : Hdr) (d a b : Port) (ty : BitVec 5) (s : State) :=
  binaryWord (.div h d a b ty) 1 (divLatency (widthOf ty.toNat)) d a b (quotient ty.toNat) s
def execDivn (h : Hdr) (d a b : Port) (ty : BitVec 5) (s : State) :=
  binaryWord (.divn h d a b ty) 1 (divLatency (widthOf ty.toNat)) d a b (quotient ty.toNat) s
def execRem (h : Hdr) (d a b : Port) (ty : BitVec 5) (s : State) :=
  binaryWord (.rem h d a b ty) 1 (divLatency (widthOf ty.toNat)) d a b (remainder ty.toNat) s
def execRemn (h : Hdr) (d a b : Port) (ty : BitVec 5) (s : State) :=
  binaryWord (.remn h d a b ty) 1 (divLatency (widthOf ty.toNat)) d a b (remainder ty.toNat) s
def execAnd (h : Hdr) (d a b : Port) (ty : BitVec 5) (s : State) :=
  binaryWord (.and h d a b ty) 0 1 d a b (fun x y => extendZ ty.toNat (x &&& y).toNat) s
def execOr (h : Hdr) (d a b : Port) (ty : BitVec 5) (s : State) :=
  binaryWord (.or h d a b ty) 0 1 d a b (fun x y => extendZ ty.toNat (x ||| y).toNat) s
def execXor (h : Hdr) (d a b : Port) (ty : BitVec 5) (s : State) :=
  binaryWord (.xor h d a b ty) 0 1 d a b (fun x y => extendZ ty.toNat (x ^^^ y).toNat) s
def execAndn (h : Hdr) (d a b : Port) (ty : BitVec 5) (s : State) :=
  binaryWord (.andn h d a b ty) 0 1 d a b (fun x y => extendZ ty.toNat (x &&& ~~~y).toNat) s
def execShl (h : Hdr) (d a b : Port) (ty : BitVec 5) (s : State) :=
  binaryWord (.shl h d a b ty) 0 1 d a b
    (fun x y => extendZ ty.toNat (operandN ty.toNat x * 2 ^ shiftCount ty.toNat y : Nat)) s
def execShr (h : Hdr) (d a b : Port) (ty : BitVec 5) (s : State) :=
  binaryWord (.shr h d a b ty) 0 1 d a b
    (fun x y => extendZ ty.toNat (operandN ty.toNat x / 2 ^ shiftCount ty.toNat y : Nat)) s
def execSar (h : Hdr) (d a b : Port) (ty : BitVec 5) (s : State) :=
  binaryWord (.sar h d a b ty) 0 1 d a b
    (fun x y => extendZ ty.toNat (operandZ ty.toNat x / 2 ^ shiftCount ty.toNat y)) s
def execRot (h : Hdr) (d a b : Port) (ty : BitVec 5) (s : State) :=
  binaryWord (.rot h d a b ty) 0 1 d a b
    (fun x y => extendZ ty.toNat (rotl (widthOf ty.toNat) (operandN ty.toNat x) (shiftCount ty.toNat y) : Nat)) s
def execCmp (h : Hdr) (d a b : Port) (cond : BitVec 3) (wd : BitVec 2) (s : State) :=
  binaryWord (.cmp h d a b cond wd) 0 1 d a b (fun x y => if cmpHolds cond wd x y then 1 else 0) s
def execMin (h : Hdr) (d a b : Port) (ty : BitVec 5) (s : State) :=
  binaryWord (.min h d a b ty) 0 1 d a b (fun x y => extendZ ty.toNat (min (operandZ ty.toNat x) (operandZ ty.toNat y))) s
def execMax (h : Hdr) (d a b : Port) (ty : BitVec 5) (s : State) :=
  binaryWord (.max h d a b ty) 0 1 d a b (fun x y => extendZ ty.toNat (max (operandZ ty.toNat x) (operandZ ty.toNat y))) s
def execMinn (h : Hdr) (d a b : Port) (ty : BitVec 5) (s : State) :=
  binaryWord (.minn h d a b ty) 0 1 d a b (fun x y => extendZ ty.toNat (min (operandZ ty.toNat x) (operandZ ty.toNat y))) s
def execMaxn (h : Hdr) (d a b : Port) (ty : BitVec 5) (s : State) :=
  binaryWord (.maxn h d a b ty) 0 1 d a b (fun x y => extendZ ty.toNat (max (operandZ ty.toNat x) (operandZ ty.toNat y))) s
def execClz (h : Hdr) (d a : Port) (ty : BitVec 5) (s : State) :=
  unaryWord (.clz h d a ty) 0 1 d a (fun x => extendZ ty.toNat (clzN (widthOf ty.toNat) (operandN ty.toNat x) : Nat)) s
def execPopc (h : Hdr) (d a : Port) (ty : BitVec 5) (s : State) :=
  unaryWord (.popc h d a ty) 0 1 d a (fun x => extendZ ty.toNat (popN (widthOf ty.toNat) (operandN ty.toNat x) : Nat)) s

/-- SEL (R155): both sources are read, and bit 0 of a predicate chooses. -/
def execSel (h : Hdr) (d a b : Port) (k : BitVec 5) (s : State) :=
  binaryWord (.sel h d a b k) 0 1 d a b
    (fun x y => if ((s.stream s.curCore s.curStream).readK k.toNat).getLsbD 0 then x else y) s

/-! ## Constants and transport (R157 to R159) -/

def execLdi (h : Hdr) (d : Port) (imm : BitVec 27) (s : State) :=
  issueWord (.ldi h d imm) s fun s => .done (s.deliverTo 0 1 d ((imm.signExtend 64).setWidth 1024))
def execLdih (h : Hdr) (d : Port) (imm : BitVec 27) (s : State) :=
  issueWord (.ldih h d imm) s fun s =>
    let x := s.readInt d
    .done (s.deliverTo 0 1 d ((x.1 <<< 27 ||| imm.setWidth 64).setWidth 1024))
/-- MOV copies a port whole, or a capability with its tag, and writes no latch. -/
def execMov (h : Hdr) (d a : Port) (s : State) :=
  issueWord (.mov h d a) s fun s =>
    if Encoding.isC d then
      let c := capOf s s.curCore s.curStream a
      .done (s.deliverTo 15 1 d (c.bits.setWidth 1024) 0 c.tag)
    else
      let x := s.read a
      .done (x.2.deliverTo 15 1 d (x.1.setWidth 1024))

/-! ## Capabilities (R163 to R167) -/

/-- FF_INFO of a capability word whose source is port a (R163, R452). -/
def capWordInfo (cause : CapCause) (a : Port) : Word :=
  match Encoding.view a with
  | .c n => capInfo cause n
  | _ => capInfo cause 0 true

/-- A capability word: reads the capability and its scalar, checks, and delivers to DST and CU.o with latency 2. -/
def capWord (i : Instr) (d a b : Port) (f : Cap → Word → Except CapCause Cap) (s : State) :
    Host.Outcome State Fault Refusal :=
  issueWord i s fun s =>
    let c := capOf s s.curCore s.curStream a
    let y := s.readInt b
    match f c y.1 with
    | .error cause => .trap y.2 3 (capWordInfo cause a)
    | .ok r => .done (y.2.deliverTo 8 2 d (r.bits.setWidth 1024) 0 r.tag)

/-- CAPADD (R165). -/
def capAdd (n : BitVec 3) (c : Cap) (y : Word) : Except CapCause Cap :=
  let z : Int := c.cur + y.toInt * 2 ^ n.toNat
  if !c.tag then .error .tag
  else if z < 0 ∨ (c.len : Int) < z then .error .bounds
  else .ok (c.put 0 32 z.toNat)
/-- CAPSET.win (R166). -/
def capWin (c : Cap) (y : Word) : Except CapCause Cap :=
  let off := slice y.toNat 0 32
  let ln := slice y.toNat 32 32
  if !c.tag then .error .tag
  else if !c.has 7 then .error .rights
  else if off % 64 ≠ 0 ∨ c.len < off + ln then .error .bounds
  else .ok (((c.put 64 32 (c.base + off / 64)).put 32 32 ln).put 0 32 0)
/-- CAPSET.rights. -/
def capRights (c : Cap) (y : Word) : Except CapCause Cap :=
  if !c.tag then .error .tag else .ok (c.put 96 8 (c.rights &&& y.setWidth 8).toNat)
/-- CAPSET.cur. -/
def capCur (c : Cap) (y : Word) : Except CapCause Cap :=
  if !c.tag then .error .tag
  else if c.len < y.toNat then .error .bounds
  else .ok (c.put 0 32 y.toNat)
/-- CAPSET.untag. -/
def capUntag (c : Cap) (_ : Word) : Except CapCause Cap := .ok { c with tag := false }

def execCapadd (h : Hdr) (d a b : Port) (n : BitVec 3) (s : State) := capWord (.capadd h d a b n) d a b (capAdd n) s
def execCapsetWin (h : Hdr) (d a b : Port) (s : State) := capWord (.capsetWin h d a b) d a b capWin s
def execCapsetRights (h : Hdr) (d a b : Port) (s : State) := capWord (.capsetRights h d a b) d a b capRights s
def execCapsetCur (h : Hdr) (d a b : Port) (s : State) := capWord (.capsetCur h d a b) d a b capCur s
def execCapsetUntag (h : Hdr) (d a b : Port) (s : State) := capWord (.capsetUntag h d a b) d a b capUntag s

/-- The field that CAPGET delivers (R167); LEN − CUR of a capability whose CUR lies beyond LEN has no stated value. -/
def capField (fld : Nat) (c : Cap) (open_ : Word) : Word :=
  match fld with
  | 0 => BitVec.ofNat 64 c.obj
  | 1 => c.rights.setWidth 64
  | 2 => BitVec.ofNat 64 c.base
  | 3 => BitVec.ofNat 64 c.len
  | 4 => BitVec.ofNat 64 c.cur
  | 5 => BitVec.ofNat 64 (b2n c.tag)
  | 6 => BitVec.ofNat 64 (c.base * 64 + c.cur)
  | _ => if c.len < c.cur then open_ else BitVec.ofNat 64 (c.len - c.cur)
def execCapget (h : Hdr) (d a : Port) (fld : BitVec 3) (s : State) :=
  issueWord (.capget h d a fld) s fun s =>
    let c := capOf s s.curCore s.curStream a
    if fld = 7 ∧ c.len < c.cur then
      let r := s.takeFree
      .done (r.2.deliverTo 8 2 d ((capField fld.toNat c r.1).setWidth 1024))
    else .done (s.deliverTo 8 2 d ((capField fld.toNat c 0).setWidth 1024))

end Sys2Proof.Machine
end

