-- ==== Sys2Proof/Machine/Vector.lean ====
section
/-! DEFINITION. Vector instructions, opcodes 0x20 to 0x4F but for the conversions (R168 to R185). -/

namespace Sys2Proof.Machine

/-! ## Shared operations -/

/-- What an immediate becomes in a lane (R79, R170): an integer or a bit pattern its low bits; a floating-point value converted
under RNE without a flag; an MX element's lane its low 8 bits. -/
def immBits (w : Nat) (x : Int) : Nat := (BitVec.ofInt w x).toNat
def immFloat (f : Fmt) (x : Int) : Nat := (intToFloat f .rne x).1
def immOf (ty : Nat) (x : Int) : Nat :=
  if ty < 8 then immBits (widthOf ty) x
  else if 13 ≤ ty ∧ ty ≤ 15 then immBits 8 x
  else immFloat (fmtOf ty) x

/-- Whether a type code is floating-point or FP8: computed on values. -/
def isFloatTy (ty : Nat) : Bool := 8 ≤ ty && !(13 ≤ ty && ty ≤ 15)

/-- The cursor's stream. -/
def State.here (s : State) : Stream := s.stream s.curCore s.curStream
/-- The old value of a destination that a word reads as an operand (R171). -/
def oldDst (s : State) (d : Port) : Vec := portValue s s.curCore s.curStream d

/-- A word with one source. -/
def vec1 (i : Instr) (unit lat : Nat) (d a : Port) (f : Vec → Vec × Flags) (s : State) : Host.Outcome State Fault Refusal :=
  issueWord i s fun s =>
    let x := s.read a
    let r := f x.1
    .done (x.2.deliverTo unit lat d (r.1.setWidth 1024) r.2)
/-- A word with two sources. -/
def vec2 (i : Instr) (unit lat : Nat) (d a b : Port) (f : Vec → Vec → Vec × Flags) (s : State) :
    Host.Outcome State Fault Refusal :=
  issueWord i s fun s =>
    let x := s.read a
    let y := x.2.read b
    let r := f x.1 y.1
    .done (y.2.deliverTo unit lat d (r.1.setWidth 1024) r.2)

/-- Collects lane results. -/
def gather (w : Nat) (rs : List (Nat × Flags)) : Vec × Flags := (fromLanes w (rs.map Prod.fst), orFlags (rs.map Prod.snd))
/-- The lanes of a vector. -/
def lanesOf (w : Nat) (x : Vec) : List Nat := (List.range (256 / w)).map (lane x w)
/-- Lane by lane. -/
def lanes1 (w : Nat) (f : Nat → Nat × Flags) (x : Vec) : Vec × Flags := gather w ((lanesOf w x).map f)
def lanes2 (w : Nat) (f : Nat → Nat → Nat × Flags) (x y : Vec) : Vec × Flags :=
  gather w ((List.range (256 / w)).map fun i => f (lane x w i) (lane y w i))
def lanes3 (w : Nat) (f : Nat → Nat → Nat → Nat × Flags) (x y z : Vec) : Vec × Flags :=
  gather w ((List.range (256 / w)).map fun i => f (lane x w i) (lane y w i) (lane z w i))

/-- A lane as an integer of its type. -/
def laneZ (ty n : Nat) : Int := if signedTy ty then sext (widthOf ty) n else n
/-- An integer modulo 2^w. -/
def wrapN (w : Nat) (z : Int) : Nat := (BitVec.ofInt w z).toNat
/-- A lane operation without flags. -/
def noFlag (n : Nat) : Nat × Flags := (n, 0)

/-- A two-source word of one lane type (R174). -/
def laneWord2 (i : Instr) (unit lat : Nat) (d a b : Port) (ty : Nat) (f : Nat → Nat → Nat × Flags) (s : State) :
    Host.Outcome State Fault Refusal :=
  vec2 i unit lat d a b (fun x y => lanes2 (widthOf ty) f (widen a x (widthOf ty) (immOf ty)) (widen b y (widthOf ty) (immOf ty))) s
/-- A one-source word of one lane type. -/
def laneWord1 (i : Instr) (unit lat : Nat) (d a : Port) (ty : Nat) (f : Nat → Nat × Flags) (s : State) :
    Host.Outcome State Fault Refusal :=
  vec1 i unit lat d a (fun x => lanes1 (widthOf ty) f (widen a x (widthOf ty) (immOf ty))) s
/-- A two-source word that also reads the old lanes of its destination (R171, R175). -/
def laneWord3 (i : Instr) (unit lat : Nat) (d a b : Port) (ty : Nat) (f : Nat → Nat → Nat → Nat × Flags) (s : State) :
    Host.Outcome State Fault Refusal :=
  vec2 i unit lat d a b (fun x y =>
    lanes3 (widthOf ty) f (widen a x (widthOf ty) (immOf ty)) (widen b y (widthOf ty) (immOf ty)) (oldDst s d)) s

/-! ## Lane arithmetic (R174 to R178) -/

/-- An operation of the integer lanes or of the floating-point lanes of a type. -/
def arith2 (ty : Nat) (fi : Int → Int → Int) (ff : Fmt → FVal → FVal → Nat × Flags) (x y : Nat) : Nat × Flags :=
  if isFloatTy ty then ff (fmtOf ty) ((fmtOf ty).val x) ((fmtOf ty).val y)
  else noFlag (wrapN (widthOf ty) (fi (laneZ ty x) (laneZ ty y)))

/-- The latency of VADD and VSUB (R172). -/
def addLatency (ty : Nat) : Nat := if isFloatTy ty then 3 else 2

def execVadd (h : Hdr) (d a b : Port) (ty : BitVec 5) (s : State) :=
  laneWord2 (.vadd h d a b ty) 2 (addLatency ty.toNat) d a b ty.toNat
    (arith2 ty.toNat (· + ·) fun f x y => addF f (rmOf s.here ty.toNat) x y) s
def execVsub (h : Hdr) (d a b : Port) (ty : BitVec 5) (s : State) :=
  laneWord2 (.vsub h d a b ty) 2 (addLatency ty.toNat) d a b ty.toNat
    (arith2 ty.toNat (· - ·) fun f x y => addF f (rmOf s.here ty.toNat) x y.neg) s
def execVmul (h : Hdr) (d a b : Port) (ty : BitVec 5) (s : State) :=
  laneWord2 (.vmul h d a b ty) 3 4 d a b ty.toNat
    (arith2 ty.toNat (· * ·) fun f x y => mulF f (rmOf s.here ty.toNat) x y) s
def execVmulh (h : Hdr) (d a b : Port) (ty : BitVec 5) (s : State) :=
  laneWord2 (.vmulh h d a b ty) 3 4 d a b ty.toNat
    (fun x y => noFlag (wrapN (widthOf ty.toNat) ((laneZ ty.toNat x * laneZ ty.toNat y) / 2 ^ widthOf ty.toNat))) s

/-- VMULW: the lower half of the lanes, with products of twice the width. -/
def mulWide (ty : Nat) (mode : RMode) (x y : Vec) : Vec × Flags :=
  let w := widthOf ty
  gather (2 * w) ((List.range (128 / w)).map fun i =>
    if isFloatTy ty then mulF fp32 mode ((fmtOf ty).val (lane x w i)) ((fmtOf ty).val (lane y w i))
    else noFlag (wrapN (2 * w) (laneZ ty (lane x w i) * laneZ ty (lane y w i))))
def execVmulw (h : Hdr) (d a b : Port) (ty : BitVec 5) (s : State) :=
  vec2 (.vmulw h d a b ty) 3 4 d a b (fun x y =>
    mulWide ty.toNat s.here.rm (widen a x (widthOf ty.toNat) (immOf ty.toNat))
      (widen b y (widthOf ty.toNat) (immOf ty.toNat))) s

/-- The fused forms (R175): (−1)^np × a × b + (−1)^nc × c, rounded once. -/
def fused (ty : Nat) (mode : RMode) (np nc : Bool) (x y z : Nat) : Nat × Flags :=
  if isFloatTy ty then
    let f := fmtOf ty
    let a := if np then (f.val x).neg else f.val x
    let c := if nc then (f.val z).neg else f.val z
    fmaF f mode a (f.val y) c
  else
    let p := laneZ ty x * laneZ ty y
    noFlag (wrapN (widthOf ty) ((if np then -p else p) + (if nc then -(laneZ ty z) else laneZ ty z)))
def execVfma (h : Hdr) (d a b : Port) (ty : BitVec 5) (s : State) :=
  laneWord3 (.vfma h d a b ty) 3 4 d a b ty.toNat (fused ty.toNat (rmOf s.here ty.toNat) false false) s
def execVfms (h : Hdr) (d a b : Port) (ty : BitVec 5) (s : State) :=
  laneWord3 (.vfms h d a b ty) 3 4 d a b ty.toNat (fused ty.toNat (rmOf s.here ty.toNat) false true) s
def execVfnma (h : Hdr) (d a b : Port) (ty : BitVec 5) (s : State) :=
  laneWord3 (.vfnma h d a b ty) 3 4 d a b ty.toNat (fused ty.toNat (rmOf s.here ty.toNat) true false) s

/-- The latency of VDIV (R172). -/
def vdivLatency (ty : Nat) : Nat := if isFloatTy ty then 12 else divLatency (widthOf ty)
def execVdiv (h : Hdr) (d a b : Port) (ty : BitVec 5) (s : State) :=
  laneWord2 (.vdiv h d a b ty) 5 (vdivLatency ty.toNat) d a b ty.toNat
    (arith2 ty.toNat (fun x y => (divRem (widthOf ty.toNat) x y).1) fun f x y => divF f (rmOf s.here ty.toNat) x y) s

/-- A one-source floating-point word. -/
def floatWord (i : Instr) (lat : Nat) (d a : Port) (ty : Nat) (f : Fmt → FVal → Nat × Flags) (s : State) :
    Host.Outcome State Fault Refusal :=
  laneWord1 i 5 lat d a ty (fun x => f (fmtOf ty) ((fmtOf ty).val x)) s
def execVsqrt (h : Hdr) (d a : Port) (ty : BitVec 5) (s : State) :=
  floatWord (.vsqrt h d a ty) 12 d a ty.toNat (fun f x => sqrtF f (rmOf s.here ty.toNat) x) s
def execVrcp (h : Hdr) (d a : Port) (ty : BitVec 5) (s : State) :=
  floatWord (.vrcp h d a ty) 8 d a ty.toNat (fun f x => rcpF f (rmOf s.here ty.toNat) x) s
def execVrsq (h : Hdr) (d a : Port) (ty : BitVec 5) (s : State) :=
  floatWord (.vrsq h d a ty) 8 d a ty.toNat (fun f x => rsqrtF f (rmOf s.here ty.toNat) x) s
def execVexp2 (h : Hdr) (d a : Port) (ty : BitVec 5) (s : State) :=
  laneWord1 (.vexp2 h d a ty) 5 10 d a ty.toNat (viaFp32 (fmtOf ty.toNat) exp2Core) s
def execVlog2 (h : Hdr) (d a : Port) (ty : BitVec 5) (s : State) :=
  laneWord1 (.vlog2 h d a ty) 5 12 d a ty.toNat (viaFp32 (fmtOf ty.toNat) log2Core) s

/-- The lesser or greater of two lanes (R174). -/
def minMaxLane (ty : Nat) (wantMax : Bool) (x y : Nat) : Nat × Flags :=
  if isFloatTy ty then minMaxF (fmtOf ty) wantMax x y
  else noFlag (if wantMax then (if laneZ ty x < laneZ ty y then y else x) else (if laneZ ty y < laneZ ty x then y else x))
def execVmin (h : Hdr) (d a b : Port) (ty : BitVec 5) (s : State) :=
  laneWord2 (.vmin h d a b ty) 2 2 d a b ty.toNat (minMaxLane ty.toNat false) s
def execVmax (h : Hdr) (d a b : Port) (ty : BitVec 5) (s : State) :=
  laneWord2 (.vmax h d a b ty) 2 2 d a b ty.toNat (minMaxLane ty.toNat true) s
def execVabs (h : Hdr) (d a : Port) (ty : BitVec 5) (s : State) :=
  laneWord1 (.vabs h d a ty) 2 2 d a ty.toNat (fun x => noFlag (
    if isFloatTy ty.toNat then x % 2 ^ (widthOf ty.toNat - 1)
    else wrapN (widthOf ty.toNat) (laneZ ty.toNat x).natAbs)) s
def execVneg (h : Hdr) (d a : Port) (ty : BitVec 5) (s : State) :=
  laneWord1 (.vneg h d a ty) 2 2 d a ty.toNat (fun x => noFlag (
    if isFloatTy ty.toNat then x ^^^ 2 ^ (widthOf ty.toNat - 1)
    else wrapN (widthOf ty.toNat) (-(laneZ ty.toNat x)))) s
def execVand (h : Hdr) (d a b : Port) (ty : BitVec 5) (s : State) :=
  laneWord2 (.vand h d a b ty) 2 2 d a b ty.toNat (fun x y => noFlag (x &&& y)) s
def execVor (h : Hdr) (d a b : Port) (ty : BitVec 5) (s : State) :=
  laneWord2 (.vor h d a b ty) 2 2 d a b ty.toNat (fun x y => noFlag (x ||| y)) s
def execVxor (h : Hdr) (d a b : Port) (ty : BitVec 5) (s : State) :=
  laneWord2 (.vxor h d a b ty) 2 2 d a b ty.toNat (fun x y => noFlag (x ^^^ y)) s
def execVshl (h : Hdr) (d a b : Port) (ty : BitVec 5) (s : State) :=
  laneWord2 (.vshl h d a b ty) 2 2 d a b ty.toNat
    (fun x y => noFlag (x * 2 ^ (y % widthOf ty.toNat) % 2 ^ widthOf ty.toNat)) s
def execVshr (h : Hdr) (d a b : Port) (ty : BitVec 5) (s : State) :=
  laneWord2 (.vshr h d a b ty) 2 2 d a b ty.toNat (fun x y => noFlag (x / 2 ^ (y % widthOf ty.toNat))) s
def execVsar (h : Hdr) (d a b : Port) (ty : BitVec 5) (s : State) :=
  laneWord2 (.vsar h d a b ty) 2 2 d a b ty.toNat
    (fun x y => noFlag (wrapN (widthOf ty.toNat) (laneZ ty.toNat x / 2 ^ (y % widthOf ty.toNat)))) s
def execVpopc (h : Hdr) (d a : Port) (ty : BitVec 5) (s : State) :=
  laneWord1 (.vpopc h d a ty) 2 2 d a ty.toNat (fun x => noFlag (popN (widthOf ty.toNat) x)) s
def execVclz (h : Hdr) (d a : Port) (ty : BitVec 5) (s : State) :=
  laneWord1 (.vclz h d a ty) 2 2 d a ty.toNat (fun x => noFlag (clzN (widthOf ty.toNat) x)) s

/-! ## Compare, select and merge (R179, R180) -/

/-- A mask with bit i set where lane i meets a condition. -/
def laneMask (w : Nat) (f : Nat → Nat → Bool × Flags) (x y : Vec) : Vec × Flags :=
  let rs := (List.range (256 / w)).map fun i => f (lane x w i) (lane y w i)
  (BitVec.ofNat 256 (flagBits (rs.map Prod.fst)), orFlags (rs.map Prod.snd))
/-- An integer condition of VCMP. -/
def vcmpInt (w c x y : Nat) : Bool × Flags :=
  (match c with
    | 0 => x == y
    | 1 => x != y
    | 2 => sext w x < sext w y
    | _ => x < y, 0)
/-- A floating-point condition of VCMP. -/
def vcmpFloat (f : Fmt) (c x y : Nat) : Bool × Flags :=
  let a := f.val x
  let b := f.val y
  let nan := a.isNan || b.isNan
  let nv := if (c = 1 ∨ c = 2) ∧ nan then fNV else snanFlag [a, b]
  (match c with
    | 0 => !nan && eqVal a b
    | 1 => !nan && ltVal a b
    | 2 => !nan && (ltVal a b || eqVal a b)
    | _ => nan, nv)
/-- The lane format of a floating-point VCMP. -/
def vcmpFmt (md : Nat) : Fmt := if md < 20 then fp32 else if md < 24 then fp16 else bf16
def execVcmp (h : Hdr) (d a b : Port) (md : BitVec 5) (s : State) :=
  vec2 (.vcmp h d a b md) 2 2 d a b (fun x y =>
    let m := md.toNat
    if m < 16 then
      let w := 8 * 2 ^ (m % 4)
      laneMask w (vcmpInt w (m / 4)) (widen a x w (immBits w)) (widen b y w (immBits w))
    else
      let f := vcmpFmt m
      laneMask f.size (vcmpFloat f (m % 4)) (widen a x f.size (immFloat f)) (widen b y f.size (immFloat f))) s

/-- A source of type set P: an immediate is a bit pattern. -/
def widenP (p : Port) (raw : Vec) (ty : Nat) : Vec := widen p raw (widthOf ty) (immBits (widthOf ty))

def execVsel (h : Hdr) (d a b : Port) (ty : BitVec 5) (s : State) :=
  vec2 (.vsel h d a b ty) 2 2 d a b (fun x m =>
    let w := widthOf ty.toNat
    let v := widenP a x ty.toNat
    let old := oldDst s d
    (fromLanes w ((List.range (256 / w)).map fun i =>
      if i < 32 && m.getLsbD i then lane v w i else lane old w i), 0)) s
def execVmerge (h : Hdr) (d a b : Port) (ty : BitVec 5) (s : State) :=
  vec2 (.vmerge h d a b ty) 2 2 d a b (fun x y =>
    let old := oldDst s d
    ((widenP a x ty.toNat &&& old) ||| (widenP b y ty.toNat &&& ~~~old), 0)) s

/-! ## Dot products (R181) -/

/-- FP32 c plus exact products, rounded once; opposite infinities and 0 × ∞ set NV. -/
def dotFloat (mode : RMode) (c : FVal) (ps : List (FVal × FVal)) : Nat × Flags :=
  let ms := ps.map fun p => mulVal p.1 p.2
  let ts := c :: ms.map Prod.fst
  let infs := ts.filter FVal.isInf
  let opposite : Flags := if infs.any FVal.isNeg && infs.any (fun x => !x.isNeg) then fNV else 0
  let r := sumTerms fp32 mode ts
  (r.1, r.2 ||| opposite ||| snanFlag [c] ||| orFlags (ms.map Prod.snd))
/-- A lane of a dot product as an integer: signed or unsigned by type, or an MX element (R102). -/
def dotZ (ty n : Nat) : Int := if 13 ≤ ty ∧ ty ≤ 15 then sext (mxBits ty) (n % 2 ^ mxBits ty) else laneZ ty n
/-- The eight accumulators of VDOT4 and VDOT2: `per` products of w-bit lanes each. -/
def dotProduct (ty per : Nat) (mode : RMode) (x y old : Vec) : Vec × Flags :=
  let w := widthOf ty
  gather 32 ((List.range 8).map fun j =>
    let c := lane old 32 j
    let ts := (List.range per).map fun t => (lane x w (per * j + t), lane y w (per * j + t))
    if isFloatTy ty then dotFloat mode (fp32.val c) (ts.map fun t => ((fmtOf ty).val t.1, (fmtOf ty).val t.2))
    else noFlag (wrapN 32 (ts.foldl (fun acc t => acc + dotZ ty t.1 * dotZ ty t.2) (c : Int))))
/-- A dot-product word. -/
def dotWord (i : Instr) (d a b : Port) (ty per : Nat) (s : State) : Host.Outcome State Fault Refusal :=
  vec2 i 3 4 d a b (fun x y =>
    dotProduct ty per s.here.rm (widen a x (widthOf ty) (immOf ty)) (widen b y (widthOf ty) (immOf ty)) (oldDst s d)) s
def execVdot4 (h : Hdr) (d a b : Port) (ty : BitVec 5) (s : State) := dotWord (.vdot4 h d a b ty) d a b ty.toNat 4 s
def execVdot2 (h : Hdr) (d a b : Port) (ty : BitVec 5) (s : State) := dotWord (.vdot2 h d a b ty) d a b ty.toNat 2 s

/-! ## Reductions, scans and the carry-less product (R182 to R184) -/

/-- The sum of two lanes, rounded once (R182, R183). -/
def sumLane (ty : Nat) (mode : RMode) (x y : Nat) : Nat × Flags :=
  arith2 ty (· + ·) (fun f a b => addF f mode a b) x y
/-- The identity of a sum: 0 or −0. -/
def sumIdentity (ty : Nat) : Nat := if isFloatTy ty then (fmtOf ty).signBit else 0
/-- The identity of a maximum: the type's minimum or −∞. -/
def maxIdentity (ty : Nat) : Nat :=
  if isFloatTy ty then (fmtOf ty).signBit + (fmtOf ty).inf else if signedTy ty then 2 ^ (widthOf ty - 1) else 0
/-- The lanes with the identity where the mask has 0. -/
def maskedLanes (w : Nat) (x : Vec) (mask : Vec) (ident : Nat) : List Nat :=
  (List.range (256 / w)).map fun i => if i < 32 && mask.getLsbD i then lane x w i else ident
/-- One level of the tree: neighbours combined in pairs. -/
def pairUp (op : Nat → Nat → Nat × Flags) : List Nat → List Nat × Flags
  | x :: y :: t => let r := op x y; let u := pairUp op t; (r.1 :: u.1, r.2 ||| u.2)
  | l => (l, 0)
/-- The fixed tree of R182, by levels. -/
def treeReduce (op : Nat → Nat → Nat × Flags) : Nat → List Nat → Nat × Flags
  | 0, l => (l.headD 0, 0)
  | n + 1, l => let u := pairUp op l; let r := treeReduce op n u.1; (r.1, u.2 ||| r.2)
/-- The levels of the tree over n lanes of width w. -/
def treeDepth (w : Nat) : Nat := if w = 8 then 5 else if w = 16 then 4 else if w = 32 then 3 else 2
/-- One step of the scan with distance dist, all lanes reading the values before it (R183). -/
def scanStep (op : Nat → Nat → Nat × Flags) (dist : Nat) (l : List Nat) : List Nat × Flags :=
  let rs := (List.range l.length).map fun i =>
    if dist ≤ i then op (l.getD (i - dist) 0) (l.getD i 0) else (l.getD i 0, 0)
  (rs.map Prod.fst, orFlags (rs.map Prod.snd))
/-- The scan of R183. -/
def scanLanes (op : Nat → Nat → Nat × Flags) (w : Nat) (l : List Nat) : List Nat × Flags :=
  ([1, 2, 4, 8, 16].filter (· < 256 / w)).foldl
    (fun acc dist => let r := scanStep op dist acc.1; (r.1, acc.2 ||| r.2)) (l, 0)

/-- A lane of a floating-point result: a NaN is the canonical one (R173). -/
def canonLane (ty x : Nat) : Nat := if isFloatTy ty && ((fmtOf ty).val x).isNan then (fmtOf ty).nan else x

def execVreds (h : Hdr) (d a b : Port) (ty : BitVec 5) (s : State) :=
  vec2 (.vreds h d a b ty) 2 6 d a b (fun x m =>
    let w := widthOf ty.toNat
    let r := treeReduce (sumLane ty.toNat (rmOf s.here ty.toNat)) (treeDepth w)
      (maskedLanes w (widen a x w (immOf ty.toNat)) m (sumIdentity ty.toNat))
    (BitVec.ofNat 256 r.1, r.2)) s
def execVredx (h : Hdr) (d a b : Port) (ty : BitVec 5) (s : State) :=
  vec2 (.vredx h d a b ty) 2 6 d a b (fun x m =>
    let w := widthOf ty.toNat
    let r := treeReduce (minMaxLane ty.toNat true) (treeDepth w)
      (maskedLanes w (widen a x w (immOf ty.toNat)) m (maxIdentity ty.toNat))
    (BitVec.ofNat 256 r.1, r.2)) s
def execVscan (h : Hdr) (d a b : Port) (ty : BitVec 5) (s : State) :=
  vec2 (.vscan h d a b ty) 2 7 d a b (fun x m =>
    let w := widthOf ty.toNat
    let r := scanLanes (sumLane ty.toNat (rmOf s.here ty.toNat)) w
      (maskedLanes w (widen a x w (immOf ty.toNat)) m (sumIdentity ty.toNat))
    (fromLanes w (r.1.map (canonLane ty.toNat)), r.2)) s

/-- The carry-less product of R184. -/
def clmulN (w a b : Nat) : Nat :=
  (List.range w).foldl (fun r j => if a.testBit j then r ^^^ (b * 2 ^ j % 2 ^ w) else r) 0
def execVclmul (h : Hdr) (d a b : Port) (ty : BitVec 5) (s : State) :=
  laneWord2 (.vclmul h d a b ty) 3 4 d a b ty.toNat (fun x y => noFlag (clmulN (widthOf ty.toNat) x y)) s

/-! ## Permutes (R185) -/

/-- A permute: lane i of the result from the lanes of SRCA, its control operand, and i; none gives 0. -/
def permWord (i : Instr) (d a b : Port) (ty : Nat) (pick : Vec → Nat → Option Nat) (s : State) :
    Host.Outcome State Fault Refusal :=
  vec2 i 4 3 d a b (fun x y =>
    let w := widthOf ty
    let v := widenP a x ty
    (fromLanes w ((List.range (256 / w)).map fun k => match pick y k with | some j => lane v w j | none => 0), 0)) s

/-- The source lane of a VSHUF pattern, with n lanes. -/
def shuffleLane (n pattern i : Nat) : Option Nat :=
  let h := n / 2
  match pattern with
  | 0 => some (n - 1 - i)
  | 1 => some (i ^^^ 1)
  | 2 => some (if i < h then 2 * i else 2 * (i - h) + 1)
  | 3 => some (if i % 2 = 0 then i / 2 else h + (i - 1) / 2)
  | 4 => some ((i + h) % n)
  | 5 => some (if i < h then h - 1 - i else n - 1 - (i - h))
  | 6 => some i
  | _ => none
/-- Mask bits set below i. -/
def maskBelow (m : Vec) (i : Nat) : Nat := popN (min i 32) m.toNat
/-- The index of the i-th set bit of a mask among n lanes. -/
def nthSet (m : Vec) (n i : Nat) : Option Nat := ((List.range n).filter fun j => j < 32 && m.getLsbD j)[i]?

def execVperm (h : Hdr) (d a b : Port) (ty : BitVec 5) (s : State) :=
  permWord (.vperm h d a b ty) d a b ty.toNat
    (fun y i => some (lane (widenP b y ty.toNat) (widthOf ty.toNat) i % (256 / widthOf ty.toNat))) s
def execVshuf (h : Hdr) (d a b : Port) (ty : BitVec 5) (s : State) :=
  permWord (.vshuf h d a b ty) d a b ty.toNat (fun y i => shuffleLane (256 / widthOf ty.toNat) (y.toNat % 8) i) s
def execVbcast (h : Hdr) (d a b : Port) (ty : BitVec 5) (s : State) :=
  permWord (.vbcast h d a b ty) d a b ty.toNat (fun y _ => some (y.toNat % 2 ^ 64 % (256 / widthOf ty.toNat))) s
def execVslide (h : Hdr) (d a b : Port) (ty : BitVec 5) (s : State) :=
  permWord (.vslide h d a b ty) d a b ty.toNat (fun y i =>
    let k : Int := i + (y.setWidth 64).toInt
    if 0 ≤ k ∧ k < (256 / widthOf ty.toNat : Nat) then some k.toNat else none) s
def execVcompr (h : Hdr) (d a b : Port) (ty : BitVec 5) (s : State) :=
  permWord (.vcompr h d a b ty) d a b ty.toNat (fun y i => nthSet y (256 / widthOf ty.toNat) i) s
def execVexpnd (h : Hdr) (d a b : Port) (ty : BitVec 5) (s : State) :=
  permWord (.vexpnd h d a b ty) d a b ty.toNat
    (fun y i => if i < 32 && y.getLsbD i then some (maskBelow y i) else none) s
def execViota (h : Hdr) (d a : Port) (ty : BitVec 5) (s : State) :=
  vec1 (.viota h d a ty) 4 3 d a (fun m =>
    let w := widthOf ty.toNat
    (fromLanes w ((List.range (256 / w)).map fun i => maskBelow m i), 0)) s

end Sys2Proof.Machine
end

