-- ==== Sys2Proof/Machine/Convert.lean ====
section
/-! DEFINITION. Conversions (R186 to R190) and the predicate instructions (R191). -/

namespace Sys2Proof.Machine

/-- A source of a conversion: an immediate becomes a lane of the source type; LANEID counts in lanes of the word's type
(log 27). -/
def widenConv (p : Port) (raw : Vec) (ty srcTy : Nat) : Vec :=
  if p == 0x2C2 then fromLanes (widthOf ty) (List.range (256 / widthOf ty))
  else widen p raw (widthOf srcTy) (immOf srcTy)

/-- One lane converted from type st to type ty (R111 to R113). -/
def convLane (mode : RMode) (ty st x : Nat) : Nat × Flags :=
  let w := widthOf ty
  if isFloatTy st then
    if isFloatTy ty then convF (fmtOf ty) mode ((fmtOf st).val x)
    else let r := floatToInt mode w (signedTy ty) ((fmtOf st).val x); (wrapN w r.1, r.2)
  else if isFloatTy ty then intToFloat (fmtOf ty) mode (laneZ st x)
  else let r := clampInt w (signedTy ty) (laneZ st x); (wrapN w r.1, if r.2 then fSAT else 0)

/-- VCVT: as many lanes as both types have, the others 0. -/
def convVec (mode : RMode) (ty st : Nat) (x : Vec) : Vec × Flags :=
  gather (widthOf ty) ((List.range (256 / max (widthOf ty) (widthOf st))).map fun i =>
    convLane mode ty st (lane x (widthOf st) i))
def execVcvt (h : Hdr) (d a : Port) (st ty : BitVec 5) (s : State) :=
  vec1 (.vcvt h d a st ty) 4 3 d a (fun x =>
    convVec (rmOf s.here ty.toNat) ty.toNat st.toNat (widenConv a x ty.toNat st.toNat)) s

/-- The source type of VPACK: twice the width in the same family. -/
def packSource (ty : Nat) : Nat := if isFloatTy ty then 8 else ty + 1
def execVpack (h : Hdr) (d a b : Port) (ty : BitVec 5) (s : State) :=
  vec2 (.vpack h d a b ty) 4 3 d a b (fun x y =>
    let t := ty.toNat
    let st := packSource t
    let half (v : Vec) := (lanesOf (widthOf st) v).map (convLane s.here.rm t st)
    gather (widthOf t) (half (widenConv a x t st) ++ half (widenConv b y t st))) s

/-- The result type of VUNPK: twice the width. -/
def unpackType (ty : Nat) : Nat := if ty = 11 ∨ ty = 12 then 9 else if isFloatTy ty then 8 else ty + 1
def execVunpk (h : Hdr) (d a b : Port) (ty : BitVec 5) (s : State) :=
  vec2 (.vunpk h d a b ty) 4 3 d a b (fun x y =>
    let t := ty.toNat
    let w := widthOf t
    let v := widen a x w (immOf t)
    let n := 128 / w
    gather (2 * w) ((List.range n).map fun i =>
      convLane .rne (unpackType t) t (lane v w (b2n (y.getLsbD 0) * n + i)))) s
def execVround (h : Hdr) (d a : Port) (ty : BitVec 5) (s : State) :=
  laneWord1 (.vround h d a ty) 4 3 d a ty.toNat (roundIntegral (fmtOf ty.toNat) (rmOf s.here ty.toNat)) s

/-- An element of VQNT (R189): a NaN or infinity gives 0 and sets NV; the scale 0xFF gives 0 without a flag. -/
def quantElem (k scale : Nat) (mode : RMode) (x : Nat) : Int × Flags :=
  if scale = 0xFF then (0, 0)
  else match fp32.val x with
    | .fin n m e => mxElem k scale mode (.fin n m e)
    | _ => (0, fNV)
/-- VQNT: eight FP32 lanes into quarter q of the old destination. -/
def quantVec (ty : Nat) (mode : RMode) (x ctl old : Vec) : Vec × Flags :=
  let scale := slice ctl.toNat 0 8
  let q := slice ctl.toNat 8 2
  let es := (List.range 8).map fun i => quantElem (mxBits ty) scale mode (lane x 32 i)
  (fromLanes 8 ((List.range 32).map fun i =>
    if i / 8 = q then wrapN 8 (es.getD (i % 8) (0, 0)).1 else lane old 8 i), orFlags (es.map Prod.snd))
def execVqnt (h : Hdr) (d a b : Port) (ty : BitVec 5) (s : State) :=
  vec2 (.vqnt h d a b ty) 4 3 d a b (fun x y =>
    quantVec ty.toNat s.here.rm (widenConv a x ty.toNat 8) y (oldDst s d)) s
/-- VDQNT (R190): exact, but for −2^128 (element −2^(k−1) under S = 0xFE), which FP32 does not hold: it is rounded as any other
overflow (DESIGN CHOICE, log 111). -/
def dequantVec (ty : Nat) (x ctl : Vec) : Vec × Flags :=
  let k := mxBits ty
  gather 32 ((List.range 8).map fun i =>
    let e := sext k (lane x 8 (8 * slice ctl.toNat 8 2 + i) % 2 ^ k)
    fp32.make .rne (mxVal k (slice ctl.toNat 0 8) e))
def execVdqnt (h : Hdr) (d a b : Port) (ty : BitVec 5) (s : State) :=
  vec2 (.vdqnt h d a b ty) 4 3 d a b (fun x y => dequantVec ty.toNat (widen a x 8 (immBits 8)) y) s

/-! ## Predicates (R191) -/

/-- A predicate word: 32-bit operands and result, unit KU, latency 1. -/
def kWord2 (i : Instr) (d a b : Port) (f : BitVec 32 → BitVec 32 → BitVec 32) (s : State) :
    Host.Outcome State Fault Refusal :=
  binaryWord i 6 1 d a b (fun x y => (f (x.setWidth 32) (y.setWidth 32)).setWidth 64) s
def kWord1 (i : Instr) (d a : Port) (f : Word → BitVec 32) (s : State) : Host.Outcome State Fault Refusal :=
  unaryWord i 6 1 d a (fun x => (f x).setWidth 64) s

def execKand (h : Hdr) (d a b : Port) (s : State) := kWord2 (.kand h d a b) d a b (· &&& ·) s
def execKor (h : Hdr) (d a b : Port) (s : State) := kWord2 (.kor h d a b) d a b (· ||| ·) s
def execKxor (h : Hdr) (d a b : Port) (s : State) := kWord2 (.kxor h d a b) d a b (· ^^^ ·) s
def execKnot (h : Hdr) (d a : Port) (s : State) := kWord1 (.knot h d a) d a (fun x => ~~~(x.setWidth 32)) s
def execKpopc (h : Hdr) (d a : Port) (s : State) :=
  kWord1 (.kpopc h d a) d a (fun x => BitVec.ofNat 32 (popN 32 x.toNat)) s
def execKfirst (h : Hdr) (d a : Port) (s : State) :=
  kWord1 (.kfirst h d a) d a (fun x => BitVec.ofNat 32 (firstSet 32 x.toNat)) s
def execKmov (h : Hdr) (d a : Port) (s : State) := kWord1 (.kmov h d a) d a (fun x => x.setWidth 32) s
def execKmovFirst (h : Hdr) (d a : Port) (s : State) :=
  kWord1 (.kmovFirst h d a) d a (fun x => BitVec.ofNat 32 (2 ^ (min x.toNat 32) - 1)) s

end Sys2Proof.Machine
end

