-- ==== Sys2Proof/Machine/Memory.lean ====
section
/-! DEFINITION. Storage: tiles and their layout (R244 to R247), capability checks (R273, R418), translation (R420 to R424),
coherence points, CACHE, provisional data and tags (R249, R263 to R265, R426, R458). -/

namespace Sys2Proof.Machine

/-! ## Tile descriptors (R244 to R246) -/

def dValid (d : Word) : Bool := d.getLsbD 63
def dTstore (d : Word) : Bool := d.getLsbD 62
def dBound (d : Word) : Bool := d.getLsbD 61
def dFmt (d : Word) : Nat := slice d.toNat 56 5
def dRows (d : Word) : Nat := slice d.toNat 43 13 + 1
def dCols (d : Word) : Nat := slice d.toNat 30 13 + 1
def dEdge (d : Word) : Nat := if d.getLsbD 29 then 32 else 16
/-- Bytes of the footprint. -/
def dFoot (d : Word) : Nat := slice d.toNat 0 29 * 32
/-- MXINT element types. -/
def isMx (fmt : Nat) : Bool := 13 ≤ fmt && fmt ≤ 15
/-- Bytes of an element that is no MXINT. -/
def elemBytes (fmt : Nat) : Nat := widthOf fmt / 8
/-- The pitch of a row (R245). -/
def dPitch (d : Word) : Nat := (dCols d * elemBytes (dFmt d) + 31) / 32 * 32
/-- Bytes of a tile (R245). -/
def tileSize (d : Word) : Nat :=
  if isMx (dFmt d) then
    dRows d * dCols d * mxBits (dFmt d) / 8 + (dRows d / dEdge d) * (dCols d / dEdge d)
  else dRows d * dPitch d
/-- FOOT of a shape, in 32 B units (R246). -/
def footUnits (d : Word) : Nat := (tileSize d + 255) / 256 * 8
/-- The bit at which element (i, j) of an MXINT image stands: row-major in its block, blocks row-major (R101). -/
def mxBit (cols edge k i j : Nat) : Nat :=
  (((i / edge) * (cols / edge) + j / edge) * (edge * edge) + (i % edge) * edge + j % edge) * k
/-- The byte of the scale of the block that holds (i, j) of an MXINT tile. -/
def mxScaleByte (d : Word) (i j : Nat) : Nat :=
  dRows d * dCols d * mxBits (dFmt d) / 8 + (i / dEdge d) * (dCols d / dEdge d) + j / dEdge d

/-! ## Tile storage -/

/-- The ring slot that a sensor tile's name leads to, while it still holds that tile (R312, R313). -/
def State.ringTile (s : State) (t : SensorTile) : Option (Nat × RingTile) :=
  (s.sensor t.stream).tiles.find? fun x => x.1 == t.slot && x.2.frame == t.frame && x.2.tile == t.tile
/-- The header of a tile: the row of 32 B beyond its shape (R312, R335). -/
def RingTile.header (t : RingTile) : List Byte :=
  leBytes 8 t.first.toNat ++ leBytes 8 t.last.toNat ++ leBytes 8 t.validity.toNat ++ leBytes 4 t.frame ++ leBytes 4 (t.tile % 65536)
/-- The bytes of the storage that a handle names; a BOUND handle has its header row behind the image (R335). -/
def State.tileBytes (s : State) (c : Nat) (h : Handle) : Memory :=
  match h.bound with
  | some t => match s.ringTile t with
    | some x => wrBytes x.2.bytes (dRows h.desc * dPitch h.desc) x.2.header
    | none => []
  | none => ((s.sh c).tile h.tile).bytes
/-- n bytes of a tile image. -/
def State.tileRead (s : State) (c : Nat) (h : Handle) (off n : Nat) : List Byte :=
  let m := s.tileBytes c h
  rdBytes m off n
/-- Writes bytes of a POOL or TSTORE tile. -/
def State.tileWrite (s : State) (c : Nat) (h : Handle) (off : Nat) (bs : List Byte) : State :=
  match h.bound with
  | some _ => s
  | none => (s.modSh c fun x =>
    let t := x.tile h.tile
    x.setTile h.tile { t with bytes := wrBytes t.bytes off bs }).heal fun m => match m with
      | .tile d t w => d == c && t == h.tile && wordIn w off bs.length
      | _ => false

/-- Bytes that the elements of a shape hold (R232): neither row padding nor scale bytes count. -/
def elemTotal (d : Word) : Nat :=
  dRows d * dCols d * (if isMx (dFmt d) then mxBits (dFmt d) else 8 * elemBytes (dFmt d)) / 8
/-- Where bit q of a tile's elements, taken in row-major order, stands in its image (R101, R232, R245). -/
def elemBit (d : Word) (q : Nat) : Nat :=
  if isMx (dFmt d) then
    let k := mxBits (dFmt d)
    mxBit (dCols d) (dEdge d) k (q / k / dCols d) (q / k % dCols d) + q % k
  else
    let row := 8 * elemBytes (dFmt d) * dCols d
    q / row * (8 * dPitch d) + q % row
/-- The first n bytes of a tile's elements in row-major order (R232). -/
def State.elemRead (s : State) (c : Nat) (h : Handle) (n : Nat) : List Byte :=
  let m := s.tileBytes c h
  if isMx (dFmt h.desc) && mxBits (dFmt h.desc) != 8 then
    (List.range n).map fun b => BitVec.ofNat 8 (flagBits ((List.range 8).map fun i =>
      let z := elemBit h.desc (8 * b + i)
      (rdByte m (z / 8)).getLsbD (z % 8)))
  else (List.range n).map fun b => rdByte m (elemBit h.desc (8 * b) / 8)
/-- A tile image with bit z set to v. -/
def wrBit (m : Memory) (z : Nat) (v : Bool) : Memory :=
  wrByte m (z / 8) (putBits (rdByte m (z / 8)) (z % 8) 1 (b2n v))
/-- Writes the first bytes of a POOL tile's elements in row-major order (R232). -/
def State.elemWrite (s : State) (c : Nat) (h : Handle) (bs : List Byte) : State :=
  match h.bound with
  | some _ => s
  | none => State.heal (p := fun m => match m with
      | .tile d t w => d == c && t == h.tile && (List.range 8).all fun j => (List.range bs.length).any fun b => elemBit h.desc (8 * b) / 8 == 8 * w + j
      | _ => false) <| s.modSh c fun x =>
    let t := x.tile h.tile
    let m :=
      if isMx (dFmt h.desc) && mxBits (dFmt h.desc) != 8 then
        (List.range (8 * bs.length)).foldl (fun m q => wrBit m (elemBit h.desc q) ((bs.getD (q / 8) 0).getLsbD (q % 8))) t.bytes
      else (List.range bs.length).foldl (fun m b => wrByte m (elemBit h.desc (8 * b) / 8) (bs.getD b 0)) t.bytes
    x.setTile h.tile { t with bytes := m }

/-- Whether a queued or running command, or an access, of core x names tile storage n that a handle names. -/
def Core.namesTile (x : Core) (p : Handle → Bool) : Bool :=
  x.sh.engines.any (fun e =>
      (e.2.queue.any fun c => c.tiles.any fun t => p t.2) ||
      (match e.2.run with | some r => r.cmd.tiles.any (fun t => p t.2) | none => false)) ||
    x.acc.any fun a => p a.handle && (a.kind == .tileLoad || a.kind == .tileStore)
/-- Releases the storage of freed tiles that no command names any more (R290). -/
def State.sweepTiles (s : State) (c : Nat) : State :=
  let x := s.core c
  let gone := x.sh.tiles.filter fun t => t.2.freed && !x.namesTile fun h => h.tile == t.1 && h.bound.isNone
  let ts := (gone.filter fun t => t.2.tstore).foldl (fun acc t => acc + t.2.foot) 0
  let s := gone.foldl (fun (s : State) t => s.modSh c fun y => { y with tiles := tabDel y.tiles t.1 }) s
  if ts = 0 then s else s.modCtx (s.task c).ctx fun k => { k with tsUsed := k.tsUsed - ts }
/-- TFREE (R290): the storage goes at the end of a cycle in which no command names it. -/
def State.freeHandle (s : State) (c h : Nat) : State :=
  let v := (s.sh c).handle h
  if !dValid v.desc then s
  else
    s.modSh c fun x =>
      let x := x.setHandle h { v with desc := v.desc &&& ~~~(0xA000000000000000 : Word), bound := none }
      if v.bound.isSome then x else
        match x.tiles.find? (·.1 == v.tile) with
        | some t => x.setTile v.tile { t.2 with freed := true }
        | none => x
/-- The bytes of live POOL tiles (R246, R290). -/
def Shared.poolUsed (x : Shared) : Nat := (x.tiles.filter fun t => !t.2.tstore).foldl (fun acc t => acc + t.2.foot) 0
/-- The bytes of SCR that a POOL tile may use: the smaller of old and new while a request is pending (R242). -/
def Shared.scrRoom (x : Shared) : Nat :=
  (if x.poolReq.pending then min x.pool.scr x.poolReq.want.scr else x.pool.scr) * 32768
/-- The lines that CACHE may hold: the smaller of old and new while a request is pending (R241, R249). -/
def Shared.cacheRoom (x : Shared) : Nat :=
  (if x.poolReq.pending then min x.pool.cache x.poolReq.want.cache else x.pool.cache) * 256

/-! ## Capability checks at issue (R273) -/

/-- The checks of R273 on size bytes at position p, in order. -/
def capCheck (c : Cap) (rights : List Nat) (p : Int) (size : Nat) (aligned : Bool) : Option CapCause :=
  if !c.tag then some .tag
  else if rights.any fun r => !c.has r then some .rights
  else if p < 0 ∨ (c.len : Int) < p + size then some .bounds
  else if aligned && (p.toNat + c.base * 64) % size != 0 then some .align
  else none

/-! ## Translation (R420 to R424) -/

/-- What translation of one byte gives. -/
inductive Xlat where
  | ok (host : Bool) (pa : Nat)
  | fault (cause : CapCause)
  | absent (page : Nat)
  | migrating
deriving DecidableEq, Repr

/-- Page bytes. -/
def pageSize (pg : Bool) : Nat := if pg then 2 ^ 21 else 2 ^ 17
/-- Descriptor n of a context (R421), none where the object does not exist. -/
def State.descr (s : State) (ctx obj : Nat) : Option (BitVec 128) :=
  let k := s.ctx ctx
  let root := k.otRoot.toNat / 4096 * 4096
  let d : BitVec 128 := BitVec.ofNat 128 (leNat (rdBytes s.dev (root + 16 * obj) 16))
  if obj < k.otLen.toNat % 2 ^ 24 ∧ d.getLsbD 7 then some d else none
/-- Fields of a descriptor. -/
def descPt (d : BitVec 128) : Nat := slice d.toNat 76 52
def descPages (d : BitVec 128) : Nat := slice d.toNat 56 20
def descHost (d : BitVec 128) : Bool := d.getLsbD 5
def descLocal (d : BitVec 128) : Bool := d.getLsbD 4
def descCode (d : BitVec 128) : Bool := d.getLsbD 3
def descPg (d : BitVec 128) : Bool := d.getLsbD 6
/-- Page entry i of a descriptor. -/
def State.pageEntry (s : State) (d : BitVec 128) (i : Nat) : Nat := leNat (rdBytes s.dev (descPt d * 4096 + 8 * i) 8)

/-- Whether a frame of n bytes meets the tag store's carve-out: 16 KiB and 64 bytes from TAG_BASE for each 2 MiB (R426). No object
may map it: an entry that names it leads nowhere (log 105). -/
def State.inTagStore (s : State) (base n : Nat) : Bool :=
  s.tagBaseSet && base < s.tagBase.toNat + Config.deviceBytes / 2 ^ 21 * 16448 && s.tagBase.toNat < base + n

/-- The walk of R423 from the object table. -/
def State.walk (s : State) (ctx obj a : Nat) : Except Xlat TlbEntry :=
  match s.descr ctx obj with
  | none => .error (.fault .object)
  | some d =>
    let i := a / pageSize (descPg d)
    if descPages d ≤ i then .error (.fault .bounds)
    else
      let e := s.pageEntry d i
      let low := if descPg d then slice e 17 4 else 0
      if slice e 2 15 ≠ 0 ∨ low ≠ 0 then .error (.fault .object)
      else if !e.testBit 0 then .error (.absent i)
      else if e.testBit 1 then .error .migrating
      else if !descHost d && s.inTagStore (e / 2 ^ 17 * 2 ^ 17) (pageSize (descPg d)) then .error (.fault .object)
      else .ok { ctx, obj, page := i, pg := descPg d, host := descHost d, isLocal := descLocal d, code := descCode d,
                 frame := e / 2 ^ 17 }

/-- The entry of a translation cache for a byte of an object. -/
def findTlb (l : List TlbEntry) (ctx obj a : Nat) : Option TlbEntry :=
  l.find? fun e => e.ctx == ctx && e.obj == obj && e.page == a / pageSize e.pg
/-- A cache of n entries takes one more, oldest out first (log 17). -/
def pushTlb (n : Nat) (l : List TlbEntry) (e : TlbEntry) : List TlbEntry :=
  (if n ≤ l.length then l.drop 1 else l) ++ [e]
/-- Where an entry puts a byte. -/
def TlbEntry.place (e : TlbEntry) (a : Nat) : Xlat := .ok e.host (e.frame * 2 ^ 17 + a % pageSize e.pg)

/-- The page that a table command names; page 0xFFFFF of an INVAL is every page. -/
def OtCmd.covers (o : OtCmd) (e : TlbEntry) : Bool :=
  e.ctx == o.ctx && e.obj == o.obj && ((o.op == 0 && o.page == 0xFFFFF) || e.page == o.page)
/-- The entries of a die's cache that may still fill an OTC: none that a shoot-down under way names, so that no core takes an old
entry again once it has acknowledged (R425, R429). -/
def State.dieTlb (s : State) (die : Nat) : List TlbEntry :=
  match s.otQueue with
  | o :: _ => if o.waits.isSome then (s.die die).tlb.filter fun e => !o.covers e else (s.die die).tlb
  | [] => (s.die die).tlb
/-- Translates a byte of an object for core c through its OTC, its die's cache and the table. -/
def State.translate (s : State) (c ctx obj a : Nat) : Xlat × State :=
  match findTlb (s.core c).otc ctx obj a with
  | some e => (e.place a, s)
  | none =>
    match findTlb (s.dieTlb (dieOf c)) ctx obj a with
    | some e => (e.place a, s.modCore c fun x => { x with otc := pushTlb 256 x.otc e })
    | none =>
      match s.walk ctx obj a with
      | .error x => (x, s)
      | .ok e =>
        (e.place a, (s.modCore c fun x => { x with otc := pushTlb 256 x.otc e }).modDie (dieOf c) fun d =>
          { d with tlb := pushTlb 4096 d.tlb e })

/-- The first outcome that is no address among a list of bytes, with the addresses otherwise. -/
def State.translateAll (s : State) (c ctx obj : Nat) : List Nat → Except (Xlat × Nat × State) (List (Bool × Nat) × State)
  | [] => .ok ([], s)
  | a :: t =>
    match s.translate c ctx obj a with
    | (.ok host pa, s) =>
      match State.translateAll s c ctx obj t with
      | .ok (l, s) => .ok ((host, pa) :: l, s)
      | .error e => .error e
    | (x, s) => .error (x, a, s)

/-- Marks that a physical address beyond the installed memory was reached (R20, log 8). -/
def State.checkPlace (s : State) (l : List (Bool × Nat)) : State :=
  match l.find? fun x => !x.1 && Config.deviceBytes ≤ x.2 with
  | some x => { s with broken := some x.2 }
  | none => s
/-- What a step answers: the next state, or the fault of an address that does not exist. -/
def answer (s : State) : Host.Outcome State Fault Refusal :=
  match s.broken with
  | some a => .fault (.noSuchAddress a)
  | none => .next s

/-! ## Coherence points (R263) and provisional data (R55, R458) -/

/-- The identity under which a task's stores are provisional: its own while it is idempotent, else its speculation's (log 122). -/
def Task.ident (t : Task) : Option Ident :=
  if t.idem then some (.idem t.ctx t.lid t.gen t.index)
  else if t.spec then some (.spec t.ctx t.slot t.succ)
  else none
/-- The identity of the task of core c. -/
def State.identOf (s : State) (c : Nat) : Option Ident :=
  match (s.core c).task with | some t => t.ident | none => none

/-- The identity that the provisional set of an idempotent task of a speculation joins when it commits (R55, R458, log 122). -/
def State.under (s : State) : Ident → Option Ident
  | .idem ctx lid gen _ =>
    let l := s.launch lid
    if l.active && l.spec && l.gen == gen && l.ctx == ctx then some (.spec ctx l.slot l.succ) else none
  | .spec .. => none
/-- The provisional byte that an identity holds at an address, its own before that of its speculation. -/
def State.provByte (s : State) (i : Ident) (a : Nat) : Option Byte :=
  let get (j : Ident) : Option Byte := (s.prov.find? fun p => p.ident == j && p.addr == a).map ProvByte.val
  (get i).or ((s.under i).bind get)
/-- The provisional tag of a granule. -/
def State.provTag (s : State) (i : Ident) (g : Nat) : Option Bool :=
  let get (j : Ident) : Option Bool := (s.provTags.find? fun p => p.1 == j && p.2.1 == g).map fun p => p.2.2
  (get i).or ((s.under i).bind get)
/-- A byte at its coherence point as an identity sees it. -/
def State.cohByte (s : State) (id : Option Ident) (host : Bool) (a : Nat) : Byte :=
  if host then rdByte s.host a
  else match id with
    | none => rdByte s.dev a
    | some i => (s.provByte i a).getD (rdByte s.dev a)
/-- The tag of a granule as an identity sees it; host memory holds none (R426). -/
def State.cohTag (s : State) (id : Option Ident) (host : Bool) (g : Nat) : Bool :=
  if host then false
  else match id with
    | none => tabGet false s.devTags g
    | some i => (s.provTag i g).getD (tabGet false s.devTags g)
/-- Sets a granule's tag. -/
def State.putTag (s : State) (id : Option Ident) (host : Bool) (g : Nat) (v : Bool) : State :=
  if host then s
  else match id with
    | none => { s with devTags := tabSet false s.devTags g v, tagSums := if v then tabSet false s.tagSums (g / 256) true else s.tagSums }
    | some i => { s with provTags := (s.provTags.filter fun p => !(p.1 == i && p.2.1 == g)) ++ [(i, g, v)] }
/-! ## L2 (R250, R251) -/

/-- The lines of a slice: 3 MiB of 128 B (R20). -/
def sliceLines : Nat := 24576
/-- The home slice of an address: its 4 KiB unit number modulo 32 on the die of its half of device memory (R250, log 18). -/
def homeSlice (a : Nat) : Nat := a / (Config.deviceBytes / 2) * 32 + a / 4096 % 32
/-- The state of the sector that holds an address. -/
def State.sectorState (s : State) (a : Nat) : SectorState := (tabGet {} s.l2 (a / 128)).secs.getD (a / 32 % 4) .invalid
/-- A dirty sector is written back: the bit of its unit is set (R428). -/
def State.markUnit (s : State) (a : Nat) : State := { s with dirtyUnits := tabSet false s.dirtyUnits (a / 4096) true }
/-- The table of lines with a sector in a state, used now; a line that holds no sector is not listed. -/
def setSector (t : Tab L2Line) (clock a : Nat) (st : SectorState) : Tab L2Line :=
  let l := tabGet {} t (a / 128)
  let secs := l.secs.set (a / 32 % 4) st
  if secs.all (· == .invalid) then tabDel t (a / 128) else tabPut t (a / 128) { secs, used := clock }
/-- The line of a slice that is given up: the least recently used of those without a provisional sector (R251). -/
def State.victim (s : State) (slice_ : Nat) : Option Nat :=
  ((s.l2.filter fun l => homeSlice (128 * l.1) == slice_ && !l.2.secs.contains .provisional).foldl (fun (b : Option (Nat × L2Line)) l =>
    match b with
    | none => some l
    | some m => if l.2.used < m.2.used then some l else b) none).map Prod.fst
/-- A line leaves L2: its dirty sectors are written back. -/
def State.evict (s : State) (n : Nat) : State :=
  let dirty := (tabGet {} s.l2 n).secs.contains .dirty
  let s := if dirty then s.markUnit (128 * n) else s
  { s with l2 := tabDel s.l2 n }
/-- A line of an address has room in its home slice. -/
def State.makeRoom (s : State) (a : Nat) : State :=
  if s.l2.any (·.1 == a / 128) then s
  else if (s.l2.filter fun l => homeSlice (128 * l.1) == homeSlice a).length < sliceLines then s
  else match s.victim (homeSlice a) with
    | some n => s.evict n
    | none => s
/-- The sector of an address becomes resident in a state: clean by a fill, dirty by a write, provisional by a speculation's. A dirty
one stays dirty when it is read, and is written back before it becomes provisional; a provisional one stays so until its identity
ends, and a committed write to it goes through to device memory (log 106). -/
def State.touchL2 (s : State) (a : Nat) (st : SectorState) : State :=
  let old := s.sectorState a
  let s := s.makeRoom a
  let s := match old, st with
    | .dirty, .provisional => s.markUnit a
    | .provisional, .dirty => s.markUnit a
    | _, _ => s
  let now := match old, st with
    | .provisional, _ => SectorState.provisional
    | .dirty, .clean => .dirty
    | _, _ => st
  { s with l2 := setSector s.l2 s.l2Clock a now, l2Clock := s.l2Clock + 1 }
/-- A read of device memory fills the sectors that it requests (R251). -/
def State.fillL2 (s : State) (host : Bool) (a : Nat) : State := if host then s else s.touchL2 a .clean
/-- Sectors of an identity that has ended are no longer provisional, unless another identity holds them. -/
def State.unprovision (s : State) (l : List ProvByte) : State :=
  { s with l2 := l.foldl (fun t p => if s.prov.any fun q => q.addr / 32 == p.addr / 32 then t else setSector t s.l2Clock p.addr .invalid) s.l2 }

/-- Writes a byte at its coherence point and clears its granule's tag (R277); a provisional byte takes its place in the coherence order
of R268 at the commit (DESIGN CHOICE, log 140). -/
def State.cohPut (s : State) (id : Option Ident) (host : Bool) (a : Nat) (b : Byte) : State :=
  if host then { s with host := wrByte s.host a b }
  else match id with
    | none =>
      let s := s.touchL2 a .dirty
      { s with dev := wrByte s.dev a b, devTags := tabSet false s.devTags (a / 16) false }
    | some i =>
      let s := s.touchL2 a .provisional
      let s : State := { s with prov := (s.prov.filter fun p => !(p.ident == i && p.addr == a)) ++ [{ ident := i, addr := a, val := b }] }
      s.putTag id host (a / 16) false
/-- A whole-sector write clears the sector's poison (R466). -/
def State.clearPoison (s : State) (l : List (Bool × Nat × Byte)) : State :=
  match s.poison with
  | [] => s
  | ps => { s with poison := ps.filter fun p =>
      !(List.range 32).all fun j => l.any fun x => !x.1 && x.2.1 == 32 * p.2 + j }
/-- Writes bytes at their coherence points. -/
def State.cohWrite (s : State) (id : Option Ident) (l : List (Bool × Nat × Byte)) : State :=
  let s := l.foldl (fun s x => s.cohPut id x.1 x.2.1 x.2.2) s
  -- what is still provisional has written no word yet
  if id.isSome then s else s.clearPoison l

/-- Bytes of a speculation or an idempotent task that its slice holds: lines of 128 B (R57), with the slice of an address
being its 4 KiB unit number modulo 32 (log 18). -/
def State.provLines (s : State) (die slice_ : Nat) : Nat :=
  ((s.prov.filter fun p => homeSlice p.addr == 32 * die + slice_).map fun p => p.addr / 128).eraseDups.length
/-- Whether a store would take its slice beyond one eighth of its 24,576 lines (R57). -/
def State.spills (s : State) (id : Option Ident) (a : Nat) : Bool :=
  match id with
  | none => false
  | some i =>
    !(s.prov.any fun p => p.ident == i && p.addr / 128 == a / 128) &&
      3072 ≤ s.provLines (a / (Config.deviceBytes / 2)) (a / 4096 % 32)

/-- Commits the provisional data of an identity (R56, R458): to device memory, or from an idempotent task to its speculation. -/
def State.commit (s : State) (i : Ident) : State :=
  let dest := s.under i
  let bs := s.prov.filter fun p => p.ident == i
  let ts := s.provTags.filter fun p => p.1 == i
  let s := { s with prov := s.prov.filter fun p => !(p.ident == i), provTags := s.provTags.filter fun p => !(p.1 == i) }
  let s := s.unprovision bs
  let s := s.cohWrite dest (bs.map fun p => (false, p.addr, p.val))
  ts.foldl (fun s p => s.putTag dest false p.2.1 p.2.2) s
/-- Discards the provisional data of the identities that pass a test. -/
def State.discardAll (s : State) (gone : Ident → Bool) : State :=
  let bs := s.prov.filter fun p => gone p.ident
  ({ s with prov := s.prov.filter fun p => !gone p.ident, provTags := s.provTags.filter fun p => !gone p.1 } : State).unprovision bs
/-- Discards the provisional data of an identity. -/
def State.discard (s : State) (i : Ident) : State := s.discardAll (· == i)

/-! ## CACHE (R249) -/

/-- The key of the sector that holds a byte. -/
def sectorKey (host : Bool) (a : Nat) : Nat := 2 * (a / 32) + b2n host
def keyHost (k : Nat) : Bool := k % 2 == 1
def keyAddr (k : Nat) : Nat := k / 2 * 32
/-- Whether a STOR code covers a space: 0 pool, 1 tile store, 2 device memory, 3 host memory (R72). -/
def storHas (stor sp : Nat) : Bool :=
  match stor with
  | 0 => true
  | 1 => sp == 0
  | 2 => sp == 1
  | 3 => sp == 2
  | 4 => sp == 3
  | 5 => sp == 2 || sp == 3
  | 6 => sp == 0 || sp == 1
  | _ => false
/-- The space of a CACHE sector. -/
def keySpace (k : Nat) : Nat := if keyHost k then 3 else 2

/-- Writes back the dirty bytes of a sector with the tags of their granules. -/
def State.writeBack (s : State) (c k : Nat) : State :=
  match (s.core c).cache.find? (·.1 == k) with
  | none => s
  | some e =>
    let sec := e.2
    if sec.dirty = 0 then s
    else
      let id := s.identOf c
      let host := keyHost k
      let base := keyAddr k
      let l := ((List.range 32).filter fun j => sec.dirty.getLsbD j).map fun j =>
        (host, base + j, (sec.data >>> (8 * j)).setWidth 8)
      let s := s.cohWrite id l
      let s := (List.range 2).foldl (fun (s : State) g =>
        if (sec.dirty >>> (16 * g)).setWidth 16 = (0 : BitVec 16) then s
        else s.putTag id host (base / 16 + g) (sec.tags.getLsbD g)) s
      s.modCore c fun x => { x with cache := tabPut x.cache k { sec with dirty := 0 } }
/-- Writes back every dirty sector of the spaces of a STOR code. -/
def State.writeBackAll (s : State) (c stor : Nat) : State :=
  ((tabKeys (s.core c).cache).filter fun k => storHas stor (keySpace k)).foldl (fun s k => s.writeBack c k) s
/-- What a release carries out on CACHE: at FORM scope or wider, a write-back. -/
def State.releaseCache (s : State) (c agent stor : Nat) : State :=
  if 2 ≤ agent then s.writeBackAll c stor else s
/-- What an acquire carries out on CACHE: at FORM scope or wider, a write-back and an invalidation. -/
def State.acquireCache (s : State) (c agent stor : Nat) : State :=
  if 2 ≤ agent then
    (s.writeBackAll c stor).modCore c fun x => { x with cache := x.cache.filter fun e => !storHas stor (keySpace e.1) }
  else s
/-- Writes back and empties CACHE. -/
def State.flushCache (s : State) (c : Nat) : State := (s.writeBackAll c 0).modCore c fun x => { x with cache := [] }

/-- Whether a CACHE step of a pool request is under way (R241, R242). -/
def Shared.cacheStep (x : Shared) : Bool := x.poolReq.pending && x.poolReq.step == 0
/-- The 128 B line of a sector's key. -/
def lineKey (k : Nat) : Nat := k / 8 * 2 + k % 2
/-- The lines that hold a sector, in rising order. -/
def cacheLines (t : Tab CacheSector) : List Nat := (t.map fun e => lineKey e.1).eraseDups
/-- Of `banks` banks of CACHE, those with a dirty sector. The spec leaves open which bank holds a line: each line has a fixed one, which
the model does not name, and a bank holds no more than its 256 lines (log 5). -/
def dirtyBanks (t : Tab CacheSector) (banks : Nat) : Nat :=
  let ls := cacheLines (t.filter fun e => e.2.dirty ≠ 0)
  if banks = 0 then 0
  else max ((ls.length + 255) / 256) ((ls.map fun n => Config.lineBank n % banks).eraseDups).length
/-- A line leaves CACHE, its dirty sectors written back. -/
def State.dropLine (s : State) (c n : Nat) : State :=
  (((s.core c).cache.filter fun e => lineKey e.1 == n).foldl (fun (s : State) e => s.writeBack c e.1) s).modCore c fun y =>
    { y with cache := y.cache.filter fun e => lineKey e.1 != n }
/-- The poison that an identity reads in a sector of device memory: none where it holds all its bytes provisional (R466). -/
def State.sectorBad (s : State) (id : Option Ident) (n : Nat) : Option (Nat × Nat) :=
  match s.poison.find? (·.2 == n) with
  | none => none
  | some p => match id with
    | some i => if (List.range 32).all fun j => (s.provByte i (32 * n + j)).isSome then none else some p
    | none => some p
/-- Brings a sector into CACHE if there is room to allocate: the lowest-numbered line leaves where CACHE is full (R249, log 17). -/
def State.allocate (s : State) (c k : Nat) : State :=
  let x := s.core c
  if x.cache.any (·.1 == k) then s
  else if x.sh.cacheRoom = 0 ∨ x.sh.cacheStep then s
  else
    let ls := cacheLines x.cache
    let s := match ls with
      | [] => s
      | n :: _ => if ls.contains (lineKey k) ∨ ls.length < x.sh.cacheRoom then s else s.dropLine c n
    let id := s.identOf c
    let host := keyHost k
    let base := keyAddr k
    let s := s.fillL2 host base
    let data := leNat ((List.range 32).map fun j => s.cohByte id host (base + j))
    let tags : BitVec 2 := BitVec.ofNat 2 (b2n (s.cohTag id host (base / 16)) + 2 * b2n (s.cohTag id host (base / 16 + 1)))
    let bad := if host then none else s.sectorBad id (base / 32)
    s.modCore c fun y =>
      { y with cache := tabPut y.cache k { data := BitVec.ofNat 256 data, tags, ctx := (y.task.getD {}).ctx, bad } }

/-- One byte read by core c at an AGENT scope (R264). -/
def State.coreByte (s : State) (c agent : Nat) (host : Bool) (a : Nat) : Byte × State :=
  let k := sectorKey host a
  let s := if agent ≤ 1 then s.allocate c k else s
  match if agent ≤ 1 then (s.core c).cache.find? (·.1 == k) else none with
  | some e => ((e.2.data >>> (8 * (a % 32))).setWidth 8, s)
  | none => (s.cohByte (s.identOf c) host a, s.fillL2 host a)
/-- Bytes read by core c. -/
def State.coreRead (s : State) (c agent : Nat) : List (Bool × Nat) → List Byte × State
  | [] => ([], s)
  | x :: t =>
    let r := s.coreByte c agent x.1 x.2
    let u := State.coreRead r.2 c agent t
    (r.1 :: u.1, u.2)
/-- The tag of a granule read by core c. -/
def State.coreTag (s : State) (c agent : Nat) (host : Bool) (a : Nat) : Bool :=
  match if agent ≤ 1 then (s.core c).cache.find? (·.1 == sectorKey host a) else none with
  | some e => e.2.tags.getLsbD (a / 16 % 2)
  | none => s.cohTag (s.identOf c) host (a / 16)
/-- A CACHE sector with one byte written, its granule's tag cleared; one of whose bytes all are written is poisoned no longer. -/
def CacheSector.putByte (e : CacheSector) (j : Nat) (b : Byte) (dirty : Bool) : CacheSector :=
  { e with
    data := putBits e.data (8 * j) 8 b.toNat
    dirty := putBits e.dirty j 1 (b2n dirty)
    bad := if putBits e.dirty j 1 (b2n dirty) = BitVec.allOnes 32 then none else e.bad
    tags := putBits e.tags (j / 16) 1 0 }
/-- One byte written by core c at an AGENT scope (R264): in CACHE, or at the coherence point with any CACHE copy updated. -/
def State.corePut (s : State) (c agent : Nat) (host : Bool) (a : Nat) (b : Byte) : State :=
  let k := sectorKey host a
  let s := if agent ≤ 1 then s.allocate c k else s
  match (s.core c).cache.find? (·.1 == k) with
  | some e =>
    let near := agent ≤ 1
    let s := if near then s else s.cohPut (s.identOf c) host a b
    s.modCore c fun x => { x with cache := tabPut x.cache k (e.2.putByte (a % 32) b near) }
  | none => s.cohPut (s.identOf c) host a b
/-- Ends a task's idempotence: its provisional set commits first, and FF_CAUSE.IDEM reads 0 (R459). A store to host memory ends it. -/
def State.endIdem (s : State) (c : Nat) : State :=
  match (s.core c).task with
  | some t =>
    if t.idem then
      let s := s.writeBackAll c 0
      let s := s.commit (.idem t.ctx t.lid t.gen t.index)
      s.modCore c fun x =>
        { x with task := some { t with idem := false }, frame := { x.frame with cause := x.frame.cause &&& ~~~(0x4000 : Word) } }
    else s
  | none => s
/-- Bytes written by core c, with the tag that a capability store gives the granule of the first. -/
def State.coreWrite (s : State) (c agent : Nat) (l : List (Bool × Nat × Byte)) (tag : Bool := false) : State :=
  let s := if l.any (·.1) then s.endIdem c else s
  let s := l.foldl (fun s x => s.corePut c agent x.1 x.2.1 x.2.2) s
  let s := if (s.identOf c).isSome then s
    else s.clearPoison (l.filter fun x => !(decide (agent ≤ 1) && (s.core c).cache.any (·.1 == sectorKey x.1 x.2.1)))
  if !tag then s
  else match l with
    | [] => s
    | x :: _ =>
      let k := sectorKey x.1 x.2.1
      let inCache := (s.core c).cache.any (·.1 == k)
      let s := if agent ≤ 1 ∧ inCache then s else s.putTag (s.identOf c) x.1 (x.2.1 / 16) true
      s.modCore c fun y => match y.cache.find? (·.1 == k) with
        | some e => { y with cache := tabPut y.cache k { e.2 with tags := putBits e.2.tags (x.2.1 / 16 % 2) 1 1 } }
        | none => y
/-- The poison that core c meets where it reads a byte at an AGENT scope: that of its CACHE sector, else that of the sector at its
coherence point (R264, R466). -/
def State.byteBad (s : State) (c agent : Nat) (x : Bool × Nat) : Option (Nat × Nat) :=
  match if agent ≤ 1 then (s.core c).cache.find? (·.1 == sectorKey x.1 x.2) else none with
  | some e => e.2.bad
  | none => if x.1 then none else s.sectorBad (s.identOf c) (x.2 / 32)
/-- The first poisoned sector that core c meets among bytes that it reads. -/
def State.poisoned (s : State) (c agent : Nat) (l : List (Bool × Nat)) : Option (Nat × Nat) := l.findSome? (s.byteBad c agent)

end Sys2Proof.Machine
end

