-- ==== Sys2Proof/Machine/Matrix.lean ====
section
/-! DEFINITION. The words of the matrix path, opcodes 0x60 to 0x74 (R192 to R215): nests, formats, ring, epilogue and completion
words. Commands enter their engine's queue here; Engines.lean carries them out. -/

namespace Sys2Proof.Machine

/-- The shared state of the cursor's core, as it stands and as it stood at the start of the cycle. -/
def State.now (s : State) : Shared := s.sh s.curCore
def State.old (s : State) : Shared := s.soc s.curCore
/-- Changes the shared state of the cursor's core. -/
def State.share (s : State) (f : Shared → Shared) : State := s.modSh s.curCore f

/-- A command word with one SRC port, which is read at issue; the word names handles whose tiles it holds (R290). -/
def srcCommand (i : Instr) (eng : Nat) (src : Port) (hs : List Nat) (s : State) : Host.Outcome State Fault Refusal :=
  commandWord i [eng] s fun s =>
    let x := s.read src
    sendCommands i x.2 [(eng, { ins := i, src := x.1, stream := s.curStream, tiles := namedTiles s.now hs })]
/-- A command word without a source. -/
def plainCommand (i : Instr) (eng : Nat) (hs : List Nat) (s : State) : Host.Outcome State Fault Refusal :=
  commandWord i [eng] s fun s =>
    sendCommands i s [(eng, { ins := i, stream := s.curStream, tiles := namedTiles s.now hs })]

/-! ## Nest tables (R119, R196 to R199) -/

def recExtent (r : BitVec 128) : Nat := slice r.toNat 96 32
def recKind (r : BitVec 128) : Nat := slice r.toNat 94 2
/-- Stride j of a record, 0 to 2. -/
def recStride (r : BitVec 128) (j : Nat) : Int := sext 30 (slice r.toNat (60 - 30 * j) 30)
/-- Row and column deltas of a coordinate stride. -/
def recRow (r : BitVec 128) : Int := sext 15 (slice r.toNat 75 15)
def recCol (r : BitVec 128) : Int := sext 15 (slice r.toNat 60 15)
/-- Whether a record may be written into a table (R119). R121's 'must be zero' of operand 2 of EP and ST is no condition of it
(DESIGN CHOICE, log 112). -/
def recLegal (tbl : Nat) (r : BitVec 128) : Bool :=
  let coord := tbl == 1 || tbl == 3
  slice r.toNat 90 4 == 0 &&
    match recKind r with
    | 0 => r == 0
    | 1 => !coord
    | 2 => coord
    | _ => false

def execNestw (h : Hdr) (tbl : BitVec 2) (lvl : BitVec 3) (src : Port) (s : State) :=
  issueWord (.nestw h tbl lvl src) s fun s =>
    let x := s.read src
    let r : BitVec 128 := x.1.setWidth 128
    if recLegal tbl.toNat r then .done (x.2.share fun y => y.setNestRec tbl.toNat 0 lvl.toNat r)
    else .trap x.2 1 (illegalInfo 0x60)
def execNestr (h : Hdr) (gd : BitVec 6) (tbl : BitVec 2) (lvl : BitVec 3) (copy half : BitVec 1) (s : State) :=
  issueWord (.nestr h gd tbl lvl copy half) s fun s =>
    let r := s.old.nestRec tbl.toNat copy.toNat lvl.toNat
    .done (s.deliverG 2 gd ((r >>> (64 * half.toNat)).setWidth 64))

/-- The iterations of an active table: the product of its extents, an absent level counting one (R120). -/
def Shared.nestTotal (x : Shared) (t : Nat) : Nat :=
  (List.range 6).foldl (fun n l => let r := x.nestRec t 1 l; if recKind r = 0 then n else n * recExtent r) 1
/-- Whether an active table has an iteration left. -/
def Shared.nestLeft (x : Shared) (t : Nat) : Bool :=
  (x.nestRunOf t).live && (x.nestRunOf t).delivered.toNat < x.nestTotal t
/-- Whether a GO for a table is queued and has not started (R198). -/
def Shared.goWaits (x : Shared) (t : Nat) : Bool :=
  (x.engine t).queue.any fun k => match k.ins with | .go .. => true | _ => false
/-- NSTAT (R198): without a live table the stored indices are delivered (log 130). -/
def execNstat (h : Hdr) (gd : BitVec 6) (tbl : BitVec 2) (sel : BitVec 3) (s : State) :=
  issueWord (.nstat h gd tbl sel) s fun s =>
    let t := tbl.toNat
    let x := s.old
    let r := x.nestRunOf t
    if sel.toNat < 6 then
      -- after the last iteration the index of the next one has no stated value
      if r.live && !x.nestLeft t then let f := s.takeFree; .done (f.2.deliverG 2 gd f.1)
      else .done (s.deliverG 2 gd (BitVec.ofNat 64 (r.idx.getD sel.toNat 0)))
    else if sel = 6 then .done (s.deliverG 2 gd r.delivered)
    else .done (s.deliverG 2 gd (BitVec.ofNat 64 (flagBits [!x.nestLeft t, x.goWaits t, r.live])))

/-- The engines of a GO mask. -/
def goEngines (mask : BitVec 4) : List Nat := [0, 1, 2, 3].filter fun e => mask.getLsbD e
/-- The base word of engine e (R199): its own quarter of a 256-bit source, or the scalar. -/
def goBase (src : Port) (v : Vec) (e : Nat) : Word :=
  if isVectorPort src then (v >>> (64 * e)).setWidth 64 else v.setWidth 64
/-- Whether a base word of EP or ST is legal (R199). -/
def baseLegal (e : Nat) (b : Word) : Bool :=
  !(e == 1 || e == 3) || (slice b.toNat 61 3 == 0 && slice b.toNat 13 11 == 0)
def execGo (h : Hdr) (mask : BitVec 4) (src : Port) (s : State) :=
  commandWord (.go h mask src) (goEngines mask) s fun s =>
    let x := s.read src
    if (goEngines mask).any fun e => !baseLegal e (goBase src x.1 e) then .trap x.2 1 (illegalInfo 0x62)
    else
      let cmd (e : Nat) : Cmd :=
        { ins := .go h mask src, src := x.1, stream := s.curStream, nest := (List.range 6).map fun l => s.old.nestRec e 0 l }
      sendCommands (.go h mask src) x.2 ((goEngines mask).map fun e => (e, cmd e))

/-! ## Formats (R133 to R135, R200, R201) -/

def fA (e : Word) : Nat := slice e.toNat 60 4
def fB (e : Word) : Nat := slice e.toNat 56 4
def fEdge (e : Word) : Nat := if e.getLsbD 55 then 32 else 16
def fSclA (e : Word) : Nat := slice e.toNat 53 2
def fSclB (e : Word) : Nat := slice e.toNat 51 2
def fConstA (e : Word) : Nat := slice e.toNat 43 8
def fConstB (e : Word) : Nat := slice e.toNat 35 8
def fOut (e : Word) : Nat := slice e.toNat 27 5
def fOutEdge (e : Word) : Nat := if e.getLsbD 26 then 32 else 16
def fSclOff (e : Word) : Nat := slice e.toNat 13 11
def fOrm (e : Word) : Nat := slice e.toNat 10 3
/-- The gang code of a pair of formats (R131). -/
def gangOf (a b : Nat) : Option Nat :=
  match a, b with
  | 2, 2 => some 0
  | 1, 1 => some 1
  | 2, 0 => some 2
  | 0, 2 => some 3
  | 1, 0 => some 4
  | 0, 1 => some 5
  | 0, 0 => some 6
  | 5, 5 => some 7
  | 6, 6 => some 7
  | a, b => if (a == 3 || a == 4) && (b == 3 || b == 4) then some 7 else none
/-- R134. -/
def fmtLegal (e : Word) : Bool :=
  (gangOf (fA e) (fB e)).isSome &&
    (fA e ≤ 2 || slice e.toNat 35 21 == 0 && fSclOff e == 0) &&
    fSclA e ≤ 1 && fSclB e ≤ 1 && slice e.toNat 32 3 == 0 &&
    (fOut e == 0 || fOut e == 4 || (8 ≤ fOut e && fOut e ≤ 15)) &&
    fOrm e ≤ 4 && slice e.toNat 24 2 == 0 && slice e.toNat 0 10 == 0
/-- A format-table entry. -/
def Shared.fmtEntry (x : Shared) (i : Nat) : Word := tabGet 0 x.fmt i
def execFmtw (h : Hdr) (idx : BitVec 4) (src : Port) (s : State) :=
  issueWord (.fmtw h idx src) s fun s =>
    let x := s.readInt src
    if fmtLegal x.1 then .done (x.2.share fun y => { y with fmt := tabSet 0 y.fmt idx.toNat x.1 })
    else .trap x.2 1 (illegalInfo 0x64)
def execFmtsel (h : Hdr) (en : BitVec 1) (lvl : BitVec 3) (s : State) :=
  issueWord (.fmtsel h en lvl) s fun s =>
    .done (s.share fun y => { y with fmtLevel := BitVec.ofNat 32 (8 * en.toNat + lvl.toNat) })

/-! ## Matrix, ring and epilogue words (R202 to R212) -/

def execMma (h : Hdr) (close last : BitVec 1) (gang kc : BitVec 3) (s : State) :=
  plainCommand (.mma h close last gang kc) 2 [] s
def execMmac (h : Hdr) (close last : BitVec 1) (gang kc : BitVec 3) (s : State) :=
  plainCommand (.mmac h close last gang kc) 2 [] s

/-- Whether an engine has a command queued or running. -/
def Engine.busy (e : Engine) : Bool := !e.queue.isEmpty || e.run.isSome
/-- Whether the ring holds a tile or a stage slot is not EMPTY. -/
def Ring.active (r : Ring) : Bool := r.hd != r.tl || r.openTile || r.stage.any fun x => x.2 != 0
/-- Banks of MAT that D and S slots of 16 KiB need (R238). -/
def matBanks (d sn : Nat) : Nat := (d + sn + 1) / 2
/-- The outcome of RINGCFG (R208, R242) by the records at the start of its cycle; a pool request that an earlier stream of the
cycle has made pending counts too. -/
def ringOutcome (x : Shared) (pending : Bool) (d sn : Nat) : Nat :=
  if (x.engine 0).busy || (x.engine 2).busy || (x.engine 3).busy || pending then 1
  else if x.ring.active then 4
  else if x.pool.mat < matBanks d sn then 3
  else 0
def execRingcfg (h : Hdr) (gd : BitVec 6) (sn dn : BitVec 4) (s : State) :=
  issueWord (.ringcfg h gd sn dn) s fun s =>
    let code := ringOutcome s.old s.now.poolReq.pending dn.toNat sn.toNat
    let s := if code = 0 then s.share fun y =>
        { y with ring := { y.ring with coming := y.ring.coming ++ [(dn.toNat, sn.toNat, 2)] } } else s
    .done (s.deliverG 2 gd (BitVec.ofNat 64 code))
def execRhead (h : Hdr) (gd : BitVec 6) (s : State) :=
  issueWord (.rhead h gd) s fun s => .done (s.deliverG 1 gd (BitVec.ofNat 64 (s.old.ring.hd % 2 ^ 32 + s.old.ring.tl % 2 ^ 32 * 2 ^ 32)))
def execRpop (h : Hdr) (s : State) := plainCommand (.rpop h) 3 [] s
def execRdiscard (h : Hdr) (s : State) := plainCommand (.rdiscard h) 3 [] s
def execEpcfgAct (h : Hdr) (act : BitVec 3) (s : State) := plainCommand (.epcfgAct h act) 3 [] s
def execEpcfgBias (h : Hdr) (hn : BitVec 6) (en : BitVec 1) (s : State) := plainCommand (.epcfgBias h hn en) 3 [hn.toNat] s
def execEpcfgScale (h : Hdr) (hn : BitVec 6) (en : BitVec 1) (s : State) := plainCommand (.epcfgScale h hn en) 3 [hn.toNat] s
def execEpcfgLo (h : Hdr) (src : Port) (s : State) := srcCommand (.epcfgLo h src) 3 src [] s
def execEpcfgHi (h : Hdr) (src : Port) (s : State) := srcCommand (.epcfgHi h src) 3 src [] s
def execEprun (h : Hdr) (hn : BitVec 6) (s : State) := plainCommand (.eprun h hn) 3 [hn.toNat] s
def execDeckld (h : Hdr) (cn : BitVec 5) (src : Port) (units : BitVec 11) (s : State) :=
  srcCommand (.deckld h cn src units) 0 src [] s
def execDecksel (h : Hdr) (units : BitVec 11) (s : State) := plainCommand (.decksel h units) 2 [] s
def execAstage (h : Hdr) (cn : BitVec 5) (kn : BitVec 3) (src : Port) (s : State) :=
  srcCommand (.astage h cn kn src) 0 src [] s

/-! ## Completions and pacing (R213 to R215) -/

/-- OUT as a disposal of this cycle sees it: a command accepted in this cycle is not yet sent (R68, R214). -/
def outstanding (x : Shared) (e : Nat) : Nat := (x.compRec e).out - (if (x.engine e).accAge = 0 then 1 else 0)
/-- Disposes of the n oldest commands of an engine (R214). -/
def Shared.dispose (x : Shared) (e n : Nat) : Shared :=
  let r := x.compRec e
  let d := min n r.done
  x.setComp e { out := r.out - n, done := r.done - d, skip := r.skip + (n - d) }

def execCcnt (h : Hdr) (gd : BitVec 6) (eng : BitVec 3) (s : State) :=
  issueWord (.ccnt h gd eng) s fun s =>
    let r := s.old.compRec eng.toNat
    .done (s.deliverG 1 gd (BitVec.ofNat 64 (r.done * 2 ^ 32 + r.out)))
def execCcons (h : Hdr) (eng : BitVec 3) (n : BitVec 8) (s : State) :=
  issueWord (.ccons h eng n) s fun s =>
    if outstanding s.now eng.toNat < n.toNat then .trap s 1 (illegalInfo 0x71)
    else if (s.now.compRec eng.toNat).done < n.toNat then .wait s
    else .done (s.share fun y => y.dispose eng.toNat n.toNat)
def execCdisc (h : Hdr) (eng : BitVec 3) (n : BitVec 8) (s : State) :=
  issueWord (.cdisc h eng n) s fun s =>
    if n = 0 ∨ outstanding s.now eng.toNat < n.toNat then .trap s 1 (illegalInfo 0x72)
    else .done (s.share fun y => y.dispose eng.toNat n.toNat)
def execCdiscAll (h : Hdr) (eng : BitVec 3) (s : State) :=
  issueWord (.cdiscAll h eng) s fun s =>
    .done (s.share fun y => y.dispose eng.toNat (outstanding y eng.toNat))
def execPace (h : Hdr) (eng : BitVec 3) (gap : BitVec 13) (s : State) :=
  issueWord (.pace h eng gap) s fun s =>
    .done (s.share fun y => { y with pace := tabSet 0 y.pace eng.toNat gap.toNat })

end Sys2Proof.Machine
end

