-- ==== Sys2Proof/Machine/Integrator.lean ====
section
/-! DEFINITION. The integrator field (R216 to R229) and its words, opcodes 0x80 to 0x8A (R230 to R237). -/

namespace Sys2Proof.Machine

/-! ## Cell records (R216) -/

def cellY (c : Vec) : Int := (c.setWidth 32).toInt
def cellRes (c : Vec) : Int := ((c >>> 32).setWidth 32).toInt
def cellN (c : Vec) : Nat := slice c.toNat 64 5 + 8
def cellDom (c : Vec) : Nat := slice c.toNat 69 2
/-- The increment that a DZ code stands for. -/
def dzVal (code : Nat) : Int := if code = 1 then 1 else if code = 3 then -1 else 0
def dzCode (z : Int) : Nat := if z = 1 then 1 else if z = -1 then 3 else 0
def cellDz (c : Vec) : Int := dzVal (slice c.toNat 72 2)
def cellTap (c : Vec) : Int := ((c >>> 96).setWidth 32).toInt
/-- dx descriptor j of a cell, and dy descriptor j. -/
def cellDx (c : Vec) (j : Nat) : Nat := slice c.toNat (128 + 16 * j) 16
def cellDy (c : Vec) (j : Nat) : Nat := slice c.toNat (192 + 16 * j) 16
/-- Sets a field of a record. -/
def cellPut (c : Vec) (lo w : Nat) (v : Int) : Vec := putBits c lo w (v % 2 ^ w).toNat

def Dda.cell (f : Dda) (n : Nat) : Vec := tabGet 0 f.cells n
def Dda.setCell (f : Dda) (n : Nat) (v : Vec) : Dda := { f with cells := tabSet 0 f.cells n v }
def Dda.dom (f : Dda) (d : Nat) : Domain := tabGet {} f.doms d
def Dda.setDom (f : Dda) (d : Nat) (v : Domain) : Dda := { f with doms := tabSet {} f.doms d v }
def Dda.chan (f : Dda) (c : Nat) : Int := tabGet 0 f.chans c
def Dda.setChan (f : Dda) (c : Nat) (v : Int) : Dda := { f with chans := tabSet 0 f.chans c v }
/-- Sets LOST of a domain in this cycle. -/
def Dda.lose (f : Dda) (d : Nat) : Dda :=
  { f.setDom d { f.dom d with lost := true } with fresh := f.fresh ||| BitVec.ofNat 6 (2 ^ d) }

/-- R219, R220: a descriptor of a cell of domain d, in a field whose cells have the domains given. -/
def inputLegal (d : Nat) (domOf : Nat → Nat) (x : Nat) : Bool :=
  let arg := slice x 0 8
  if !x.testBit 15 then x == 0
  else slice x 8 4 == 0 && match slice x 12 2 with
    | 0 => domOf arg == d
    | 1 => arg == 0
    | 2 => arg < 16 && arg % 4 == d
    | _ => arg < 4
/-- The reserved bits and values of a record. -/
def recordLegal (c : Vec) : Bool :=
  slice c.toNat 74 22 == 0 && slice c.toNat 71 1 == 0 && slice c.toNat 72 2 != 2 && slice c.toNat 64 5 < 24
/-- No illegal descriptor in a field. -/
def Dda.inputsLegal (f : Dda) : Bool :=
  f.cells.all fun x =>
    (List.range 4).all fun j =>
      inputLegal (cellDom x.2) (fun n => cellDom (f.cell n)) (cellDx x.2 j) &&
        inputLegal (cellDom x.2) (fun n => cellDom (f.cell n)) (cellDy x.2 j)

/-! ## Stepping (R217, R218, R221, R222, R225) -/

/-- The increment that a descriptor of a cell of domain d delivers. -/
def Dda.delivers (f : Dda) (d x : Nat) : Int :=
  if !x.testBit 15 then 0
  else
    let arg := slice x 0 8
    let u : Int := match slice x 12 2 with
      | 0 => cellDz (f.cell arg)
      | 1 => 1
      | 2 => (f.chan arg).sign
      | _ => if arg = d then 1
             else if (f.dom arg).kind = 3 ∧ 0 < (f.dom arg).taps.getD d 0 then 1 else 0
    if x.testBit 14 then -u else u
/-- Whether a descriptor meets a row tap with more than one row (R221). -/
def Dda.tapLost (f : Dda) (d x : Nat) : Bool :=
  let arg := slice x 0 8
  x.testBit 15 && slice x 12 2 == 3 && arg != d && (f.dom arg).kind == 3 && 1 < (f.dom arg).taps.getD d 0
/-- One cell's step: its new record, whether its integrand wrapped, and whether it is left out of range. -/
def Dda.stepCell (f : Dda) (d : Nat) (c : Vec) : Vec × Bool × Bool :=
  let sum (g : Nat → Nat) : Int := (List.range 4).foldl (fun acc j => acc + f.delivers d (g j)) 0
  let y := cellY c + sum (cellDy c)
  let yw := (BitVec.ofInt 32 y).toInt
  let n := cellN c
  let half : Int := 2 ^ (n - 1)
  let r := cellRes c + sum (cellDx c) * yw
  let z : Int := if half ≤ r then 1 else if r < -half then -1 else 0
  let r := r - z * 2 ^ n
  let c := cellPut (cellPut (cellPut (cellPut c 0 32 yw) 32 32 r) 72 2 (dzCode z)) 96 32 (cellTap c + z)
  (c, y != yw, half ≤ r || r < -half)
/-- A domain's step: the field after it, or the lowest cell that overran (R218). -/
def Dda.stepDomain (f : Dda) (d : Nat) : Except Nat Dda :=
  let mine := f.cells.filter fun x => cellDom x.2 == d
  let rs := mine.map fun x => (x.1, f.stepCell d x.2)
  match rs.find? fun x => x.2.2.2 with
  | some x => .error x.1
  | none =>
    let lost := mine.any fun x => (List.range 4).any fun j => f.tapLost d (cellDx x.2 j) || f.tapLost d (cellDy x.2 j)
    let g := rs.foldl (fun g x => g.setCell x.1 x.2.1) f
    let g := if rs.any fun x => x.2.2.1 then { g with wrap := true, fresh := g.fresh ||| 16 } else g
    let g := [0, 4, 8, 12].foldl (fun g k => g.setChan (k + d) (f.chan (k + d) - (f.chan (k + d)).sign)) g
    let g := [0, 1, 2, 3].foldl (fun g k => g.setDom k { g.dom k with taps := listSet (g.dom k).taps d 0 }) g
    let g := g.setDom d { g.dom d with pend := (g.dom d).pend - 1, steps := (g.dom d).steps + 1 }
    .ok (if lost then g.lose d else g)
/-- A field with the row-tap counts of another: no image holds them (log 55). -/
def Dda.withTaps (f g : Dda) : Dda := [0, 1, 2, 3].foldl (fun f d => f.setDom d { f.dom d with taps := (g.dom d).taps }) f
/-- A field at the start of a cycle: nothing has been set or stepped in it. -/
def Dda.begin (f : Dda) : Dda := if f.fresh = 0 ∧ f.stepped = 0 then f else { f with fresh := 0, stepped := 0 }
/-- Adds n triggers to a domain with the saturation of R224. -/
def Dda.trigger (f : Dda) (d n : Nat) : Dda :=
  let x := f.dom d
  let g := f.setDom d { x with pend := min 255 (x.pend + n) }
  if 255 < x.pend + n then g.lose d else g

/-! ## The field image (R228) -/

/-- A domain record as its 256 bits (R223). -/
def Domain.pack (x : Domain) : Nat :=
  x.kind + 4 * b2n x.run + 8 * x.stream + 512 * b2n x.lost + 2 ^ 32 * x.divm + 2 ^ 64 * x.phase + 2 ^ 96 * x.pend +
    2 ^ 128 * x.rowNum.toNat + 2 ^ 160 * x.rowFrm.toNat + 2 ^ 192 * x.steps.toNat
/-- A domain record from its bits. -/
def Domain.unpack (n : Nat) : Domain :=
  { kind := slice n 0 2, run := n.testBit 2, stream := slice n 3 6, lost := n.testBit 9, divm := slice n 32 16,
    phase := slice n 64 32, pend := slice n 96 8, rowNum := BitVec.ofNat 16 (slice n 128 16),
    rowFrm := BitVec.ofNat 32 (slice n 160 32), steps := BitVec.ofNat 64 (slice n 192 64) }
/-- The reserved bits and limits of a domain record. -/
def domainLegal (n : Nat) : Bool :=
  slice n 10 22 == 0 && slice n 48 16 == 0 && slice n 104 24 == 0 && slice n 144 16 == 0 &&
    slice n 64 32 ≤ slice n 32 16
/-- The 8,448 bytes of a field. -/
def Dda.image (f : Dda) : List Byte :=
  ((List.range 256).map fun n => leBytes 32 (f.cell n).toNat).flatten ++
    ((List.range 4).map fun d => leBytes 32 (f.dom d).pack).flatten ++
    ((List.range 16).map fun c => leBytes 2 (BitVec.ofInt 16 (f.chan c)).toNat).flatten ++
    leBytes 8 (b2n f.wrap + 2 * b2n f.injsat) ++ leBytes 88 0
/-- The reserved bits of a cell record: its own, and bits 11 to 8 of each input descriptor (R216, R219). -/
def cellReservedBits : Vec :=
  BitVec.ofNat 256 (2 ^ 71 + (2 ^ 22 - 1) * 2 ^ 74 + (List.range 8).foldl (fun n j => n + 15 * 2 ^ (136 + 16 * j)) 0)
/-- A field whose cells read 0 in their reserved bits. -/
def Dda.fields (f : Dda) : Dda :=
  { f with cells := f.cells.foldl (fun t c => tabSet 0 t c.1 (c.2 &&& ~~~cellReservedBits)) [] }
/-- The field of an image, and whether its bits are legal (R236), those of the field status and of the last 88 bytes among them
(log 127). -/
def Dda.ofImage (bs : List Byte) : Dda × Bool :=
  let at_ (off n : Nat) : Nat := leNat ((bs.drop off).take n)
  let cells := (List.range 256).foldl (fun t n => tabSet 0 t n (BitVec.ofNat 256 (at_ (32 * n) 32))) []
  let doms := (List.range 4).foldl (fun t d => tabSet {} t d (Domain.unpack (at_ (8192 + 32 * d) 32))) []
  let chans := (List.range 16).foldl (fun t c => tabSet 0 t c (BitVec.ofNat 16 (at_ (8320 + 2 * c) 2)).toInt) []
  let st := at_ 8352 8
  let f : Dda := { cells, doms, chans, wrap := st.testBit 0, injsat := st.testBit 1 }
  (f, cells.all (fun x => recordLegal x.2) && f.inputsLegal && (List.range 4).all (fun d => domainLegal (at_ (8192 + 32 * d) 32)) &&
    st < 4 && at_ 8360 88 == 0)

/-! ## Words (R230 to R237) -/

/-- Changes the field of the cursor's core. -/
def State.field (s : State) (f : Dda → Dda) : State := s.share fun y => { y with dda := f y.dda }

def execPatch (h : Hdr) (hn : BitVec 6) (src : Port) (keep : BitVec 1) (s : State) :=
  srcCommand (.patch h hn src keep) 5 src [hn.toNat] s
def execCellw (h : Hdr) (src : Port) (item : BitVec 4) (cell : BitVec 8) (s : State) :=
  srcCommand (.cellw h src item cell) 5 src [] s
/-- The value of a CELLR item (R234). -/
def cellItem (item : Nat) (c : Vec) : Word :=
  match item with
  | 0 => BitVec.ofInt 64 (cellY c)
  | 1 => BitVec.ofInt 64 (cellRes c)
  | 2 => BitVec.ofNat 64 (cellN c)
  | 3 => BitVec.ofInt 64 (cellTap c)
  | 4 => BitVec.ofInt 64 (cellDz c)
  | _ => BitVec.ofNat 64 (slice c.toNat 64 32)
def execCellr (h : Hdr) (gd : BitVec 6) (item : BitVec 4) (cell : BitVec 8) (s : State) :=
  issueWord (.cellr h gd item cell) s fun s => .done (s.deliverG 3 gd (cellItem item.toNat (s.old.dda.cell cell.toNat)))
def execStepdom (h : Hdr) (dom : BitVec 2) (src : Port) (kind : BitVec 2) (s : State) :=
  srcCommand (.stepdom h dom src kind) 5 src [] s
def execStep (h : Hdr) (dom : BitVec 2) (n : BitVec 8) (s : State) :=
  issueWord (.step h dom n) s fun s =>
    if (s.old.dda.dom dom.toNat).kind ≠ 0 then .trap s 1 (illegalInfo 0x84)
    else .done (s.field fun f => f.trigger dom.toNat n.toNat)
def execDarun (h : Hdr) (stop run : BitVec 4) (s : State) :=
  issueWord (.darun h stop run) s fun s =>
    .done (s.field fun f => [0, 1, 2, 3].foldl (fun f d =>
      if run.getLsbD d then f.setDom d { f.dom d with run := true }
      else if stop.getLsbD d then f.setDom d { f.dom d with run := false } else f) f)
def execDasave (h : Hdr) (hn : BitVec 6) (s : State) := plainCommand (.dasave h hn) 5 [hn.toNat] s
def execDaload (h : Hdr) (hn : BitVec 6) (s : State) := plainCommand (.daload h hn) 5 [hn.toNat] s
/-- DAINJ (R237): the sum is clamped. -/
def Dda.inject (f : Dda) (c : Nat) (v : Int) : Dda :=
  let z := f.chan c + v
  let k := max (-32767) (min 32767 z)
  let g := f.setChan c k
  if k = z then g else { g with injsat := true, fresh := g.fresh ||| 32 }
def execDainj (h : Hdr) (chan : BitVec 4) (src : Port) (s : State) :=
  issueWord (.dainj h chan src) s fun s =>
    let x := s.readInt src
    .done (x.2.field fun f => f.inject chan.toNat x.1.toInt)
/-- The increment that a cell emitted in this cycle, where its domain has stepped in it. -/
def emitted (now old : Dda) (cell : Nat) : Int :=
  let d := cellDom (old.cell cell)
  if now.stepped.getLsbD d then cellDz (old.stepCell d (old.cell cell)).1 else 0
def execDatap (h : Hdr) (gd : BitVec 6) (clr : BitVec 1) (cell : BitVec 8) (s : State) :=
  issueWord (.datap h gd clr cell) s fun s =>
    let old := s.old.dda
    let s' := if clr = 1 then s.field fun f =>
        f.setCell cell.toNat (cellPut (f.cell cell.toNat) 96 32 (emitted f old cell.toNat)) else s
    .done (s'.deliverG 2 gd (BitVec.ofInt 64 (cellTap (old.cell cell.toNat))))
/-- The value of DASTAT (R237). -/
def dastatValue (x : Shared) (sel : Nat) : Word :=
  if sel < 4 then
    let d := x.dda.dom sel
    BitVec.ofNat 64 (d.pack % 1024 + 2 ^ 24 * d.pend + 2 ^ 32 * (d.steps.toNat % 2 ^ 32))
  else
    BitVec.ofNat 64 (flagBits [x.dda.wrap, x.dda.injsat, (x.engine 5).busy, false, (x.dda.dom 0).run, (x.dda.dom 1).run,
      (x.dda.dom 2).run, (x.dda.dom 3).run])
/-- DASTAT with CLR: what was set in this cycle survives, INJSAT too (R227, log 123). -/
def Dda.clearStat (f : Dda) (sel : Nat) : Dda :=
  if sel < 4 then f.setDom sel { f.dom sel with lost := f.fresh.getLsbD sel }
  else { f with wrap := f.fresh.getLsbD 4, injsat := f.fresh.getLsbD 5 }
def execDastat (h : Hdr) (gd : BitVec 6) (clr : BitVec 1) (sel : BitVec 3) (s : State) :=
  issueWord (.dastat h gd clr sel) s fun s =>
    let v := dastatValue s.old sel.toNat
    let s := if clr = 1 then s.field fun f => f.clearStat sel.toNat else s
    .done (s.deliverG 1 gd v)

end Sys2Proof.Machine
end

