-- ==== Sys2Proof/Machine/MemWords.lean ====
section
/-! DEFINITION. The memory, atomic, copy and pool words, opcodes 0x90 to 0xAC (R273 to R301). An access enters its stream's
queues here; MemEvents.lean performs it. -/

namespace Sys2Proof.Machine

/-- Bytes of a width code (R72). -/
def wSize (w : BitVec 3) : Nat := [1, 2, 4, 8, 32, 128].getD w.toNat 0
/-- Whether a word of a speculative task must wait for DECIDE (R56): a release toward memory outside its speculation. -/
def State.withheld (s : State) (ord : BitVec 2) : Bool := ord.getLsbD 1 && (s.task s.curCore).spec
/-- The capability register that a format M word names. -/
def State.capReg (s : State) (cn : BitVec 5) : Cap := capOf s s.curCore s.curStream (Encoding.portC cn)
/-- The rights that a write with a capability needs (R418): EXEC besides WRITE where the object holds code. -/
def State.writeRights (s : State) (c : Nat) (cap : Cap) (extra : List Nat) : List Nat :=
  match s.descr (s.task c).ctx cap.obj with
  | some d => extra ++ [1] ++ (if descCode d then [2] else [])
  | none => extra ++ [1]
/-- R418, R426: a capability without PERSIST may not go to an object shared beyond the context, nor any to host memory. -/
def State.storeRefused (s : State) (cap stored : Cap) : Bool :=
  match s.descr (s.task s.curCore).ctx cap.obj with
  | some d => (!descLocal d && !stored.has 6) || descHost d
  | none => false

/-- The destination of a load, with every name resolved at issue (R50, R274). -/
def loadDest (t : Stream) (w : BitVec 3) (p : Port) (id : Nat) : Dest :=
  match w.toNat, Encoding.view p with
  | 5, .v n => .line (physV t.rrbV n) (physV t.rrbV (n + 1)) (physV t.rrbV (n + 2)) (physV t.rrbV (n + 3))
  | _, _ => destOf t p id
/-- The number of the port that a destination stands for. -/
def Dest.port : Dest → Port
  | .v n => BitVec.ofNat 11 n
  | .g n => BitVec.ofNat 11 (0x180 + n)
  | .k n => BitVec.ofNat 11 (0x1C0 + n)
  | .q n _ => BitVec.ofNat 11 (0x280 + n)
  | .c n => BitVec.ofNat 11 (0x2A0 + n)
  | .lc n => BitVec.ofNat 11 (0x2C4 + n)
  | .line a _ _ _ => BitVec.ofNat 11 a
  | _ => 0x2C0
/-- An access enters the queues of the cursor's stream (R257). A load to a queue register reserves its entry (R275). -/
def State.enter (s : State) (a : Access) (w : BitVec 3) (p : Option Port) : State :=
  let c := s.curCore
  let st := s.curStream
  let id := s.seq
  let dest := match p with | some p => loadDest (s.stream c st) w p id | none => a.dest
  let s := s.tickSeq
  let s := match p, dest with
    | some _, .q n _ => s.modSh c fun x => x.setQueue n ((x.queue n).push { state := .awaits id, load := true })
    | _, _ => s
  let port := match dest with | .link => BitVec.ofNat 11 (0x210 + st) | d => d.port
  s.modCore c fun x => { x with acc := x.acc ++ [{ a with id, stream := st, dest, port, w := w.toNat }] }

/-! ## Loads, stores, gathers and scatters (R273 to R279) -/

/-- The object byte of position p of a capability's window. -/
def Cap.byte (c : Cap) (p : Int) : Nat := c.base * 64 + p.toNat

def execLd (h : Hdr) (d : Port) (cn : BitVec 5) (off : Port) (w : BitVec 3) (ord : BitVec 2) (ag stor : BitVec 3) (s : State) :=
  issueWord (.ld h d cn off w ord ag stor) s fun s =>
    let cap := s.capReg cn
    let x := s.readInt off
    let isC := Encoding.isC d
    let size := if isC then 16 else wSize w
    let p : Int := cap.cur + x.1.toInt
    match capCheck cap (if isC then [0, 3] else [0]) p size isC with
    | some cause => .trap x.2 3 (capInfo cause cn.toNat)
    | none =>
      .done (x.2.enter { id := 0, stream := 0, kind := if isC then .capLoad else .load, cap, reg := cn.toNat, ord := ord.toNat, agent := ag.toNat,
                         stor := stor.toNat, pieces := [{ pos := cap.byte p, size }] } w (some d))

/-- The data of a store: the low bytes of the port, a scalar or a predicate zero-extended (log 84), or four vector registers (R274). -/
def storeData (s : State) (w : BitVec 3) (p : Port) : BitVec 1024 × State :=
  match w.toNat, Encoding.view p with
  | 5, .v n =>
    let t := s.stream s.curCore s.curStream
    let r (j : Nat) : Nat := (tabGet 0 t.v (physV t.rrbV (n + j))).toNat
    (BitVec.ofNat 1024 (r 0 + 2 ^ 256 * r 1 + 2 ^ 512 * r 2 + 2 ^ 768 * r 3), s)
  | _, _ =>
    let x := s.read p
    (x.1.setWidth 1024, x.2)

def execSt (h : Hdr) (d : Port) (cn : BitVec 5) (off : Port) (w : BitVec 3) (ord : BitVec 2) (ag stor : BitVec 3) (s : State) :=
  issueWord (.st h d cn off w ord ag stor) s fun s =>
    if s.withheld ord then .wait s
    else
      let cap := s.capReg cn
      let isC := Encoding.isC d
      let stored := capOf s s.curCore s.curStream d
      let v := if isC then (stored.bits.setWidth 1024, s) else storeData s w d
      let x := v.2.readInt off
      let size := if isC then 16 else wSize w
      let p : Int := cap.cur + x.1.toInt
      match capCheck cap (s.writeRights s.curCore cap (if isC then [4] else [])) p size isC with
      | some cause => .trap x.2 3 (capInfo cause cn.toNat)
      | none =>
        if isC && s.storeRefused cap stored then .trap x.2 3 (capInfo .rights cn.toNat)
        else
          -- the tag of a capability store rides above its 128 bits
          let data := if isC then v.1 ||| (BitVec.ofNat 1024 (b2n stored.tag * 2 ^ 128)) else v.1
          .done (x.2.enter { id := 0, stream := 0, kind := if isC then .capStore else .store, cap, reg := cn.toNat, ord := ord.toNat, agent := ag.toNat,
                             stor := stor.toNat, pieces := [{ pos := cap.byte p, size }], data, lag := 3 } w none)

/-- The active lanes of a gather or scatter with their positions (R279). -/
def gatherLanes (cap : Cap) (offs : Vec) (w : BitVec 3) : List (Nat × Int) :=
  ((List.range (if w = 3 then 4 else 8)).filter fun i => lane offs 32 i ≠ 2 ^ 31).map fun i =>
    (i, (cap.cur : Int) + sext 32 (lane offs 32 i))
/-- The first failing lane of a gather or scatter. -/
def gatherFault (cap : Cap) (rights : List Nat) (w : BitVec 3) (ls : List (Nat × Int)) : Option CapCause :=
  ls.findSome? fun l => capCheck cap rights l.2 (wSize w) false

def execGath (h : Hdr) (d : Port) (cn : BitVec 5) (off : Port) (w : BitVec 3) (ord : BitVec 2) (ag stor : BitVec 3) (s : State) :=
  issueWord (.gath h d cn off w ord ag stor) s fun s =>
    let cap := s.capReg cn
    let x := s.read off
    let ls := gatherLanes cap x.1 w
    match gatherFault cap [0] w ls with
    | some cause => .trap x.2 3 (capInfo cause cn.toNat)
    | none =>
      if ls.isEmpty then .done (x.2.reserveTo 7 6 d 0)
      else .done (x.2.enter { id := 0, stream := 0, kind := .gather, cap, reg := cn.toNat, ord := ord.toNat, agent := ag.toNat, stor := stor.toNat,
                              pieces := ls.map fun l => { pos := cap.byte l.2, size := wSize w, lane := l.1 },
                              data := x.1.setWidth 1024 } w (some d))
/-- SCAT (R279): one store for each active lane, in ascending lane order. -/
def execScat (h : Hdr) (d : Port) (cn : BitVec 5) (off : Port) (w : BitVec 3) (ord : BitVec 2) (ag stor : BitVec 3) (s : State) :=
  issueWord (.scat h d cn off w ord ag stor) s fun s =>
    if s.withheld ord then .wait s
    else
      let cap := s.capReg cn
      let v := s.read d
      let x := v.2.read off
      let ls := gatherLanes cap x.1 w
      match gatherFault cap (s.writeRights s.curCore cap []) w ls with
      | some cause => .trap x.2 3 (capInfo cause cn.toNat)
      | none =>
        .done (ls.foldl (fun (t : State) l => t.enter { id := 0, stream := 0, kind := .scatter, cap, reg := cn.toNat, ord := ord.toNat,
                                                        agent := ag.toNat, stor := stor.toNat,
                                                        pieces := [{ pos := cap.byte l.2, size := wSize w, lane := l.1 }],
                                                        data := v.1.setWidth 1024, lag := 3 } w none) x.2)

/-! ## Atomics (R280 to R283) -/

/-- The shared body of the atomic words: checks at the cursor, and the access. -/
def atomicBody (s : State) (d : Port) (cn : BitVec 5) (w : BitVec 3) (ord : BitVec 2) (ag stor : BitVec 3) (popped : State)
    (kind : AccKind) : Out :=
  let cap := s.capReg cn
  match capCheck cap (s.writeRights s.curCore cap [5]) cap.cur (wSize w) true with
  | some cause => .trap popped 3 (capInfo cause cn.toNat)
  | none =>
    .done (popped.enter { id := 0, stream := 0, kind, cap, reg := cn.toNat, ord := ord.toNat, agent := ag.toNat, stor := stor.toNat,
                          pieces := [{ pos := cap.byte cap.cur, size := wSize w }], lag := 3 } w (some d))
def execAmo (h : Hdr) (d : Port) (cn : BitVec 5) (opn : BitVec 10) (w : BitVec 3) (ord : BitVec 2) (ag stor : BitVec 3) (s : State) :=
  issueWord (.amo h d cn opn w ord ag stor) s fun s =>
    if s.withheld ord then .wait s
    else atomicBody s d cn w ord ag stor s (.atomic opn.toNat (s.readInt d).1 0)
/-- CAS is operation 9 of an atomic access. -/
def execCas (h : Hdr) (d : Port) (cn : BitVec 5) (off : Port) (w : BitVec 3) (ord : BitVec 2) (ag stor : BitVec 3) (s : State) :=
  issueWord (.cas h d cn off w ord ag stor) s fun s =>
    if s.withheld ord then .wait s
    else
      let x := s.readInt off
      atomicBody s d cn w ord ag stor x.2 (.atomic 9 (s.readInt d).1 x.1)
def execAmof (h : Hdr) (d : Port) (cn : BitVec 5) (opn : BitVec 10) (w : BitVec 3) (ord : BitVec 2) (ag stor : BitVec 3) (s : State) :=
  issueWord (.amof h d cn opn w ord ag stor) s fun s =>
    if s.withheld ord then .wait s
    else atomicBody s d cn w ord ag stor s (.atomicF opn.toNat (s.readInt d).1)

/-! ## Ordering, cache and prefetch words (R284 to R287) -/

def execFence (h : Hdr) (ord : BitVec 2) (ag stor : BitVec 3) (s : State) :=
  issueWord (.fence h ord ag stor) s fun s =>
    if s.withheld ord then .wait s
    else .done (s.enter { id := 0, stream := 0, kind := if ord = 0 then .mark else .fence, ord := ord.toNat, agent := ag.toNat,
                          stor := stor.toNat } 0 none)
def execMark (h : Hdr) (ag stor : BitVec 3) (s : State) :=
  issueWord (.mark h ag stor) s fun s =>
    .done (s.enter { id := 0, stream := 0, kind := .mark, agent := ag.toNat, stor := stor.toNat } 0 none)
/-- The shared body of CFLUSH and CINV: the range is checked, and an empty one is done at once. -/
def cacheBody (s : State) (cn : BitVec 5) (off : Port) (right : Nat) (kind : AccKind) : Out :=
  let cap := s.capReg cn
  let x := s.readInt off
  match capCheck cap [right] cap.cur x.1.toNat false with
  | some cause => .trap x.2 3 (capInfo cause cn.toNat)
  | none =>
    if x.1 = 0 then .done x.2
    else .done (x.2.enter { id := 0, stream := 0, kind, cap, reg := cn.toNat, pieces := [{ pos := cap.byte cap.cur, size := x.1.toNat }] } 0 none)
def execCflush (h : Hdr) (cn : BitVec 5) (off : Port) (s : State) :=
  issueWord (.cflush h cn off) s fun s => cacheBody s cn off 0 .flush
def execCinv (h : Hdr) (cn : BitVec 5) (off : Port) (s : State) :=
  issueWord (.cinv h cn off) s fun s => cacheBody s cn off 1 .inval
/-- PREF enters its stream's load queue (R257): with no free token, or for an object in host memory, the token is complete at once; an empty range likewise. -/
def execPref (h : Hdr) (d : Port) (cn : BitVec 5) (off : Port) (s : State) :=
  issueWord (.pref h d cn off) s fun s =>
    let c := s.curCore
    let cap := s.capReg cn
    let x := s.readInt off
    match capCheck cap [0] cap.cur x.1.toNat false with
    | some cause => .trap x.2 3 (capInfo cause cn.toNat)
    | none =>
      let ctx := (s.task c).ctx
      let inHost := match s.descr ctx cap.obj with | some d => descHost d | none => false
      let y := s.core c
      let token := y.prefCtr + 1
      let track := y.prefs.length < 16 && !inHost && x.1 != 0
      let s := x.2.modCore c fun y =>
        { y with prefCtr := token, prefs := if track then y.prefs ++ [{ token := token.toNat, ctx, obj := cap.obj,
                                                                         first := cap.byte cap.cur, len := x.1.toNat }] else y.prefs }
      let s := if track then s.enter { id := 0, stream := 0, kind := .prefetch token.toNat, cap, reg := cn.toNat,
                                       pieces := [{ pos := cap.byte cap.cur, size := x.1.toNat }] } 0 none else s
      .done (s.deliverTo 15 1 d (token.setWidth 1024))
def execPrefw (h : Hdr) (d a : Port) (s : State) :=
  issueWord (.prefw h d a) s fun s =>
    let x := s.readInt a
    if (s.core s.curCore).prefs.any fun t => t.token == x.1.toNat % 65536 then .wait s
    else .done (x.2.deliverTo 15 1 d 1)

/-! ## Tile accesses (R292, R335) -/

/-- FF_INFO of a fault on a handle (R452). -/
def handleInfo (cause : CapCause) (n : Nat) (eng : Option Nat := none) : Word := capInfo cause 0 false eng 1 n
/-- Where an LDT or STT of size bytes lies in its tile's image, or the cause of its fault, in the order of R273. -/
def tilePlace (d : Word) (gc : Word) (size : Nat) (store : Bool) : Except CapCause Nat :=
  if !dValid d then .error .tag
  else if store && dBound d then .error .rights
  else
    let start := if isMx (dFmt d) then slice gc.toNat 0 29 else slice gc.toNat 0 13 * elemBytes (dFmt d)
    let row := slice gc.toNat 16 13
    let bad :=
      if isMx (dFmt d) then dFoot d < start + size
      else if dBound d && row == dRows d then 32 < start + size
      else dRows d ≤ row || dCols d ≤ slice gc.toNat 0 13 || dPitch d < start + size
    if bad then .error .bounds
    else if 32 ≤ size ∧ start % 32 ≠ 0 then .error .align
    else .ok (if isMx (dFmt d) then start else row * dPitch d + start)
/-- The descriptor that stands for H0 or H1 of a line-buffer processor (R308): 64 rows of 8,192 .n16 samples, or one output
row of the stream that runs. -/
def lbpDesc (s : State) (l n : Nat) : Option Word :=
  let cfg := (s.sensor (s.lbp l).stream).ran.toNat
  if n = 0 then some (BitVec.ofNat 64 (2 ^ 63 + 5 * 2 ^ 56 + 63 * 2 ^ 43 + 8191 * 2 ^ 30))
  else if n = 1 then some (BitVec.ofNat 64 (2 ^ 63 + slice cfg 61 5 * 2 ^ 56 + slice cfg 48 13 * 2 ^ 30))
  else none
/-- The rows that H0 holds of the running stream, newest first. -/
def Lbp.rows (l : Lbp) : List (List (BitVec 16)) := tabGet [] l.h0 l.stream
def Lbp.setRows (l : Lbp) (r : List (List (BitVec 16))) : Lbp := { l with h0 := tabPut l.h0 l.stream r }
/-- The bytes of row j of a line buffer. -/
def Lbp.rowBytes (l : Lbp) (j : Nat) : List Byte := ((l.rows.getD j []).map fun v => leBytes 2 v.toNat).flatten
/-- n bytes of H0 or H1 from an image offset. -/
def lbpRead (l : Lbp) (n off size : Nat) : List Byte :=
  if n = 0 then (List.range size).map fun i => ((l.rowBytes (off / 16384)).drop (off % 16384 + i)).headD 0
  else rdBytes l.h1 off size
/-- Samples from bytes. -/
def toSamples : List Byte → List (BitVec 16)
  | a :: b :: t => (b ++ a) :: toSamples t
  | [a] => [a.setWidth 16]
  | [] => []
/-- H0 or H1 with bytes written. -/
def lbpWrite (l : Lbp) (n off : Nat) (bs : List Byte) : Lbp :=
  if n = 0 then
    let j := off / 16384
    let at_ := off % 16384
    let old := l.rowBytes j
    let row := (List.range (max old.length (at_ + bs.length))).map fun i =>
      if at_ ≤ i ∧ i < at_ + bs.length then bs.getD (i - at_) 0 else old.getD i 0
    l.setRows ((List.range (max l.rows.length (j + 1))).map fun i => if i = j then toSamples row else l.rows.getD i [])
  else { l with h1 := wrBytes l.h1 off bs }

def execLdt (h : Hdr) (hn gc : BitVec 6) (d : Port) (w : BitVec 3) (s : State) :=
  issueWord (.ldt h hn gc d w) s fun s =>
    let c := s.curCore
    let g := (s.readInt (Encoding.portG gc)).1
    if isLbp c then
      match lbpDesc s (c - 128) hn.toNat with
      | none => .trap s 1 (illegalInfo 0x92)
      | some desc =>
        match tilePlace desc g (wSize w) false with
        | .error cause => .trap s 3 (handleInfo cause hn.toNat)
        | .ok off => .done (s.deliverTo 15 4 d (BitVec.ofNat 1024 (leNat (lbpRead (s.lbp (c - 128)) hn.toNat off (wSize w)))))
    else
      let handle := (s.soc c).handle hn.toNat
      match tilePlace handle.desc g (wSize w) false with
      | .error cause => .trap s 3 (handleInfo cause hn.toNat)
      | .ok off =>
        .done (s.enter { id := 0, stream := 0, kind := .tileLoad, agent := 1, stor := if dTstore handle.desc then 2 else 1, handle,
                         pieces := [{ pos := off, size := wSize w }] } w (some d))
def execStt (h : Hdr) (hn gc : BitVec 6) (d : Port) (w : BitVec 3) (s : State) :=
  issueWord (.stt h hn gc d w) s fun s =>
    let c := s.curCore
    let g := (s.readInt (Encoding.portG gc)).1
    let v := storeData s w d
    if isLbp c then
      match lbpDesc s (c - 128) hn.toNat with
      | none => .trap v.2 1 (illegalInfo 0x93)
      | some desc =>
        match tilePlace desc g (wSize w) true with
        | .error cause => .trap v.2 3 (handleInfo cause hn.toNat)
        | .ok off => .done (v.2.modLbp (c - 128) fun l => lbpWrite l hn.toNat off (leBytes (wSize w) v.1.toNat))
    else
      let handle := (s.soc c).handle hn.toNat
      match tilePlace handle.desc g (wSize w) true with
      | .error cause => .trap v.2 3 (handleInfo cause hn.toNat)
      | .ok off =>
        .done (v.2.enter { id := 0, stream := 0, kind := .tileStore, agent := 1, stor := if dTstore handle.desc then 2 else 1, handle,
                           pieces := [{ pos := off, size := wSize w }], data := v.1, lag := 3 } w none)

/-! ## Handles (R289 to R291) -/

/-- R289: what a shape word may hold. -/
def shapeLegal (v : Word) : Bool :=
  (v &&& ~~~(0x5FFFFFFFE0000000 : Word)) == 0 && dFmt v < 16 && (!v.getLsbD 29 || isMx (dFmt v)) &&
    (!isMx (dFmt v) || (dRows v % 32 == 0 && dCols v % 32 == 0))
/-- The tile store quota of a context, in bytes (R432). -/
def State.quota (s : State) (ctx : Nat) : Nat := slice (s.ctx ctx).cfg.toNat 32 8 * 2 ^ 20
/-- The outcome of TALLOC (R289). -/
def State.tallocCode (s : State) (c hn : Nat) (v : Word) : Nat :=
  let bytes := footUnits v * 32
  if dValid ((s.sh c).handle hn).desc then 1
  else if dTstore v then
    let ctx := (s.task c).ctx
    if s.quota ctx < (s.ctx ctx).tsUsed + bytes then 2 else 0
  else if (s.sh c).scrRoom < (s.sh c).poolUsed + bytes then 2
  else 0
/-- Allocates a tile for a handle: every byte reads zero. -/
def State.talloc (s : State) (c hn : Nat) (v : Word) : State :=
  let bytes := footUnits v * 32
  let s := s.modSh c fun x =>
    let n := x.tileCtr
    let x := (x.setTile n { foot := bytes, tstore := dTstore v }).setHandle hn
      { desc := v ||| BitVec.ofNat 64 (2 ^ 63 + footUnits v), tile := n }
    { x with tileCtr := n + 1 }
  if dTstore v then s.modCtx (s.task c).ctx fun k => { k with tsUsed := k.tsUsed + bytes } else s
def execTalloc (h : Hdr) (gd hn : BitVec 6) (src : Port) (s : State) :=
  issueWord (.talloc h gd hn src) s fun s =>
    let c := s.curCore
    let x := s.readInt src
    if !shapeLegal x.1 then .trap x.2 1 (illegalInfo 0x9B)
    else
      let code := x.2.tallocCode c hn.toNat x.1
      let s := if code = 0 then x.2.talloc c hn.toNat x.1 else x.2
      .done (s.deliverG 2 gd (BitVec.ofNat 64 code))
def execTfree (h : Hdr) (hn : BitVec 6) (s : State) :=
  issueWord (.tfree h hn) s fun s => .done (s.freeHandle s.curCore hn.toNat)
def execTinfo (h : Hdr) (gd hn : BitVec 6) (s : State) :=
  issueWord (.tinfo h gd hn) s fun s => .done (s.deliverG 1 gd (s.old.handle hn.toNat).desc)

/-! ## Copies and tags (R293 to R297) -/

/-- Bit t of TAGS. -/
def tagBit (t : Nat) : Word := BitVec.ofNat 64 (2 ^ t)
/-- A tag's outstanding count. -/
def Shared.tagCount (x : Shared) (t : Nat) : Nat := tabGet 0 x.tagOut t
/-- A command on a tag issues (R294). -/
def Shared.tagStart (x : Shared) (t : Nat) : Shared :=
  { x with tagOut := tabSet 0 x.tagOut t (x.tagCount t + 1), tags := x.tags &&& ~~~(tagBit t) }
/-- The shared life of COPY, COPYP, JOB and NEAR: a command to CP on a tag. -/
def tagCommand (i : Instr) (op : BitVec 8) (tag : BitVec 6) (hs : List Nat) (takesList : Bool) (src : State → Vec × State) (s : State) :
    Host.Outcome State Fault Refusal :=
  commandWord i [4] s fun s =>
    let x := src s
    if 255 ≤ s.now.tagCount tag.toNat then .trap x.2 1 (illegalInfo op)
    else
      let c := s.curCore
      let st := s.curStream
      let foot := if takesList then (s.stream c st).foot else []
      match sendCommands i x.2 [(4, { ins := i, src := x.1, stream := st, foot, tiles := namedTiles s.now hs })] with
      | .done t =>
        let t := t.share fun y => y.tagStart tag.toNat
        .done (if takesList then t.modStream c st fun u => { u with foot := [] } else t)
      | o => o
def execCopy (h : Hdr) (tag : BitVec 6) (dk : BitVec 1) (dst : BitVec 6) (src : Port) (sk : BitVec 1) (sn : BitVec 6) (s : State) :=
  tagCommand (.copy h tag dk dst src sk sn) 0x9E tag
    ((if dk = 1 then [dst.toNat] else []) ++ (if sk = 1 then [sn.toNat] else [])) false (fun s => s.read src) s
def execCopyp (h : Hdr) (tag hn : BitVec 6) (s : State) :=
  tagCommand (.copyp h tag hn) 0x9F tag [hn.toNat] false (fun s => (0, s)) s
def execTwaitany (h : Hdr) (gd : BitVec 6) (src : Port) (s : State) :=
  issueWord (.twaitany h gd src) s fun s =>
    let x := s.readInt src
    if x.1 = 0 then .trap x.2 1 (illegalInfo 0xA0)
    else if s.old.tags &&& x.1 = 0 then .wait s
    else .done (x.2.deliverG 1 gd (s.old.tags &&& x.1))
def execTwaitall (h : Hdr) (src : Port) (s : State) :=
  issueWord (.twaitall h src) s fun s =>
    let x := s.readInt src
    if s.old.tags &&& x.1 = x.1 then .done x.2 else .wait s
def execTffr (h : Hdr) (gd : BitVec 6) (src : Port) (s : State) :=
  issueWord (.tffr h gd src) s fun s =>
    let x := s.readInt src
    .done (x.2.deliverG 1 gd (BitVec.ofNat 64 (((List.range 64).find? fun i => (s.old.tags &&& x.1).getLsbD i).getD 64)))
def execTclr (h : Hdr) (src : Port) (s : State) :=
  issueWord (.tclr h src) s fun s =>
    let x := s.readInt src
    .done (x.2.share fun y => { y with tags := y.tags &&& ~~~x.1 })

/-! ## Pool roles (R238 to R243, R298) -/

/-- The least count of REG (R238). -/
def regMin (vregs : Nat) : Nat := (4 * vregs * 32 + 32767) / 32768
/-- The least count of MAT (R238): that of the ring as it stands and as each RINGCFG under way will leave it. -/
def Shared.matMin (x : Shared) : Nat :=
  x.ring.coming.foldl (fun n r => max n (matBanks r.1 r.2.1)) (matBanks x.ring.d x.ring.s)
/-- The outcome of POOLSET's checks (R240), 0 where it passes: the ring is judged as at the start of the cycle (R68, R142), BUSY and the
minima with what earlier streams of the cycle have asked for. -/
def poolCode (x soc : Shared) (vregs : Nat) (fix : Bool) (want : PoolRoles) : Nat :=
  let l := [want.reg, want.scr, want.cache, want.mat]
  if l.any (64 < ·) ∨ want.reg + want.scr + want.cache + want.mat ≠ 64 then 5
  else if fix then 6
  else if x.poolReq.pending then 1
  else if want.reg < regMin vregs ∨ want.mat < x.matMin then 3
  else if want.mat < x.pool.mat ∧ soc.ring.active then 4
  else if want.scr * 32768 < x.poolUsed then 2
  else 0
/-- POOLSET takes its ticket (R240): the request machinery after it. -/
def PoolReq.take (r : PoolReq) (pool want : PoolRoles) (code : Nat) : PoolReq :=
  let n := r.counter + 1
  let goes := code == 0 && pool != want
  let t : Ticket := { ticket := n, pending := goes, code := BitVec.ofNat 3 code }
  let r := { r with counter := n, tickets := (r.tickets ++ [t]).drop (r.tickets.length - 3) }
  if goes then { r with pending := true, ticket := n, ending := false, want, step := 0 } else r
def execPoolset (h : Hdr) (gd : BitVec 6) (src : Port) (s : State) :=
  issueWord (.poolset h gd src) s fun s =>
    let x := s.readInt src
    if slice x.1.toNat 32 32 ≠ 0 then .trap x.2 1 (illegalInfo 0xA6)
    else
      let t := s.task s.curCore
      let v := x.1.toNat
      let want : PoolRoles := { reg := slice v 0 8, scr := slice v 8 8, cache := slice v 16 8, mat := slice v 24 8 }
      let code := poolCode s.now s.old t.vregs t.poolFix want
      let r := s.now.poolReq.take s.now.pool want code
      let s := x.2.share fun y => { y with poolReq := r }
      .done (s.deliverG 2 gd (BitVec.ofNat 64 (r.counter.toNat + 2 ^ 16 * b2n (code == 0 && s.now.pool != want) + 2 ^ 17 * code)))
/-- POOL_OCC but for CACHE_DIRTY (R239). -/
def poolOcc (x : Shared) (vregs : Nat) : Nat :=
  x.pool.reg + 2 ^ 8 * regMin vregs + 2 ^ 16 * x.pool.scr + 2 ^ 24 * ((x.poolUsed + 32767) / 32768) + 2 ^ 32 * x.pool.cache +
    2 ^ 48 * x.pool.mat + 2 ^ 56 * matBanks x.ring.d x.ring.s
/-- POOL_OCC of core c as it stands at the start of the cycle. -/
def State.poolOccAt (s : State) (c : Nat) : Word :=
  BitVec.ofNat 64 (poolOcc (s.soc c) (s.task c).vregs + 2 ^ 40 * (s.core c).dirtyAt)
def execPoolqOcc (h : Hdr) (gd : BitVec 6) (s : State) :=
  issueWord (.poolqOcc h gd) s fun s => .done (s.deliverG 1 gd (s.poolOccAt s.curCore))
/-- The status of a ticket (R243). -/
def PoolReq.status (r : PoolReq) (n : BitVec 16) : Word :=
  match r.tickets.find? fun t => t.ticket == n with
  | some t => BitVec.ofNat 64 (n.toNat * 2 ^ 48 + b2n t.pending * 2 ^ 16 + (if t.pending then 0 else t.code.toNat))
  | none => BitVec.ofNat 64 (2 ^ 17)
def execPoolqTkt (h : Hdr) (gd : BitVec 6) (src : Port) (s : State) :=
  issueWord (.poolqTkt h gd src) s fun s =>
    let x := s.readInt src
    .done (x.2.deliverG 1 gd (s.old.poolReq.status (x.1.setWidth 16)))

/-! ## Footprints, job cards and operators (R299 to R301) -/

def execFoot (h : Hdr) (cn : BitVec 5) (src : Port) (acc : BitVec 2) (s : State) :=
  issueWord (.foot h cn src acc) s fun s =>
    let c := s.curCore
    let st := s.curStream
    let cap := s.capReg cn
    let x := s.readInt src
    let off := slice x.1.toNat 0 32
    let len := slice x.1.toNat 32 32
    if 8 ≤ (s.stream c st).foot.length then .trap x.2 1 (illegalInfo 0xAA)
    else
      let rights := (if acc.getLsbD 0 then [0] else []) ++ (if acc.getLsbD 1 then [1] else [])
      match capCheck cap rights (cap.cur + off : Nat) len false with
      | some cause => .trap x.2 3 (capInfo cause cn.toNat)
      | none => .done (x.2.modStream c st fun t => { t with foot := t.foot ++ [{ cap, access := acc, off, len }] })
def execJob (h : Hdr) (tag hn : BitVec 6) (s : State) :=
  tagCommand (.job h tag hn) 0xAB tag [hn.toNat] true (fun s => (0, s)) s
def execNear (h : Hdr) (tag hn : BitVec 6) (s : State) :=
  tagCommand (.near h tag hn) 0xAC tag [hn.toNat] true (fun s => (0, s)) s

end Sys2Proof.Machine
end

