-- ==== Sys2Proof/Machine/Sync.lean ====
section
/-! DEFINITION. Synchronisation and sensor words, opcodes 0xB0 to 0xBF (R320 to R341), with the roll-call operations that they
share with the happenings of the hub (R316 to R319). -/

namespace Sys2Proof.Machine

/-! ## Queue registers with ordering (R322, R323, R327, R328) -/

/-- PUSH: with AGENT STREAM the entry is poppable at the end of the issue cycle; otherwise once its release has completed. -/
def execPush (h : Hdr) (qn : BitVec 5) (src : Port) (ag stor : BitVec 3) (s : State) :=
  issueWord (.push h qn src ag stor) s fun s =>
    let q := qn.toNat
    if s.withheld 2 || (s.now.queue q).full then .wait s
    else
      let x := s.read src
      if ag = 0 then .done (x.2.share fun y => y.setQueue q ((y.queue q).push { val := x.1 }))
      else
        let id := x.2.seq
        let s := x.2.enter { id := 0, stream := 0, kind := .pushRel q, ord := 2, agent := ag.toNat, stor := stor.toNat } 0 none
        .done (s.share fun y => y.setQueue q ((y.queue q).push { val := x.1, state := .release id }))
def execPop (h : Hdr) (qn : BitVec 5) (d : Port) (ag stor : BitVec 3) (s : State) :=
  issueWord (.pop h qn d ag stor) s fun s =>
    let q := qn.toNat
    if (s.now.queue q).ripe = 0 then .wait s
    else
      let r := (s.now.queue q).pop
      let s := s.share fun y => y.setQueue q r.2
      -- an acquire carries out its part on CACHE (R249)
      let s := s.acquireCache s.curCore ag.toNat stor.toNat
      .done (s.deliverTo 15 1 d (r.1.setWidth 1024))
def execQstatQ (h : Hdr) (d : Port) (n : BitVec 5) (s : State) :=
  issueWord (.qstatQ h d n) s fun s =>
    let q := s.old.queue n.toNat
    .done (s.deliverTo 0 1 d (BitVec.ofNat 1024 (q.ripe + 16 * (q.ents.length - q.ripe))))
def execQstatE (h : Hdr) (d : Port) (n : BitVec 5) (s : State) :=
  issueWord (.qstatE h d n) s fun s =>
    let e := s.old.event n.toNat
    .done (s.deliverTo 0 1 d (BitVec.ofNat 1024 (e.count + 256 * b2n e.ovf)))
/-- QDRAIN.q: ripe entries go, every other entry that is not of this cycle is marked; a marked entry is not counted again. -/
def Queue.drain (q : Queue) : Nat × Queue :=
  let n := q.ripe
  let rest := q.ents.drop n
  (n + (rest.filter fun e => !e.fresh && !e.marked).length,
    { q with ents := rest.map fun e => if e.fresh then e else { e with marked := true } })
def execQdrainQ (h : Hdr) (gd : BitVec 6) (n : BitVec 5) (s : State) :=
  issueWord (.qdrainQ h gd n) s fun s =>
    let r := (s.now.queue n.toNat).drain
    .done ((s.share fun y => y.setQueue n.toNat r.2).deliverG 1 gd (BitVec.ofNat 64 r.1))
def execQdrainE (h : Hdr) (gd : BitVec 6) (n : BitVec 5) (s : State) :=
  issueWord (.qdrainE h gd n) s fun s =>
    let e := s.now.event n.toNat
    .done ((s.share fun y => y.setEvent n.toNat { e with count := 0, ovf := false }).deliverG 1 gd
      (BitVec.ofNat 64 (e.count + 256 * b2n e.ovf)))

/-! ## Events (R324 to R326) -/

def execPost (h : Hdr) (en : BitVec 5) (n : BitVec 8) (s : State) :=
  issueWord (.post h en n) s fun s =>
    .done (s.enter { id := 0, stream := 0, kind := .postRel en.toNat n.toNat, ord := 2, agent := 1 } 0 none)
/-- Takes n from an event's count. -/
def Shared.consume (x : Shared) (e n : Nat) : Shared := x.setEvent e { x.event e with count := (x.event e).count - n }
def execAwait (h : Hdr) (en : BitVec 5) (n : BitVec 8) (s : State) :=
  issueWord (.await h en n) s fun s =>
    if (s.now.event en.toNat).count < n.toNat then .wait s
    else .done (s.share fun y => y.consume en.toNat n.toNat)
def execAwaitn (h : Hdr) (gd : BitVec 6) (src : Port) (s : State) :=
  issueWord (.awaitn h gd src) s fun s =>
    let x := s.readInt src
    let mask := x.1.toNat % 2 ^ 32
    if mask = 0 then .trap x.2 1 (illegalInfo 0xB4)
    else match (List.range 32).find? fun e => mask.testBit e && (s.now.event e).count != 0 with
      | none => .wait s
      | some e => .done ((x.2.share fun y => y.consume e 1).deliverG 1 gd (BitVec.ofNat 64 e))

/-! ## Barriers (R329, R330) -/

def Shared.barrier (x : Shared) (n : Nat) : Barrier := tabGet {} x.bars n
def Shared.setBarrier (x : Shared) (n : Nat) (b : Barrier) : Shared := { x with bars := tabSet {} x.bars n b }
/-- The bit of the cursor's cluster. -/
def State.ownBit (s : State) : BitVec 4 := BitVec.ofNat 4 (2 ^ s.curStream)
/-- The acquire of a departure: later accesses of the stream follow the participants' earlier ones (R267). -/
def State.rendezvous (s : State) (mask : BitVec 4) : State :=
  s.enter { id := 0, stream := 0, kind := .rendezvous mask.toNat s.seq, agent := 1 } 0 none
def execBar (h : Hdr) (bid : BitVec 3) (mask : BitVec 4) (s : State) :=
  issueWord (.bar h bid mask) s fun s =>
    let n := bid.toNat
    let own := s.ownBit
    let b := s.now.barrier n
    if b.leaving &&& own ≠ 0 then
      .done ((s.share fun y => y.setBarrier n { b with leaving := b.leaving &&& ~~~own }).rendezvous mask)
    else if b.arrived &&& own ≠ 0 then .wait s
    else if mask &&& own = 0 ∨ (b.arrived ≠ 0 ∧ b.mask ≠ mask) then .trap s 1 (illegalInfo 0xB5)
    else .wait (s.share fun y => y.setBarrier n { b with mask, arrived := b.arrived ||| own })

/-! ## The sensor position (R314, R315, R331 to R333) -/

def Sensor.en (x : Sensor) : Bool := x.scfg.getLsbD 0
def Sensor.height (x : Sensor) : Nat := slice x.ran.toNat 68 6 + 1
def Sensor.slots (x : Sensor) : Nat := slice x.ran.toNat 74 6 + 1
def Sensor.rpf (x : Sensor) : Nat := slice x.ran.toNat 35 13 + 1
def Sensor.width (x : Sensor) : Nat := slice x.ran.toNat 48 13 + 1
def Sensor.ofmt (x : Sensor) : Nat := slice x.ran.toNat 61 5
/-- The ring slot of tile t of frame f (R312). -/
def Sensor.slotOf (x : Sensor) (f t : Nat) : Nat := (f * (x.rpf / x.height) + t) % x.slots
/-- Whether the position has passed row r of frame f (R332). -/
def Sensor.passed (x : Sensor) (f r : Nat) : Bool :=
  let d := (x.frame - BitVec.ofNat 32 f).toNat
  (1 ≤ d && d < 2 ^ 31) || (d == 0 && r ≤ x.row.toNat)
/-- Whether the task at the cursor may read a sensor stream (R331). -/
def State.mayRead (s : State) (n : Nat) : Bool := (s.ctx (s.task s.curCore).ctx).sread.getLsbD n
/-- FF_INFO of a stream without the SREAD right (R452). -/
def sreadInfo (n : Nat) : Word := capInfo .rights 0 false none 3 n
def execRowwait (h : Hdr) (sn : BitVec 6) (src : Port) (s : State) :=
  issueWord (.rowwait h sn src) s fun s =>
    let x := s.readInt src
    if slice x.1.toNat 16 16 ≠ 0 then .trap x.2 1 (illegalInfo 0xB6)
    else if !s.mayRead sn.toNat then .trap x.2 3 (sreadInfo sn.toNat)
    else if (s.sensor sn.toNat).passed (slice x.1.toNat 32 32) (slice x.1.toNat 0 16) then .done x.2
    else .wait s
def execRowget (h : Hdr) (gd sn : BitVec 6) (s : State) :=
  issueWord (.rowget h gd sn) s fun s =>
    if !s.mayRead sn.toNat then .trap s 3 (sreadInfo sn.toNat)
    else
      let x := s.sensor sn.toNat
      .done (s.deliverG 1 gd (BitVec.ofNat 64 (x.row.toNat + 65536 * x.frame.toNat)))
def execFrmgetCnt (h : Hdr) (gd sn : BitVec 6) (s : State) :=
  issueWord (.frmgetCnt h gd sn) s fun s =>
    if !s.mayRead sn.toNat then .trap s 3 (sreadInfo sn.toNat)
    else
      let x := s.sensor sn.toNat
      .done (s.deliverG 1 gd (BitVec.ofNat 64 (x.frame.toNat + 2 ^ 32 * x.closed.toNat)))
def execFrmgetStamp (h : Hdr) (gd sn : BitVec 6) (s : State) :=
  issueWord (.frmgetStamp h gd sn) s fun s =>
    if !s.mayRead sn.toNat then .trap s 3 (sreadInfo sn.toNat)
    else .done (s.deliverG 1 gd (s.sensor sn.toNat).lastStamp)

/-! ## Binding sensor tiles (R334) -/

/-- The state of tile (f, t) of a sensor stream: 4 NOT_YET, 2 GONE, 0 AVAILABLE, 1 PENDING. -/
def Sensor.tileState (x : Sensor) (f t : Nat) : Nat :=
  let th := x.height
  if !x.passed f (t * th + 1) ∨ x.rpf / th ≤ t then 4
  else
    let k := tabGet {} x.tiles (x.slotOf f t)
    if !(k.live && k.frame == f && k.tile == t) then 2
    else if x.passed f ((t + 1) * th) then 0 else 1
/-- The descriptor of a handle bound to a tile of a stream. -/
def Sensor.boundDesc (x : Sensor) : Word :=
  let d : Word := BitVec.ofNat 64 (2 ^ 63 + 2 ^ 62 + 2 ^ 61 + x.ofmt * 2 ^ 56 + (x.height - 1) * 2 ^ 43 + (x.width - 1) * 2 ^ 30)
  d ||| BitVec.ofNat 64 (footUnits d)
/-- Binds a handle of core c to a tile, which pins it. -/
def State.bindTile (s : State) (c hn : Nat) (t : SensorTile) : State :=
  s.modSh c fun x => x.setHandle hn { desc := (s.sensor t.stream).boundDesc, bound := some t }
def execStbind (h : Hdr) (hn sn : BitVec 6) (src : Port) (gd : BitVec 6) (s : State) :=
  issueWord (.stbind h hn sn src gd) s fun s =>
    let x := s.readInt src
    let f := slice x.1.toNat 32 32
    let t := slice x.1.toNat 0 16
    if slice x.1.toNat 16 16 ≠ 0 then .trap x.2 1 (illegalInfo 0xBE)
    else if !s.mayRead sn.toNat then .trap x.2 3 (sreadInfo sn.toNat)
    else
      let r := s.sensor sn.toNat
      let code := if dValid (s.now.handle hn.toNat).desc then 3 else r.tileState f t
      let s := if code ≤ 1 then
          (x.2.bindTile s.curCore hn.toNat { stream := sn.toNat, frame := f, tile := t, slot := r.slotOf f t }).modCore s.curCore fun y =>
            { y with binds := y.binds ++ [(hn.toNat, x.2.seq)] } else x.2
      .done (s.deliverG 2 gd (BitVec.ofNat 64 code))

/-! ## Roll-call (R316 to R319, R337 to R339) -/

def mEn (r : BitVec 128) : Bool := r.getLsbD 0
def mRef (r : BitVec 128) : Bool := r.getLsbD 8
def mAuto (r : BitVec 128) : Bool := r.getLsbD 9
def mStream (r : BitVec 128) : Nat := slice r.toNat 10 6
def mLat (r : BitVec 128) : Nat := slice r.toNat 32 32
def mWin (r : BitVec 128) : Nat := slice r.toNat 64 32
def mAge (r : BitVec 128) : Nat := slice r.toNat 96 32
def RollGroup.member (g : RollGroup) (m : Nat) : Member := tabGet {} g.members m
def RollGroup.setMember (g : RollGroup) (m : Nat) (v : Member) : RollGroup := { g with members := tabSet {} g.members m v }
/-- The one enabled reference member of an armed group. -/
def RollGroup.ref (g : RollGroup) : Option Nat :=
  match (List.range 8).filter fun m => mEn (g.member m).record && mRef (g.member m).record with
  | [m] => some m
  | _ => none
/-- An offer of a tile that is AVAILABLE: its time is the floor of the mean of its stamps (R317). -/
def State.offerOf (s : State) (t : SensorTile) : Offer :=
  match s.ringTile t with
  | some x => { tile := t, time := ((x.2.first.toNat + x.2.last.toNat) / 2 : Nat), first := x.2.first, last := x.2.last }
  | none => { tile := t, time := 0 }
/-- A group counts an offer of member m; one of the reference opens a set or is held as the next reference (R317). -/
def RollGroup.offer (g : RollGroup) (m : Nat) (o : Offer) : RollGroup :=
  let x := g.member m
  if g.ref.isNone || x.offers.any (·.tile == o.tile) then g
  else
    let g := g.setMember m { x with offers := x.offers ++ [o] }
    if g.ref ≠ some m then g
    else if g.opened.isNone then { g with opened := some o }
    else { g with heldRef := some o }
/-- RCCFG's effects on a group (R337). -/
def RollGroup.configure (g : RollGroup) (m : Nat) (r : BitVec 128) : RollGroup :=
  let x := g.member m
  let moved := mStream x.record != mStream r || mEn x.record != mEn r
  -- the held reference is an offer of the reference member, and goes with that member's alone
  let g := if moved && g.ref == some m then { g with heldRef := none } else g
  let g := g.setMember m (if moved then { record := r } else { x with record := r })
  if g.ref.isNone then { g with opened := none, heldRef := none } else g
/-- The records of a cycle's RCCFGs land at its end, in order (R82, R337). -/
def RollGroup.land (g : RollGroup) : RollGroup :=
  if g.coming.isEmpty ∧ g.given.isEmpty then g else { (g.coming.foldl (fun g r => g.configure r.1 r.2) g) with coming := [], given := [] }
/-- Whether a group is assigned to the context of the task at the cursor (R337). -/
def State.groupMine (s : State) (g : Nat) : Bool := (s.group g).assigned && (s.group g).ctx == (s.task s.curCore).ctx
/-- FF_INFO of a group of another context (R452). -/
def groupInfo (g : Nat) : Word := capInfo .rights 0 false none 4 g
/-- The reserved bits of a member record. -/
def memberLegal (r : BitVec 128) : Bool := slice r.toNat 16 16 == 0 && slice r.toNat 1 7 == 0
def execRccfg (h : Hdr) (grp : BitVec 4) (src : Port) (m : BitVec 3) (s : State) :=
  issueWord (.rccfg h grp src m) s fun s =>
    let x := s.read src
    let r : BitVec 128 := x.1.setWidth 128
    if !memberLegal r then .trap x.2 1 (illegalInfo 0xBB)
    else if !s.groupMine grp.toNat then .trap x.2 3 (groupInfo grp.toNat)
    else if mEn r && !s.mayRead (mStream r) then .trap x.2 3 (sreadInfo (mStream r))
    else .done (x.2.modGroup grp.toNat fun g => { g with coming := g.coming ++ [(m.toNat, r)] })
def execRcsub (h : Hdr) (hn : BitVec 6) (grp : BitVec 4) (m : BitVec 3) (s : State) :=
  issueWord (.rcsub h hn grp m) s fun s =>
    let v := s.old.handle hn.toNat
    let g := s.group grp.toNat
    let x := g.member m.toNat
    if !s.groupMine grp.toNat then .trap s 3 (groupInfo grp.toNat)
    else if !dValid v.desc then .trap s 3 (handleInfo .tag hn.toNat)
    else match v.bound with
      | none => .trap s 3 (handleInfo .rights hn.toNat)
      | some t =>
        if !mEn x.record ∨ mStream x.record ≠ t.stream ∨ g.ref.isNone then .trap s 1 (illegalInfo 0xB9)
        else match (s.sensor t.stream).tileState t.frame t.tile with
          | 0 => .done (s.modGroup grp.toNat fun g => g.offer m.toNat (s.offerOf t))
          | 1 => .done (s.modGroup grp.toNat fun g =>
              let x := g.member m.toNat
              if x.held.contains t || x.offers.any (·.tile == t) then g else g.setMember m.toNat { x with held := x.held ++ [t] })
          | _ => .done s
/-- The 256 bytes of a set record (R339). -/
def RollSet.record (r : RollSet) : List Byte :=
  let stamps := (r.entries.map fun e => match e.1 with
    | some o => leBytes 8 o.first.toNat ++ leBytes 8 o.last.toNat
    | none => leBytes 16 0).flatten
  let head := leBytes 8 (BitVec.ofInt 64 r.tref).toNat ++ stamps
  head ++ leBytes (256 - head.length) 0
/-- The members of a set that hold a tile. -/
def RollSet.held (r : RollSet) : List (Nat × SensorTile) :=
  (List.range 8).filterMap fun j => match r.entries.getD j (none, 2) with | (some o, _) => some (j, o.tile) | _ => none
def execRcget (h : Hdr) (gd hb hr : BitVec 6) (grp : BitVec 4) (s : State) :=
  issueWord (.rcget h gd hb hr grp) s fun s =>
    let c := s.curCore
    let r := s.old.handle hr.toNat
    if 63 < hb.toNat + 7 then .trap s 1 (illegalInfo 0xBA)
    else if !s.groupMine grp.toNat then .trap s 3 (groupInfo grp.toNat)
    else if !dValid r.desc then .trap s 3 (handleInfo .tag hr.toNat)
    else if dTstore r.desc then .trap s 3 (handleInfo .rights hr.toNat)
    else if dFoot r.desc < 256 then .trap s 3 (handleInfo .bounds hr.toNat)
    else
      let g := s.group grp.toNat
      let word (code bound flags queued : Nat) : Word :=
        BitVec.ofNat 64 (code + 16 * queued + 256 * bound + 65536 * flags + 2 ^ 32 * min g.lost 65535)
      match g.queue with
      | [] => .done (s.deliverG 2 gd (word 1 0 0 0))
      | set :: rest =>
        if set.held.any fun x => dValid (s.now.handle (hb.toNat + x.1)).desc then
          .done (s.deliverG 2 gd (word 2 0 0 g.queue.length))
        else
          let s := set.held.foldl (fun (s : State) x => s.bindTile c (hb.toNat + x.1) x.2) s
          let s := s.tileWrite c r 0 set.record
          let s := s.modGroup grp.toNat fun g => { g with queue := rest, given := g.given ++ set.held.map Prod.snd }
          let bound := set.held.foldl (fun n x => n + 2 ^ x.1) 0
          let flags := (List.range 8).foldl (fun n j => n + (set.entries.getD j (none, 2)).2 * 4 ^ j) 0
          .done (s.deliverG 2 gd (word 0 bound flags rest.length))

/-! ## Time (R341) -/

def execTimeget (h : Hdr) (d : Port) (s : State) :=
  issueWord (.timeget h d) s fun s => .done (s.deliverTo 0 1 d (s.time.setWidth 1024))
def execTimegetSt (h : Hdr) (d : Port) (s : State) :=
  issueWord (.timegetSt h d) s fun s =>
    .done (s.deliverTo 0 1 d (BitVec.ofNat 1024 (flagBits [s.tbStep, s.sync, s.hostTime])))

end Sys2Proof.Machine
end

