-- ==== Sys2Proof/Machine/Launching.lean ====
section
/-! DEFINITION. From launch packet to retirement: kernel objects and the loader's checks (R25 to R33, R343, R344), the launch
table (R346, R347), completion records (R345), die queues and overflow (R52, R358, R360), speculations (R55 to R57, R361). -/

namespace Sys2Proof.Machine

/-! ## Objects as the device's own units read them -/

/-- Where a byte of an object lies: for a page that migrates, in its old frame until it is copied. -/
def State.objPlace (s : State) (ctx obj a : Nat) : Option (Bool × Nat) :=
  match s.descr ctx obj with
  | none => none
  | some d =>
    let i := a / pageSize (descPg d)
    let e := s.pageEntry d i
    let low := if descPg d then slice e 17 4 else 0
    if descPages d ≤ i ∨ slice e 2 15 ≠ 0 ∨ low ≠ 0 ∨ !e.testBit 0 then none
    else some (descHost d, e / 2 ^ 17 * 2 ^ 17 + a % pageSize (descPg d))
/-- The size of an object, 0 where it does not exist. -/
def State.objSize (s : State) (ctx obj : Nat) : Nat :=
  match s.descr ctx obj with | some d => descPages d * pageSize (descPg d) | none => 0
/-- Whether a page of a range of an object migrates (R422, R430). -/
def State.migrates (s : State) (ctx obj off len : Nat) : Bool :=
  match s.descr ctx obj with
  | none => false
  | some d =>
    let size := pageSize (descPg d)
    (List.range ((off + (len - 1)) / size - off / size + 1)).any fun i =>
      let e := s.pageEntry d (off / size + i)
      off / size + i < descPages d && e.testBit 0 && e.testBit 1
/-- The byte that a write stalled at a memory port holds for a byte of an object. -/
def StallAt.byteFor (ctx obj a : Nat) : StallAt → Option Byte
  | .write c o off bs => if c = ctx ∧ o = obj ∧ off ≤ a then bs[a - off]? else none
  | _ => none
/-- A byte of an object: what the latest write of the device's units that still stalls puts there, else the byte at its coherence
point (log 132); one with no place reads 0. -/
def State.objByte (s : State) (ctx obj a : Nat) : Byte :=
  ((s.stalls.reverse.findSome? (StallAt.byteFor ctx obj a)).or
    ((s.objPlace ctx obj a).map fun x => s.cohByte none x.1 x.2)).getD 0
/-- n bytes of an object. -/
def State.objRead (s : State) (ctx obj off n : Nat) : List Byte := (List.range n).map fun i => s.objByte ctx obj (off + i)
/-- A little-endian number in an object. -/
def State.objNat (s : State) (ctx obj off n : Nat) : Nat := leNat (s.objRead ctx obj off n)
/-- Writes bytes of an object at their coherence points; the write stalls where a page of it migrates (R430). -/
def State.objWrite (s : State) (ctx obj off : Nat) (bs : List Byte) : State :=
  if s.migrates ctx obj off bs.length then s.noteStall (.write ctx obj off bs)
  else
  let l := (List.range bs.length).filterMap fun i => (s.objPlace ctx obj (off + i)).map fun x => (x.1, x.2, bs.getD i 0)
  (s.cohWrite none l).checkPlace (l.map fun x => (x.1, x.2.1))

/-! ## Kernels (R26 to R30) -/

/-- A field of a packet or record. -/
def bytesNat (l : List Byte) (off n : Nat) : Nat := leNat ((l.drop off).take n)
def pkObj (p : List Byte) : Nat := bytesNat p 0 3
def pkOff (p : List Byte) : Nat := bytesNat p 4 4 * 64
def pkCtx (p : List Byte) : Nat := bytesNat p 8 1 % 16
def pkPrio (p : List Byte) : Nat := bytesNat p 9 1 % 4
def pkCcls (p : List Byte) : Nat := bytesNat p 9 1 / 4 % 8
def pkFix (p : List Byte) : Bool := (bytesNat p 9 1).testBit 5
def pkCobj (p : List Byte) : Nat := bytesNat p 12 3
def pkCoff (p : List Byte) : Nat := bytesNat p 16 8
/-- A number in the kernel header of a packet. -/
def State.kern (s : State) (p : List Byte) (off n : Nat) : Nat := s.objNat (pkCtx p) (pkObj p) (pkOff p + off) n
def State.kVregs (s : State) (p : List Byte) : Nat := s.kern p 8 2
def State.kLevels (s : State) (p : List Byte) : List (Nat × Nat) :=
  (List.range (s.kern p 10 1)).map fun i => let v := s.kern p (16 + 8 * i) 8; (slice v 32 2, v % 2 ^ 32)
/-- Offset from the kernel and length in words of the code object of a role. -/
def State.kCode (s : State) (p : List Byte) (st : Nat) : Nat × Nat :=
  let v := s.kern p (64 + 8 * st) 8
  (v % 2 ^ 32, slice v 32 11)
def State.kImage (s : State) (p : List Byte) : Nat × Nat :=
  let v := s.kern p 144 8
  (v % 2 ^ 32, v / 2 ^ 32)
/-- A number in the context image of a kernel; what lies beyond the image's length reads 0. -/
def State.imgNat (s : State) (p : List Byte) (off n : Nat) : Nat :=
  let im := s.kImage p
  if off + n ≤ im.2 then s.objNat (pkCtx p) (pkObj p) (pkOff p + im.1 + off) n else 0
/-- The tasks of a launch (R28, R32). -/
def taskCount (levels : List (Nat × Nat)) : Nat :=
  if levels.any (·.2 = 0) then 0 else (levels.filter (·.1 ≠ 0)).foldl (fun n l => n * l.2) 1
/-- Mixed-radix digits of an index over extents, outermost first. -/
def digits : List Nat → Nat → List Nat
  | [], _ => []
  | r :: t, n => (n / t.foldl (· * ·) 1) % r :: digits t n
/-- The coordinates of a task on six levels (R29, R35). -/
def taskCoords (levels : List (Nat × Nat)) (index : Nat) : List Nat :=
  let ds := digits ((levels.filter (·.1 ≠ 0)).map (·.2)) index
  let rec go : List (Nat × Nat) → List Nat → List Nat
    | [], _ => []
    | l :: t, ds => if l.1 = 0 then 0 :: go t ds else ds.headD 0 :: go t (ds.drop 1)
  let l := go levels ds
  l ++ List.replicate (6 - l.length) 0

/-! ## The loader's checks (R344) -/

/-- Whether the completion record of a packet can be written. -/
def State.recordFits (s : State) (p : List Byte) : Bool :=
  (s.descr (pkCtx p) (pkCobj p)).isSome && pkCoff p % 32 == 0 && pkCoff p + 32 ≤ s.objSize (pkCtx p) (pkCobj p)
/-- Reserved fields of a packet (R343). -/
def packetLegal (p : List Byte) : Bool :=
  bytesNat p 3 1 == 0 && bytesNat p 8 1 / 16 == 0 && bytesNat p 9 1 / 64 == 0 && bytesNat p 10 2 == 0 && bytesNat p 15 1 == 0 &&
    bytesNat p 40 24 == 0
/-- Every part of a kernel lies within its object and holds no reserved value (R26, R419). R344's list names no code for NFOOT or
NBUF above 64, VREGS above 384, misaligned offsets or a footprint access code that R26 does not define: they are refused with code 3
(DESIGN CHOICE, log 109), as is an absent part whose offset lies beyond the object (DESIGN CHOICE, log 136). -/
def State.kernelLegal (s : State) (p : List Byte) : Bool :=
  let ctx := pkCtx p
  let size := s.objSize ctx (pkObj p) - pkOff p
  let inside (off n : Nat) : Bool := off + n ≤ size
  let nlev := s.kern p 10 1
  let nfoot := s.kern p 11 1
  let nbuf := s.kern p 12 1
  let im := s.kImage p
  let footoff := s.kern p 152 4
  let bufoff := s.kern p 156 4
  s.kern p 0 4 == 1 && s.kern p 4 4 ≤ 1 && s.kVregs p ≤ 384 && nfoot ≤ 64 && nbuf ≤ 64 && s.kern p 13 3 == 0 &&
    s.objNat ctx (pkObj p) (pkOff p + 160) 96 == 0 &&
    (List.range 6).all (fun i => let v := s.kern p (16 + 8 * i) 8; if i < nlev then v / 2 ^ 34 == 0 else v == 0) &&
    (List.range 10).all (fun i =>
      let v := s.kern p (64 + 8 * i) 8
      v / 2 ^ 43 == 0 && v % 8 == 0 && slice v 32 11 ≤ 1024 && inside (v % 2 ^ 32) (8 * slice v 32 11)) &&
    im.1 % 64 == 0 && inside im.1 im.2 && footoff % 8 == 0 && inside footoff (24 * nfoot) && bufoff % 4 == 0 &&
    inside bufoff (4 * nbuf) &&
    (List.range nfoot).all (fun i =>
      let v := s.kern p (footoff + 24 * i) 8
      slice v 24 8 == 0 && 1 ≤ slice v 32 8 && slice v 32 8 ≤ 3 && v / 2 ^ 40 == 0) &&
    (List.range 10).all (fun st => (List.range 32).all fun n =>
      let rec_ := 0x1000 + 0x800 * st
      let b : BitVec 128 := BitVec.ofNat 128 (s.imgNat p (rec_ + 832 + 16 * n) 16)
      let c : Cap := ⟨b, (s.imgNat p (rec_ + 1344) 4).testBit n⟩
      !c.tag || ((s.descr ctx c.obj).isSome && c.base * 64 + c.len ≤ s.objSize ctx c.obj))
/-- Entries of the buffer-sufficiency table (R370). -/
def State.kBufs (s : State) (p : List Byte) : List Nat :=
  (List.range (s.kern p 12 1)).map fun i => s.kern p (s.kern p 156 4 + 4 * i) 4
/-- The demand that a table makes on one resource, by KIND and INDEX. -/
def bufDemand (l : List Nat) (kind index : Nat) : Nat :=
  (l.filter fun w => w / 2 ^ 28 == kind && slice w 16 8 == index).foldl (fun n w => n + w % 2 ^ 16) 0
/-- R371. -/
def bufsFit (l : List Nat) : Bool :=
  l.all fun w =>
    let kind := w / 2 ^ 28
    kind ≤ 4 && slice w 24 4 == 0 && slice w 16 8 < [32, 32, 64, 6, 1].getD kind 0 &&
      bufDemand l kind (slice w 16 8) ≤ [8, 255, 255, 16, 256].getD kind 0
/-- Banks of a role in the image of a kernel (R480). -/
def State.imgBanks (s : State) (p : List Byte) (role : Nat) : Nat :=
  ((List.range 64).filter fun b => s.imgNat p (0xE000 + 0x2188 + b) 1 == role).length
/-- Bytes that the POOL handles of an image need. -/
def State.imgPool (s : State) (p : List Byte) : Nat :=
  (List.range 64).foldl (fun n h =>
    let d : Word := BitVec.ofNat 64 (s.imgNat p (0xE000 + 0x2600 + 8 * h) 8)
    if dValid d && !dTstore d then n + footUnits d * 32 else n) 0
/-- Whether CTX of a packet is no context of the submitting function, or not that of the task that submits it (R344). -/
def State.ctxForeign (s : State) (fn : Nat) (own : Option Nat) (p : List Byte) : Bool :=
  !(s.ctx (pkCtx p)).cfg.getLsbD 0 || s.fnOfCtx (pkCtx p) != fn || own.any fun c => c != pkCtx p
/-- The refusal code of a packet that function fn submits, 0 where it passes; `own` is the context of a task that submits it. -/
def State.loaderCode (s : State) (fn : Nat) (own : Option Nat) (p : List Byte) : Nat :=
  let ctx := pkCtx p
  let levels := s.kLevels p
  if !packetLegal p then 1
  else if s.ctxForeign fn own p then 2
  else if !s.recordFits p then 3
  else match s.descr ctx (pkObj p) with
    | none => 3
    | some d =>
      if !descCode d ∨ s.objSize ctx (pkObj p) < pkOff p + 256 ∨ !s.kernelLegal p then 3
      else if levels.length = 0 ∨ 6 < levels.length ∨ levels.any (·.1 = 3) ∨
          2 ^ 24 < (levels.filter (·.1 ≠ 0)).foldl (fun n l => n * l.2) 1 then 4
      else if s.imgNat p 0 4 ≠ 1 ∨
          (List.range 16).any (fun i => !fmtLegal (BitVec.ofNat 64 (s.imgNat p (0xE000 + 0x2580 + 8 * i) 8))) then 5
      else if !bufsFit (s.kBufs p) then 6
      else if s.imgBanks p 0 < regMin (s.kVregs p) ∨ s.imgBanks p 1 * 32768 < s.imgPool p then 7
      else if pkPrio p = 0 ∧ !(s.ctx ctx).cfg.getLsbD 26 then 8
      else 0

/-! ## Completion and the launch table -/

/-- Writes a completion record (R345) and raises the completion vector of the owning function. -/
def State.completionRecord (s : State) (p : List Byte) (state code tasks : Nat) : State :=
  let bs := (p.drop 24).take 8 ++ leBytes 1 state ++ leBytes 1 code ++ leBytes 2 0 ++ leBytes 4 tasks ++ leBytes 8 s.time.toNat ++
    leBytes 8 0
  (s.objWrite (pkCtx p) (pkCobj p) (pkCoff p) bs).msix (s.fnOfCtx (pkCtx p)) 0
/-- Frees an entry at the end of the cycle (R347); its last state stays readable by ticket (R415). -/
def State.freeLaunch (s : State) (lid state : Nat) : State :=
  s.modLaunch lid fun l =>
    { gen := l.gen, lastState := state, dln := l.dln, elapsed := l.elapsed, miss := l.miss, freeing := true, reserve := l.reserve,
      dies := l.dies }
/-- A launch whose tasks have all ended completes (R347). -/
def State.completeLaunch (s : State) (lid : Nat) : State :=
  let l := s.launch lid
  let state := if l.faulted then 2 else 0
  let s := s.completionRecord l.packet state 0 l.retired
  (s.notice { kind := 6, lid, ctx := l.ctx }).freeLaunch lid state
/-- One task of a launch has ended: retired, or abandoned (R347, R456). A speculative launch completes no sooner than DECIDE has
chosen it: until then its stores are provisional, and the signal must order them (R33, R361). -/
def State.countEnd (s : State) (lid : Nat) (faulted : Bool) : State :=
  let s := s.modLaunch lid fun l =>
    { l with remain := l.remain - 1, retired := l.retired + (if faulted then 0 else 1), faulted := l.faulted || faulted }
  if (s.launch lid).active ∧ (s.launch lid).remain = 0 ∧ !(s.launch lid).spec then s.completeLaunch lid else s
/-- The dies on whose reserve a launch counts its demand: those that its D indices reach, both without a D level (R371). -/
def launchDies (levels : List (Nat × Nat)) : List Nat :=
  let ds := levels.filter (·.1 = 2)
  if ds.isEmpty then [0, 1]
  else match ds.foldl (fun n l => n * l.2) 1 with
    | 0 => []
    | 1 => [0]
    | _ => [0, 1]
/-- The reserve demand entered on a die. -/
def State.reserved (s : State) (die : Nat) : Nat :=
  (s.launches.filter fun l => (l.2.active || l.2.freeing) && l.2.dies.getLsbD die).foldl (fun n l => n + l.2.reserve) 0
/-- The free entries, in ascending order. -/
def State.freeEntries (s : State) : List Nat := (List.range 64).filter fun l => !(s.launch l).active && !(s.launch l).freeing
/-- Whether a packet that passed its checks finds room (R346, R371). -/
def State.roomFor (s : State) (p : List Byte) : Bool :=
  let d := bufDemand (s.kBufs p) 4 0
  !s.freeEntries.isEmpty && (launchDies (s.kLevels p)).all fun die => s.reserved die + d ≤ 256
/-- The footprint table of a kernel: object, access (1 read, 2 write, 3 both), offset and length of each entry (R26). -/
def State.kFoot (s : State) (p : List Byte) : List (Nat × Nat × Nat × Nat) :=
  (List.range (s.kern p 11 1)).map fun i =>
    let at_ := s.kern p 152 4 + 24 * i
    (s.kern p at_ 3, s.kern p (at_ + 4) 1, s.kern p (at_ + 8) 8, s.kern p (at_ + 16) 8)
/-- Two footprints that overlap in a write. -/
def footsMeet (a b : Nat × Nat × Nat × Nat) : Bool :=
  a.1 == b.1 && (2 ≤ a.2.1 || 2 ≤ b.2.1) && a.2.2.1 < b.2.2.1 + b.2.2.2 && b.2.2.1 < a.2.2.1 + a.2.2.2
/-- Whether the tasks of a launch wait for the completion of one of its context that was entered before it and whose footprints
overlap its own in a write; the two successors of a speculation do not wait for each other (R271, log 114). -/
def State.launchHeld (s : State) (lid : Nat) : Bool :=
  let l := s.launch lid
  s.launches.any fun m =>
    m.2.active && m.2.ctx == l.ctx && decide (m.2.stamp < l.stamp) && !(m.2.spec && l.spec && m.2.slot == l.slot) &&
      m.2.foot.any fun a => l.foot.any fun b => footsMeet a b
/-- Enters a packet into entry lid (R346, R410); a launch without tasks completes at once (R32), a speculative one at DECIDE. -/
def State.enterAt (s : State) (lid fn : Nat) (p : List Byte) (spec : Bool) (slot succ : Nat) : State :=
  let n := taskCount (s.kLevels p)
  let s := s.modLaunch lid fun l =>
    { active := true, gen := (l.gen + 1) % 1024, ctx := pkCtx p, packet := p, tasks := n, remain := n, dln := bytesNat p 32 4,
      wdb := BitVec.ofNat 32 (bytesNat p 36 4), prio := pkPrio p, ccls := pkCcls p, poolFix := pkFix p, spec, slot, succ, fn,
      reserve := bufDemand (s.kBufs p) 4 0, stamp := s.seq, foot := s.kFoot p, dies := (launchDies (s.kLevels p)).foldl (fun b d => b ||| BitVec.ofNat 2 (2 ^ d)) 0 }
  let s := s.tickSeq
  if n = 0 then s.completeLaunch lid else s
/-- Refuses a packet (R344): a record where one can be written, and never in a context that is not the submitter's; else a notice,
and NOREC for an inbox packet. -/
def State.refuse (s : State) (fn : Nat) (own : Option Nat) (p : List Byte) (code : Nat) : State :=
  let inbox := own.isNone
  if !s.ctxForeign fn own p ∧ s.recordFits p then s.completionRecord p 1 code 0
  else
    let s := s.notice { kind := 7, ctx := pkCtx p, detail := code }
    if inbox then s.modFn fn fun f => { f with noRec := true } else s
/-- What becomes of a packet: entered (with its entry), no room, refused with a code. -/
inductive Entered where
  | entered (lid : Nat) | full | refused (code : Nat)
deriving DecidableEq, Repr
/-- The registrar takes a packet. -/
def State.submit (s : State) (fn : Nat) (own : Option Nat) (p : List Byte) : Entered × State :=
  let code := s.loaderCode fn own p
  if code ≠ 0 then (.refused code, s.refuse fn own p code)
  else if !s.roomFor p then (.full, s)
  else
    let lid := s.freeEntries.headD 0
    (.entered lid, s.enterAt lid fn p false 0 0)
/-- The ticket of an entry (R410). -/
def State.ticket (s : State) (lid : Nat) : Nat := lid + 64 * (s.launch lid).gen

/-! ## Cores become spare (R352) -/

/-- Fields of a bind record (R349). -/
def brValid (r : BitVec 128) : Bool := r.getLsbD 0
def brSrc (r : BitVec 128) : Nat := slice r.toNat 42 2
def brCcls (r : BitVec 128) : Nat := slice r.toNat 49 3
def brPrio (r : BitVec 128) : Nat := slice r.toNat 52 2
def brCtx (r : BitVec 128) : Nat := slice r.toNat 54 4
def brLid (r : BitVec 128) : Nat := slice r.toNat 58 6
def brTask (r : BitVec 128) : Nat := slice r.toNat 64 24
def brWdb (r : BitVec 128) : Nat := slice r.toNat 96 32
def brPreempt (r : BitVec 128) : Bool := r.getLsbD 41
def brFix (r : BitVec 128) : Bool := r.getLsbD 40
def brSpec (r : BitVec 128) : Bool := r.getLsbD 39
/-- The ACTIVE record of a core. -/
def State.activeRec (s : State) (c : Nat) : BitVec 128 := tabGet 0 (s.form (formOf c)).active (c % 4)
/-- Whether a core is spare. -/
def Core.spare (x : Core) : Bool := x.tt == .idle || x.tt == .filler || x.tt == .popwait
/-- Valid NEXT records await the form's swap (R355). -/
def Form.nextValid (f : Form) : Bool := f.next.any fun r => brValid r.2
/-- The swap is due where NEXT records wait and every core of the form is spare (R352). -/
def State.swapCheck (s : State) (f : Nat) : State :=
  if !(s.form f).next.isEmpty ∧ [0, 1, 2, 3].all (fun i => (s.core (4 * f + i)).spare) then
    { s with due := s.due ++ [.formSwap f] }
  else s
/-- What a core without a task does under its ACTIVE record. -/
def idleRole (r : BitVec 128) : TtState :=
  if !brValid r then .idle else if brSrc r = 1 then .popwait else .filler
/-- The seasons of a core's engines pass over to another shared state (R385). -/
def Shared.seasonsOf (y x : Shared) : Shared :=
  (List.range 6).foldl (fun (y : Shared) n =>
    let g := x.engine n
    y.modEngine n fun e => { e with season := g.season, wake := g.wake, idleFor := g.idleFor }) y
/-- The content y of a task on the hardware of core x: CACHE, the deck, the translation cache, the clocks, the seasons and the
cycle counts stay with the core; the performance counters and the FFL registers begin anew (R385, R424, R441, R494, R496, R497). -/
def Core.keep (x y : Core) : Core :=
  let y := [0, 1, 2, 3].foldl (fun (y : Core) n =>
    if (x.stream n).stopped = (y.stream n).stopped then y else y.modStream n fun t => { t with stopped := (x.stream n).stopped }) y
  { y with
    cache := x.cache, otc := x.otc, prefs := [], prefCtr := x.prefCtr, ffl := {}, fflPc := 0, dbg := x.dbg,
    lastCtx := x.lastCtx, lastFn := x.lastFn, fillerMa := x.fillerMa, perf := [], perfNow := [], perfClr := [],
    clkSet := x.clkSet, clkNow := x.clkNow, seasonAt := x.seasonAt,
    seasonRes := x.seasonRes, seasonReq := x.seasonReq, seasonLeft := x.seasonLeft, balanced := x.balanced, vmUsed := x.vmUsed, mxUsed := x.mxUsed,
    frame := {}, stopping := false, haltAsked := x.haltAsked ||| y.haltAsked,
    streams := y.streams.map fun t => (t.1, { t.2 with perf := [] }),
    sh := { (y.sh.seasonsOf x.sh) with deck := x.sh.deck, deckV := x.sh.deckV } }
/-- A stream of a core without a task: it holds what it held and issues nothing. -/
def Stream.released (t : Stream) : Stream :=
  { t with started := false, halted := false, atStart := false, group := 0, asleep := false, wake := 0, replay := false, verdict := .none,
           ending := false }
/-- The shared state of a core without a task: commands, tiles and requests are gone, the registers stand. -/
def Shared.released (x : Shared) : Shared :=
  { x with
    handles := [], tiles := [], comp := [], tagOut := [], cc := [], bars := [], poolReq := { x.poolReq with pending := false, ending := false }
    engines := x.engines.map fun g => (g.1, { g.2 with queue := [], run := none, stall := false, replays := 0 }) }
/-- A core that gives up its task. Its registers, its field and its deck stand until the next binding, and results in flight still
land in them (R407, R440, log 11); its accesses, its commands and its frame are gone. -/
def Core.released (x : Core) : Core :=
  { x with
    task := none, acc := [], prefs := [], frame := {}, ffl := {}, fflPc := 0, haltAsked := 0, stopping := false, preempt := false
    yielding := false, startGo := false, startLeft := 0, joinGo := 0, forking := 0, tdone := 0, halting := 0, snapBad := [], ctl := []
    streams := x.streams.map fun t => (t.1, t.2.released), sh := x.sh.released }
/-- A core gives up its task: it becomes spare. -/
def State.unbind (s : State) (c : Nat) : State :=
  let r := s.activeRec c
  let s : State := { s with stalls := s.stalls.filter fun x => !StallAt.isOf c x }
  (s.modCore c fun x => { x.released with tt := idleRole r }).swapCheck (formOf c)
/-- The tile store bytes of a core's tiles return to the quota. -/
def State.releaseTiles (s : State) (c : Nat) : State :=
  let n := ((s.sh c).tiles.filter fun t => t.2.tstore).foldl (fun n t => n + t.2.foot) 0
  s.modCtx (s.task c).ctx fun k => { k with tsUsed := k.tsUsed - n }
/-- The task of core c is aborted (R361, R460): its CACHE is dropped, it awaits the context engine no more, and nothing counts. -/
def State.dropTask (s : State) (c : Nat) : State :=
  let s := s.modDie (dieOf c) fun d => { d with order := d.order.filter (·.1 ≠ c) }
  ((s.releaseTiles c).modCore c fun x => { x with cache := [] }).unbind c

/-! ## Die task queues (R52, R358 to R360) -/

def chIndex (d : BitVec 256) : Nat := slice d.toNat 0 24
def chCrit (d : BitVec 256) : Bool := d.getLsbD 31
def chLid (d : BitVec 256) : Nat := slice d.toNat 32 6
def chPrio (d : BitVec 256) : Nat := slice d.toNat 40 2
def chCcls (d : BitVec 256) : Nat := slice d.toNat 42 3
/-- The device's own fields in bytes 6 and 7. -/
def chMark (d : BitVec 256) (ctx : Nat) (spec : Bool) (slot succ : Nat) : BitVec 256 :=
  d ||| BitVec.ofNat 256 (2 ^ 48 * (ctx + 16 * slot + 32 * succ + 64 * b2n spec))
def Child.ofDesc (d : BitVec 256) : Child :=
  { desc := d, ctx := slice d.toNat 48 4, slot := slice d.toNat 52 1, succ := slice d.toNat 53 1, spec := d.getLsbD 54 }
/-- Two descriptors of one lane. -/
def sameLane (a b : BitVec 256) : Bool := chPrio a == chPrio b && chCcls a == chCcls b
/-- The reserved bits of a descriptor; bytes 6 and 7 are the device's. -/
def childLegal (d : BitVec 256) : Bool := slice d.toNat 24 7 == 0 && slice d.toNat 38 2 == 0 && slice d.toNat 45 3 == 0 && slice d.toNat 48 16 == 0

/-- The overflow queue object of a context, and its counts. -/
def State.ovfObj (s : State) (ctx : Nat) : Nat := slice (s.ctx ctx).cfg.toNat 40 24
def State.ovfHead (s : State) (ctx : Nat) : Nat := s.objNat ctx (s.ovfObj ctx) 0 8
def State.ovfTail (s : State) (ctx : Nat) : Nat := s.objNat ctx (s.ovfObj ctx) 8 8
def State.ovfCap (s : State) (ctx : Nat) : Nat := s.objNat ctx (s.ovfObj ctx) 16 8
/-- The descriptors that an overflow object holds, oldest first. -/
def State.ovfAll (s : State) (ctx : Nat) : List (BitVec 256) :=
  let h := s.ovfHead ctx
  let cap := s.ovfCap ctx
  (List.range (s.ovfTail ctx - h)).map fun i => BitVec.ofNat 256 (s.objNat ctx (s.ovfObj ctx) (64 + 32 * ((h + i) % cap)) 32)
/-- Rewrites an overflow object's queue. -/
def State.ovfPut (s : State) (ctx : Nat) (l : List (BitVec 256)) (dies : List Nat) : State :=
  let h := s.ovfHead ctx
  let cap := s.ovfCap ctx
  let obj := s.ovfObj ctx
  let s := (List.range l.length).foldl (fun (s : State) i =>
    s.objWrite ctx obj (64 + 32 * ((h + i) % cap)) (leBytes 32 (l.getD i 0).toNat)) s
  (s.objWrite ctx obj 8 (leBytes 8 (h + l.length))).modCtx ctx fun k => { k with ovfDies := dies }
/-- The descriptors that a context holds in overflow or has on their way there, with their dies. -/
def State.ovfHeld (s : State) (ctx : Nat) : List (Nat × BitVec 256) := (s.ctx ctx).ovfDies.zip (s.ovfAll ctx) ++ (s.ctx ctx).ovfComing
/-- Where SPAWN's descriptor goes (R52, R360): 0 on chip, 1 overflow, 2 nowhere. A lane belongs to the queue of one die. OVFOBJ
holding 0 stands for no overflow queue object (log 107). -/
def State.placeCode (s : State) (die ctx : Nat) (d : BitVec 256) : Nat :=
  let held := s.ovfHeld ctx
  let free := 4096 - ((s.die die).queue.length + (s.die die).freed)
  let hasObj := (s.descr ctx (s.ovfObj ctx)).isSome && s.ovfObj ctx != 0
  if !(hasObj && held.any fun x => x.1 == die && sameLane d x.2) && (256 < free || (chCrit d && 0 < free)) then 0
  else if hasObj && held.length + (s.ctx ctx).ovfFreed < s.ovfCap ctx then 1
  else 2

/-! ## Speculations (R55 to R57, R361) -/

/-- The cores that run a task of entry lid. -/
def State.coresOf (s : State) (lid : Nat) : List Nat :=
  (s.cores.filter fun x => x.1 < 128 && x.2.task.any (·.lid == lid)).map Prod.fst
/-- Removes the descriptors of an entry from both queues and the overflow object. -/
def State.dropChildren (s : State) (lid : Nat) : State :=
  let ctx := (s.launch lid).ctx
  let held := (s.ovfHeld ctx).length
  let s := [0, 1].foldl (fun (s : State) d => s.modDie d fun x =>
    let queue := x.queue.filter fun c => chLid c.desc != lid
    { x with queue, freed := x.freed + (x.queue.length - queue.length) }) s
  let keep := ((s.ovfAll ctx).zip (s.ctx ctx).ovfDies).filter fun x => chLid x.1 != lid
  let s := s.modCtx ctx fun k =>
    let coming := k.ovfComing.filter fun d => chLid d.2 != lid
    { k with ovfComing := coming, ovfFreed := k.ovfFreed + (held - (keep.length + coming.length)) }
  if keep.length = (s.ovfAll ctx).length then s else s.ovfPut ctx (keep.map Prod.fst) (keep.map Prod.snd)
/-- The save area object and the slots of a context (R474). -/
def State.saveObj (s : State) (ctx : Nat) : Nat := slice (s.ctx ctx).save.toNat 0 24
def State.saveSlots (s : State) (ctx : Nat) : Nat := slice (s.ctx ctx).save.toNat 32 8
/-- Directory entry i of a save area. -/
def State.dirEntry (s : State) (ctx i : Nat) : Nat := s.objNat ctx (s.saveObj ctx) (16 * i) 16
/-- Clears directory entry i of a context. -/
def State.clearSlot (s : State) (ctx i : Nat) : State := s.objWrite ctx (s.saveObj ctx) (16 * i) (leBytes 16 0)
/-- Clears the directory entries of the saved tasks of a launch, so that none is restored (R57, log 53). -/
def State.clearSlots (s : State) (ctx lid gen : Nat) : State :=
  ((List.range (s.saveSlots ctx)).filter fun i =>
    let e := s.dirEntry ctx i
    e.testBit 31 && slice e 32 8 == lid && slice e 40 10 == gen).foldl (fun (s : State) i => s.clearSlot ctx i) s
/-- Stops the tasks of a speculative entry: cores become spare, descriptors, saved tasks and provisional data go. -/
def State.stopSpec (s : State) (lid : Nat) : State :=
  let l := s.launch lid
  let s := (s.coresOf lid).foldl (fun (s : State) c => s.dropTask c) s
  let s := s.dropChildren lid
  -- saved tasks of the entry go with the tile store bytes that they hold
  let mine (r : SaveSide) : Bool := r.lid == lid && r.gen == l.gen && r.ctx == l.ctx
  let held := (s.side.filter mine).foldl (fun n r =>
    n + ((r.core.sh.tiles.filter fun t => t.2.tstore).foldl (fun n t => n + t.2.foot) 0)) 0
  let s := { s with side := s.side.filter fun r => !mine r }
  let s := s.modCtx l.ctx fun k => { k with tsUsed := k.tsUsed - held }
  (s.clearSlots l.ctx lid l.gen).discardAll fun i => match i with
    | .spec ctx slot succ => ctx == l.ctx && slot == l.slot && succ == l.succ
    | .idem ctx k gen _ => ctx == l.ctx && k == lid && gen == l.gen
/-- The losing successor of a speculation ends. -/
def State.squash (s : State) (lid : Nat) (record : Bool) : State :=
  let l := s.launch lid
  let s := s.stopSpec lid
  let s := if record then s.completionRecord l.packet 3 0 l.before else s
  s.freeLaunch lid 3
/-- A speculation whose store would exceed R57's limit stops and is marked SPILLED. -/
def State.spill (s : State) (lid : Nat) : State := (s.stopSpec lid).modLaunch lid fun l => { l with spilled := true }
/-- A provisional set beyond R57's limit: the speculation stops SPILLED, or the task's idempotence ends. -/
def State.limitProv (s : State) (c : Nat) : State :=
  match s.identOf c with
  | none => s
  | some i =>
    let lines := ((s.prov.filter fun p => p.ident == i).map fun p => p.addr / 4096 * 4096).eraseDups
    if lines.any fun a => 3072 < s.provLines (a / (Config.deviceBytes / 2)) (a / 4096 % 32) then
      match i with
      | .spec .. => s.spill (s.task c).lid
      | .idem .. => s.endIdem c
    else s
/-- The CACHE of a core that gives up its task: written back, judged by R57's limit, and invalidated, so that no later task reads
what only this one may see (R55, R458). -/
def State.clearCache (s : State) (c : Nat) : State :=
  ((s.writeBackAll c 0).modCore c fun x => { x with cache := [] }).limitProv c
/-- The task of core c ends: an idempotent one's stores commit, and the core is unbound. -/
def State.endTask (s : State) (c : Nat) (t : Task) : State :=
  let s := if t.idem then s.commit (.idem t.ctx t.lid t.gen t.index) else s
  (s.releaseTiles c).unbind c
/-- The task of core c retires (R37, R347, R458): CACHE is written back, an idempotent task's stores commit, REMAIN falls. A
speculation that its CACHE takes beyond R57's limit is stopped instead. -/
def State.retireTask (s : State) (c : Nat) : State :=
  let s := s.clearCache c
  match (s.core c).task with
  | none => s
  | some t =>
    let s := s.notice { kind := 1, core := c, form := formOf c, lid := t.lid, task := t.index, ctx := t.ctx }
    (s.endTask c t).countEnd t.lid false
/-- The task of core c ends without retiring (R456): dirty CACHE sectors are written back, the rest is dropped. -/
def State.abandonTask (s : State) (c : Nat) : State :=
  let s := s.clearCache c
  match (s.core c).task with
  | none => s
  | some t => (s.endTask c t).countEnd t.lid true
/-- The entry of a successor of a speculation. -/
def State.specEntry (s : State) (ctx slot succ : Nat) : Option Nat :=
  (s.launches.find? fun l => l.2.active && l.2.spec && l.2.ctx == ctx && l.2.slot == slot && l.2.succ == succ).map Prod.fst
/-- A queued child of launch `lid` is no longer speculative. -/
def clearSpec (lid : Nat) (c : Child) : Child := if chLid c.desc = lid then { c with spec := false } else c
/-- A bind record that names a task of launch `lid`, its SPEC marks cleared. -/
def clearMarks (lid : Nat) (r : BitVec 128) : BitVec 128 :=
  if brValid r ∧ brSrc r = 0 ∧ brLid r = lid then putBits r 37 3 0 else r
/-- The winner continues as an ordinary launch: its sectors commit and its marks clear; a SPILLED one runs again, and one whose
tasks have all ended completes. -/
def State.win (s : State) (lid : Nat) : State :=
  let l := s.launch lid
  let s := s.commit (.spec l.ctx l.slot l.succ)
  let s := (s.coresOf lid).foldl (fun (s : State) c => s.modCore c fun x =>
    { x with task := x.task.map fun t => { t with spec := false } }) s
  let s := [0, 1].foldl (fun (s : State) d =>
    s.modDie d fun x => { x with queue := x.queue.map (clearSpec lid) }) s
  let s : State := { s with side := s.side.map fun r =>
    if r.lid = lid ∧ r.gen = l.gen then { r with core := { r.core with task := r.core.task.map fun t => { t with spec := false } } } else r }
  let s : State := { s with forms := s.forms.map fun f =>
    let clear (t : Tab (BitVec 128)) : Tab (BitVec 128) := t.map fun r => (r.1, clearMarks lid r.2)
    (f.1, { f.2 with active := clear f.2.active, next := clear f.2.next }) }
  let s := s.modLaunch lid fun l =>
    { l with spec := false, spilled := false, remain := if l.spilled then l.tasks else l.remain,
             retired := if l.spilled then 0 else l.retired }
  if (s.launch lid).remain = 0 then s.completeLaunch lid else s

end Sys2Proof.Machine
end

