-- ==== Sys2Proof/Machine/Control.lean ====
section
/-! DEFINITION. Control-flow and task words, opcodes 0xC0 to 0xD4 (R395 to R417). -/

namespace Sys2Proof.Machine

/-- The stream at the cursor. -/
def State.own (s : State) : Stream := s.stream s.curCore s.curStream
/-- Changes the stream at the cursor. -/
def State.modOwn (s : State) (f : Stream → Stream) : State := s.modStream s.curCore s.curStream f
/-- Changes the core at the cursor. -/
def State.modCur (s : State) (f : Core → Core) : State := s.modCore s.curCore f
/-- Word index + DISP of the word at the cursor (R71). -/
def State.label (s : State) (disp : BitVec 31) : Int := s.own.pc + disp.toInt

/-! ## Branches, calls, returns (R396 to R399) -/

def execBr (h : Hdr) (disp : BitVec 31) (s : State) :=
  issueWord (.br h disp) s fun s => .goto s (s.label disp)
def execBri (h : Hdr) (a : Port) (s : State) :=
  issueWord (.bri h a) s fun s =>
    let x := s.readInt a
    .goto x.2 x.1.toNat
def execBriRel (h : Hdr) (a : Port) (s : State) :=
  issueWord (.briRel h a) s fun s =>
    let x := s.readInt a
    .goto x.2 (s.own.pc + x.1.toInt)
def execCall (h : Hdr) (gn : BitVec 6) (disp : BitVec 31) (s : State) :=
  issueWord (.call h gn disp) s fun s =>
    .goto ((s.deliverG 1 gn (BitVec.ofNat 64 (s.own.pc + 1))).modOwn fun t => t.count 5) (s.label disp)
def execRet (h : Hdr) (a : Port) (s : State) :=
  issueWord (.ret h a) s fun s =>
    let x := s.readInt a
    .goto (x.2.modOwn fun t => t.count 6) x.1.toNat

/-! ## Hardware loops and rotation (R400, R401) -/

def execLoop (h : Hdr) (n : BitVec 2) (disp : BitVec 31) (s : State) :=
  issueWord (.loop h n disp) s fun s =>
    if tabGet 0 s.own.lc n.toNat = 0 then .goto s (s.label disp) else .done s
/-- Both rotating bases go down by one (R50). -/
def Stream.rotate (t : Stream) : Stream := { t with rrbV := (t.rrbV + 127) % 128, rrbK := (t.rrbK + 30) % 31 }
def execLclose (h : Hdr) (n : BitVec 2) (disp : BitVec 31) (s : State) :=
  issueWord (.lclose h n disp) s fun s =>
    let v := (tabGet 0 s.own.lc n.toNat).toNat - 1
    let s' := s.deliverTo 15 1 (BitVec.ofNat 11 (0x2C4 + n.toNat)) (BitVec.ofNat 1024 v)
    let s' := if s.curStream < 4 then s'.modOwn Stream.rotate else s'
    if v ≠ 0 then .goto s' (s.label disp) else .done s'
def execRrbset (h : Hdr) (a b : Port) (ek ev : BitVec 1) (s : State) :=
  issueWord (.rrbset h a b ek ev) s fun s =>
    let x := if ev = 1 then s.readInt a else (0, s)
    let y := if ek = 1 then x.2.readInt b else (0, x.2)
    if 127 < x.1.toNat ∨ 30 < y.1.toNat then .trap y.2 1 (illegalInfo 0xC6)
    else .done (y.2.modOwn fun t =>
      { t with rrbV := if ev = 1 then x.1.toNat else t.rrbV, rrbK := if ek = 1 then y.1.toNat else t.rrbK })

/-! ## Forks, joins and condition-code bits (R402 to R405) -/

def execFork (h : Hdr) (s : State) :=
  issueWord (.fork h) s fun s =>
    .done (if h.join = 1 then s.modCur fun x => { x with forking := x.forking ||| s.own.group } else s)

def Shared.ccRec (x : Shared) (n : Nat) : CcRec := tabGet {} x.cc n
def Shared.setCc (x : Shared) (n : Nat) (r : CcRec) : Shared := { x with cc := tabSet {} x.cc n r }
/-- The condition-code bits whose JOIN has just completed, as a bit of JOINGO. -/
def ccBit (n : Nat) : BitVec 8 := BitVec.ofNat 8 (2 ^ n)
def execJoinCc (h : Hdr) (cc : BitVec 3) (mask : BitVec 4) (s : State) :=
  issueWord (.joinCc h cc mask) s fun s =>
    let n := cc.toNat
    let own := s.ownBit
    let r := s.now.ccRec n
    let go := (s.core s.curCore).joinGo &&& ccBit n ≠ 0
    if r.leaving &&& own ≠ 0 then
      .done ((s.share fun y => y.setCc n { r with leaving := r.leaving &&& ~~~own }).rendezvous mask)
    else if r.arrived &&& own ≠ 0 then
      if go then .done (s.rendezvous mask) else .wait s
    else if mask &&& own = 0 ∨ (r.mask ≠ 0 ∧ r.mask ≠ mask) then .trap s 1 (illegalInfo 0xC8)
    else
      let r := { r with mask, arrived := r.arrived ||| own }
      let s := s.share fun y => y.setCc n r
      if r.arrived = mask ∧ (maskList mask).all (fun m => !(s.stream s.curCore m).halted) then
        .done ((s.modCur fun x => { x with joinGo := x.joinGo ||| ccBit n }).rendezvous mask)
      else .wait s
/-- A value lands in a condition-code bit: pending writes of the bit by earlier CCSETs are never made (R405). -/
def Core.landCc (x : Core) (n : Nat) (v : Bool) (before : Nat) : Core :=
  { x with
    sh := x.sh.setCc n { x.sh.ccRec n with value := v }
    acc := x.acc.map fun a => match a.kind with
      | .ccRel bit _ => if bit = n ∧ a.id < before then { a with kind := .ccRel bit false } else a
      | _ => a }
def execCcset (h : Hdr) (val : BitVec 1) (cc : BitVec 3) (s : State) :=
  issueWord (.ccset h val cc) s fun s =>
    if val = 0 then .done (s.modCur fun x => x.landCc cc.toNat false s.seq)
    else .done (s.enter { id := 0, stream := 0, kind := .ccRel cc.toNat true, ord := 2, agent := 1 } 0 none)
def execCcwait (h : Hdr) (val : BitVec 1) (cc : BitVec 3) (s : State) :=
  issueWord (.ccwait h val cc) s fun s =>
    if b2n (s.old.ccRec cc.toNat).value = val.toNat then .done s else .wait s

/-! ## Start, end, yield, sleep (R406 to R409) -/

/-- Bit n of a mask of the ten streams. -/
def streamBit (n : Nat) : BitVec 10 := BitVec.ofNat 10 (2 ^ n)
/-- Whether every live stream but one stands at START with none halted. -/
def Core.othersAtStart (x : Core) (st : Nat) : Bool :=
  x.liveStreams.all fun n => n == st || ((x.stream n).atStart && !(x.stream n).halted)
def execStart (h : Hdr) (s : State) :=
  issueWord (.start h) s fun s =>
    let st := s.curStream
    let x := s.core s.curCore
    if x.startLeft &&& streamBit st ≠ 0 then .done (s.modCur fun x => { x with startLeft := x.startLeft &&& ~~~(streamBit st) })
    else if s.own.atStart then
      if x.startGo then .done (s.modOwn fun t => { t with atStart := false }) else .wait s
    else if x.othersAtStart st then .done (s.modCur fun x => { x with startGo := true })
    else .wait (s.modOwn fun t => { t with atStart := true })
/-- END: the end of the cycle judges it (R38, R407). -/
def execEndStream (h : Hdr) (s : State) :=
  issueWord (.endStream h) s fun s => .done (s.modOwn fun t => { t with ending := true })
def execYieldCore (h : Hdr) (s : State) :=
  issueWord (.yieldCore h) s fun s =>
    .done (s.modCur fun x => { x with yielded := true, yielding := x.yielding || (s.form (formOf s.curCore)).nextValid })
/-- SLEEP (R409, log 44): the clock stops while the count is zero; the first cycle that finds it otherwise and the 11 after it are the
wake, and then the wait is judged as AWAIT judges it. -/
def execSleep (h : Hdr) (en : BitVec 5) (s : State) :=
  issueWord (.sleep h en) s fun s =>
    let t := s.own
    let rest : State := if (s.old.event en.toNat).count = 0 then s.modOwn fun t => { t with asleep := true }
      else s.modOwn fun t => { t with asleep := false, wake := 12 }
    if t.asleep ∨ t.wake = 0 then .wait rest
    else if t.wake ≠ 1 then .wait (s.modOwn fun t => { t with wake := t.wake - 1 })
    else if (s.now.event en.toNat).count = 0 then .wait (s.modOwn fun t => { t with asleep := true, wake := 0 })
    else .done ((s.share fun y => y.consume en.toNat 1).modOwn fun t => { t with wake := 0 })
def execTdone (h : Hdr) (s : State) :=
  issueWord (.tdone h) s fun s =>
    .done ((s.modCur fun x => { x with tdone := x.tdone ||| streamBit s.curStream }).modOwn fun t => { t with ending := true })

/-! ## Task and launch words (R410 to R415) -/

/-- SPAWN places its descriptor in the queue of the core's die: the entry is reserved now and published after its commit lag. -/
def State.placeChild (s : State) (c : Nat) (d : BitVec 256) (code : Nat) : State :=
  let t := s.task c
  let marked := chMark d t.ctx t.spec (if t.spec then t.slot else 0) (if t.spec then t.succ else 0)
  let s := if code = 0 then
      s.modDie (dieOf c) fun y => { y with queue := y.queue ++ [{ Child.ofDesc marked with published := false, id := s.seq }] }
    else s.modCtx t.ctx fun k => { k with ovfComing := k.ovfComing ++ [(dieOf c, marked)] }
  let s := s.modLaunch (chLid d) fun l => { l with remain := l.remain + 1 }
  s.enter { id := 0, stream := 0, kind := .spawnPub marked, ord := 2, agent := 4, lag := 3 } 0 none
def execSpawn (h : Hdr) (gd : BitVec 6) (src : Port) (s : State) :=
  issueWord (.spawn h gd src) s fun s =>
    if s.withheld 2 then .wait s
    else
      let c := s.curCore
      let ctx := (s.task c).ctx
      let x := s.read src
      let l := s.launch (chLid x.1)
      if !childLegal x.1 then .trap x.2 1 (illegalInfo 0xCE)
      else if !l.active ∨ l.ctx ≠ ctx then .trap x.2 3 (capInfo .rights)
      else if chPrio x.1 = 0 ∧ !(s.ctx ctx).cfg.getLsbD 26 then .trap x.2 3 (capInfo .rights)
      else
        let s := x.2.endIdem c
        let code := s.placeCode (dieOf c) ctx x.1
        let s := if code ≤ 1 then s.placeChild c x.1 code else s
        .done (s.deliverG 2 gd (BitVec.ofNat 64 code))

/-- R232's checks of a handle from which n bytes are read. -/
def poolHandleFault (d : Word) (n : Nat) : Option CapCause :=
  if !dValid d then some .tag else if dTstore d then some .rights else if elemTotal d < n then some .bounds else none
/-- Whether the stream at the cursor still has accesses to be performed. -/
def State.unperformed (s : State) : Bool := (s.core s.curCore).acc.any fun a => a.stream == s.curStream
/-- The release of LAUNCH and SPEC: CACHE is written back and idempotence ends. -/
def State.launchRelease (s : State) : State := (s.endIdem s.curCore).writeBackAll s.curCore 0
/-- LAUNCH's result word (R412). -/
def State.launchWord (s : State) : Entered → Nat
  | .entered lid => s.ticket lid * 2 ^ 16
  | .full => 1
  | .refused code => 2 + code * 256
def execLaunch (h : Hdr) (gd hn : BitVec 6) (s : State) :=
  issueWord (.launch h gd hn) s fun s =>
    let v := s.old.handle hn.toNat
    -- a speculative task waits until DECIDE first
    if (s.task s.curCore).spec then .wait s
    else match poolHandleFault v.desc 64 with
    | some cause => .trap s 3 (handleInfo cause hn.toNat)
    | none =>
      if s.unperformed then .wait s
      else
        let ctx := (s.task s.curCore).ctx
        let s := s.launchRelease
        let r := s.submit (s.fnOfCtx ctx) (some ctx) (s.elemRead s.curCore v 64)
        .done (r.2.deliverG 1 gd (BitVec.ofNat 64 (r.2.launchWord r.1)))

/-- SPEC enters both successors or neither (R413): its result word. -/
def State.enterBoth (s : State) (ctx : Nat) (p q : List Byte) : Nat × State :=
  let fn := s.fnOfCtx ctx
  let specs := (s.ctx ctx).specs
  let code0 := s.loaderCode fn (some ctx) p
  let code1 := s.loaderCode fn (some ctx) q
  if specs = 3 then (3, s)
  else if s.freeEntries.length < 2 then (1, s)
  else if code0 ≠ 0 then (2 + code0 * 256, s.refuse fn (some ctx) p code0)
  else if code1 ≠ 0 then (2 + code1 * 256, s.refuse fn (some ctx) q code1)
  else
    let slot := if specs.getLsbD 0 then 1 else 0
    let lid0 := s.freeEntries.getD 0 0
    let lid1 := s.freeEntries.getD 1 0
    let s1 := s.enterAt lid0 fn p true slot 0
    if !s.roomFor p || !s1.roomFor q then (1, s)
    else
      let s2 := s1.enterAt lid1 fn q true slot 1
      let s2 := s2.modCtx ctx fun k => { k with specs := k.specs ||| BitVec.ofNat 2 (2 ^ slot) }
      (s1.ticket lid0 * 2 ^ 16 + s2.ticket lid1 * 2 ^ 32 + slot * 2 ^ 48, s2)
def execSpec (h : Hdr) (gd hn : BitVec 6) (s : State) :=
  issueWord (.spec h gd hn) s fun s =>
    let v := s.old.handle hn.toNat
    if (s.task s.curCore).spec then .wait s
    else match poolHandleFault v.desc 128 with
    | some cause => .trap s 3 (handleInfo cause hn.toNat)
    | none =>
      if s.unperformed then .wait s
      else
        let s := s.launchRelease
        let r := s.enterBoth (s.task s.curCore).ctx ((s.elemRead s.curCore v 128).take 64) ((s.elemRead s.curCore v 128).drop 64)
        .done (r.2.deliverG 1 gd (BitVec.ofNat 64 r.1))

/-- Dispatch squashes the loser of a speculation and commits the winner (R56, R361); whether the winner was SPILLED. -/
def State.decide (s : State) (ctx slot succ : Nat) : Bool × State :=
  let s := match s.specEntry ctx slot (1 - succ) with
    | some lid => s.squash lid true
    | none => s.discard (.spec ctx slot (1 - succ))
  let r := match s.specEntry ctx slot succ with
    | some lid => ((s.launch lid).spilled, s.win lid)
    | none => (false, s.commit (.spec ctx slot succ))
  (r.1, r.2.modCtx ctx fun k => { k with specs := k.specs &&& ~~~(BitVec.ofNat 2 (2 ^ slot)) })
def execDecide (h : Hdr) (gd : BitVec 6) (slot succ : BitVec 1) (s : State) :=
  issueWord (.decide h gd slot succ) s fun s =>
    let t := s.task s.curCore
    if t.spec ∧ t.slot = slot.toNat then .trap s 1 (illegalInfo 0xD1)
    else if !(s.ctx t.ctx).specs.getLsbD slot.toNat then .done (s.deliverG 1 gd 1)
    else
      let r := s.decide t.ctx slot.toNat succ.toNat
      .done (r.2.deliverG 1 gd (if r.1 then 2 else 0))

def execTwaitLaunch (h : Hdr) (gd : BitVec 6) (src : Port) (s : State) :=
  issueWord (.twaitLaunch h gd src) s fun s =>
    let x := s.readInt src
    let v := x.1.toNat
    let l := s.launch (slice v 0 6)
    if slice v 16 48 ≠ 0 then .trap x.2 1 (illegalInfo 0xD2)
    else if l.active ∧ l.gen = slice v 6 10 then .wait s
    else
      let s := x.2.acquireCache s.curCore 4 0
      .done (s.deliverG 1 gd (BitVec.ofNat 64 (if l.gen = slice v 6 10 then l.lastState else 7)))
def execTwaitIdle (h : Hdr) (eng : BitVec 3) (s : State) :=
  issueWord (.twaitIdle h eng) s fun s => if (s.old.engine eng.toNat).busy then .wait s else .done s

end Sys2Proof.Machine
end

