-- ==== Sys2Proof/Machine/System.lean ====
section
/-! DEFINITION. System, trap and debug words, opcodes 0xE0 to 0xE9 (R489 to R501), and the values that they read. -/

namespace Sys2Proof.Machine

/-! ## TRAP and BRK (R490, R491) -/

/-- TRAP issues and then raises its fault at the end of its cycle, after issue. -/
def execTrap (h : Hdr) (code : BitVec 16) (s : State) :=
  issueWord (.trap h code) s fun s => .done (s.takeFault s.curCore (some s.curStream) 10 (code.setWidth 64) true)
def execBrk (h : Hdr) (s : State) :=
  issueWord (.brk h) s fun s =>
    let st := s.curStream
    if (s.core s.curCore).dbg.getLsbD 0 then
      let g : BitVec 10 := (s.own.group.setWidth 10) ||| streamBit st
      .done (s.modCur fun x => { x with halting := x.halting ||| (if h.join = 1 then g else streamBit st) })
    else .done (s.takeFault s.curCore (some st) 11 0 true)

/-! ## Control and status registers (R492, R493) -/

/-- A condition-code record as its 16 bits (R402). -/
def CcRec.pack (r : CcRec) : Nat := r.arrived.toNat + 16 * r.mask.toNat + 256 * b2n r.value
/-- Four records of CCS, from record n. -/
def Shared.ccs (x : Shared) (n : Nat) : Word :=
  BitVec.ofNat 64 ((List.range 4).foldl (fun v i => v + (x.ccRec (n + i)).pack * 2 ^ (16 * i)) 0)
/-- The code of a season. -/
def Season.code : Season → Nat
  | .summer => 0 | .autumn => 1 | .winter => 2 | .midwinter => 3 | .spring => 4
/-- UNIT of SEASON (R386): clusters, then engines; a unit in its AUTUMN wake is not yet in SUMMER. -/
def Core.units (x : Core) : BitVec 30 :=
  BitVec.ofNat 30 ((List.range 10).foldl (fun v n =>
    let code := if n < 4 then b2n ((x.stream n).asleep || (x.stream n).wake != 0) else (x.sh.engine (n - 4)).season.code
    v + code * 8 ^ n) 0)
/-- VFID (R434). -/
def State.vfid (s : State) (c : Nat) : Nat :=
  match (s.core c).task with | some t => 8 + s.fnOfCtx t.ctx | none => 0
/-- WD_BUDGET (R367). -/
def Shared.wdBudget (x : Shared) : Word := BitVec.ofNat 64 (x.countK.toNat + 2 ^ 32 * x.budget.toNat)
/-- The fault frame as a program reads it: of a running core it is clear at the start of every cycle. -/
def Core.frameAt (x : Core) : FaultFrame := if x.stopping then {} else x.frame
/-- A control and status register of core c as stream st reads it. -/
def State.csrValue (s : State) (c st n : Nat) : Word :=
  let x := s.core c
  let y := x.soc
  if n = 0 then (s.stream c st).status.setWidth 64
  else if n = 1 then y.tags
  else if n = 2 then y.fmtLevel.setWidth 64
  else if n = 3 then y.ccs 0
  else if n = 4 then y.ccs 4
  else if 8 ≤ n ∧ n ≤ 13 then BitVec.ofNat 64 (tabGet 0 y.pace (n - 8))
  else if n = 0x10 then s.poolOccAt c
  else if n = 0x11 then y.wdBudget
  else if n = 0x12 then BitVec.ofNat 64 (x.seasonAt.toNat + 2 ^ 32 * (s.form (formOf c)).season.code)
  else if n = 0x13 then (s.form (formOf c)).imb
  else if n = 0x14 then BitVec.ofNat 64 ((s.die (dieOf c)).thermAllow % 1024)
  else if n = 0x15 then BitVec.ofNat 64 (s.vfid c)
  else if n = 0x16 then 1
  else if n = 0x18 then s.memTherm.setWidth 64
  else if n = 0x19 then (s.memTherm >>> 64).setWidth 64
  else if n = 0x20 then x.frameAt.cause
  else if n = 0x21 then x.frameAt.stream
  else if n = 0x22 then x.frameAt.info
  else if 0x30 ≤ n ∧ n ≤ 0x39 then BitVec.ofNat 64 (x.frameAt.pcOf (n - 0x30))
  else if n = 0x40 then x.ffl.cause
  else if n = 0x41 then x.ffl.stream
  else if n = 0x42 then x.ffl.info
  else if n = 0x43 then BitVec.ofNat 64 x.fflPc
  else if n = 0x50 then x.dbg
  else 0
def execCsrr (h : Hdr) (d : Port) (csr : BitVec 9) (s : State) :=
  issueWord (.csrr h d csr) s fun s =>
    .done (s.deliverTo 15 1 d ((s.csrValue s.curCore s.curStream csr.toNat).setWidth 1024))
/-- What an operation of CSRW writes to STATUS: fields that clear by a one are written by `.w` alone. -/
def csrwStatus (old v : BitVec 32) (op : Nat) : BitVec 32 :=
  match op with
  | 0 => writeStatus old v
  | 1 => writeStatus old ((old ||| v) &&& ~~~(0x3F : BitVec 32))
  | _ => writeStatus old ((old &&& ~~~v) &&& ~~~(0x3F : BitVec 32))
/-- CSRW: STATUS is the one register that programs may write. -/
def execCsrw (h : Hdr) (d : Port) (csr : BitVec 9) (b : Port) (opn : BitVec 2) (s : State) :=
  issueWord (.csrw h d csr b opn) s fun s =>
    let x := s.readInt b
    let old := s.own.status
    .done ((x.2.modOwn fun t => { t with status := csrwStatus old (x.1.setWidth 32) opn.toNat }).deliverTo 15 1 d (old.setWidth 1024))

/-! ## Identity, clocks, counters (R495 to R497) -/

/-- IDGET's values. -/
def State.ident (s : State) (c sel : Nat) : Nat :=
  match sel with
  | 0 => 0x0504 + 2 ^ 16 * s.boot.stepping.toNat + 2 ^ 24
  | 1 => s.boot.deviceNumber.toNat
  | 2 => if isLbp c then (c - 128) % 4 + 4 * ((c - 128) / 4) + 2 ^ 15 else c + 2 ^ 8 * formOf c + 2 ^ 16 * dieOf c
  | 3 => s.vfid c
  | _ => s.boot.forms.toNat
def execIdget (h : Hdr) (d : Port) (sel : BitVec 3) (s : State) :=
  issueWord (.idget h d sel) s fun s => .done (s.deliverTo 15 1 d (BitVec.ofNat 1024 (s.ident s.curCore sel.toNat)))
/-- CEIL of a form (R383): the least of the thermal ceiling and the peer ceilings that reach it (R392). -/
def State.peerCeiling (s : State) (f : Nat) : Nat :=
  let group := (s.form f).active.any fun r =>
    brValid r.2 && brSrc r.2 != 2 && (s.ctx (brCtx r.2)).cfg.getLsbD 27
  if group then s.peerCeil.foldl (fun m p => min m p.2.1) 48 else 48
def State.ceil (s : State) (f : Nat) : Nat := min (s.form f).ceil (s.peerCeiling f)
/-- The effective FLL code of a unit of core c (R383): stream st of a cluster, or the engines. -/
def State.freq (s : State) (c st : Nat) : Nat :=
  let f := s.form (formOf c)
  let target := slice (s.core c).clkNow.toNat (6 * min st 4) 6
  max (min f.floor 48) (min (target - f.thr) (s.ceil (formOf c)))
/-- CYCLE of a unit of core c, or of a line-buffer processor: its clock's cycles since reset (R496, log 129). -/
def State.cycleOf (s : State) (c st : Nat) : Word :=
  if isLbp c then s.clock
  else s.clock - (s.form (formOf c)).stopped - (if st < 4 then (s.stream c st).stopped else 0)
def execClkget (h : Hdr) (d : Port) (sel : BitVec 2) (s : State) :=
  issueWord (.clkget h d sel) s fun s =>
    let c := s.curCore
    let st := s.curStream
    let v : Word := match sel.toNat with
      | 0 => s.cycleOf c st
      | 1 => s.tick
      | _ => BitVec.ofNat 64 (s.freq c st + 2 ^ 8 * (s.form (formOf c)).thr + 2 ^ 16 * s.ceil (formOf c))
    .done (s.deliverTo 15 1 d (v.setWidth 1024))
/-- PERFR: a clear leaves the counter with this cycle's count, which comes after. -/
def execPerfr (h : Hdr) (d : Port) (n : BitVec 9) (clr : BitVec 1) (s : State) :=
  issueWord (.perfr h d n clr) s fun s =>
    let k := n.toNat
    let v := if k < 8 then tabGet 0 s.own.perf k else tabGet 0 (s.core s.curCore).perf k
    let s' := if clr = 0 then s
      else if k < 8 then s.modOwn fun t => { t with perf := tabSet 0 t.perf k 0 }
      else s.modCur fun x => { x with perfClr := k :: x.perfClr }
    .done (s'.deliverTo 15 1 d (v.setWidth 1024))

/-! ## IFENCE (R498) -/

def execIfence (h : Hdr) (s : State) :=
  issueWord (.ifence h) s fun s => .done (s.modOwn fun t => { t with ibuf := [], blocks := 0, fillAfter := s.seq })

/-! ## Snapshot words (R499, R500) -/

/-- A snapshot word: its result lands after 64 cycles, or 128 for a target on the other die, and is found out then. -/
def snapWord (s : State) (d : Port) (kind : Nat) (sel : Word) (data : Vec) : Out :=
  let c := s.curCore
  let lat := if dieOf (slice sel.toNat 24 7) = dieOf c then 64 else 128
  let id := s.seq
  .done ((s.reserveTo 15 lat d 0).modCur fun x =>
    { x with flight := x.flight.map fun f => if f.id = id then { f with snap := kind, snapSel := sel, snapData := data } else f })
def execSnaprD (h : Hdr) (d a : Port) (s : State) :=
  issueWord (.snaprD h d a) s fun s => let x := s.readInt a; snapWord x.2 d 1 x.1 0
def execSnaprV (h : Hdr) (d a : Port) (s : State) :=
  issueWord (.snaprV h d a) s fun s => let x := s.readInt a; snapWord x.2 d 2 x.1 0
def execSnaprSt (h : Hdr) (d a : Port) (s : State) :=
  issueWord (.snaprSt h d a) s fun s => let x := s.readInt a; snapWord x.2 d 3 x.1 0
def execSnapwD (h : Hdr) (d a b : Port) (s : State) :=
  issueWord (.snapwD h d a b) s fun s =>
    let x := s.readInt a
    let y := x.2.readInt b
    snapWord y.2 d 4 x.1 (y.1.setWidth 256)
def execSnapwV (h : Hdr) (d a b : Port) (s : State) :=
  issueWord (.snapwV h d a b) s fun s =>
    let x := s.readInt a
    let y := x.2.read b
    snapWord y.2 d 5 x.1 y.1

end Sys2Proof.Machine
end

