-- ==== Sys2Proof/Machine/Engines.lean ====
section
/-! DEFINITION. The engines of a core: how a command starts, advances and finishes (R195), for LD, ST, MX and EP (R118 to R145,
R196 to R212). -/

namespace Sys2Proof.Machine

/-! ## What an engine's attempt gives -/

/-- An attempt of an engine in one cycle: it goes on, waits, stalls at a migrating page, or raises a fault in the stream that sent the
command. -/
inductive Eng where
  | go (s : State)
  | wait
  | stall
  | fault (cls : Nat) (info : Word)
deriving Repr
/-- Why an engine cannot reach the bytes of an object now. -/
inductive EngStop where
  | stall
  | fault (cls : Nat) (info : Word)
deriving DecidableEq, Repr
def EngStop.eng : EngStop → Eng
  | .stall => .stall
  | .fault c i => .fault c i

/-- FF_INFO of NOT_RESIDENT (R452). -/
def absentInfo (obj page : Nat) (write : Bool) : Word :=
  BitVec.ofNat 64 (obj % 2 ^ 24 + page % 2 ^ 20 * 2 ^ 24 + b2n write * 2 ^ 44)
/-- FF_INFO of consumed poison (R452): the store and the slice of the sector (log 28). -/
def poisonInfo (p : Nat × Nat) : Word := BitVec.ofNat 64 (p.1 + 256 * (p.2 / 128 % 32))
/-- The number that names engine e in FF_INFO of a command with opcode op. -/
def cmdIllegal (op : BitVec 8) (e : Nat) : Eng := .fault 1 (illegalInfo op (some e))

/-- Translates bytes of an object for an engine of core c. -/
def State.engAddr (s : State) (c e reg : Nat) (cap : Cap) (write : Bool) (ps : List Nat) :
    Except EngStop (List (Bool × Nat) × State) :=
  match s.translateAll c (s.task c).ctx cap.obj ps with
  | .ok r => .ok (r.1, r.2.checkPlace r.1)
  | .error (.absent page, _, _) => .error (.fault 4 (absentInfo cap.obj page write))
  | .error (.fault cause, _, _) => .error (.fault 3 (capInfo cause reg false (some e)))
  | .error _ => .error .stall
/-- Bytes of an object that an engine reads at CORE scope (R269), the first position that is out of the window refused. -/
def State.engRead (s : State) (c e reg : Nat) (cap : Cap) (ps : List Int) : Except EngStop (List Byte × State) :=
  match ps.findSome? fun p => capCheck cap [0] p 1 false with
  | some cause => .error (.fault 3 (capInfo cause reg false (some e)))
  | none =>
    match s.engAddr c e reg cap false (ps.map cap.byte) with
    | .error x => .error x
    | .ok (l, s) =>
      match s.poisoned c 1 l with
      | some p => .error (.fault 9 (poisonInfo p))
      | none => .ok (s.coreRead c 1 l)
/-- Bytes that an engine writes at CORE scope (R269), from position p upwards. -/
def State.engWrite (s : State) (c e reg : Nat) (cap : Cap) (p : Int) (bs : List Byte) : Except EngStop State :=
  match capCheck cap (s.writeRights c cap []) p bs.length false with
  | some cause => .error (.fault 3 (capInfo cause reg false (some e)))
  | none =>
    match s.engAddr c e reg cap true ((List.range bs.length).map fun i => cap.byte p + i) with
    | .error x => .error x
    | .ok (l, s) => .ok (s.coreWrite c 1 ((l.zip bs).map fun x => (x.1.1, x.1.2, x.2)))

/-- The handle that a command names: its storage at issue where it was allocated then, else as it stands (R290). -/
def Cmd.handle (k : Cmd) (x : Shared) (n : Nat) : Handle :=
  match k.tiles.find? (·.1 == n) with
  | some t => if dValid t.2.desc then t.2 else x.handle n
  | none => x.handle n

/-! ## Nest iterations (R120, R121) -/

/-- Counts a mixed-radix index up by one: the extents and digits, outermost first; whether it has passed its last value. -/
def countUp : List Nat → List Nat → List Nat × Bool
  | [], _ => ([], true)
  | x :: xs, ds =>
    let r := countUp xs (ds.drop 1)
    let d := ds.headD 0
    if !r.2 then (d :: r.1, false) else if d + 1 < x then ((d + 1) :: r.1, false) else (0 :: r.1, true)
/-- An iteration: indices, and operands 0, 1 and 2; a coordinate table gives row, operand 1 and column. -/
structure Iter where
  idx : List Nat
  op0 : Int
  op1 : Int
  op2 : Int
deriving DecidableEq, Repr
/-- The extent of a level: an absent level counts one. -/
def levelExtent (r : BitVec 128) : Nat := if recKind r = 0 then 1 else recExtent r
/-- The next iteration of an active table and the table after it, none where no iteration is left. -/
def Shared.draw (x : Shared) (t : Nat) : Option (Iter × Shared) :=
  if !x.nestLeft t then none
  else
    let n := x.nestRunOf t
    let rs := (List.range 6).map fun l => x.nestRec t 1 l
    let idx := (List.range 6).map fun l => n.idx.getD l 0
    let base := n.base.headD 0
    let sum (f : BitVec 128 → Int) : Int := (rs.zip idx).foldl (fun z p => z + f p.1 * p.2) 0
    let coord := t == 1 || t == 3
    let op0 : Int := if coord then slice base 48 13 + sum recRow else slice base 0 24 + sum fun r => recStride r 0
    let op2 : Int := if coord then slice base 0 13 + sum recCol else slice base 48 16 + sum fun r => recStride r 2
    let op1 : Int := slice base 24 24 + sum fun r => recStride r 1
    some ({ idx, op0, op1, op2 },
      x.setNestRun t { n with idx := (countUp (rs.map levelExtent) idx).1, delivered := n.delivered + 1 })
/-- The format-table index in force for an iteration (R135). -/
def Shared.entryFor (x : Shared) (i : Iter) : Nat :=
  if x.fmtLevel.getLsbD 3 then i.idx.getD (slice x.fmtLevel.toNat 0 3) 0 % 16 else 0

/-! ## The life of a command (R195, R213, R214) -/

/-- The stream's accesses issued before a command that it must follow (R267, R231). -/
def Core.sentBefore (x : Core) (k : Cmd) : Bool := x.acc.any fun a => a.stream == k.stream && a.id < k.since
/-- A completion posts: a discarded command's is not counted. -/
def Shared.post (x : Shared) (e : Nat) : Shared :=
  let r := x.compRec e
  x.setComp e (if r.skip = 0 then { r with done := r.done + 1 } else { r with skip := r.skip - 1 })
/-- A tag's command has completed (R294). -/
def Shared.tagFinish (x : Shared) (t : Nat) : Shared :=
  let n := x.tagCount t - 1
  let x := { x with tagOut := tabSet 0 x.tagOut t n }
  if n = 0 then { x with tags := x.tags ||| tagBit t } else x
/-- The running command of an engine changes. -/
def Shared.setRun (x : Shared) (e : Nat) (r : Run) : Shared := x.modEngine e fun g => { g with run := some r }
/-- The oldest queued command becomes the running one. -/
def Shared.begin (x : Shared) (e : Nat) (r : Run) : Shared :=
  x.modEngine e fun g => { g with queue := g.queue.drop 1, run := some r, startAge := 0, idleFor := 0 }
/-- The finish of a command (R195): its completion posts and the engine stands free. -/
def State.finishCommand (s : State) (c e : Nat) : State :=
  s.modSh c fun x => (x.modEngine e fun g => { g with run := none, idleFor := 0 }).post e
/-- A fault of a command of engine e is raised in the stream that sent it, after issue (R195, R447). -/
def State.engFault (s : State) (c : Nat) (k : Cmd) (cls : Nat) (info : Word) : State := s.takeFault c (some k.stream) cls info true
/-- The same for a running command, which then stands until RESUME (R450, R455). -/
def State.runFault (s : State) (c e : Nat) (k : Cmd) (cls : Nat) (info : Word) : State :=
  (s.modSh c fun x => match (x.engine e).run with
    | some r => x.setRun e { r with failed := true }
    | none => x).engFault c k cls info
/-- Whether an engine may start a command now (R66, R195, R384). -/
def Engine.ready (g : Engine) (gap : Nat) : Bool :=
  g.run.isNone && !g.queue.isEmpty && gap ≤ g.startAge && g.season == .summer && g.wake == 0

/-! ## Staging A and loading the deck (R202 to R204) -/

/-- Bits of an element of an A or B format code (R133). -/
def formatBits (f : Nat) : Nat := if f = 0 then 4 else if f = 1 then 6 else if f ≤ 4 then 8 else 16
/-- Bytes of a row of a stage slot (R125). -/
def stageRow (f : Nat) : Nat := 16 * formatBits f
/-- The byte of MAT at which stage slot i begins. -/
def Ring.stageAt (r : Ring) (i : Nat) : Nat := 16384 * (r.d + i)
/-- The slot that an operand names (R121). -/
def Ring.slot (r : Ring) (op : Int) : Nat := (op % (r.s : Int)).toNat
/-- Whether a layout word may be used with a format: its bits that must be zero are (R202, log 127). -/
def layoutLegal (f : Nat) (w : Word) : Bool := if f ≤ 2 then slice w.toNat 16 16 == 0 else slice w.toNat 32 32 == 0
/-- The position in the source window of byte j of row m of a stage slot, an element's bytes together (R202). -/
def stageSource (cap : Cap) (e w : Word) (op0 op2 : Int) (m j : Nat) : Int :=
  let f := fA e
  let bits := formatBits f
  if f ≤ 2 then
    let b := fEdge e
    let seg := b * bits / 8
    let block : Int := op0 + (m / b) * slice w.toNat 0 16 + (op2 / b + j / seg)
    cap.cur + block * (b * b * bits / 8 : Nat) + (m % b) * seg + j % seg
  else
    let bytes := bits / 8
    cap.cur + (op0 + m * slice w.toNat 0 32 + op2) * bytes + j
/-- The moves of one 32 B unit of a slot: position in the slot and in the source window. -/
def stageUnit (cap : Cap) (e w : Word) (op0 op2 : Int) (kn u : Nat) : List (Nat × Int) :=
  let f := fA e
  let rb := stageRow f
  let used := kn * formatBits f / 8
  (List.range 32).filterMap fun i =>
    let at_ := 32 * u + i
    if at_ < 64 * rb then
      if at_ % rb < used then some (at_, stageSource cap e w op0 op2 (at_ / rb) (at_ % rb)) else none
    else
      let b := fEdge e
      let n := at_ - 64 * rb
      let cols := 128 / b
      let kb := n % cols
      if kb < (kn + b - 1) / b then
        some (12288 + n, (cap.cur : Int) + slice w.toNat 32 32 + op0 + (n / cols) * slice w.toNat 0 16 + (op2 / b + kb))
      else none
/-- Units of an ASTAGE: the slot's rows, then its scales where they are read. -/
def stageUnits (e : Word) : Nat :=
  let f := fA e
  let scales := if f ≤ 2 ∧ fSclA e = 0 then (64 / fEdge e) * (128 / fEdge e) else 0
  (64 * stageRow f) / 32 + (scales + 31) / 32
/-- A unit's moves, the last unit of scales cut to the scales there are. -/
def stageUnitOf (cap : Cap) (e w : Word) (i : Iter) (kn u : Nat) : List (Nat × Int) :=
  let b := fEdge e
  (stageUnit cap e w i.op0 i.op2 kn u).filter fun m => m.1 < 12288 + (64 / b) * (128 / b) || 12288 < 64 * stageRow (fA e)

/-- ASTAGE at its start: its operands, its layout word, then its source's tag and right (R202, log 127). -/
def State.startAstage (s : State) (c : Nat) (k : Cmd) (cn : Nat) : Eng :=
  let y := s.soc c
  match (s.sh c).draw 0 with
  | none => cmdIllegal 0x74 0
  | some (i, x) =>
    let n := y.entryFor i
    let e := y.fmtEntry n
    if y.ring.d = 0 ∨ !layoutLegal (fA e) (k.src.setWidth 64) ∨ (fA e ≤ 2 ∧ i.op2 % fEdge e ≠ 0) then cmdIllegal 0x74 0
    else
      let cap := tabGet {} (s.stream c k.stream).c cn
      -- the tag and READ are judged at the start, and the bounds of every unit when it is read (R202, R418)
      match capCheck cap [0] 0 0 false with
      | some cause => .fault 3 (capInfo cause cn false (some 0))
      | none => .go (s.modSh c fun _ => x.begin 0
        { cmd := k, iter := [i.op0, i.op1, i.op2], idx := i.idx, entry := n, fmt := e, caps := [cap], waiting := true, left := some 0 })
/-- One cycle of an ASTAGE: it waits for its slot to be EMPTY, then writes one unit. -/
def State.advanceAstage (s : State) (c : Nat) (r : Run) (cn kn : Nat) : Eng :=
  let i : Iter := { idx := r.idx, op0 := r.iter.getD 0 0, op1 := r.iter.getD 1 0, op2 := r.iter.getD 2 0 }
  let slot := (s.sh c).ring.slot i.op1
  if r.waiting ∧ tabGet 0 (s.soc c).ring.stage slot ≠ 0 then .wait
  else
    let cap := r.caps.headD {}
    let ms := stageUnitOf cap r.fmt (r.cmd.src.setWidth 64) i kn (r.progress / 32)
    match s.engRead c 0 cn cap (ms.map Prod.snd) with
    | .error x => x.eng
    | .ok (bs, s) =>
      let done := r.progress + 32
      let last := 32 * stageUnits r.fmt ≤ done
      let s := s.modSh c fun x =>
        let base := x.ring.stageAt slot
        let mat := (ms.zip bs).foldl (fun m p => wrByte m (base + p.1.1) p.2) x.mat
        { x with mat, ring := { x.ring with stage := tabSet 0 x.ring.stage slot (if last then 2 else 1) } }
      let base := (s.sh c).ring.stageAt slot
      let s := s.heal fun m => match m with
        | .mat d w => d == c && (List.range 8).all fun j => ms.any fun p => base + p.1 == 8 * w + j
        | _ => false
      if last then .go (s.finishCommand c 0)
      else .go (s.modSh c fun x => x.setRun 0 { r with progress := done, waiting := false })
/-- A stage slot is marked FILLING as soon as its ASTAGE has found it EMPTY, whatever stops its first unit. -/
def State.claimSlot (s : State) (c : Nat) (r : Run) : State :=
  let slot := (s.sh c).ring.slot (r.iter.getD 1 0)
  if r.waiting ∧ tabGet 0 (s.soc c).ring.stage slot = 0 then
    s.modSh c fun x => ({ x with ring := { x.ring with stage := tabSet 0 x.ring.stage slot 1 } }).setRun 0 { r with waiting := false }
  else s

/-- DECKLD's checks at its start: the placement word, the deck range, then the source (R204, log 127). -/
def State.startDeckld (s : State) (c : Nat) (k : Cmd) (cn units : Nat) : Eng :=
  let w := k.src.toNat
  let dst := slice w 32 16
  let cap := tabGet {} (s.stream c k.stream).c cn
  if slice w 48 16 ≠ 0 then cmdIllegal 0x6E 0
  else if units = 0 then
    .go ((s.modSh c fun x => { x.begin 0 { cmd := k } with deckV := true }).finishCommand c 0)
  else if dst % 32 ≠ 0 ∨ 49152 < dst + 32 * units then .fault 3 (capInfo .bounds 0 false (some 0) 2)
  else
    let s := s.modSh c fun x => { x with deckV := true }
    match capCheck cap [0] (cap.cur + slice w 0 32 : Nat) (64 * 32 * units) false with
      | some cause => .fault 3 (capInfo cause cn false (some 0))
      | none => .go (s.modSh c fun x => x.begin 0 { cmd := k, caps := [cap], left := some 0 })
/-- One cycle of a DECKLD: one unit of every slice. -/
def State.advanceDeckld (s : State) (c : Nat) (r : Run) (cn units : Nat) : Eng :=
  let w := r.cmd.src.toNat
  let u := r.progress
  let cap := r.caps.headD {}
  let src (n i : Nat) : Int := (cap.cur + slice w 0 32 + n * 32 * units + 32 * u + i : Nat)
  let cells := (List.range 64).flatMap fun n => (List.range 32).map fun i => (n, i)
  match s.engRead c 0 cn cap (cells.map fun p => src p.1 p.2) with
  | .error x => x.eng
  | .ok (bs, s) =>
    let s := s.modSh c fun x => { x with deck := (cells.zip bs).foldl (fun m p =>
      wrByte m (49152 * p.1.1 + slice w 32 16 + 32 * u + p.1.2) p.2) x.deck }
    let s := s.heal fun m => match m with
      | .deck d v => d == c && wordIn (v % 6144) (slice w 32 16 + 32 * u) 32
      | _ => false
    if u + 1 = units then .go (s.finishCommand c 0)
    else .go (s.modSh c fun x => x.setRun 0 { r with progress := u + 1 })

/-! ## The matrix engine (R130 to R140, R206, R207) -/

/-- The gang table of R131: k per output and cycle of a gang code and A format. -/
def kPerCycle (gang fa : Nat) : Nat :=
  if gang ≤ 1 then 16 else if gang ≤ 5 then 32 else if gang = 6 then 64 else if fa ≤ 4 then 16 else if fa = 5 then 8 else 4
/-- The K-step span (R131). -/
def kSpan (gang edge : Nat) : Nat := if gang ≤ 1 then max 16 edge else if gang ≤ 5 then 32 else if gang = 6 then 64 else 16
/-- An element of an A or B format as a value: the integer of an MXINT element, the value of a floating-point one. -/
def elemVal (f x : Nat) : FVal :=
  match f with
  | 0 => ofSigned (sext 4 x) 0
  | 1 => ofSigned (sext 6 x) 0
  | 2 => ofSigned (sext 8 x) 0
  | 3 => e4m3.val x
  | 4 => e5m2.val x
  | 5 => bf16.val x
  | _ => fp16.val x
/-- Bits from a memory: `bits` bits from bit `at_` on. -/
def rdBits (m : Memory) (byte at_ bits : Nat) : Nat := slice (leNat (rdBytes m (byte + at_ / 8) 2)) (at_ % 8) bits

/-- One group of R138: C and sixteen products, and the flags. -/
def fpGroup (ts : List FVal) : Nat × Flags :=
  -- opposing infinities set NV beside a NaN too (R139)
  if ts.any FVal.isNan then
    (fp32.nan, if (ts.any fun t => t.isInf && t.isNeg) && ts.any fun t => t.isInf && !t.isNeg then fNV else 0)
  else match ts.filter FVal.isInf with
    | x :: r => if r.any (fun y => y.isNeg != x.isNeg) then (fp32.nan, fNV) else (if x.isNeg then fp32.inf + fp32.signBit else fp32.inf, 0)
    | [] =>
      let nz := ts.filterMap fun t => match t with | .fin n m e => if m = 0 then none else some (signed n m, m, e) | _ => none
      match nz with
      | [] => sumTerms fp32 .rne ts
      | (_, m0, e0) :: r =>
        let emax := r.foldl (fun (a : Int) t => max a ((Nat.log2 t.2.1 : Int) + t.2.2)) ((Nat.log2 m0 : Int) + e0)
        let u := emax - 50
        let part (t : Int × Nat × Int) : Int × Bool :=
          let k := t.2.2 - u
          if 0 ≤ k then (t.1 * 2 ^ k.toNat, false) else (t.1 / 2 ^ (-k).toNat, t.1 % 2 ^ (-k).toNat != 0)
        let w := nz.foldl (fun z t => z + (part t).1) 0
        let sticky := nz.any fun t => (part t).2
        if w = 0 then
          if sticky then (0, fNX ||| (if u ≤ -126 then fUF else 0)) else (0, 0)
        else
          let y := roundTo fp32 .rne (w < 0) w.natAbs u
          let nx : Flags := if sticky then fNX else 0
          -- with a sticky bit a tie goes to the greater value: toward plus infinity
          let up := roundTo fp32 .rup (w < 0) w.natAbs u
          let down := roundTo fp32 .rdn (w < 0) w.natAbs u
          let tie := y.2.getLsbD 4 && up.1 != down.1 &&
            (let a := fp32.val up.1; let b := fp32.val down.1
             match a, b with
             | .fin na ma ea, .fin nb mb eb =>
               let sm := addExact (signed na ma) ea (signed nb mb) eb
               let d := addExact sm.1 sm.2 (-(2 * w)) u
               d.1 == 0
             | _, _ => false)
          let r := if sticky && tie then up.1 else y.1
          let uf : Flags := if (y.2 ||| nx).getLsbD 4 ∧ (roundTo ⟨40, 16, 23, 32767, false⟩ .rne false w.natAbs u).1 / 2 ^ 23 < 32767 - 126 then fUF else 0
          (r, (y.2 &&& ~~~fUF) ||| nx ||| uf)

/-- The formats, places and scales that a K-step works with. -/
structure KPlan where
  e : Word
  stage : Nat
  stageK : Nat
  deckBase : Nat
  deckK : Int
  span : Nat
deriving DecidableEq, Repr
/-- The A element (m, k) of the span, and the B element (k, n). -/
def KPlan.a (p : KPlan) (mat : Memory) (m k : Nat) : FVal :=
  let f := fA p.e
  elemVal f (rdBits mat (p.stage + m * stageRow f) ((p.stageK + k) * formatBits f) (formatBits f))
/-- The bit of a deck slice at which element k of the span begins (R128); a deck k offset may be negative. -/
def KPlan.bitB (p : KPlan) (k : Nat) : Int := 8 * p.deckBase + (p.deckK + k) * formatBits (fB p.e)
/-- The byte of a deck slice that holds the scale of the block of element k of the span (R128). -/
def KPlan.scaleByteB (p : KPlan) (k : Nat) : Int := (p.deckBase + 32 * fSclOff p.e : Nat) + (p.deckK + k) / (fEdge p.e : Int)
def KPlan.b (p : KPlan) (deck : Memory) (n k : Nat) : FVal :=
  elemVal (fB p.e) (rdBits deck (49152 * n) (p.bitB k).toNat (formatBits (fB p.e)))
/-- The scale bytes of the block that holds k of row m, and of column n. -/
def KPlan.scaleA (p : KPlan) (mat : Memory) (m k : Nat) : Nat :=
  let b := fEdge p.e
  if fSclA p.e = 1 then fConstA p.e else (rdByte mat (p.stage + 12288 + (m / b) * (128 / b) + (p.stageK + k) / b)).toNat
def KPlan.scaleB (p : KPlan) (deck : Memory) (n k : Nat) : Nat :=
  if fSclB p.e = 1 then fConstB p.e else (rdByte deck (49152 * n + (p.scaleByteB k).toNat)).toNat
/-- Whether a K-step stays within the deck slices (R127): every byte that it reads lies below 49,152, and at or above 0, of which
the rule does not speak (DESIGN CHOICE, log 112). -/
def KPlan.inDeck (p : KPlan) : Bool :=
  0 ≤ p.bitB 0 && p.bitB p.span ≤ 8 * 49152 &&
    (2 < fB p.e || fSclB p.e == 1 || (0 ≤ p.scaleByteB 0 && p.scaleByteB (p.span - 1) < 49152))
/-- The bits of a format code's element count beyond the binary point of an MXINT element. -/
def mxWidth (f : Nat) : Nat := if f = 0 then 4 else if f = 1 then 6 else 8
/-- One output of a K-step (R137, R138): the accumulator and flags after it. -/
def KPlan.output (p : KPlan) (mat deck : Memory) (m n acc : Nat) : Nat × Flags :=
  if fA p.e ≤ 2 then
    let b := fEdge p.e
    (List.range (p.span / b)).foldl (fun (a : Nat × Flags) j =>
      let sa := p.scaleA mat m (b * j)
      let sb := p.scaleB deck n (b * j)
      if sa = 0xFF ∨ sb = 0xFF then (fp32.nan, a.2)
      else
        let z := (List.range b).foldl (fun (z : Int) i =>
          match p.a mat m (b * j + i), p.b deck n (b * j + i) with
          | .fin na ma _, .fin nb mb _ => z + signed na ma * signed nb mb
          | _, _ => z) 0
        let ex : Int := (sa : Int) - 127 - (mxWidth (fA p.e) - 2 : Nat) + ((sb : Int) - 127 - (mxWidth (fB p.e) - 2 : Nat))
        let r := sumTerms fp32 .rne [v32 a.1, ofSigned z ex]
        (r.1, a.2 ||| r.2 ||| snanFlag [v32 a.1])) (acc, 0)
  else
    let ps := (List.range 16).map fun k => mulVal (p.a mat m k) (p.b deck n k)
    let r := fpGroup (v32 acc :: ps.map Prod.fst)
    (r.1, r.2 ||| orFlags (ps.map Prod.snd) ||| snanFlag [v32 acc])
/-- One K-step on row quad q of the tile at byte `tile` of MAT: MAT and the flags after it (R132). -/
def KPlan.run (p : KPlan) (mat deck : Memory) (tile q : Nat) : Memory × Flags :=
  ([q, q + 16, q + 32, q + 48].flatMap fun m => (List.range 64).map fun n => (m, n)).foldl (fun (r : Memory × Flags) c =>
    let at_ := tile + 4 * (64 * c.1 + c.2)
    let o := p.output mat deck c.1 c.2 (leNat (rdBytes mat at_ 4))
    (wrBytes r.1 at_ (leBytes 4 o.1), r.2 ||| o.2)) (mat, 0)

/-- MX starts an MMA or MMAC (R206). A negative stage k offset, of which R130 does not speak, is an illegal instruction too
(DESIGN CHOICE, log 112). -/
def State.startMma (s : State) (c : Nat) (k : Cmd) (op : BitVec 8) (opens : Bool) (gang kc : Nat) : Eng :=
  let y := s.soc c
  let ring := (s.sh c).ring
  match (s.sh c).draw 2 with
  | none => cmdIllegal op 2
  | some (i, x) =>
    let n := y.entryFor i
    let e := y.fmtEntry n
    let len := 16 * (kc + 1)
    let span := kSpan gang (fEdge e)
    let bad := y.ring.d = 0 ∨ ring.openTile == opens ∨ i.op2 < 0 ∨ 128 < i.op2 + len ∨ len % span ≠ 0 ∨
      (fA e ≤ 2 ∧ (i.op2 % fEdge e ≠ 0 ∨ i.op1 % fEdge e ≠ 0)) ∨ gangOf (fA e) (fB e) ≠ some gang
    if bad then cmdIllegal op 2
    else .go (s.modSh c fun _ => x.begin 2
      { cmd := k, iter := [i.op0, i.op1, i.op2], idx := i.idx, entry := n, fmt := e, edge := fEdge e, span,
        cyc := span / kPerCycle gang (fA e), steps := 16 * (len / span), left := some 0 })
/-- The next K-step of the running command (R132, R200, R131): it waits for its stage slot and, where it opens a tile, for room
in the ring. -/
def State.kStep (s : State) (c : Nat) (r : Run) (op : BitVec 8) (opens : Bool) (gang : Nat) : Eng :=
  let y := s.soc c
  let x := s.sh c
  let slot := x.ring.slot (r.iter.getD 0 0)
  let opening := opens && r.progress == 0
  if tabGet 0 y.ring.stage slot ≠ 2 ∨ (opening && y.ring.d ≤ y.ring.hd - y.ring.tl) then .wait
  else
    let e := y.fmtEntry r.entry
    let p : KPlan := { e, stage := x.ring.stageAt slot, stageK := (r.iter.getD 2 0).toNat + r.progress / 16 * r.span,
                       deckBase := x.ring.deckBase, deckK := r.iter.getD 1 0 + (r.progress / 16 * r.span : Nat), span := r.span }
    if fEdge e ≠ r.edge ∨ gangOf (fA e) (fB e) ≠ some gang then cmdIllegal op 2
    else if !p.inDeck then .fault 3 (capInfo .bounds 0 false (some 2) 2)
    else
      let tile := 16384 * (x.ring.hd % max 1 x.ring.d)
      let mat := if opening then zeroBytes x.mat tile 16384 else x.mat
      let o := p.run mat x.deck tile (r.progress % 16)
      let more := r.progress + 1 < r.steps
      let s := s.modSh c fun x =>
        ({ x with mat := o.1, ring := { x.ring with openTile := true, openEntry := r.entry } }).setRun 2
          { r with progress := r.progress + 1, left := some (if more then r.cyc else r.cyc - 1) }
      let s := s.modCore c fun z => (z.count 8)
      let s := if opening then s.heal fun m => match m with | .mat d w => d == c && wordIn w tile 16384 | _ => false else s
      .go (if o.2 = 0 then s else s.modCore c fun z =>
        { z with flight := z.flight ++ [{ stream := 6, flags := o.2, left := r.cyc, id := s.seq }] })
/-- The end of an MMA or MMAC: LAST empties the stage slot, CLOSE closes the tile (R126, R140, R206). HD and TL count on without
bound; what software reads of them is modulo 2^32 (DESIGN CHOICE, log 112). -/
def State.finishMma (s : State) (c : Nat) (r : Run) (close last : BitVec 1) : State :=
  let s := s.modSh c fun x =>
    let g := x.ring
    let g := if last = 1 then { g with stage := tabSet 0 g.stage (g.slot (r.iter.getD 0 0)) 0 } else g
    let g := if close = 1 then
        { g with entries := tabPut g.entries (g.hd % max 1 g.d) g.openEntry, hd := g.hd + 1, openTile := false } else g
    { x with ring := g }
  s.finishCommand c 2

/-! ## The epilogue (R141 to R145, R210 to R212) -/

def epAct (x : BitVec 96) : Nat := slice x.toNat 0 3
def epBias (x : BitVec 96) : Option Nat := if x.getLsbD 8 then some (slice x.toNat 9 6) else none
def epScale (x : BitVec 96) : Option Nat := if x.getLsbD 15 then some (slice x.toNat 16 6) else none
def epLo (x : BitVec 96) : Nat := slice x.toNat 32 32
def epHi (x : BitVec 96) : Nat := slice x.toNat 64 32
/-- A step of the epilogue on an FP32 pattern, with the flags gathered so far. -/
def epStep (f : Nat → Nat → Nat × Flags) (a : Nat × Flags) (b : Nat) : Nat × Flags :=
  let r := f a.1 b
  (r.1, a.2 ||| r.2)
def epAdd (x y : Nat) : Nat × Flags := addF fp32 .rne (v32 x) (v32 y)
def epMul (x y : Nat) : Nat × Flags := mulF fp32 .rne (v32 x) (v32 y)
def epDiv (x y : Nat) : Nat × Flags := divF fp32 .rne (v32 x) (v32 y)
def epExp2 (x : Nat × Flags) : Nat × Flags := let r := exp2Core (v32 x.1); (r.1, x.2 ||| r.2)
/-- The activations of R144. -/
def activate (cfg : BitVec 96) (x : Nat) : Nat × Flags :=
  let v := v32 x
  let one : Nat := 0x3F800000
  let two : Nat := 0x40000000
  let half : Nat := 0x3F000000
  if epAct cfg = 0 then (x, 0)
  else if v.isNan then (fp32.nan, if v.isSnan then fNV else 0)
  else match epAct cfg with
    | 1 => (if v.isNeg || v.isZero then 0 else x, 0)
    | 2 =>
      let r := minMaxF fp32 false (minMaxF fp32 true x (epLo cfg)).1 (epHi cfg)
      (r.1, r.2)
    | 3 =>
      let t := epStep epMul (epMul x x) x
      let t := epStep (fun a b => epAdd b a) (epStep epMul t 0x3D372713) x
      let t := epStep epMul t 0x3F4C422A
      let e := epExp2 (epStep epMul t 0x4038AA3B)
      let d := epAdd e.1 one
      let q := epDiv two d.1
      let th := epAdd one (neg32 q.1)
      let l := epMul half x
      let u := epAdd one th.1
      let y := epMul l.1 u.1
      (y.1, e.2 ||| d.2 ||| q.2 ||| th.2 ||| l.2 ||| u.2 ||| y.2)
    | _ =>
      let m := epMul 0x3FB8AA3B x
      let e := epExp2 (neg32 m.1, m.2)
      let d := epAdd one e.1
      let y := epDiv x d.1
      (y.1, e.2 ||| d.2 ||| y.2)
/-- The FP32 value of element column n of row 0 of a vector handle. -/
def State.vecElem (s : State) (c : Nat) (h : Handle) (n : Nat) : Nat := leNat (s.tileRead c h (4 * n) 4)
/-- Element (m, n) of the current tile after bias, scale and activation (R143). -/
def State.epElem (s : State) (c : Nat) (k : Cmd) (op1 : Nat) (m n : Nat) : Nat × Flags :=
  let x := s.sh c
  let tile := 16384 * (x.ring.tl % max 1 x.ring.d)
  let v : Nat × Flags := (leNat (rdBytes x.mat (tile + 4 * (64 * m + n)) 4), 0)
  let v := match epBias x.epcfg with
    | some h => epStep epAdd v (s.vecElem c (k.handle x h) (op1 + n))
    | none => v
  let v := match epScale x.epcfg with
    | some h => epStep epMul v (s.vecElem c (k.handle x h) (op1 + n))
    | none => v
  let a := activate x.epcfg v.1
  (a.1, v.2 ||| a.2)
/-- EPRUN's checks at its start (R211). -/
def State.startEprun (s : State) (c : Nat) (k : Cmd) (hn : Nat) : Eng :=
  let x := s.sh c
  match x.draw 3 with
  | none => cmdIllegal 0x6D 3
  | some (i, x') =>
    if x.ring.d = 0 ∨ !x.ring.current then cmdIllegal 0x6D 3
    else
      let n := tabGet 0 x.ring.entries (x.ring.tl % x.ring.d)
      let e := (s.soc c).fmtEntry n
      let h := k.handle x hn
      let vecs := (match epBias x.epcfg with | some b => [b] | none => []) ++ (match epScale x.epcfg with | some b => [b] | none => [])
      let vbad := vecs.find? fun b => !dValid (k.handle x b).desc
      let vout := vecs.find? fun b => i.op1 < 0 || (dCols (k.handle x b).desc : Int) < i.op1 + 64
      let out := fOut e
      let edge := fOutEdge e
      if !dValid h.desc then .fault 3 (handleInfo .tag hn (some 3))
      else match vbad with
      | some b => .fault 3 (handleInfo .tag b (some 3))
      | none =>
        if dBound h.desc then .fault 3 (handleInfo .rights hn (some 3))
        else if i.op0 < 0 ∨ i.op2 < 0 ∨ (dRows h.desc : Int) < i.op0 + 64 ∨ (dCols h.desc : Int) < i.op2 + 64 then
          .fault 3 (handleInfo .bounds hn (some 3))
        else match vout with
        | some b => .fault 3 (handleInfo .bounds b (some 3))
        | none =>
          let lo := v32 (epLo x.epcfg)
          let hi := v32 (epHi x.epcfg)
          if dFmt h.desc ≠ out ∨ vecs.any (fun b => dFmt (k.handle x b).desc ≠ 8) ∨
              (isMx out ∧ (dEdge h.desc ≠ edge ∨ i.op0 % edge ≠ 0 ∨ i.op2 % edge ≠ 0)) ∨
              (epAct x.epcfg = 2 ∧ (lo.isNan ∨ hi.isNan ∨ ltVal hi lo)) then cmdIllegal 0x6D 3
          else .go (s.modSh c fun _ => x'.begin 3
            { cmd := { k with tiles := k.tiles ++ vecs.map fun b => (b, k.handle x b) }, iter := [i.op0, i.op1, i.op2], idx := i.idx, entry := n, fmt := e, steps := 64, left := some 4 })
/-- The bytes of output row m of an EPRUN with places in the handle's image, and the flags of its quantisation (R145). -/
def State.epRow (s : State) (c : Nat) (r : Run) (h : Handle) (m : Nat) : List (Nat × List Byte) × Flags :=
  let e := r.fmt
  let out := fOut e
  let mode := RMode.ofCode (fOrm e)
  let row := (r.iter.getD 0 0).toNat + m
  let col := (r.iter.getD 2 0).toNat
  let op1 := (r.iter.getD 1 0).toNat
  let elem (m n : Nat) : Nat × Flags := s.epElem c r.cmd op1 m n
  if isMx out then
    let b := fOutEdge e
    let k := mxBits out
    let m0 := m / b * b
    let parts := (List.range (64 / b)).map fun j =>
      let block := (List.range b).flatMap fun i => (List.range b).map fun n => v32 (elem (m0 + i) (b * j + n)).1
      let scale := mxScale block
      let es := (List.range b).map fun n =>
        let x := elem m (b * j + n)
        let q := if scale = 0xFF then (0, 0) else mxElem k scale mode (v32 x.1)
        (((BitVec.ofInt k q.1).toNat), x.2 ||| q.2)
      let bits := es.foldr (fun x acc => x.1 + 2 ^ k * acc) 0
      let at_ := mxBit (dCols h.desc) b k row (col + b * j) / 8
      ((at_, leBytes (b * k / 8) bits) :: (if m % b = 0 then [(mxScaleByte h.desc row (col + b * j), [BitVec.ofNat 8 scale])] else []),
        orFlags (es.map Prod.snd))
    (parts.flatMap Prod.fst, orFlags (parts.map Prod.snd))
  else
    let es := (List.range 64).map fun n =>
      let x := elem m n
      if out = 8 then x else let q := convLane mode out 8 x.1; (q.1, x.2 ||| q.2)
    let w := elemBytes out
    ([(row * dPitch h.desc + col * w, es.flatMap fun x => leBytes w x.1)], orFlags (es.map Prod.snd))
/-- One cycle of an EPRUN: an output row; after the last the tile is drained (R141, R211). -/
def State.advanceEprun (s : State) (c : Nat) (r : Run) (hn : Nat) : State :=
  let h := r.cmd.handle (s.sh c) hn
  let o := s.epRow c r h r.progress
  let s := o.1.foldl (fun (s : State) p => s.tileWrite c h p.1 p.2) s
  let fl := r.flags ||| o.2
  if r.progress + 1 < 64 then
    s.modSh c fun x => x.setRun 3 { r with progress := r.progress + 1, flags := fl, left := some 1 }
  else
    let s := s.modSh c fun x => { x with ring := { x.ring with tl := x.ring.tl + 1, current := false } }
    let s := s.finishCommand c 3
    if fl = 0 then s else s.modCore c fun z => { z with flight := z.flight ++ [{ stream := 7, flags := fl, left := 1, id := s.seq }] }

/-- A field of EP's configuration changes (R212). -/
def epPut (x : BitVec 96) (lo w v : Nat) : BitVec 96 := putBits x lo w v
/-- A command that finishes in its start cycle with a change of the shared state. -/
def State.atOnce (s : State) (c e : Nat) (k : Cmd) (f : Shared → Shared) : Eng :=
  .go ((s.modSh c fun x => f (x.begin e { cmd := k })).finishCommand c e)
/-- GO: the latched copy becomes the active table (R122, R199). -/
def State.startGo (s : State) (c e : Nat) (k : Cmd) (src : Port) : Eng :=
  s.atOnce c e k fun x =>
    let x := (List.range 6).foldl (fun x l => x.setNestRec e 1 l (k.nest.getD l 0)) x
    x.setNestRun e { live := true, idx := [], base := [(goBase src k.src e).toNat], delivered := 0 }

end Sys2Proof.Machine
end

