-- ==== Sys2Proof/Machine/Copies.lean ====
section
/-! DEFINITION. The engines CP and DA: copies, patterns, job cards and near-memory operators (R293 to R301, R271, R442), and the
commands of the integrator field (R231 to R236). -/

namespace Sys2Proof.Machine

/-! ## Ends of a copy (R293) -/

/-- An end of a copy: a capability register with its capability, or a handle. -/
inductive CopyEnd where
  | cap (reg : Nat) (c : Cap)
  | tile (n : Nat) (h : Handle)
deriving DecidableEq, Repr
/-- The end that a kind and number name for a command (R293, R295). -/
def State.copyEnd (s : State) (c : Nat) (k : Cmd) (kind : Bool) (n : Nat) : CopyEnd :=
  if kind then .tile n (k.handle (s.sh c) n) else .cap n (tabGet {} (s.stream c k.stream).c n)
/-- The position at which an end begins. -/
def CopyEnd.start : CopyEnd → Int
  | .cap _ c => c.cur
  | .tile _ _ => 0
/-- The bytes of a handle's tile that a copy may name: its footprint (R293); of a BOUND handle those of its rows, since the header row
begins behind them (R335). -/
def copyLimit (d : Word) : Nat := if dBound d then min (dFoot d) (dRows d * dPitch d) else dFoot d
/-- The check of len bytes from position p of an end. -/
def CopyEnd.check (s : State) (c : Nat) (e : CopyEnd) (p : Int) (len : Nat) (write : Bool) : Option (Nat × Word) :=
  match e with
  | .cap reg k => (capCheck k (if write then s.writeRights c k [] else [0]) p len false).map fun x => (3, capInfo x reg false (some 4))
  | .tile n h =>
    let cause : Option CapCause :=
      if !dValid h.desc then some .tag
      else if write && dBound h.desc then some .rights
      else if p < 0 ∨ (copyLimit h.desc : Int) < p + len then some .bounds
      else none
    cause.map fun x => (3, handleInfo x n (some 4))
/-- Reads len bytes of an end. -/
def State.endRead (s : State) (c : Nat) (e : CopyEnd) (p : Int) (len : Nat) : Except EngStop (List Byte × State) :=
  match e with
  | .cap reg k => s.engRead c 4 reg k ((List.range len).map fun (i : Nat) => p + (i : Int))
  | .tile _ h => .ok (s.tileRead c h p.toNat len, s)
/-- Writes bytes to an end. -/
def State.endWrite (s : State) (c : Nat) (e : CopyEnd) (p : Int) (bs : List Byte) : Except EngStop State :=
  match e with
  | .cap reg k => s.engWrite c 4 reg k p bs
  | .tile _ h => .ok (s.tileWrite c h p.toNat bs)
/-- Moves len bytes from one end to another. -/
def State.moveBytes (s : State) (c : Nat) (src dst : CopyEnd) (p q : Int) (len : Nat) : Except EngStop State :=
  match s.endRead c src p len with
  | .error x => .error x
  | .ok (bs, s) => s.endWrite c dst q bs
/-- The address modulo 32 of position p of an end: sectors of its storage. -/
def CopyEnd.phase (e : CopyEnd) (p : Int) : Nat :=
  match e with
  | .cap _ c => c.byte p % 32
  | .tile _ _ => p.toNat % 32
/-- The tag of a command to CP. -/
def cmdTag : Instr → Nat
  | .copy _ t _ _ _ _ _ => t.toNat
  | .copyp _ t _ => t.toNat
  | .job _ t _ => t.toNat
  | .near _ t _ => t.toNat
  | _ => 0
/-- A command of CP finishes: its tag completes and its completion posts. -/
def State.finishTag (s : State) (c : Nat) (k : Cmd) : State := (s.modSh c fun x => x.tagFinish (cmdTag k.ins)).finishCommand c 4
/-- The flags of a command of CP reach STATUS of the stream that issued it as its tag completes (R301, log 115). -/
def State.tagFlags (s : State) (c : Nat) (k : Cmd) (fl : Flags) : State :=
  if fl = 0 then s else s.modCore c fun z => { z with flight := z.flight ++ [{ stream := k.stream, flags := fl, left := 1, id := s.seq }] }
/-- A card finishes: its completion is a release, for which CACHE is written back (R271). -/
def State.finishJob (s : State) (c : Nat) (k : Cmd) (fl : Flags) : State := ((s.writeBackAll c 0).finishTag c k).tagFlags c k fl

/-! ## COPY (R293) -/

/-- The ends and positions of a COPY: source, destination, and where each begins. -/
def State.copyEnds (s : State) (c : Nat) (k : Cmd) (dk sk : Bool) (dst src : Nat) : CopyEnd × CopyEnd × Int × Int :=
  let w := k.src.toNat
  let a := s.copyEnd c k sk src
  let b := s.copyEnd c k dk dst
  (a, b, a.start + (32 * slice w 32 16 : Nat), b.start + (32 * slice w 48 16 : Nat))
def State.startCopy (s : State) (c : Nat) (k : Cmd) (dk sk : Bool) (dst src : Nat) : Eng :=
  let x := s.copyEnds c k dk sk dst src
  let len := slice k.src.toNat 0 32
  match x.1.check s c x.2.2.1 len false with
  | some f => .fault f.1 f.2
  | none => match x.2.1.check s c x.2.2.2 len true with
    | some f => .fault f.1 f.2
    | none =>
      let caps := (match x.1 with | .cap _ y => [y] | _ => [{}]) ++ (match x.2.1 with | .cap _ y => [y] | _ => [{}])
      .go (s.modSh c fun y => y.begin 4 { cmd := k, caps, left := some 0 })
/-- The ends of a running COPY, with the capabilities read at its start. -/
def CopyEnd.withCap (e : CopyEnd) (c : Cap) : CopyEnd := match e with | .cap n _ => .cap n c | t => t
/-- One cycle of a COPY: up to its next destination sector (R471). -/
def State.advanceCopy (s : State) (c : Nat) (r : Run) (dk sk : Bool) (dst src : Nat) : Eng :=
  let x := s.copyEnds c r.cmd dk sk dst src
  let a := x.1.withCap (r.caps.getD 0 {})
  let b := x.2.1.withCap (r.caps.getD 1 {})
  let w := r.cmd.src.toNat
  let p := a.start + (32 * slice w 32 16 + r.progress : Nat)
  let q := b.start + (32 * slice w 48 16 + r.progress : Nat)
  let len := slice w 0 32
  let n := min (32 - b.phase q) (len - r.progress)
  if len ≤ r.progress then .go (s.finishTag c r.cmd)
  else match s.moveBytes c a b p q n with
    | .error e => e.eng
    | .ok s =>
      if r.progress + n = len then .go (s.finishTag c r.cmd)
      else .go (s.modSh c fun y => y.setRun 4 { r with progress := r.progress + n })

/-! ## COPYP (R295, R296) -/

/-- The 64-byte record of a command to CP, from its POOL handle, or its fault (R232). -/
def State.cpRecord (s : State) (c : Nat) (k : Cmd) (hn : Nat) : Except (Nat × Word) (List Byte) :=
  let h := k.handle (s.sh c) hn
  match poolHandleFault h.desc 64 with
  | some x => .error (3, handleInfo x hn (some 4))
  | none => .ok (s.elemRead c h 64)
/-- A pattern record: width, marker queue, ends and dimensions (count, source and destination stride). -/
structure Pattern where
  width : Nat
  marker : Option Nat
  srcKind : Bool
  src : Nat
  srcOff : Nat
  dstKind : Bool
  dst : Nat
  dstOff : Nat
  dims : List (Nat × Int × Int)
deriving DecidableEq, Repr
def Pattern.ofBytes (b : List Byte) : Pattern :=
  let sw := bytesNat b 0 8
  let dw := bytesNat b 8 8
  let ct := bytesNat b 16 8
  { width := [1, 2, 4, 8, 32].getD (ct % 8) 1, marker := if ct.testBit 3 then some (slice ct 4 5) else none,
    srcKind := sw.testBit 6, src := sw % 64, srcOff := sw / 2 ^ 32, dstKind := dw.testBit 6, dst := dw % 64, dstOff := dw / 2 ^ 32,
    dims := (List.range 4).map fun d =>
      let v := bytesNat b (24 + 10 * d) 10
      (v % 2 ^ 16, sext 32 (slice v 16 32), sext 32 (slice v 48 32)) }
def patternLegal (b : List Byte) : Bool :=
  let sw := bytesNat b 0 8
  let dw := bytesNat b 8 8
  let ct := bytesNat b 16 8
  slice sw 7 25 == 0 && slice dw 7 25 == 0 && ct / 512 == 0 && ct % 8 ≤ 4 && (sw.testBit 6 || sw % 64 < 32) &&
    (dw.testBit 6 || dw % 64 < 32)
/-- Elements of a pattern. -/
def Pattern.count (p : Pattern) : Nat := p.dims.foldl (fun n d => n * d.1) 1
/-- The offset of element n at the source (false) or destination: dimension 0 innermost. -/
def Pattern.offset (p : Pattern) (n : Nat) (dst : Bool) : Int :=
  (p.dims.foldl (fun (a : Nat × Int) d =>
    (a.1 / d.1, a.2 + (a.1 % d.1 : Nat) * (if dst then d.2.2 else d.2.1))) (n, (if dst then p.dstOff else p.srcOff : Nat))).2
/-- COPYP at its start: its record, and the capability registers that CP may name in it (R295, log 83). -/
def State.startCopyp (s : State) (c : Nat) (k : Cmd) (hn : Nat) : Eng :=
  match s.cpRecord c k hn with
  | .error f => .fault f.1 f.2
  | .ok b =>
    let p := Pattern.ofBytes b
    let capOf (kind : Bool) (n : Nat) : Cap := if kind then {} else tabGet {} (s.stream c k.stream).c n
    if !patternLegal b then cmdIllegal 0x9F 4
    else if 4 ≤ k.stream ∧ ((!p.srcKind ∧ 8 ≤ p.src) ∨ (!p.dstKind ∧ 8 ≤ p.dst)) then
      .fault 2 (BitVec.ofNat 64 (0x2A0 + (if !p.srcKind ∧ 8 ≤ p.src then p.src else p.dst)))
    else .go (s.modSh c fun y => y.begin 4
      -- the handles that the record names are the tiles' as they stand now, whatever TFREE does to them later (R290)
      { cmd := { k with tiles := k.tiles ++ namedTiles y ((if p.srcKind then [p.src] else []) ++ if p.dstKind then [p.dst] else []) }
        data := b, caps := [capOf p.srcKind p.src, capOf p.dstKind p.dst], left := some 0 })
/-- A pattern whose elements are written pushes its end marker, once its marker queue has room (R296). -/
def State.endMarker (s : State) (c : Nat) (r : Run) : Eng :=
  let p := Pattern.ofBytes r.data
  match p.marker with
  | none => .go (s.finishCommand c 4)
  | some q =>
    if ((s.sh c).queue q).full then .wait
    else
      let v := BitVec.ofNat 256 (p.count + 2 ^ 64 * cmdTag r.cmd.ins)
      .go ((s.modSh c fun y => y.setQueue q ((y.queue q).push { val := v })).finishCommand c 4)
/-- Every element is written: the tag completes, and a pattern with a marker goes on to push it. -/
def State.patternDone (s : State) (c : Nat) (r : Run) (marker : Bool) : State :=
  if marker then s.modSh c fun y => (y.tagFinish (cmdTag r.cmd.ins)).setRun 4 { r with waiting := true }
  else s.finishTag c r.cmd
/-- One cycle of a COPYP: an element (R471), or its end. -/
def State.advanceCopyp (s : State) (c : Nat) (r : Run) : Eng :=
  let p := Pattern.ofBytes r.data
  if p.count ≤ r.progress then
    .go (s.patternDone c r p.marker.isSome)
  else
    let a := (s.copyEnd c r.cmd p.srcKind p.src).withCap (r.caps.getD 0 {})
    let b := (s.copyEnd c r.cmd p.dstKind p.dst).withCap (r.caps.getD 1 {})
    let i := a.start + p.offset r.progress false
    let j := b.start + p.offset r.progress true
    match a.check s c i p.width false with
    | some f => .fault f.1 f.2
    | none => match b.check s c j p.width true with
      | some f => .fault f.1 f.2
      | none => match s.moveBytes c a b i j p.width with
        | .error e => e.eng
        | .ok s =>
          let n := r.progress + 1
          if n < p.count then .go (s.modSh c fun y => y.setRun 4 { r with progress := n })
          else .go (s.patternDone c { r with progress := n } p.marker.isSome)

/-! ## Job cards (R300, R271, R442) -/

def jbOpk (b : List Byte) : Nat := bytesNat b 0 1
def jbPort (b : List Byte) : Nat := bytesNat b 1 1
def jbPeer (b : List Byte) : Nat := bytesNat b 2 2
def jbLen (b : List Byte) : Nat := bytesNat b 8 8
/-- Whether a card uses its read region, and its written one: copy, send, receive, all-reduce, broadcast. -/
def jbReads (b : List Byte) : Bool := jbOpk b != 2
def jbWrites (b : List Byte) : Bool := jbOpk b != 1
def cardLegal (b : List Byte) : Bool :=
  jbOpk b ≤ 4 && bytesNat b 6 2 == 0 && bytesNat b 32 32 == 0 && (jbOpk b == 0 || jbPort b ≤ 1) &&
    (jbOpk b == 0 || 3 ≤ jbOpk b || jbPeer b % 16 ≤ 3)
/-- The region that index n of a list names covers len bytes from an offset with an access (1 read, 2 write). -/
def regionFits (l : List Region) (n off len acc : Nat) : Bool :=
  match l[n]? with
  | some r => r.access.toNat / acc % 2 == 1 && off + len ≤ r.len
  | none => false
/-- The first object byte of a region. -/
def Region.first (r : Region) : Nat := r.cap.base * 64 + r.cap.cur + r.off
/-- Two regions meet. -/
def Region.meets (a b : Region) : Bool :=
  a.cap.obj == b.cap.obj && a.first < b.first + b.len && b.first < a.first + a.len
/-- Dependent cards (R271). -/
def dependent (a b : List Region) : Bool :=
  a.any fun x => b.any fun y => x.meets y && (x.access.getLsbD 1 || y.access.getLsbD 1)
/-- Whether an earlier card of the context, of a running or a saved task, on which this one depends has not completed (R271). -/
def State.earlierCard (s : State) (c : Nat) (k : Cmd) : Bool :=
  (s.cores.map Prod.snd ++ s.side.map SaveSide.core).any fun x =>
    (x.task.getD {}).ctx == (s.task c).ctx && x.task.isSome &&
      ((x.sh.engine 4).queue ++ (match (x.sh.engine 4).run with | some r => [r.cmd] | none => [])).any fun j =>
        (match j.ins with | .job _ _ _ => true | _ => false) && j.since < k.since && dependent j.foot k.foot
/-- The devices of a mask other than this one. -/
def State.otherDevices (s : State) (mask : Nat) : List Nat :=
  (List.range 8).filter fun d => mask.testBit d && d != s.boot.deviceNumber.toNat
/-- The port on which a device is a trained peer. -/
def State.portOf (s : State) (d : Nat) : Option Nat := (s.peers.find? fun p => p.2 == d).map Prod.fst
/-- The peers from which a card awaits a message: the peer of a send or receive, else every other member. -/
def State.cardPeers (s : State) (b : List Byte) : List Nat :=
  if jbOpk b = 0 then [] else if jbOpk b ≤ 2 then [jbPeer b % 16] else s.otherDevices (slice (jbPeer b) 8 8)
/-- The rights that a card needs at its start: READ of the region that it reads, WRITE of the one that it writes, and EXEC where that
lies in an object of code (R418). -/
def State.cardRights (s : State) (c : Nat) (k : Cmd) (b : List Byte) : Option CapCause :=
  let cap (n : Nat) : Cap := ((k.foot[n]?).getD {}).cap
  let reads := if jbReads b then capCheck (cap (bytesNat b 4 1)) [0] 0 0 false else none
  let out := cap (bytesNat b 5 1)
  reads.or (if jbWrites b then capCheck out (s.writeRights c out []) 0 0 false else none)
/-- JOB's checks at its start. A capability fault names register 0, since a region of the footprint list has no register number (DESIGN
CHOICE, log 143). -/
def State.startJob (s : State) (c : Nat) (k : Cmd) (hn : Nat) : Eng :=
  if s.earlierCard c k then .wait
  else match s.cpRecord c k hn with
  | .error f => .fault f.1 f.2
  | .ok b =>
    let cfg := (s.ctx (s.task c).ctx).cfg
    let ok := jbOpk b = 0 ∨ (cfg.getLsbD 27 ∧ slice (jbPeer b) 4 4 = slice cfg.toNat 28 4 ∧
      (s.otherDevices (slice (jbPeer b) 8 8)).all fun d => (s.portOf d).isSome)
    let fits := (!jbReads b || regionFits k.foot (bytesNat b 4 1) (bytesNat b 16 8) (jbLen b) 1) &&
      (!jbWrites b || regionFits k.foot (bytesNat b 5 1) (bytesNat b 24 8) (jbLen b) 2)
    if !cardLegal b then cmdIllegal 0xAB 4
    else if !ok then .fault 3 (capInfo .rights 0 false (some 4))
    else if !fits then .fault 3 (capInfo .bounds 0 false (some 4))
    else match s.cardRights c k b with
    | some cause => .fault 3 (capInfo cause 0 false (some 4))
    | none =>
      let r : Run := { cmd := k, data := b, left := some 0, iter := [], caps := [] }
      -- the start acquires what the cards before it released (R271)
      .go ((s.acquireCache c 4 0).modSh c fun y => y.begin 4 r)
/-- The capability and position of byte `off` of region n of a command. -/
def regionPlace (l : List Region) (n off : Nat) : Cap × Int :=
  match l[n]? with
  | some r => (r.cap, (r.cap.cur + r.off + off : Nat))
  | none => ({}, 0)
/-- FP32 addition of byte strings, element by element, with the flags of the sums (R300, R108); bytes that make no
whole element are dropped (log 41). -/
def addVectors : List Byte → List Byte → List Byte × Flags
  | a0 :: a1 :: a2 :: a3 :: t, b0 :: b1 :: b2 :: b3 :: u =>
    let x := epAdd (leNat [a0, a1, a2, a3]) (leNat [b0, b1, b2, b3])
    let r := addVectors t u
    (leBytes 4 x.1 ++ r.1, x.2 ||| r.2)
  | _, _ => ([], 0)
/-- Whether a card has heard every peer (R300): `run.idx` lists those it has heard. -/
def State.cardHeard (s : State) (r : Run) : Bool := (s.cardPeers (r.data.take 64)).all fun p => r.idx.contains p
/-- The end of a card that has heard every peer: the bytes received, or the outcome of the group, are written (R300). -/
def State.cardEnd (s : State) (c : Nat) (r : Run) : Eng :=
  let b := r.data.take 64
  let len := jbLen b
  let own := if jbReads b then 64 + len else 64
  let d := regionPlace r.cmd.foot (bytesNat b 5 1) (bytesNat b 24 8)
  let me := s.boot.deviceNumber.toNat
  let part (p : Nat) : List Byte :=
    if p = me then (r.data.drop 64).take len else (r.data.drop (own + len * r.idx.idxOf p)).take len
  let members := (List.range 8).filter fun p => p == me || r.idx.contains p
  let out : List Byte × Flags :=
    if jbOpk b = 2 then (r.data.drop own, 0)
    else match members with
      -- a broadcast writes the bytes of the lowest-numbered member (log 41)
      | p :: t =>
        if jbOpk b = 3 then t.foldl (fun acc q => let x := addVectors acc.1 (part q); (x.1, acc.2 ||| x.2)) (part p, 0)
        else if jbOpk b = 4 then (part p, 0) else ([], 0)
      | [] => ([], 0)
  if out.1.isEmpty then .go (s.finishJob c r.cmd 0)
  else match s.engWrite c 4 0 d.1 d.2 out.1 with
    | .error e => e.eng
    | .ok s => .go (s.finishJob c r.cmd out.2)

/-- One cycle of a card: a copy moves to its next destination sector; the others read their data, 32 bytes a cycle, then send it,
and wait for their peers, if their group names any, before they end. `run.data` holds the card and then the bytes read. -/
def State.advanceJob (s : State) (c : Nat) (r : Run) : Eng :=
  let b := r.data.take 64
  let len := jbLen b
  let foot := r.cmd.foot
  let a := regionPlace foot (bytesNat b 4 1) (bytesNat b 16 8 + r.progress)
  let d := regionPlace foot (bytesNat b 5 1) (bytesNat b 24 8 + r.progress)
  if jbOpk b = 0 then
    let n := min (32 - d.1.byte d.2 % 32) (len - r.progress)
    if len ≤ r.progress then .go (s.finishJob c r.cmd 0)
    else match s.moveBytes c (.cap 0 a.1) (.cap 0 d.1) a.2 d.2 n with
      | .error e => e.eng
      | .ok s =>
        if r.progress + n = len then .go (s.finishJob c r.cmd 0)
        else .go (s.modSh c fun y => y.setRun 4 { r with progress := r.progress + n })
  else if jbReads b ∧ r.progress < len then
    let n := min 32 (len - r.progress)
    match s.endRead c (.cap 0 a.1) a.2 n with
    | .error e => e.eng
    | .ok (bs, s) => .go (s.modSh c fun y => y.setRun 4 { r with progress := r.progress + n, data := r.data ++ bs })
  else if !r.waiting then
    let out := r.data.drop 64
    let ports := if jbOpk b = 2 then [] else if jbOpk b = 1 then [jbPort b] else (s.cardPeers b).filterMap s.portOf
    let s : State := { s with sent := s.sent ++ ports.map fun p => (p, out) }
    .go (s.modSh c fun y => y.setRun 4 { r with waiting := true })
  else if s.cardHeard r then s.cardEnd c r
  else .wait
/-- A message of a peer joins a waiting card (R300): the bytes received follow the card's own in `run.data`. -/
def Run.hear (r : Run) (peer : Nat) (data : List Byte) : Run :=
  let b := r.data.take 64
  { r with idx := r.idx ++ [peer], data := r.data ++ (if 2 ≤ jbOpk b then data.take (jbLen b) else []) }
/-! ## Near-memory operators (R301) -/

def nrOp (b : List Byte) : Nat := bytesNat b 0 1
def nrParam (b : List Byte) : Nat := bytesNat b 3 1
def nrCnt (b : List Byte) : Nat := bytesNat b 16 8
def nearLegal (b : List Byte) : Bool :=
  nrOp b ≤ 5 && bytesNat b 1 1 < 32 && bytesNat b 2 1 < 32 && bytesNat b 4 4 == 0 && bytesNat b 32 32 == 0 &&
    (match nrOp b with | 4 => 1 ≤ nrParam b && nrParam b ≤ 64 | 3 => nrParam b ≤ 7 | _ => nrParam b == 0)
/-- Bytes of a source element, and bytes written. -/
def nrElem (b : List Byte) : Nat := match nrOp b with | 1 => 8 | 3 => 1 | _ => 4
def nrOut (b : List Byte) : Nat :=
  match nrOp b with | 0 => 4 | 1 => 8 | 2 => 4 * nrCnt b | 3 => 1024 | 4 => 8 * nrParam b | _ => 4 * nrCnt b
/-- NEAR's checks at its start: those of R273 for both operands, then host memory under either (DESIGN CHOICE, log 141). -/
def State.startNear (s : State) (c : Nat) (k : Cmd) (hn : Nat) : Eng :=
  match s.cpRecord c k hn with
  | .error f => .fault f.1 f.2
  | .ok b =>
    let cs := (s.stream c k.stream).c
    let sc := bytesNat b 1 1
    let dc := bytesNat b 2 1
    let a := tabGet ({} : Cap) cs sc
    let d := tabGet ({} : Cap) cs dc
    let host (x : Cap) : Bool := match s.descr (s.task c).ctx x.obj with | some y => descHost y | none => false
    if !nearLegal b then cmdIllegal 0xAC 4
    else if 4 ≤ k.stream ∧ (8 ≤ sc ∨ 8 ≤ dc) then .fault 2 (BitVec.ofNat 64 (0x2A0 + (if 8 ≤ sc then sc else dc)))
    else match capCheck a [0] (a.cur + bytesNat b 8 8 : Nat) (nrElem b * nrCnt b) false with
    | some x => .fault 3 (capInfo x sc false (some 4))
    | none => match capCheck d (s.writeRights c d []) (d.cur + bytesNat b 24 8 : Nat) (nrOut b) false with
      | some x => .fault 3 (capInfo x dc false (some 4))
      | none =>
        if host a then .fault 3 (capInfo .rights sc false (some 4))
        else if host d then .fault 3 (capInfo .rights dc false (some 4))
        else .go (s.modSh c fun y => y.begin 4 { cmd := k, data := b, caps := [a, d], waiting := true })
/-- Bytes of the fabric's own reads and writes, at their home slices. -/
def State.nearRead (s : State) (c reg : Nat) (cap : Cap) (p : Int) (n : Nat) : Except EngStop (List Byte × State) :=
  match s.engAddr c 4 reg cap false ((List.range n).map fun (i : Nat) => cap.byte (p + (i : Int))) with
  | .error x => .error x
  | .ok (l, s) => match s.poisoned c 4 l with
    | some q => .error (.fault 9 (poisonInfo q))
    | none => .ok (s.coreRead c 4 l)
def State.nearWrite (s : State) (c reg : Nat) (cap : Cap) (p : Int) (bs : List Byte) : Except EngStop State :=
  match s.engAddr c 4 reg cap true ((List.range bs.length).map fun (i : Nat) => cap.byte (p + (i : Int))) with
  | .error x => .error x
  | .ok (l, s) => .ok (s.coreWrite c 4 ((l.zip bs).map fun x => (x.1.1, x.1.2, x.2)))
/-- Values of w bytes each. -/
def chunk (w : Nat) : Nat → List Byte → List Nat
  | 0, _ => []
  | n + 1, l => leNat (l.take w) :: chunk w n (l.drop w)
/-- The elements of the next part of a source: up to the next 4 KiB boundary of the object, one that straddles it included (DESIGN
CHOICE, log 141). -/
def nearPart (a : Cap) (b : List Byte) (done : Nat) : Nat :=
  let w := nrElem b
  let first := a.byte (a.cur + bytesNat b 8 8 + w * done : Nat)
  let left := nrCnt b - done
  min left (max 1 ((4096 - first % 4096 + w - 1) / w))
/-- A running value with a flag: sums of FP32 and of .i64. -/
def nearSum (op : Nat) (xs : List Nat) (start : Nat) : Nat × Flags :=
  xs.foldl (fun (r : Nat × Flags) x =>
    if op = 0 then epStep epAdd r x else ((r.1 + x) % 2 ^ 64, r.2)) (start, 0)
/-- Order of Top-k: greater first, NaN below −∞, the lower index first among equals. -/
def topBefore (x y : Nat × Nat) : Bool :=
  let a := v32 x.2
  let b := v32 y.2
  if a.isNan then b.isNan && x.1 < y.1
  else if b.isNan then true
  else if ltVal b a then true else if ltVal a b then false else x.1 < y.1
/-- Inserts a candidate into a list in order of Top-k. -/
def topInsert (x : Nat × Nat) : List (Nat × Nat) → List (Nat × Nat)
  | [] => [x]
  | y :: t => if topBefore x y then x :: y :: t else y :: topInsert x t
/-- The bytes of free values where an operator's result has an element the spec does not state. -/
def State.freeBytes (s : State) : Nat → List Byte × State
  | 0 => ([], s)
  | n + 1 =>
    let f := s.takeFree
    let r := State.freeBytes f.2 n
    (leBytes 8 f.1.toNat ++ r.1, r.2)
/-- The part that begins at element `run.progress` (R301): partial results gather in `run.data` behind the record; operators 2
and 5 write as they go. -/
def State.nearStep (s : State) (c : Nat) (r : Run) : Eng :=
  let b := r.data.take 64
  let acc := r.data.drop 64
  let a := r.caps.getD 0 {}
  let d := r.caps.getD 1 {}
  let sc := bytesNat b 1 1
  let dc := bytesNat b 2 1
  let w := nrElem b
  let n := nearPart a b r.progress
  let dst : Int := (d.cur + bytesNat b 24 8 : Nat)
  match s.nearRead c sc a (a.cur + bytesNat b 8 8 + w * r.progress : Nat) (w * n) with
  | .error e => e.eng
  | .ok (bs, s) =>
    let xs := chunk w n bs
    let keep (s : State) (data : List Byte) (fl : Flags) : Eng :=
      .go (s.modSh c fun y => y.setRun 4 { r with progress := r.progress + n, data := b ++ data, flags := r.flags ||| fl })
    match nrOp b with
    | 2 =>
      let win : Int := 0
      match (xs.findSome? fun j => capCheck d [] (4 * j : Nat) 4 false) with
      | some x => .fault 3 (capInfo x dc false (some 4))
      | none =>
        match xs.foldl (fun (q : Except EngStop (List Byte × State)) j => match q with
          | .error e => .error e
          | .ok (l, s) => match s.nearRead c dc d (win + (4 * j : Nat)) 4 with
            | .error e => .error e
            | .ok (v, s) => .ok (l ++ v, s)) (.ok ([], s)) with
        | .error e => e.eng
        | .ok (l, s) => match s.nearWrite c dc d (dst + (4 * r.progress : Nat)) l with
          | .error e => e.eng
          | .ok s => keep s acc 0
    | 3 =>
      let counts := (List.range 256).map fun v =>
        leNat ((acc.drop (4 * v)).take 4) + (xs.filter fun x => x / 2 ^ nrParam b == v).length
      keep s (counts.flatMap fun v => leBytes 4 v) 0
    | 4 =>
      let old := (List.range (acc.length / 8)).map fun i => (leNat ((acc.drop (8 * i)).take 4), leNat ((acc.drop (8 * i + 4)).take 4))
      let all := ((List.range n).zip xs).foldl (fun l x => (topInsert (r.progress + x.1, x.2) l).take (nrParam b)) old
      keep s (all.flatMap fun x => leBytes 4 x.1 ++ leBytes 4 x.2) 0
    | 5 =>
      match s.nearRead c dc d (dst + (4 * r.progress : Nat)) (4 * n) with
      | .error e => e.eng
      | .ok (ds, s) =>
        let rs := (chunk 4 n ds).zipWith epAdd xs
        match s.nearWrite c dc d (dst + (4 * r.progress : Nat)) (rs.flatMap fun x => leBytes 4 x.1) with
        | .error e => e.eng
        | .ok s => keep s acc (orFlags (rs.map Prod.snd))
    | op =>
      let p := nearSum op xs 0
      keep s (acc ++ leBytes w p.1) p.2
/-- The end of an operator: partial sums are combined in ascending order, and the result is written. -/
def State.nearEnd (s : State) (c : Nat) (r : Run) : Eng :=
  let b := r.data.take 64
  let acc := r.data.drop 64
  let d := r.caps.getD 1 {}
  let dst : Int := (d.cur + bytesNat b 24 8 : Nat)
  let w := nrElem b
  let parts := chunk w (acc.length / w) acc
  let sum := match parts with | [] => (0, 0) | p :: t => nearSum (nrOp b) t p
  let out : List Byte × State := match nrOp b with
    | 2 => ([], s)
    | 3 => (acc ++ List.replicate (1024 - acc.length) 0, s)
    | 4 => let f := s.freeBytes ((8 * nrParam b - acc.length) / 8); (acc ++ f.1, f.2)
    | 5 => ([], s)
    | _ => (leBytes w sum.1, s)
  match out.2.nearWrite c (bytesNat b 2 1) d dst out.1 with
  | .error e => e.eng
  | .ok s => .go ((s.finishTag c r.cmd).tagFlags c r.cmd (r.flags ||| sum.2))

/-! ## Commands of the integrator field (R231 to R236) -/

/-- R232's checks of a command to DA. -/
def daHandle (h : Handle) (hn n : Nat) : Option (Nat × Word) := (poolHandleFault h.desc n).map fun x => (3, handleInfo x hn (some 5))
/-- A record loaded by PATCH with KEEP: DX, DY, DOM and NS from the new record. -/
def patchKeep (old new : Vec) : Vec :=
  let m : Vec := BitVec.ofNat 256 ((2 ^ 128 - 1) * 2 ^ 128 + 127 * 2 ^ 64)
  (new &&& m) ||| (old &&& ~~~m)
/-- The field with m records loaded from cell f on (R233). -/
def Dda.patched (g : Dda) (f m : Nat) (keep : Bool) (bs : List Byte) : Dda :=
  (List.range m).foldl (fun g i =>
    let v : Vec := BitVec.ofNat 256 (leNat ((bs.drop (32 * i)).take 32))
    g.setCell (f + i) (if keep then patchKeep (g.cell (f + i)) v else v)) g
/-- PATCH at its start: the checks of R233, in the order of log 127, RUN among them (log 128), and its records. -/
def State.startPatch (s : State) (c : Nat) (k : Cmd) (hn : Nat) (keep : Bool) : Eng :=
  let w := slice k.src.toNat 0 64
  let f := slice w 0 8
  let m := slice w 8 9
  let h := k.handle (s.sh c) hn
  if w / 2 ^ 17 ≠ 0 ∨ m = 0 ∨ 256 < m ∨ 256 < f + m then cmdIllegal 0x80 5
  else match daHandle h hn (32 * m) with
    | some x => .fault x.1 x.2
    | none =>
      let bs := s.elemRead c h (32 * m)
      let old := (s.sh c).dda
      let new := old.patched f m keep bs
      let loaded := (List.range m).map fun i => BitVec.ofNat 256 (leNat ((bs.drop (32 * i)).take 32))
      let moving := (List.range m).any fun i =>
        (old.dom (cellDom (old.cell (f + i)))).run || (old.dom (cellDom (new.cell (f + i)))).run
      if loaded.any (fun v => !recordLegal v) ∨ !new.inputsLegal ∨ moving then cmdIllegal 0x80 5
      else .go (s.modSh c fun x => x.begin 5 { cmd := k, data := bs, left := some (m + 3) })
/-- CELLW at its start (R234). -/
def State.startCellw (s : State) (c : Nat) (k : Cmd) (item : Nat) : Eng :=
  let v := slice k.src.toNat 0 64
  if (item = 2 ∧ (v < 8 ∨ 31 < v)) ∨ (item = 4 ∧ v % 4 = 2) then cmdIllegal 0x81 5
  else .go (s.modSh c fun x => x.begin 5 { cmd := k, left := some 1 })
/-- The field that CELLW writes. -/
def Dda.cellWrite (g : Dda) (cell item v : Nat) : Dda :=
  g.setCell cell (match item with
    | 0 => cellPut (g.cell cell) 0 32 v
    | 1 => cellPut (g.cell cell) 32 32 v
    | 2 => cellPut (g.cell cell) 64 5 (v - 8 : Nat)
    | 3 => cellPut (g.cell cell) 96 32 v
    | _ => cellPut (g.cell cell) 72 2 (v % 4 : Nat))
/-- STEPDOM (R235): done in its start cycle. -/
def State.startStepdom (s : State) (c : Nat) (k : Cmd) (d kind : Nat) : Eng :=
  let v := slice k.src.toNat 0 64
  let divm := slice v 0 16
  let st := slice v 16 6
  let x := (s.sh c).dda.dom d
  if x.run ∨ v / 2 ^ 22 ≠ 0 ∨ ((kind = 0 ∨ kind = 3) ∧ divm ≠ 0) ∨ (kind ≠ 3 ∧ st ≠ 0) then cmdIllegal 0x83 5
  else if kind = 3 ∧ !(s.ctx (s.task c).ctx).sread.getLsbD st then .fault 3 (capInfo .rights 0 false (some 5) 3 st)
  else
    let y := s.sensor st
    let n : Domain := { kind, stream := st, divm, taps := x.taps,
                        rowNum := if kind = 3 then y.row else x.rowNum, rowFrm := if kind = 3 then y.frame else x.rowFrm }
    s.atOnce c 5 k fun z => { z with dda := z.dda.setDom d n }
def State.startDasave (s : State) (c : Nat) (k : Cmd) (hn : Nat) : Eng :=
  match daHandle (k.handle (s.sh c) hn) hn 8448 with
  | some x => .fault x.1 x.2
  | none => .go (s.modSh c fun x => x.begin 5 { cmd := k, data := (s.soc c).dda.image, left := some 263 })
/-- DALOAD at its start: RUN of every domain, the handle, then the image (R236, log 127). -/
def State.startDaload (s : State) (c : Nat) (k : Cmd) (hn : Nat) : Eng :=
  let h := k.handle (s.sh c) hn
  let g := (s.sh c).dda
  if [0, 1, 2, 3].any fun d => (g.dom d).run then cmdIllegal 0x87 5
  else match daHandle h hn 8448 with
    | some x => .fault x.1 x.2
    | none =>
      let bs := s.elemRead c h 8448
      if !(Dda.ofImage bs).2 then cmdIllegal 0x87 5
      else .go (s.modSh c fun x => x.begin 5 { cmd := k, data := bs, left := some 263 })
/-- The row catch-up of DALOAD (R236) and of a restore (R483); the row taps count the rows too (log 55). -/
def State.catchUp (s : State) (g : Dda) : Dda :=
  [0, 1, 2, 3].foldl (fun (g : Dda) d =>
    let x := g.dom d
    let y := s.sensor x.stream
    let gap := (y.frame - x.rowFrm).toNat
    if x.kind = 3 ∧ ((1 ≤ gap ∧ gap < 2 ^ 31) ∨ (gap = 0 ∧ x.rowNum.toNat < y.row.toNat)) then
      -- a negative number of rows lowers PEND and the counts, to 0 at the least (log 131)
      let rows : Int := gap * y.rpf + y.row.toNat - x.rowNum.toNat
      let g := g.setDom d { x with rowFrm := y.frame, rowNum := y.row, taps := x.taps.map fun (n : Nat) => ((n : Int) + rows).toNat,
                                   pend := if rows < 0 then ((x.pend : Int) + rows).toNat else x.pend }
      g.trigger d rows.toNat
    else g) g
/-- Cells of a core's field that are written whole are poisoned no longer (R466). -/
def State.healCells (s : State) (c : Nat) (p : Nat → Bool) : State :=
  s.heal fun m => match m with
    | .cell d n => d == c && p n
    | _ => false
/-- The end of a command of DA (R233, R234, R236). -/
def State.finishDa (s : State) (c : Nat) (r : Run) : State :=
  let put (f : Dda → Dda) : State := (s.modSh c fun x => { x with dda := f x.dda }).finishCommand c 5
  match r.cmd.ins with
  | .patch _ _ _ keep =>
    let w := r.cmd.src.toNat
    (put fun g => g.patched (slice w 0 8) (slice w 8 9) (keep == 1) r.data).healCells c fun n =>
      slice w 0 8 ≤ n && n < slice w 0 8 + slice w 8 9
  | .cellw _ _ item cell => put fun g => g.cellWrite cell.toNat item.toNat (slice r.cmd.src.toNat 0 64)
  | .dasave _ hn => (s.elemWrite c (r.cmd.handle (s.sh c) hn.toNat) r.data).finishCommand c 5
  | .daload _ _ => (put fun g => s.catchUp ((Dda.ofImage r.data).1.withTaps g)).healCells c fun _ => true
  | _ => s.finishCommand c 5

end Sys2Proof.Machine
end

