-- ==== Sys2Proof/Machine/Poison.lean ====
section
/-! DEFINITION. Poisoned words (R464 to R466): where an uncorrectable error stands marked, what consumes it, and the soft error that a
unit raises then. Marks go where their words are overwritten, in the operations that write them. -/

namespace Sys2Proof.Machine

/-! ## FF_INFO of a soft error -/

/-- FF_INFO of a soft error (R452). -/
def softInfo (store number : Nat) (commit : Bool) : Word := BitVec.ofNat 64 (store % 16 + number % 256 * 256 + b2n commit * 65536)
/-- The byte of SCR at which a POOL tile begins, the tiles one after another in ascending order (log 19). -/
def Shared.tileBegin (x : Shared) (t : Nat) : Nat := (x.tiles.filter fun k => k.1 < t && !k.2.tstore).foldl (fun n k => n + k.2.foot) 0
/-- Store code and number of a mark's word (R464, R452): a bank of the pool, a slice of the deck, a tile or ring slot of the tile store,
a cell (log 28). -/
def State.markInfo (s : State) : Mark → Word
  | .vreg c st n => softInfo 0 (((st * (s.task c).vregs + n) * 32) / 32768) false
  | .mat c w => let p := (s.sh c).pool; softInfo 0 (p.reg + p.scr + 8 * w / 32768) false
  | .deck _ w => softInfo 1 (8 * w / 49152) false
  | .tile c t w =>
    let x := s.sh c
    if (x.tile t).tstore then softInfo 3 t false else softInfo 0 (x.pool.reg + (x.tileBegin t + 8 * w) / 32768) false
  | .ringTile _ slot _ => softInfo 3 slot false
  | .cell _ n => softInfo 5 n false

/-! ## Marking (R465, R466) -/

/-- The mark that a scrub's find names: its kind in 4 bits, then 7, 16 and the remaining bits of its place (log 28). -/
def markOf (p : Nat) : Option Mark :=
  let a := p / 2 ^ 4 % 2 ^ 7
  let b := p / 2 ^ 11 % 2 ^ 16
  let w := p / 2 ^ 27
  match p % 16 with
  | 1 => some (.vreg a (b % 4) (w % 384))
  | 2 => some (.mat a w)
  | 3 => some (.deck a w)
  | 4 => some (.tile a b w)
  | 5 => some (.ringTile a b w)
  | 6 => some (.cell a (w % 256))
  | _ => none
/-- A queue register's entry is struck: its parity error shows when it is popped. -/
def Queue.strike (q : Queue) (i : Nat) : Queue :=
  { q with ents := q.ents.zipIdx.map fun e => if e.2 = i then { e.1 with bad := true } else e.1 }
/-- An uncorrectable error is found: its word is marked, and nothing else happens. Kind 0 is none, 7 an entry of a queue register, 8 and 9
a sector of L2 and of device memory. -/
def State.markBad (s : State) (p : Nat) : State :=
  let a := p / 2 ^ 4 % 2 ^ 7
  match p % 16 with
  | 7 => s.modSh a fun x => let q := p / 2 ^ 11 % 32; x.setQueue q ((x.queue q).strike (p / 2 ^ 27))
  | 8 => { s with poison := s.poison ++ [(2, p / 2 ^ 11)] }
  | 9 => { s with poison := s.poison ++ [(6, p / 2 ^ 11)] }
  | _ => match markOf p with
    | some m => { s with marks := s.marks.filter (· ≠ m) ++ [m] }
    | none => s

/-! ## Consuming (R466) -/

/-- The first mark that a test finds, as FF_INFO. -/
def State.findMark (s : State) (p : Mark → Bool) : Option Word := (s.marks.find? p).map s.markInfo
/-- Whether word w of a store meets bytes off to off + n - 1. -/
def meetsWord (w off n : Nat) : Bool := 8 * w < off + n && off < 8 * w + 8
/-- Whether a mark stands in bytes of a handle's tile. -/
def Mark.inTile (c : Nat) (h : Handle) (meets : Nat → Bool) : Mark → Bool
  | .tile d t w => h.bound.isNone && d == c && t == h.tile && meets w
  | .ringTile n slot w => (h.bound.any fun t => t.stream == n && t.slot == slot) && meets w
  | _ => false
/-- The poison that bytes of a handle's tile hold, and that its first n elements' bytes hold. -/
def State.tileBad (s : State) (c : Nat) (h : Handle) (off n : Nat) : Option Word := s.findMark (Mark.inTile c h fun w => meetsWord w off n)
def State.elemBad (s : State) (c : Nat) (h : Handle) (n : Nat) : Option Word :=
  s.findMark (Mark.inTile c h fun w => (List.range n).any fun b => elemBit h.desc (8 * b) / 64 == w)
/-- The instructions that read the old contents of DST as an operand (R171). -/
def readsDst : Instr → Bool
  | .vfma .. | .vfms .. | .vfnma .. | .vdot4 .. | .vdot2 .. | .vsel .. | .vmerge .. | .vqnt .. => true
  | _ => false
/-- The vector registers that a word reads through its ports. -/
def readsV (t : Stream) (i : Instr) : List Nat :=
  (Encoding.operands i).flatMap fun x =>
    if x.1.isDst && !readsDst i then []
    else match x.1, Encoding.view x.2 with
      | .opt en, .v n => if en = 1 then [physV t.rrbV n] else []
      | .store w, .v n => if w = 5 then [0, 1, 2, 3].map fun j => physV t.rrbV (n + j) else [physV t.rrbV n]
      | .stt w, .v n => if w = 5 then [0, 1, 2, 3].map fun j => physV t.rrbV (n + j) else [physV t.rrbV n]
      | _, .v n => [physV t.rrbV n]
      | _, _ => []
/-- What a word reads in its issue cycle besides its ports: a cell, or the packets of a launch. -/
def State.readsBad (s : State) (c : Nat) (i : Instr) : Option Word :=
  let cell (n : Nat) : Option Word := s.findMark fun m => m == .cell c n
  match i with
  | .cellr _ _ _ n => cell n.toNat
  | .datap _ _ _ n => cell n.toNat
  | .launch _ _ h => s.elemBad c ((s.soc c).handle h.toNat) 64
  | .spec _ _ h => s.elemBad c ((s.soc c).handle h.toNat) 128
  | _ => none
/-- The queues that a word takes entries from: through its ports, or as POP. -/
def takesFrom (i : Instr) : List Nat := match i with | .pop _ q _ _ _ => q.toNat :: popsOf i | _ => popsOf i
/-- The poison that a word of a stream consumes where it issues: an entry that it pops, a register that it reads. -/
def State.wordPoison (s : State) (w : Nat × Instr) : Option Word :=
  let c := s.curCore
  let pops := takesFrom w.2
  match pops.find? fun n => (((s.sh c).queue n).ents.take (pops.filter (· = n)).length).any fun e => e.bad with
  | some n => some (softInfo 4 n false)
  | none =>
    if s.marks.isEmpty then none
    else
      let vs := readsV (s.stream c w.1) w.2
      (s.findMark fun m => match m with | .vreg d st n => d == c && st == w.1 && vs.contains n | _ => false).or (s.readsBad c w.2)
/-- Whether a word's guard holds: one that is guarded off reads nothing and pops nothing (R63). -/
def State.guardHolds (s : State) (w : Nat × Instr) : Bool :=
  match Encoding.hdr w.2 with | some h => (s.stream s.curCore w.1).guard h | none => false
/-- A word has run from s: where it has issued, poison that it consumed raises the soft error in that cycle. -/
def State.consumed (t s : State) (w : Nat × Instr) : State :=
  match s.wordPoison w with
  | some info =>
    let v := (t.stream s.curCore w.1).verdict
    if s.guardHolds w ∧ (v = .issued ∨ v = .taken) then t.takeFault s.curCore (some w.1) 9 info true else t
  | none => t

/-- Whether a K-step reads a byte of MAT or of the deck. -/
def KPlan.readsMat (p : KPlan) (tile q w : Nat) : Bool :=
  let rows := [q, q + 16, q + 32, q + 48]
  let f := fA p.e
  let lo := p.stageK * formatBits f / 8
  let hi := ((p.stageK + p.span) * formatBits f + 7) / 8
  rows.any fun m => meetsWord w (p.stage + m * stageRow f + lo) (hi - lo) || meetsWord w (tile + 256 * m) 256 ||
    (f ≤ 2 && fSclA p.e != 1 &&
      meetsWord w (p.stage + 12288 + (m / fEdge p.e) * (128 / fEdge p.e) + p.stageK / fEdge p.e) (max 1 (p.span / fEdge p.e)))
def KPlan.readsDeck (p : KPlan) (w : Nat) : Bool :=
  let lo := (p.bitB 0).toNat / 8
  let hi := ((p.bitB p.span).toNat + 7) / 8
  (List.range 64).any fun n => meetsWord w (49152 * n + lo) (hi - lo) ||
    (fB p.e ≤ 2 && fSclB p.e != 1 && meetsWord w (49152 * n + (p.scaleByteB 0).toNat) (max 1 (p.span / fEdge p.e)))
/-- The poison that the next unit of an engine's running command consumes: a row of the ring and the vectors of EP, an element or a
sector of a copy. -/
def State.unitBad (s : State) (c e : Nat) (r : Run) : Option Word :=
  if s.marks.isEmpty then none
  else
    let x := s.sh c
    let mat (p : Nat → Bool) : Option Word := s.findMark fun m => match m with | .mat d w => d == c && p w | _ => false
    match r.cmd.ins with
    | .mma .. | .mmac .. =>
      if e = 2 ∧ r.left = some 0 ∧ r.progress < r.steps then
        let slot := x.ring.slot (r.iter.getD 0 0)
        let p : KPlan := { e := (s.soc c).fmtEntry r.entry, stage := x.ring.stageAt slot, stageK := (r.iter.getD 2 0).toNat + r.progress / 16 * r.span,
                           deckBase := x.ring.deckBase, deckK := r.iter.getD 1 0 + (r.progress / 16 * r.span : Nat), span := r.span }
        (mat fun w => p.readsMat (16384 * (x.ring.hd % max 1 x.ring.d)) (r.progress % 16) w).or
          (s.findMark fun m => match m with | .deck d w => d == c && p.readsDeck w | _ => false)
      else none
    | .eprun .. =>
      let tile := 16384 * (x.ring.tl % max 1 x.ring.d)
      let vec (o : Option Nat) : Option Word := match o with
        | some h => s.tileBad c (r.cmd.handle x h) (4 * (r.iter.getD 1 0).toNat) 256
        | none => none
      ((mat fun w => meetsWord w (tile + 256 * r.progress) 256).or (vec (epBias x.epcfg))).or (vec (epScale x.epcfg))
    | .copy _ _ dk dst _ sk sn =>
      let y := s.copyEnds c r.cmd (dk == 1) (sk == 1) dst.toNat sn.toNat
      match y.1 with
      | .tile _ h => s.tileBad c h (y.2.2.1.toNat + r.progress) 32
      | _ => none
    | .copyp .. =>
      let p := Pattern.ofBytes r.data
      match s.copyEnd c r.cmd p.srcKind p.src with
      | .tile n h => s.tileBad c h ((CopyEnd.tile n h).start + p.offset r.progress false).toNat p.width
      | _ => none
    | _ => none
/-- The poison that a command consumes at its start: its record, its cells, or the field that it writes out. -/
def State.startBad (s : State) (c : Nat) (k : Cmd) : Option Word :=
  if s.marks.isEmpty then none
  else
    let h (n : BitVec 6) : Handle := k.handle (s.sh c) n.toNat
    match k.ins with
    | .copyp _ _ n => s.elemBad c (h n) 64
    | .job _ _ n => s.elemBad c (h n) 64
    | .near _ _ n => s.elemBad c (h n) 64
    | .patch _ n _ _ => s.elemBad c (h n) (32 * slice k.src.toNat 8 9)
    | .daload _ n => s.elemBad c (h n) 8448
    | .dasave .. => s.findMark fun m => match m with | .cell d _ => d == c | _ => false
    | _ => none
/-- The poisoned cell of a stepping domain, or of a domain whose increments it reads. -/
def State.cellBad (s : State) (c d : Nat) : Option Word :=
  s.findMark fun m => match m with | .cell x n => x == c && cellDom ((s.soc c).dda.cell n) == d | _ => false

end Sys2Proof.Machine
end

