-- ==== Sys2Proof/Machine/EngineEvents.lean ====
section
/-! DEFINITION. The happenings of the engines, the integrator field and the pool (R195, R132, R224, R225, R241, R296, R301, R385),
and what an engine does in one cycle. -/

namespace Sys2Proof.Machine

/-! ## Starting a command (R195, R242, R267) -/

/-- Whether a pool request that shrinks MAT holds a command back (R242). -/
def Shared.matHeld (x : Shared) : Bool := x.poolReq.pending && x.poolReq.want.mat < x.pool.mat
/-- Whether a command reads or writes objects, tiles or the pool, and so follows its stream's earlier stores (R267). -/
def touchesMemory : Instr → Bool
  | .astage .. | .deckld .. | .eprun .. | .copy .. | .copyp .. | .job .. | .near .. | .patch .. | .dasave .. | .daload .. => true
  | _ => false
/-- Whether a command is held back while MAT shrinks. -/
def usesMat : Instr → Bool
  | .astage .. | .mma .. | .mmac .. => true
  | _ => false
/-- RPOP and RDISCARD at their start (R141, R210). -/
def State.startPop (s : State) (c : Nat) (k : Cmd) : Eng :=
  let r := (s.soc c).ring
  if r.d = 0 then cmdIllegal 0x6A 3
  else if r.hd ≤ r.tl then .wait
  else s.atOnce c 3 k fun x => { x with ring := { x.ring with current := true } }
def State.startDiscard (s : State) (c : Nat) (k : Cmd) : Eng :=
  let r := (s.sh c).ring
  if (s.soc c).ring.d = 0 ∨ !r.current then cmdIllegal 0x6B 3
  else s.atOnce c 3 k fun x => { x with ring := { x.ring with tl := x.ring.tl + 1, current := false } }
/-- An EPCFG at its start (R212). -/
def State.startEpcfg (s : State) (c : Nat) (k : Cmd) (f : BitVec 96 → BitVec 96) : Eng :=
  s.atOnce c 3 k fun x => { x with epcfg := f x.epcfg }
/-- What the start of an engine's oldest command gives. -/
def State.startCmd (s : State) (c e : Nat) (k : Cmd) : Eng :=
  if touchesMemory k.ins && (s.core c).sentBefore k then .wait
  else if usesMat k.ins && (s.soc c).matHeld then .wait
  else match k.ins with
  | .go _ _ src => s.startGo c e k src
  | .astage _ cn _ _ => s.startAstage c k cn.toNat
  | .deckld _ cn _ units => s.startDeckld c k cn.toNat units.toNat
  | .decksel _ units => s.atOnce c 2 k fun x => { x with ring := { x.ring with deckBase := 32 * units.toNat } }
  | .mma _ _ _ gang kc => s.startMma c k 0x66 true gang.toNat kc.toNat
  | .mmac _ _ _ gang kc => s.startMma c k 0x67 false gang.toNat kc.toNat
  | .rpop _ => s.startPop c k
  | .rdiscard _ => s.startDiscard c k
  | .epcfgAct _ act => s.startEpcfg c k fun x => epPut x 0 3 act.toNat
  | .epcfgBias _ hn en => s.startEpcfg c k fun x => if en = 1 then epPut (epPut x 8 1 1) 9 6 hn.toNat else epPut x 8 1 0
  | .epcfgScale _ hn en => s.startEpcfg c k fun x => if en = 1 then epPut (epPut x 15 1 1) 16 6 hn.toNat else epPut x 15 1 0
  | .epcfgLo _ _ => s.startEpcfg c k fun x => epPut x 32 32 (slice k.src.toNat 0 32)
  | .epcfgHi _ _ => s.startEpcfg c k fun x => epPut x 64 32 (slice k.src.toNat 0 32)
  | .eprun _ hn => s.startEprun c k hn.toNat
  | .copy _ _ dk dst _ sk sn => s.startCopy c k (dk == 1) (sk == 1) dst.toNat sn.toNat
  | .copyp _ _ hn => s.startCopyp c k hn.toNat
  | .job _ _ hn => s.startJob c k hn.toNat
  | .near _ _ hn => s.startNear c k hn.toNat
  | .patch _ hn _ keep => s.startPatch c k hn.toNat (keep == 1)
  | .cellw _ _ item _ => s.startCellw c k item.toNat
  | .stepdom _ dom _ kind => s.startStepdom c k dom.toNat kind.toNat
  | .dasave _ hn => s.startDasave c k hn.toNat
  | .daload _ hn => s.startDaload c k hn.toNat
  | _ => .wait
/-- Whether an engine of core c may start its oldest command in this cycle: it stood free at the start of the cycle. -/
def Core.mayStart (x : Core) (e : Nat) : Bool :=
  x.tt == .run && !(x.sh.engine e).stall && (x.soc.engine e).run.isNone && (x.sh.engine e).ready (gapOf x.soc e) && !(x.soc.engine e).queue.isEmpty
/-- A command of MX stands before its next K-step. -/
def Run.kDue (r : Run) : Bool := r.left == some 0 && r.progress < r.steps
/-! ## Advancing and finishing (R195, R471) -/

/-- What the running command of an engine does next, where its cycles have passed: its next unit, row, element or step, or its
finish. -/
def State.advanceCmd (s : State) (c e : Nat) (r : Run) : Eng :=
  match r.cmd.ins with
  | .astage _ cn kn _ => s.advanceAstage c r cn.toNat (16 * (kn.toNat + 1))
  | .deckld _ cn _ units => s.advanceDeckld c r cn.toNat units.toNat
  | .mma _ close last _ _ => if r.progress < r.steps then .wait else .go (s.finishMma c r close last)
  | .mmac _ close last _ _ => if r.progress < r.steps then .wait else .go (s.finishMma c r close last)
  | .eprun _ hn => .go (s.advanceEprun c r hn.toNat)
  | .copy _ _ dk dst _ sk sn => s.advanceCopy c r (dk == 1) (sk == 1) dst.toNat sn.toNat
  | .copyp _ _ _ => if r.waiting then .wait else s.advanceCopyp c r
  | .job _ _ _ => s.advanceJob c r
  | .near _ _ _ => .wait
  | _ => if e = 5 then .go (s.finishDa c r) else .wait
/-- The end of a cycle's work: a command of MX whose last K-step has taken its cycles finishes. -/
def State.engineFinish (s : State) (c e : Nat) : State :=
  match ((s.sh c).engine e).run with
  | none => s
  | some r => if r.left ≠ some 0 then s
    else match s.advanceCmd c e r with
      | .go t => if (((t.sh c).engine e).run).isNone then t else s
      | _ => s
def execEngineCommandFinish (core eng : Nat) (s : State) : Host.Outcome State Fault Refusal := answer (s.engineFinish core eng)

/-- The running command's cycle where `left` has come to 0: a unit of work here, its finish as a happening of its own. -/
def State.advanceEngine (s : State) (c e : Nat) (r : Run) : State :=
  let s := match r.cmd.ins with | .astage .. => s.claimSlot c r | _ => s
  let r := (((s.sh c).engine e).run).getD r
  match s.unitBad c e r with
  | some info => if e = 2 ∧ (s.core c).tt ≠ .run then s else s.runFault c e r.cmd 9 info
  | none =>
  if e = 2 ∧ r.kDue then (if (s.core c).tt = .run then { s with due := s.due ++ [.kStep c] } else s)
  else match s.advanceCmd c e r with
    | .wait => match r.cmd.ins with
      | .copyp _ _ _ => if r.waiting then { s with due := s.due ++ [.copypEndMarker c] } else s
      | _ => s
    | .stall => s.noteStall (.engine c e)
    | .fault cls info => s.runFault c e r.cmd cls info
    | .go t =>
      match ((t.sh c).engine e).run with
      | none => { s with due := s.due ++ [.engineCommandFinish c e] }
      | some q => if q.waiting && !r.waiting && e == 4 then { t with due := t.due ++ [.copypEndMarker c] } else t
/-- ENGINE_COMMAND_START (R195): the oldest command starts, waits, or raises its fault and stays queued. Its start cycle is its
first, in which it does its first unit of work. -/
def State.engineStart (s : State) (c e : Nat) : State :=
  let x := s.core c
  if !x.mayStart e then s
  else match (x.sh.engine e).queue with
    | [] => s
    | k :: _ => match (match s.startBad c k with | some info => Eng.fault 9 info | none => s.startCmd c e k) with
      | .wait => s
      | .stall => s.noteStall (.engine c e)
      | .fault cls info => s.engFault c k cls info
      | .go t => match ((t.sh c).engine e).run with
        | some r => if r.left = some 0 then t.advanceEngine c e r else t
        | none => t
def execEngineCommandStart (core eng : Nat) (s : State) : Host.Outcome State Fault Refusal := answer (s.engineStart core eng)
/-- One cycle of the engine's running command; a replayed one does nothing (R461). -/
def State.tickEngine (s : State) (c e : Nat) : State :=
  if ((s.sh c).engine e).stall then s
  else match ((s.sh c).engine e).run with
  | none => s
  | some r => match r.left with
    | none => s
    | some 0 => s.advanceEngine c e r
    | some (n + 1) =>
      let r := { r with left := some n }
      let s := s.modSh c fun x => x.setRun e r
      if n = 0 then s.advanceEngine c e r else s

/-- K_STEP (R132): the command's next K-step, where its waits are over; a last one of one cycle finishes at once. -/
def State.kStepNow (s : State) (c : Nat) : State :=
  match ((s.sh c).engine 2).run with
  | none => s
  | some r => if !r.kDue then s
    else
      let o := match r.cmd.ins with
        | .mma _ _ _ gang _ => s.kStep c r 0x66 true gang.toNat
        | .mmac _ _ _ gang _ => s.kStep c r 0x67 false gang.toNat
        | _ => .wait
      match o with
      | .wait | .stall => s
      | .fault cls info => s.runFault c 2 r.cmd cls info
      | .go t => match ((t.sh c).engine 2).run with
        | some q => if q.left = some 0 ∧ q.steps ≤ q.progress then { t with due := t.due ++ [.engineCommandFinish c 2] } else t
        | none => t
def execKStep (core : Nat) (s : State) : Host.Outcome State Fault Refusal := answer (s.kStepNow core)

/-- COPYP_END_MARKER (R296). -/
def State.markerNow (s : State) (c : Nat) : State :=
  match ((s.sh c).engine 4).run with
  | none => s
  | some r => match r.cmd.ins with
    | .copyp _ _ _ => if !r.waiting then s
      else match s.endMarker c r with | .go t => t | _ => s
    | _ => s
def execCopypEndMarker (core : Nat) (s : State) : Host.Outcome State Fault Refusal := answer (s.markerNow core)

/-- NEAR_PART_DONE (R301): the fabric has worked through the next 4 KiB part of a source; after the last the result is written. -/
def State.nearPart (s : State) (c : Nat) : State :=
  match ((s.sh c).engine 4).run with
  | none => s
  | some r => match r.cmd.ins with
    | .near _ _ _ => if r.failed then s else
      let o := if nrCnt (r.data.take 64) ≤ r.progress then s.nearEnd c r else s.nearStep c r
      match o with
      | .wait => s
      | .stall => s.noteStall (.engine c 4)
      | .fault cls info => s.runFault c 4 r.cmd cls info
      | .go t => t
    | _ => s
/-- Whether an engine with a command in progress goes on while the core is stopped or saved (R450, R470, R471): DA commands, JOB and
NEAR to their ends, and a K-step under way to its own. -/
def Run.goesOn (e : Nat) (r : Run) : Bool :=
  e == 5 || (e == 4 && match r.cmd.ins with | .job .. => true | .near .. => true | _ => false) ||
    (e == 2 && (match r.left with | some (_ + 1) => true | _ => false))
/-- Whether an engine's clock runs: a command that a restore brought into AUTUMN or WINTER waits for the wake (R384). -/
def Engine.awake (g : Engine) : Bool := g.season == .summer && g.wake == 0
/-- Whether the running command of an engine takes a cycle. -/
def Core.engineGoes (x : Core) (e : Nat) : Bool :=
  (x.sh.engine e).awake && match (x.sh.engine e).run with
    | some r => !r.failed && (x.tt == .run || r.goesOn e)
    | none => false
/-- An engine whose access stalled at a migrating page makes its attempt again, now that the page has moved (R430). -/
def State.serveEngine (s : State) (c e : Nat) : State :=
  match ((s.core c).sh.engine e).run with
  | none => s.engineStart c e
  | some r => match r.cmd.ins with
    | .near _ _ _ => if [TtState.run, TtState.faulted, TtState.save].contains (s.core c).tt then s.nearPart c else s
    | _ => if (s.core c).engineGoes e && r.left == some 0 then s.advanceEngine c e r else s
def execNearPartDone (core : Nat) (s : State) : Host.Outcome State Fault Refusal := answer (s.nearPart core)

/-! ## Peers of the Taloth link (R300, R442) -/

/-- The lowest core whose running card awaits a message of a peer and has not heard it. -/
def State.awaitingCard (s : State) (peer : Nat) : Option (Nat × Run) :=
  s.cores.findSome? fun x => match (x.2.sh.engine 4).run with
    | some r => match r.cmd.ins with
      | .job _ _ _ => if r.waiting && !r.failed && (s.cardPeers (r.data.take 64)).contains peer && !r.idx.contains peer then some (x.1, r) else none
      | _ => none
    | none => none
def State.peerMessage (s : State) (port peer : Nat) (data : List Byte) : State :=
  if tabGet 8 s.peers port ≠ peer then s
  else match s.awaitingCard peer with
    | none => s
    | some (c, r) =>
      let q := r.hear peer data
      -- what has been heard stays with the card where its write waits or faults (R430, R455)
      let t := s.modSh c fun y => y.setRun 4 q
      if !s.cardHeard q then t
      else match s.cardEnd c q with
        | .go u => u
        | .wait => t
        | .stall => t.noteStall (.engine c 4)
        | .fault cls info => t.runFault c 4 q.cmd cls info
def execTalothJobPeerMessage (port peer : Nat) (data : List (BitVec 8)) (s : State) : Host.Outcome State Fault Refusal :=
  answer (s.peerMessage port peer data)
/-- A port trains with a peer, or its link goes down (R442). -/
def execTalothPortTraining (port : Nat) (peer : Option Nat) (s : State) : Host.Outcome State Fault Refusal :=
  answer (match peer with
    | some p => if port ≤ 1 ∧ p < 4 then { s with peers := tabPut s.peers port p } else s
    | none => { s with peers := tabDel s.peers port })

/-! ## Seasons of an engine (R385) -/

/-- Whether the field keeps DA awake: owed steps of a running domain, or a running domain that counts engine cycles. -/
def Dda.restless (g : Dda) : Bool :=
  [0, 1, 2, 3].any fun d => (g.dom d).run && (0 < (g.dom d).pend || (g.dom d).kind == 2)
/-- ENGINE_AUTUMN_ENTRY: 64 cycles with an empty queue and no running command. -/
def State.engineAutumn (s : State) (c e : Nat) : State :=
  s.modSh c fun x =>
    let g := x.engine e
    if g.season == .summer && g.queue.isEmpty && g.run.isNone && 64 ≤ g.idleFor && g.wake == 0 && !(e == 5 && x.dda.restless) then
      x.setEngine e { g with season := .autumn }
    else x
def execEngineAutumnEntry (core eng : Nat) (s : State) : Host.Outcome State Fault Refusal := answer (s.engineAutumn core eng)

/-! ## The integrator field's clock (R224, R225, R227) -/

/-- Whether DA engine cycles pass for the steps of a core's domains. -/
def Core.fieldRuns (x : Core) : Bool :=
  let g := x.sh.engine 5
  x.tt == .run && g.season == .summer && g.wake == 0 && !g.stall &&
    !(match g.run with
      | some r => (match r.cmd.ins with | .dasave _ _ => true | .daload _ _ => true | _ => false)
      | none => false)
/-- Domains that step in this cycle: RUN and PEND at its start, and no step yet in it. -/
def Core.stepping (x : Core) : List Nat :=
  if x.fieldRuns then [0, 1, 2, 3].filter fun d =>
    (x.soc.dda.dom d).run && 0 < (x.soc.dda.dom d).pend && !x.sh.dda.stepped.getLsbD d
  else []
/-- Lands the step of domain d, computed as `new` from the field `old` at the start of the cycle, on the field as it stands. -/
def Dda.land (now old new : Dda) (d : Nat) : Dda :=
  let g := (old.cells.filter fun p => cellDom p.2 == d).foldl (fun (g : Dda) p => g.setCell p.1 (new.cell p.1)) now
  let g := [0, 4, 8, 12].foldl (fun (g : Dda) k => g.setChan (k + d) (g.chan (k + d) - (old.chan (k + d)).sign)) g
  let g := [0, 1, 2, 3].foldl (fun (g : Dda) k =>
    let r := g.dom k
    g.setDom k { r with taps := listSet r.taps d (r.taps.getD d 0 - (old.dom k).taps.getD d 0) }) g
  let r := g.dom d
  let g := { (g.setDom d { r with pend := r.pend - 1, steps := r.steps + 1 }) with stepped := g.stepped ||| BitVec.ofNat 4 (2 ^ d) }
  let g := if new.fresh.getLsbD d && !old.fresh.getLsbD d then g.lose d else g
  if new.fresh.getLsbD 4 && !old.fresh.getLsbD 4 then { g with wrap := true, fresh := g.fresh ||| 16 } else g
/-- DOMAIN_STEP: every stepping domain computes from the field at the start of the cycle; one that overruns keeps its cells and
raises the increment overrun in DA (R218). -/
def State.domainSteps (s : State) (c : Nat) : State :=
  let x := s.core c
  let old : Dda := { x.soc.dda with fresh := 0 }
  x.stepping.foldl (fun (s : State) d =>
    match (s.cellBad c d, old.stepDomain d) with
    | (some info, _) => s.takeFault c (some 9) 9 info true
    | (none, .error cell) => s.takeFault c (some 9) 6 (BitVec.ofNat 64 (cell + 256 * d)) true
    | (none, .ok new) => s.modSh c fun y => { y with dda := y.dda.land old new d }) s
def execDomainStep (core : Nat) (s : State) : Host.Outcome State Fault Refusal := answer (s.domainSteps core)
/-- One count of PHASE of a domain (R224). -/
def Dda.countPhase (g : Dda) (d : Nat) : Dda :=
  let x := g.dom d
  if x.divm ≤ x.phase then (g.setDom d { x with phase := 0 }).trigger d 1
  else g.setDom d { x with phase := x.phase + 1 }
/-- Whether the triggers of a core's field are counted: while it runs, and while a fault stops it (R450), not once a save has been taken
or while no task is bound (R483). -/
def Core.counts (x : Core) : Bool := x.tt == .run || x.tt == .faulted
/-- DOMAIN_REFERENCE_TRIGGER: a reference tick counts in a running domain of KIND 1. -/
def State.refTrigger (s : State) (c d : Nat) : State :=
  if !(s.core c).counts then s
  else s.modSh c fun x => let r := x.dda.dom d; if r.kind = 1 ∧ r.run then { x with dda := x.dda.countPhase d } else x
def execDomainReferenceTrigger (core dom : Nat) (s : State) : Host.Outcome State Fault Refusal := answer (s.refTrigger core dom)
/-- DOMAIN_ENGINE_TRIGGER: a DA engine cycle counts in a running domain of KIND 2. -/
def State.engTrigger (s : State) (c d : Nat) : State :=
  s.modSh c fun x => let r := x.dda.dom d; if r.kind = 2 ∧ r.run then { x with dda := x.dda.countPhase d } else x
def execDomainEngineTrigger (core dom : Nat) (s : State) : Host.Outcome State Fault Refusal := answer (s.engTrigger core dom)

/-! ## Pool requests (R241, R242) -/

/-- Whether a destination is a vector register or a line of them. -/
def Dest.vector : Dest → Bool
  | .v _ => true
  | .line .. => true
  | _ => false
/-- Whether every cluster that has not ended waits at a JOIN with no vector result in flight (R241). -/
def Core.regReady (x : Core) : Bool :=
  [0, 1, 2, 3].all (fun n =>
    !(x.stream n).started || (x.stream n).ended || x.sh.cc.any fun r => r.2.arrived.getLsbD n) &&
    x.flight.all (fun f => 4 ≤ f.stream || !f.dest.vector && (f.unit < 2 || 5 < f.unit)) &&
    x.acc.all fun a => 4 ≤ a.stream || !a.dest.vector
/-- CACHE's step: the write-back of every dirty sector, shrinking or not, then the lines beyond what it keeps go (R241). -/
def State.shrinkCache (s : State) (c : Nat) : State :=
  let s := s.writeBackAll c 0
  s.modCore c fun x =>
    let keep := (cacheLines x.cache).take x.sh.cacheRoom
    { x with cache := x.cache.filter fun e => keep.contains (lineKey e.1) }
/-- The REG step of a pending request at the end of a cycle in which the clusters meet at a JOIN: it is done, although the JOIN issues in
that cycle (R241, R404, log 144). -/
def Core.regMeet (x : Core) : Core :=
  let r := x.sh.poolReq
  if r.pending && r.step == 3 && x.regReady then { x with sh := { x.sh with poolReq := { r with step := 4 } } } else x
/-- POOL_REQUEST_STEP: the next step of a pending request. After the last one the counts change at the end of the cycle. -/
def State.poolStep (s : State) (c : Nat) : State :=
  let x := s.sh c
  let r := x.poolReq
  let next (s : State) : State := s.modSh c fun y => { y with poolReq := { y.poolReq with step := r.step + 1 } }
  if !r.pending then s
  else match r.step with
    | 0 => next (s.shrinkCache c)
    | 1 => next s
    | 2 => next s
    | 3 => if x.pool.reg ≤ r.want.reg ∨ (s.core c).regReady then next s else s
    | _ => s.modSh c fun y => { y with poolReq := { y.poolReq with ending := true } }
def execPoolRequestStep (core : Nat) (s : State) : Host.Outcome State Fault Refusal := answer (s.poolStep core)

end Sys2Proof.Machine
end

