-- ==== Sys2Proof/Machine/MemEvents.lean ====
section
/-! DEFINITION. The accesses of a core on their way: order within a stream (R257 to R262), translation (R423), performance and
return (R263 to R267, R275 to R286), and the happenings of the memory system. -/

namespace Sys2Proof.Machine

/-! ## Order within one stream (R257, R259, R261, R262, R267) -/

def AccKind.loads : AccKind → Bool
  | .load | .gather | .capLoad | .tileLoad | .prefetch _ => true
  | _ => false
def AccKind.stores : AccKind → Bool
  | .store | .scatter | .capStore | .tileStore => true
  | _ => false
def AccKind.atomics : AccKind → Bool
  | .atomic .. | .atomicF .. => true
  | _ => false
/-- A load, a store or an atomic. -/
def AccKind.moves (k : AccKind) : Bool := k.loads || k.stores || k.atomics
/-- A release that no access of its own makes. -/
def AccKind.releases : AccKind → Bool
  | .pushRel .. | .postRel .. | .ccRel .. | .spawnPub .. => true
  | _ => false
/-- Whether ORD holds acquire, or release. -/
def Access.acquires (a : Access) : Bool := a.ord % 2 == 1
def Access.isRelease (a : Access) : Bool := 2 ≤ a.ord
/-- The space of an access: 0 pool, 1 tile store, 2 device memory, 3 host memory. -/
def State.accSpace (s : State) (c : Nat) (a : Access) : Nat :=
  match a.kind with
  | .tileLoad | .tileStore => if dTstore a.handle.desc then 1 else 0
  | _ => match s.descr (s.task c).ctx a.cap.obj with
    | some d => if descHost d then 3 else 2
    | none => 2
/-- Whether a, earlier in its stream than b, is performed before it. -/
def State.follows (s : State) (c : Nat) (a b : Access) : Bool :=
  let inSet (stor : Nat) (x : Access) : Bool := storHas stor (s.accSpace c x)
  match a.kind with
  | .rendezvous .. | .flush | .inval => true
  | .mark => b.kind.moves && inSet a.stor b
  | .fence =>
    if b.kind.moves then inSet a.stor b && (a.ord != 2 || b.kind.stores || b.kind.atomics) else true
  | .spawnPub .. => match b.kind with | .spawnPub .. => true | _ => false
  | .pushRel .. | .postRel .. | .ccRel .. => false
  | _ => match b.kind with
    | .rendezvous .. => false
    | .mark => inSet b.stor a
    | .fence => inSet b.stor a && (b.ord != 1 || a.kind.loads || a.kind.atomics)
    | .flush | .inval => true
    | .pushRel .. | .postRel .. | .ccRel .. | .spawnPub .. => inSet b.stor a
    | _ => (a.kind.loads && b.kind.loads) || (a.kind.stores && b.kind.stores) || a.kind.atomics || b.kind.atomics ||
        (a.acquires && inSet a.stor b) || (b.isRelease && inSet b.stor a)
/-- What a core in SAVE does not wait for: a load, and a FENCE, MARK, CFLUSH, CINV or departure that nothing but loads stands before
(R470). -/
def Core.leaves (x : Core) (a : Access) : Bool := x.tt == .save && (a.kind.loads || a.passed)
/-- Whether nothing earlier of its stream stands before an access, and no participant of a departed barrier does (R450, R267). In
SAVE no access waits for a load, which is issued again after the restore, nor for what only orders others behind one (R470, R472). -/
def State.accFree (s : State) (c : Nat) (a : Access) : Bool :=
  (s.core c).acc.all fun x => (s.core c).leaves x ||
    (x.stream != a.stream || a.id ≤ x.id || !(x.held || s.follows c x a)) &&
      (match a.kind with
        | .rendezvous mask before => !(mask.testBit x.stream && x.id < before && x.id != a.id && x.kind.moves)
        | _ => true)

/-! ## Translation of an access (R423, R450, R285) -/

/-- An access of core c by number. -/
def Core.access (x : Core) (id : Nat) : Option Access := x.acc.find? fun a => a.id == id
/-- Replaces an access. -/
def State.setAcc (s : State) (c : Nat) (a : Access) : State :=
  s.modCore c fun x => { x with acc := x.acc.map fun b => if b.id = a.id then a else b }
/-- An access leaves its stream's queues. -/
def State.dropAcc (s : State) (c id : Nat) : State := s.modCore c fun x => { x with acc := x.acc.filter fun a => a.id != id }
/-- Whether an access reaches memory through translation. -/
def AccKind.translates : AccKind → Bool
  | .load | .store | .gather | .scatter | .capLoad | .capStore | .atomic .. | .atomicF .. | .prefetch _ => true
  | _ => false
/-- Translates the pieces of an access in order, up to the first that has no address. -/
def State.placePieces (s : State) (c ctx obj : Nat) : List Piece → Except (Xlat × State) (List Piece × State)
  | [] => .ok ([], s)
  | p :: t =>
    match s.translateAll c ctx obj ((List.range p.size).map fun i => p.pos + i) with
    | .error (x, _, s) => .error (x, s)
    | .ok (l, s) => match State.placePieces s c ctx obj t with
      | .error e => .error e
      | .ok (ps, s) => .ok ({ p with at_ := l } :: ps, s)
/-- An access is held at the memory port by a fault of its stream. -/
def State.holdAcc (s : State) (c : Nat) (a : Access) (cls : Nat) (info : Word) : State :=
  (s.setAcc c { a with held := true }).takeFault c (some a.stream) cls info true
/-- What R273's checks find where an access that was held through a save has to pass them again (R472). -/
def Access.checked (a : Access) : Option CapCause :=
  if !a.recheck then none
  else a.pieces.findSome? fun p =>
    capCheck a.cap (if a.kind == .capLoad then [0, 3] else [0]) ((p.pos : Int) - a.cap.base * 64) p.size (a.kind == .capLoad)
/-- ADDRESS_TRANSLATION: the access finds its addresses, stalls at a migrating page, or faults. -/
def State.translateAcc (s : State) (c : Nat) (a : Access) : State :=
  if a.translated || a.held || !a.kind.translates || a.lag != 0 || (s.core c).leaves a then s
  else match a.checked with
  | some cause => s.holdAcc c a 3 (capInfo cause a.reg)
  | none => match s.placePieces c (s.task c).ctx a.cap.obj a.pieces with
    | .ok (ps, s) => (s.setAcc c { a with pieces := ps, translated := true, recheck := false }).checkPlace (ps.flatMap Piece.at_)
    | .error (.migrating, s) => s.noteStall (.access c a.id)
    | .error (.absent page, s) => s.holdAcc c a 4 (absentInfo a.cap.obj page (!a.kind.loads))
    | .error (.fault cause, s) => s.holdAcc c a 3 (capInfo cause a.reg)
    | .error (.ok .., s) => s
def execAddressTranslation (core id : Nat) (s : State) : Host.Outcome State Fault Refusal :=
  answer (match (s.core core).access id with | some a => s.translateAcc core a | none => s)

/-- The physical ranges of a CFLUSH or CINV range, page by page; a page that is not present is skipped (R285), and one
that migrates is acted on at its old frame (DESIGN CHOICE, log 142). -/
def State.flushRanges (s : State) (ctx obj first len : Nat) : Except CapCause (List (Bool × Nat × Nat)) :=
  match s.descr ctx obj with
  | none => .error .object
  | some d =>
    let size := pageSize (descPg d)
    let pages := (List.range ((first + len - 1) / size - first / size + 1)).map fun i => first / size + i
    pages.foldl (fun r i => match r with
      | .error e => .error e
      | .ok l =>
        let lo := max first (i * size)
        let hi := min (first + len) ((i + 1) * size)
        match s.walk ctx obj (i * size) with
        | .ok e => .ok (l ++ [(e.host, e.frame * 2 ^ 17 + lo % size, hi - lo)])
        | .error (.fault cause) => .error cause
        | .error .migrating => match s.objPlace ctx obj lo with
          | some q => .ok (l ++ [(q.1, q.2, hi - lo)])
          | none => .ok l
        | .error _ => .ok l) (.ok [])
/-- Whether a CACHE sector holds a byte of a list of ranges. -/
def keyIn (l : List (Bool × Nat × Nat)) (k : Nat) : Bool :=
  l.any fun r => r.1 == keyHost k && r.2.1 < keyAddr k + 32 && keyAddr k < r.2.1 + r.2.2
/-- CFLUSH or CINV acts on the sectors of its range (R285). -/
def State.flushAcc (s : State) (c : Nat) (a : Access) : State :=
  let p := a.pieces.headD { pos := 0, size := 1 }
  match s.flushRanges (s.task c).ctx a.cap.obj p.pos p.size with
  | .error cause => s.holdAcc c a 3 (capInfo cause a.reg)
  | .ok l =>
    let s := if a.kind == .inval then s.modCore c fun x => { x with cache := x.cache.filter fun e => !keyIn l e.1 }
      else ((tabKeys (s.core c).cache).filter (keyIn l)).foldl (fun s k => s.writeBack c k) s
    s.dropAcc c a.id

/-! ## Performing an access -/

/-- The bytes of an access in order. -/
def Access.places (a : Access) : List (Bool × Nat) := a.pieces.flatMap Piece.at_
/-- A sector leaves CACHE, written back, before an access at FORM scope or wider, or an atomic, goes to its coherence point: so
that the location keeps one order (R268) and no copy grows stale in its own core (R264). -/
def State.passCache (s : State) (c : Nat) (l : List (Bool × Nat)) : State :=
  ((l.map fun x => sectorKey x.1 x.2).eraseDups).foldl (fun (s : State) k =>
    if (s.core c).cache.any (·.1 == k) then
      (s.writeBack c k).modCore c fun x => { x with cache := tabDel x.cache k }
    else s) s
/-- What a release carries out before it is performed: idempotence ends at FORM scope or wider, and CACHE is written back. -/
def State.beforeRelease (s : State) (c : Nat) (a : Access) : State :=
  if a.isRelease then (if 2 ≤ a.agent then s.endIdem c else s).releaseCache c a.agent a.stor else s
/-- What an acquire carries out once it is performed. -/
def State.afterAcquire (s : State) (c : Nat) (a : Access) : State := if a.acquires then s.acquireCache c a.agent a.stor else s
/-- Keeps the DATA of earlier loads from a register that a later word of the stream has written (R275). -/
def Dest.without (d done : Dest) : Dest :=
  let hit (n : Nat) : Bool := match done with | .v m => n == m | .line w x y z => n == w || n == x || n == y || n == z | _ => false
  match d with
  | .v n => if hit n then .none else d
  | .line w x y z =>
    let f (n : Nat) : Nat := if hit n then 512 else n
    .line (f w) (f x) (f y) (f z)
  | .q _ _ => d
  | _ => if d == done then .none else d
/-- Cycles since issue before which no data returns: L is at least 6, and 4 for an LDT of a POOL tile (R275, R292). -/
def Access.soonest (a : Access) : Nat :=
  match a.kind with
  | .tileLoad => if dTstore a.handle.desc then 5 else 3
  | .prefetch _ => 0
  | _ => if a.kind.stores then 0 else 5
/-- An LDT of a POOL tile: an operation of latency 4, which a save records as a result in flight (R292, R479). -/
def Access.inFlight (a : Access) : Bool := a.kind == .tileLoad && !dTstore a.handle.desc
/-- A load's result on its way to the end of the cycle in which it may land at the earliest, or of this one. -/
def State.returnLoad (s : State) (c : Nat) (a : Access) (val : BitVec 1024) (tag : Bool) (flags : BitVec 6 := 0) : State :=
  let acc := if a.inFlight then none else some a
  let left := 1 + (a.soonest - a.age)
  let base : Flight := { stream := a.stream, dest := a.dest, val, tag, flags, left, id := a.id, load := true, acc }
  match a.dest with
  | .line .. =>
    -- a line is four registers wide: the spec states no value of MU.o for it
    let f0 := s.takeFree
    let f1 := f0.2.takeFree
    let f2 := f1.2.takeFree
    let f3 := f2.2.takeFree
    let mu : Nat := f0.1.toNat + 2 ^ 64 * f1.1.toNat + 2 ^ 128 * f2.1.toNat + 2 ^ 192 * f3.1.toNat
    f3.2.modCore c fun x => { x with flight := x.flight ++ [base, { base with unit := 7, dest := .none, val := BitVec.ofNat 1024 mu }] }
  | _ => s.modCore c fun x => { x with flight := x.flight ++ [{ base with unit := 7 }] }
/-- The value of a gather from its lanes. -/
def gatherValue (w : Nat) (ps : List Piece) (bytes : List Byte) : Nat :=
  let size := [1, 2, 4, 8].getD w 8
  let bits := if w = 3 then 64 else 32
  ((List.range ps.length).foldl (fun n i =>
    n + leNat ((bytes.drop (size * i)).take size) * 2 ^ (bits * (ps.getD i { pos := 0, size := 0 }).lane)) 0)
/-- A load or gather is performed and returns, all its sectors and lanes in one step (DESIGN CHOICE, log 139). -/
def State.performLoad (s : State) (c : Nat) (a : Access) : State :=
  let s := if 2 ≤ a.agent then s.passCache c a.places else s
  match s.poisoned c a.agent a.places with
  | some q => s.holdAcc c a 9 (poisonInfo q)
  | none =>
    let r := s.coreRead c a.agent a.places
    let tag := match a.kind, a.places with
      | .capLoad, x :: _ => r.2.coreTag c a.agent x.1 x.2
      | _, _ => false
    let val := match a.kind with
      | .gather => gatherValue a.w a.pieces r.1
      | _ => leNat r.1
    ((r.2.dropAcc c a.id).returnLoad c a (BitVec.ofNat 1024 val) tag).afterAcquire c a
/-- The bytes that a store writes, with their places. -/
def Access.writes (a : Access) : List (Bool × Nat × Byte) :=
  match a.kind with
  | .scatter =>
    let bits := if a.w = 3 then 64 else 32
    a.pieces.flatMap fun (p : Piece) => ((p.at_.zip (leBytes p.size (slice a.data.toNat (bits * p.lane) bits))).map fun (x : (Bool × Nat) × Byte) => (x.1.1, x.1.2, x.2))
  | .capStore => (a.places.zip (leBytes 16 (a.data.toNat % 2 ^ 128))).map fun x => (x.1.1, x.1.2, x.2)
  | _ => (a.places.zip (leBytes a.places.length a.data.toNat)).map fun x => (x.1.1, x.1.2, x.2)
/-- A store or scatter is performed. -/
def State.performStore (s : State) (c : Nat) (a : Access) : State :=
  let s := s.beforeRelease c a
  let s := if 2 ≤ a.agent then s.passCache c a.places else s
  let tag := a.kind == .capStore && a.data.getLsbD 128
  (s.coreWrite c a.agent a.writes tag).dropAcc c a.id
/-- The new value of AMO, and of CAS as operation 9: old value, operand, comparand, at width w; none where nothing is written. -/
def amoValue (op w old v cmp : Nat) : Option Nat :=
  let so := sext w old
  let sv := sext w v
  match op with
  | 0 => some v
  | 1 => some ((old + v) % 2 ^ w)
  | 2 => some (Nat.land old v)
  | 3 => some (Nat.lor old v)
  | 4 => some (Nat.xor old v)
  | 5 => some (if so ≤ sv then old else v)
  | 6 => some (if sv ≤ so then old else v)
  | 7 => some (min old v)
  | 8 => some (max old v)
  | _ => if old = cmp then some v else none
/-- The new value of AMOF with its flags (R283). -/
def amofValue (op old v : Nat) : Nat × Flags :=
  match op with
  | 0 => addF fp32 .rne (fp32.val old) (fp32.val v)
  | 1 => minMaxF fp32 false old v
  | 2 => minMaxF fp32 true old v
  | 3 => addF bf16 .rne (bf16.val old) (bf16.val v)
  | _ => addF fp16 .rne (fp16.val old) (fp16.val v)
/-- An atomic is performed at its coherence point and returns the old value (R265, R280). One on host memory ends idempotence, whether
or not it writes (R459). What one of an idempotent or speculative task writes is provisional (DESIGN CHOICE, log 140). -/
def State.performAtomic (s : State) (c : Nat) (a : Access) : State :=
  let s := s.passCache c a.places
  match s.poisoned c 2 a.places with
  | some q => s.holdAcc c a 9 (poisonInfo q)
  | none =>
    let s := s.beforeRelease c a
    let s := if a.places.any (·.1) then s.endIdem c else s
    let r := s.coreRead c 2 a.places
    let n := a.places.length
    let old := leNat r.1
    let new : Option Nat × Flags := match a.kind with
      | .atomicF op v => let x := amofValue op old (v.toNat % 2 ^ (8 * n)); (some x.1, x.2)
      | .atomic op v cmp => (amoValue op (8 * n) old (v.toNat % 2 ^ (8 * n)) (cmp.toNat % 2 ^ (8 * n)), 0)
      | _ => (none, 0)
    let s := match new.1 with
      | some v => r.2.coreWrite c 2 ((a.places.zip (leBytes n v)).map fun (x : (Bool × Nat) × Byte) => (x.1.1, x.1.2, x.2))
      | none => r.2
    ((s.dropAcc c a.id).returnLoad c a (BitVec.ofNat 1024 old) false new.2).afterAcquire c a
/-- An LDT or STT is performed. -/
def State.performTile (s : State) (c : Nat) (a : Access) : State :=
  let p := a.pieces.headD { pos := 0, size := 0 }
  if a.kind == .tileLoad then
    match s.tileBad c a.handle p.pos p.size with
    | some info => s.holdAcc c a 9 info
    | none => (s.dropAcc c a.id).returnLoad c a (BitVec.ofNat 1024 (leNat (s.tileRead c a.handle p.pos p.size))) false
  else (s.tileWrite c a.handle p.pos (leBytes p.size a.data.toNat)).dropAcc c a.id
/-- PREF is performed: every sector of its range becomes resident in its home slice, and its token completes (R252, R286). -/
def State.performPref (s : State) (c : Nat) (a : Access) (token : Nat) : State :=
  let sectors := ((a.places.filter fun x => !x.1).map fun x => x.2 / 32).eraseDups
  let s := sectors.foldl (fun (s : State) n => s.touchL2 (32 * n) .clean) s
  (s.dropAcc c a.id).modCore c fun x => { x with prefs := x.prefs.filter fun t => t.token != token }
/-- Whether an access may be performed now: nothing that it follows stands before it (R257). -/
def State.mayPerform (s : State) (c : Nat) (a : Access) : Bool :=
  !a.held && a.lag == 0 && (a.urged || a.soonest ≤ a.age) && s.accFree c a && !(s.core c).leaves a
/-- Whether CACHE and the OTC hold all that a load at STREAM or CORE scope needs. -/
def State.cacheHit (s : State) (c : Nat) (a : Access) : Bool :=
  a.kind.loads && a.agent ≤ 1 && a.pieces.all fun p => (List.range p.size).all fun i =>
    match findTlb (s.core c).otc (s.task c).ctx a.cap.obj (p.pos + i) with
    | some e => match e.place (p.pos + i) with
      | .ok host pa => (s.core c).cache.any (·.1 == sectorKey host pa)
      | _ => false
    | none => false
/-- Whether a translated load, store or atomic misses CACHE, as counter 9 counts it (R497): one at FORM scope or wider and an atomic,
which pass CACHE by (R264, R265), do (log 134). -/
def State.missesCache (s : State) (c : Nat) (a : Access) : Bool :=
  a.translated && (match a.kind with | .prefetch _ => false | _ => true) &&
    (2 ≤ a.agent || a.kind.atomics || a.places.any fun x => !(s.core c).cache.any (·.1 == sectorKey x.1 x.2))
/-- Counts an access in counter 9 where it misses CACHE. -/
def State.countMiss (s : State) (c : Nat) (a : Access) : State :=
  if s.missesCache c a then s.modCore c fun x => x.count 9 else s
/-- A load, store or atomic is performed, translated first where it has not been. -/
def State.performAcc (s : State) (c id : Nat) : State :=
  match (s.core c).access id with
  | none => s
  | some a =>
    if !s.mayPerform c a then s
    else
      let s := s.translateAcc c a
      match (s.core c).access id with
      | none => s
      | some a =>
        let s := s.countMiss c a
        match a.kind with
        | .tileLoad | .tileStore => s.performTile c a
        | .load | .gather | .capLoad => if a.translated then s.performLoad c a else s
        | .store | .scatter | .capStore => if a.translated then s.performStore c a else s
        | .atomic .. | .atomicF .. => if a.translated then s.performAtomic c a else s
        | .prefetch token => if a.translated then s.performPref c a token else s
        | _ => s
/-- Performs an access of one of the kinds that a happening is for. -/
def State.performIf (s : State) (c id : Nat) (p : AccKind → Bool) : State :=
  match (s.core c).access id with
  | some a => if p a.kind then s.performAcc c id else s
  | none => s
def execLoadDataReturn (core id : Nat) (s : State) : Host.Outcome State Fault Refusal := answer (s.performIf core id AccKind.loads)
def execAtomicReturn (core id : Nat) (s : State) : Host.Outcome State Fault Refusal := answer (s.performIf core id AccKind.atomics)
/-- STORE_PERFORMED: a store in its queue, or the write-back of a CACHE sector by its key. -/
def execStorePerformed (core : Nat) (writeBack : Bool) (id : Nat) (s : State) : Host.Outcome State Fault Refusal :=
  answer (if writeBack then s.writeBack core id else s.performIf core id AccKind.stores)

/-! ## Releases that land (R322, R324, R405, R358) -/

/-- Whether the accesses that a release orders have been performed. -/
def State.releaseReady (s : State) (c : Nat) (a : Access) : Bool := a.lag == 0 && !a.held && s.accFree c a
/-- A SPAWN's descriptor is published at the tail of its queue (R358, R462). -/
def State.publish (s : State) (c : Nat) (a : Access) (d : BitVec 256) : State :=
  let mine (x : Child) : Bool := x.id == a.id && !x.published
  let onChip := (s.die (dieOf c)).queue.any mine
  let s := s.dropAcc c a.id
  if onChip then
    s.modDie (dieOf c) fun y =>
      { y with queue := (y.queue.filter fun x => !mine x) ++ (y.queue.filter mine).map fun x => { x with published := true } }
  else
    let ctx := (Child.ofDesc d).ctx
    let k := s.ctx ctx
    if !k.ovfComing.contains (dieOf c, d) then s
    else
      let h := s.ovfTail ctx
      let obj := s.ovfObj ctx
      let s := s.objWrite ctx obj (64 + 32 * (h % s.ovfCap ctx)) (leBytes 32 d.toNat)
      let s := s.objWrite ctx obj 8 (leBytes 8 (h + 1))
      s.modCtx ctx fun k => { k with ovfComing := k.ovfComing.erase (dieOf c, d), ovfDies := k.ovfDies ++ [dieOf c] }
/-- A release completes: its CACHE part, then its landing. -/
def State.landRelease (s : State) (c : Nat) (a : Access) : State :=
  if !s.releaseReady c a then s
  else
    let s := s.beforeRelease c a
    match a.kind with
    | .pushRel q => (s.dropAcc c a.id).modSh c fun x => x.setQueue q ((x.queue q).release a.id)
    | .postRel e n => (s.dropAcc c a.id).modSh c fun x => x.setEvent e { x.event e with adds := (x.event e).adds + n }
    | .ccRel bit live =>
      let s := s.dropAcc c a.id
      if live then s.modCore c fun x => x.landCc bit true a.id else s
    | .spawnPub d => s.publish c a d
    | _ => s
/-- Lands a release of one kind. -/
def State.landIf (s : State) (c id : Nat) (p : AccKind → Bool) : State :=
  match (s.core c).access id with
  | some a => if p a.kind then s.landRelease c a else s
  | none => s
def execPushEntryPoppable (core id : Nat) (s : State) : Host.Outcome State Fault Refusal :=
  answer (s.landIf core id fun k => match k with | .pushRel .. => true | _ => false)
def execPostAdditionLands (core id : Nat) (s : State) : Host.Outcome State Fault Refusal :=
  answer (s.landIf core id fun k => match k with | .postRel .. => true | _ => false)
def execCcsetValueLands (core id : Nat) (s : State) : Host.Outcome State Fault Refusal :=
  answer (s.landIf core id fun k => match k with | .ccRel .. => true | _ => false)

/-! ## Prefetch (R252, R286) -/

/-- PREFETCH_COMPLETE: the PREF of a token is performed, where nothing that it follows stands before it. -/
def State.prefetchDone (s : State) (c token : Nat) : State :=
  match (s.core c).acc.find? fun a => a.kind == .prefetch token with
  | some a => s.performAcc c a.id
  | none => s
def execPrefetchComplete (core token : Nat) (s : State) : Host.Outcome State Fault Refusal := answer (s.prefetchDone core token)

/-! ## Host link errors (R438) -/

/-- The capabilities through which a running command reads and writes objects, and the registers that name them (R452). -/
def Run.objects (r : Run) : List (Nat × Cap) :=
  match r.cmd.ins with
  | .astage _ cn _ _ | .deckld _ cn _ _ => r.caps.map fun k => (cn.toNat, k)
  | .copy _ _ _ dst _ _ src => [(src.toNat, r.caps.getD 0 {}), (dst.toNat, r.caps.getD 1 {})]
  | .copyp .. => let p := Pattern.ofBytes r.data; [(p.src, r.caps.getD 0 {}), (p.dst, r.caps.getD 1 {})]
  | .job .. => r.cmd.foot.map fun x => (0, x.cap)
  | _ => []
/-- The host answers a request of engine e's running command with an error: the fault is the issuing stream's. -/
def State.hostErrorEngine (s : State) (c e : Nat) : State :=
  let host (k : Cap) : Bool := k.tag && (match s.descr (s.task c).ctx k.obj with | some d => descHost d | none => false)
  match ((s.sh c).engine (e % 8)).run with
  | none => s
  | some r =>
    let l := if e < 8 then r.objects else r.objects.drop 1
    match l.find? fun x => host x.2 with
    | some x => s.runFault c (e % 8) r.cmd 3 (capInfo .object x.1 false (some (e % 8)))
    | none => s
/-- The host answers a request with an error: of the access of that number; where no access has it, numbers 0 to 15 stand for the
engines, above 7 for the second object of its command, 16 to 25 for a stream's code fill, and from 32 on for the write-back of the
CACHE sector of key number - 32 (log 121). -/
def State.hostError (s : State) (c id : Nat) : State :=
  match (s.core c).access id with
  | some a => if a.kind.moves && !a.held && a.lag == 0 && s.accSpace c a == 3 && s.accFree c a then s.holdAcc c a 3 (capInfo .object a.reg) else s
  | none =>
    if id < 16 then s.hostErrorEngine c id
    else if id < 26 then
      let t := s.stream c (id - 16)
      let k := s.task c
      let missing := !t.blocks.getLsbD (t.pc / 16) && t.started && !t.ended
      let host : Bool := match s.descr k.ctx k.kobj with | some d => descHost d | none => false
      if (s.core c).tt == .run && missing && host then s.takeFault c (some (id - 16)) 3 (capInfo .object) false else s
    else if 32 ≤ id ∧ keyHost (id - 32) ∧ (s.core c).cache.any (fun e => e.1 == id - 32 && e.2.dirty != 0) then
      s.takeFault c none 3 (capInfo .object) true
    else s
def execHostLinkError (core id : Nat) (s : State) : Host.Outcome State Fault Refusal := answer (s.hostError core id)

/-! ## What the memory system does by itself at the end of a cycle (log 4) -/

/-- An access that only orders others is complete; a core in SAVE completes none and keeps it for the restore (R470, log 21). -/
def State.endOrder (s : State) (c : Nat) (a : Access) (f : State → State) : State :=
  if (s.core c).tt = .save then s.setAcc c { a with passed := true } else f s
/-- An access's part of the end of a cycle. -/
def State.autoAccess (s : State) (c id : Nat) : State :=
  match (s.core c).access id with
  | none => s
  | some a =>
    let late := a.urged || (s.patience != 0 && s.patience ≤ a.age)
    if a.held then s
    else match a.kind with
    | .rendezvous .. | .mark => if s.accFree c a then s.endOrder c a fun s => s.dropAcc c id else s
    | .fence => if s.accFree c a then s.endOrder c a fun s => ((s.beforeRelease c a).dropAcc c id).afterAcquire c a else s
    | .flush | .inval => if s.accFree c a then s.endOrder c a fun s => s.flushAcc c a else s
    | .pushRel .. | .postRel .. | .ccRel .. | .spawnPub .. => s.landRelease c a
    | .tileLoad => if !dTstore a.handle.desc || late then s.performAcc c id else s
    | .tileStore => if !dTstore a.handle.desc || late then s.performAcc c id else s
    | _ => if late || s.cacheHit c a then s.performAcc c id else s
/-- The accesses numbered below n are to be performed now; those of a task that retires, whatever their commit lag. -/
def Core.urge (x : Core) (n : Nat) : Core := { x with acc := x.acc.map fun a => if a.id < n then { a with urged := true } else a }
/-- Every access of core c takes its part of the end of a cycle, in the order of issue. -/
def State.autoAll (s : State) (c : Nat) : State := ((s.core c).acc.map fun a => a.id).foldl (fun s id => s.autoAccess c id) s
/-- An LDT of a POOL tile whose 4 cycles are over lands now, and what it follows is performed before it (R257, R292). -/
def State.urgeTiles (s : State) (c : Nat) : State :=
  match (((s.core c).acc.filter fun a => a.inFlight && a.soonest ≤ a.age).map fun a => a.id).max? with
  | some n => s.modCore c fun x => x.urge n
  | none => s
/-- Ages the accesses of a core by a cycle. -/
def Core.ageAccesses (x : Core) : Core :=
  { x with acc := x.acc.map fun a =>
    { a with age := a.age + 1, lag := a.lag - 1, repeats := if a.again then a.repeats else 0, again := false } }
/-- The memory system's part of the end of core c's cycle. -/
def State.memoryCycle (s : State) (c : Nat) : State :=
  (((s.urgeTiles c).autoAll c).modCore c Core.ageAccesses).limitProv c
/-- The task of core c retires at the end of this cycle: its accesses are performed before (R33, R37, R458, log 11). -/
def State.drainAll (s : State) (c : Nat) : State :=
  let s := s.modCore c fun x => { x with acc := x.acc.map fun a => { a with urged := true, lag := 0 } }
  (s.autoAll c).limitProv c

/-! ## Instruction buffers (R66, R498) -/

/-- Whether a stream waits for a block, and nothing that IFENCE names stands before the fill: no store or atomic of the stream, and
none of its acquires, through which R268 orders others' stores before it (R498). -/
def State.mayFill (s : State) (c n block : Nat) : Bool :=
  let x := s.core c
  let t := x.stream n
  x.tt == .run && t.started && !t.ended && t.pc / 16 == block && block * 16 < t.codeLen && !t.blocks.getLsbD block &&
    x.acc.all fun a => a.stream != n || t.fillAfter ≤ a.id ||
      !(a.kind.stores || a.kind.atomics || a.acquires || (match a.kind with | .rendezvous .. => true | _ => false))
/-- The bytes of a block of a code object: where they begin in it, and how many they are. -/
def State.blockSpan (s : State) (c n block : Nat) : Nat × Nat :=
  let t := s.stream c n
  ((s.task c).koff + t.codeOff + 128 * block, 8 * min 16 (t.codeLen - 16 * block))
/-- Where the bytes of a block lie. -/
def State.blockPlaces (s : State) (c n block : Nat) : List (Bool × Nat) :=
  let p := s.blockSpan c n block
  (List.range p.2).filterMap fun i => s.objPlace (s.task c).ctx (s.task c).kobj (p.1 + i)
/-- The words of a block of a code object, read at their coherence point. -/
def State.blockWords (s : State) (c n block : Nat) : List Word :=
  let bs := (s.blockPlaces c n block).map fun q => s.cohByte (s.task c).ident q.1 q.2
  (List.range (bs.length / 8)).map fun i => BitVec.ofNat 64 (leNat ((bs.drop (8 * i)).take 8))
/-- Puts words into a buffer from an index on. -/
def putWords : Tab Word → Nat → List Word → Tab Word
  | t, _, [] => t
  | t, i, w :: ws => putWords (tabPut t i w) (i + 1) ws
/-- INSTRUCTION_BUFFER_FILL: the block that the stream waits for arrives. A page that is not resident is a fault at the word, as is a
poisoned sector (R466); a migrating page stalls the fill. The first fill after an IFENCE, which is an acquire, has the dirty sectors
of CACHE written back first (R249, R498). -/
def State.fillBlock (s : State) (c n block : Nat) : State :=
  if !s.mayFill c n block then s
  else
    let k := s.task c
    let p := s.blockSpan c n block
    match [p.1, p.1 + (p.2 - 1)].findSome? fun a => match s.walk k.ctx k.kobj a with | .error x => some x | .ok _ => none with
    | some (.absent page) => s.takeFault c (some n) 4 (absentInfo k.kobj page false) false
    | some (.fault cause) => s.takeFault c (some n) 3 (capInfo cause) false
    | some _ => s.noteStall (.fill c n block)
    | none =>
      let s := if (s.stream c n).fillAfter = 0 then s else s.writeBackAll c 3
      match s.poisoned c 4 (s.blockPlaces c n block) with
      | some q => s.takeFault c (some n) 9 (poisonInfo q) false
      | none => s.modStream c n fun t =>
        { t with ibuf := putWords t.ibuf (16 * block) (s.blockWords c n block), blocks := t.blocks ||| BitVec.ofNat 64 (2 ^ block), fillAfter := 0 }
def execInstructionBufferFill (core stream block : Nat) (s : State) : Host.Outcome State Fault Refusal :=
  answer (if core < 128 then s.fillBlock core stream block else s)

end Sys2Proof.Machine
end

