-- ==== Sys2Proof/Machine/Snapshot.lean ====
section
/-! DEFINITION. The context image, snapshot layout version 1 (R476 to R483): a core as an image, an image as a core, and the
snapshot registers (R487, R499, R500). -/

namespace Sys2Proof.Machine

/-! ## Images -/

/-- Bytes of an image from an offset, the zero ones left out. -/
def cells (off : Nat) (bs : List Byte) : Memory :=
  ((List.range bs.length).zip bs).filterMap fun x => if x.2 = 0 then none else some (off + x.1, x.2)
/-- A number in an image. -/
def imgAt (m : Memory) (off n : Nat) : Nat := leNat (rdBytes m off n)
/-- The part of a memory from lo of len bytes, moved to begin at dst. -/
def window (m : Memory) (lo len dst : Nat) : Memory :=
  m.filterMap fun x => if lo ≤ x.1 ∧ x.1 < lo + len then some (x.1 - lo + dst, x.2) else none
/-- The role of pool bank b, by count: REG, SCR and MAT banks from below, CACHE above (R480, log 19). -/
def bankRole (p : PoolRoles) (b : Nat) : Nat :=
  if b < p.reg then 0 else if b < p.reg + p.scr then 1 else if b < p.reg + p.scr + p.mat then 3 else 2

/-- Byte offsets of the sections (R476). -/
def offStream (n : Nat) : Nat := 0x1000 + 0x800 * n
def offFlight : Nat := 0x6000
def offCore : Nat := 0xE000
def offField : Nat := 0x16000
def offHeld : Nat := 0x19000
def offBanks : Nat := 0x20000
def offDeck : Nat := 0x220000

/-! ## Streams (R478) -/

/-- IDLE that remains of a stream: of its next word where the count has not been loaded yet. -/
def State.idleLeft (s : State) (c n : Nat) : Nat :=
  let t := s.stream c n
  if t.idleLoaded then t.idle
  else
    let k := s.task c
    match t.ibuf.lookup t.pc with
    | some w => slice w.toNat 54 10
    | none => if t.started ∧ !t.ended then slice (s.objNat k.ctx k.kobj (k.koff + t.codeOff + 8 * t.pc) 8) 54 10 else 0
/-- A stream's record. -/
def State.streamBytes (s : State) (c n : Nat) : List Byte :=
  let t := s.stream c n
  let forked := n < 4 && t.started && t.group == 0
  let ctrl := t.pc + 2 ^ 10 * s.idleLeft c n + 2 ^ 20 * b2n t.started + 2 ^ 21 * b2n t.ended + 2 ^ 22 * b2n forked +
    2 ^ 23 * b2n t.atStart + 2 ^ 24 * t.group.toNat
  leBytes 8 ctrl ++ leBytes 4 t.status.toNat ++ leBytes 4 (t.rrbV + 2 ^ 8 * t.rrbK) ++
    (List.range 4).flatMap (fun i => leBytes 4 (tabGet 0 t.lc i).toNat) ++ leBytes 32 0 ++
    (List.range 64).flatMap (fun i => leBytes 8 (tabGet 0 t.g i).toNat) ++
    (List.range 63).flatMap (fun i => leBytes 4 (tabGet 0 t.k i).toNat) ++ leBytes 4 (2 ^ 32 - 1) ++
    (List.range 32).flatMap (fun i => leBytes 16 (tabGet {} t.c i).bits.toNat) ++
    leBytes 8 (flagBits ((List.range 32).map fun i => (tabGet ({} : Cap) t.c i).tag) + 2 ^ 32 * b2n t.cuTag) ++
    (List.range 9).flatMap (fun i => leBytes 32 (tabGet 0 t.latch i).toNat) ++ leBytes 32 t.link.toNat
/-- A stream from its record. -/
def Stream.load (t : Stream) (m : Memory) (n : Nat) : Stream :=
  let o := offStream n
  let ctrl := imgAt m o 8
  let tags := imgAt m (o + 1344) 8
  { t with
    pc := slice ctrl 0 10, idle := slice ctrl 10 10, idleLoaded := true, started := ctrl.testBit 20, ended := ctrl.testBit 21,
    atStart := ctrl.testBit 23, group := if ctrl.testBit 22 then 0 else BitVec.ofNat 4 (slice ctrl 24 4)
    status := loadStatus t.status (BitVec.ofNat 32 (imgAt m (o + 8) 4)), rrbV := imgAt m (o + 12) 1 % 128, rrbK := imgAt m (o + 13) 1 % 32
    lc := (List.range 4).foldl (fun r i => tabSet 0 r i (BitVec.ofNat 32 (imgAt m (o + 16 + 4 * i) 4))) []
    g := (List.range 64).foldl (fun r i => tabSet 0 r i (BitVec.ofNat 64 (imgAt m (o + 64 + 8 * i) 8))) []
    k := (List.range 63).foldl (fun r i => tabSet 0 r i (BitVec.ofNat 32 (imgAt m (o + 576 + 4 * i) 4))) []
    c := (List.range 32).foldl (fun r i => tabSet {} r i ⟨BitVec.ofNat 128 (imgAt m (o + 832 + 16 * i) 16), tags.testBit i⟩) []
    latch := (List.range 9).foldl (fun r i => tabSet 0 r i (BitVec.ofNat 256 (imgAt m (o + 1352 + 32 * i) 32))) []
    cuTag := tags.testBit 32
    link := BitVec.ofNat 256 (imgAt m (o + 1640) 32) }

/-! ## In-flight records (R479) and held accesses (R482) -/

/-- The port of a destination of stream st. -/
def portOfDest (st : Nat) (d : Dest) : Nat := match d with | .link => 0x210 + st | _ => d.port.toNat
/-- The destination of a port whose rotating names are resolved. -/
def destOfPort (p id : Nat) : Dest :=
  match Encoding.view (BitVec.ofNat 11 p) with
  | .v n => .v n
  | .g n => .g n
  | .k n => if n = 63 then .none else .k n
  | .q n => .q n id
  | .link _ => .link
  | .c n => .c n
  | .special n => if 0x2C4 ≤ n ∧ n ≤ 0x2C7 then .lc (n - 0x2C4) else .none
  | _ => .none
/-- A flight before another in order of landing. -/
def flightBefore (a b : Flight) : Bool := a.left < b.left || (a.left == b.left && a.id ≤ b.id)
def insertFlight (f : Flight) : List Flight → List Flight
  | [] => [f]
  | x :: t => if flightBefore x f then x :: insertFlight f t else f :: x :: t
/-- Flights in order of landing, issue order breaking ties. -/
def sortFlights (l : List Flight) : List Flight := l.foldr insertFlight []
def Flight.bytes (f : Flight) : List Byte :=
  leBytes 32 (f.val.toNat % 2 ^ 256) ++ leBytes 2 (portOfDest f.stream f.dest) ++ leBytes 1 f.unit ++ leBytes 1 f.stream ++
    leBytes 1 f.left ++ leBytes 1 f.flags.toNat ++ leBytes 26 0
/-- A record's flight: the one it was, where the record is unchanged. -/
def loadFlight (m : Memory) (off id : Nat) (old : Option Flight) : Flight :=
  match old.filter fun f => f.bytes == rdBytes m off 64 with
  | some f => f
  | none => { stream := imgAt m (off + 35) 1, unit := imgAt m (off + 34) 1, dest := destOfPort (imgAt m (off + 32) 2) id,
              val := BitVec.ofNat 1024 (imgAt m off 32), flags := BitVec.ofNat 6 (imgAt m (off + 37) 1), left := imgAt m (off + 36) 1, id }
/-- The loads that a save records (R472). -/
def Core.heldLoads (x : Core) : List Access := x.acc.filter fun a => a.kind == .load || a.kind == .gather || a.kind == .capLoad
/-- The offset lanes of a gather. -/
def Access.bytes (a : Access) : List Byte :=
  let pos := (a.pieces.headD { pos := 0, size := 0 }).pos - a.cap.base * 64
  leBytes 16 a.cap.bits.toNat ++ leBytes 1 (b2n a.cap.tag) ++ leBytes 1 a.stream ++ leBytes 2 a.port.toNat ++
    leBytes 1 (b2n (a.kind == .gather)) ++ leBytes 1 a.w ++ leBytes 1 a.ord ++ leBytes 1 (a.agent + 16 * a.stor) ++
    leBytes 8 (if a.kind == .gather then a.cap.cur else pos) ++ (if a.kind == .gather then leBytes 32 (a.data.toNat % 2 ^ 256) else leBytes 32 0)
/-- A record's access: the one it was, where the record is unchanged. It is checked and translated again. -/
def loadHeld (m : Memory) (off id : Nat) (old : Option Access) : Access :=
  match old.filter fun a => a.bytes == rdBytes m off 64 with
  | some a => { a with age := 0, translated := false, held := false, recheck := true }
  | none =>
    let cap : Cap := ⟨BitVec.ofNat 128 (imgAt m off 16), imgAt m (off + 16) 1 == 1⟩
    let port := imgAt m (off + 18) 2
    let w := imgAt m (off + 21) 1
    let as := imgAt m (off + 23) 1
    let offs : Vec := BitVec.ofNat 256 (imgAt m (off + 32) 32)
    let isC := 0x2A0 ≤ port && port < 0x2C0
    let gather := imgAt m (off + 20) 1 == 1
    let size := if isC then 16 else wSize (BitVec.ofNat 3 w)
    let dest := if w = 5 ∧ port < 0x180 then
        let f (j : Nat) : Nat := if 256 ≤ port then 256 + (port - 256 + j) % 128 else port + j
        Dest.line (f 0) (f 1) (f 2) (f 3)
      else destOfPort port id
    { id, stream := imgAt m (off + 17) 1, kind := if gather then .gather else if isC then .capLoad else .load, cap,
      pieces := if gather then (gatherLanes cap offs (BitVec.ofNat 3 w)).map fun l => { pos := cap.byte l.2, size, lane := l.1 }
        else [{ pos := cap.base * 64 + imgAt m (off + 24) 8, size }]
      w, ord := imgAt m (off + 22) 1 % 4, agent := as % 8, stor := as / 16 % 8, data := offs.setWidth 1024, dest,
      port := BitVec.ofNat 11 port, recheck := true }
/-- The flags of an engine's K-step or tag, which are no result of a word and stand in no port. -/
def Flight.ofEngine (f : Flight) : Bool := f.unit == 15 && f.dest == .none && f.flags != 0 && f.acc.isNone
/-- Whether a core in SAVE lands a result: an atomic's old value, and the flags of a K-step or tag that ends in the drain (R470,
R471). -/
def Flight.lands (f : Flight) : Bool := (f.acc.any fun a => a.kind.atomics) || f.ofEngine
/-- Inserts an access that its flight gives back into the order of issue. -/
def insertAcc (a : Access) : List Access → List Access
  | [] => [a]
  | b :: t => if b.id = a.id then b :: t else if a.id < b.id then a :: b :: t else b :: insertAcc a t
/-- The loads of a core as a save records them: data on its way is given up and its load held again (R472), and an LDT of a POOL tile
becomes a result in flight (R479). -/
def State.park (s : State) (c : Nat) : State :=
  let back (f : Flight) : Option Access := (f.acc.filter fun a => a.kind.loads).map fun a => { a with dest := f.dest }
  let s := s.modCore c fun x =>
    { x with acc := (x.flight.filterMap back).foldl (fun l a => insertAcc a l) x.acc, flight := x.flight.filter fun f => (back f).isNone }
  ((s.core c).acc.filter Access.inFlight).foldl (fun (s : State) a => s.performTile c a) s

/-! ## The core section (R480, R481) -/

def Queue.bytes (q : Queue) : List Byte := (List.range 8).flatMap fun j => leBytes 32 ((q.ents.getD j {}).val).toNat
def Queue.stateBytes (q : Queue) : List Byte := leBytes 4 (q.ents.length + 16 * (q.ents.filter fun e => e.load).length)
/-- A queue from its entries and state; reservations await the loads listed. -/
def loadQueue (m : Memory) (n : Nat) (old : Queue) (ids : List Nat) : Queue :=
  let o := offCore + 0x100 * n
  let st := offCore + 0x2000 + 4 * n
  if old.bytes == rdBytes m o 256 && old.stateBytes == rdBytes m st 4 then old
  else
    let held := min 8 (imgAt m st 4 % 16)
    let loads := imgAt m st 4 / 16 % 16
    let ents := (List.range held).map fun j =>
      let val : Vec := BitVec.ofNat 256 (imgAt m (o + 32 * j) 32)
      if held ≤ j + loads then { val, state := .awaits (ids.getD (j + loads - held) 0), load := true } else { val : QEnt }
    { ents, held }
/-- A stage slot state, and the ring's 16 bytes. -/
def Ring.bytes (r : Ring) : List Byte :=
  leBytes 16 (r.hd % 2 ^ 32 + 2 ^ 32 * (r.tl % 2 ^ 32) + 2 ^ 64 * r.d + 2 ^ 68 * r.s +
    (List.range 8).foldl (fun n i => n + tabGet 0 r.stage i * 2 ^ (72 + 2 * i)) 0 + 2 ^ 88 * (r.deckBase / 32) + 2 ^ 99 * b2n r.openTile +
    2 ^ 100 * r.openEntry)
def Ring.load (r : Ring) (m : Memory) : Ring :=
  let v := imgAt m (offCore + 0x2178) 16
  if r.bytes == rdBytes m (offCore + 0x2178) 16 then r
  else { r with hd := slice v 0 32, tl := slice v 32 32, d := slice v 64 4, s := slice v 68 4,
                stage := (List.range 8).foldl (fun t i => tabSet 0 t i (slice v (72 + 2 * i) 2)) [],
                deckBase := 32 * slice v 88 11, openTile := v.testBit 99, openEntry := slice v 100 4 }
/-- The pending request and the four tickets: counts, ticket, step, then a ticket's number and the low half of its status each. -/
def PoolReq.bytes (r : PoolReq) : List Byte :=
  leBytes 1 r.want.reg ++ leBytes 1 r.want.scr ++ leBytes 1 r.want.cache ++ leBytes 1 r.want.mat ++
    leBytes 2 (if r.pending then r.ticket else r.counter).toNat ++
    leBytes 1 r.step ++ leBytes 1 0 ++
    (r.tickets.flatMap fun t => leBytes 2 t.ticket.toNat ++ leBytes 4 ((r.status t.ticket).toNat % 2 ^ 32)) ++
    leBytes (6 * (4 - r.tickets.length)) 0
def PoolReq.load (r : PoolReq) (m : Memory) (pending : Bool) : PoolReq :=
  let o := offCore + 0x21C8
  if r.bytes == rdBytes m o 32 && r.pending == pending then r
  else
    let tickets := (List.range 4).filterMap fun i =>
      let t := imgAt m (o + 8 + 6 * i) 2
      let v := imgAt m (o + 10 + 6 * i) 4
      if t = 0 ∧ v = 0 then none else some { ticket := BitVec.ofNat 16 t, pending := v.testBit 16, code := BitVec.ofNat 3 v }
    let n := BitVec.ofNat 16 (imgAt m (o + 4) 2)
    -- the request counter is the newest ticket's number
    { counter := if pending then ((tickets.getLast?.map Ticket.ticket).getD n) else n, pending, ticket := n, step := imgAt m (o + 6) 1,
      want := { reg := imgAt m o 1, scr := imgAt m (o + 1) 1, cache := imgAt m (o + 2) 1, mat := imgAt m (o + 3) 1 }, tickets }
/-- The progress of an active table. -/
def NestRun.bytes (r : NestRun) : List Byte :=
  (List.range 6).flatMap (fun i => leBytes 2 (r.idx.getD i 0)) ++ leBytes 8 r.delivered.toNat ++ leBytes 1 (b2n r.live) ++ leBytes 11 0
def NestRun.load (r : NestRun) (m : Memory) (t : Nat) : NestRun :=
  let o := offCore + 0x2500 + 32 * t
  if r.bytes == rdBytes m o 32 then r
  else { r with idx := (List.range 6).map fun i => imgAt m (o + 2 * i) 2, delivered := BitVec.ofNat 64 (imgAt m (o + 12) 8),
                live := (imgAt m (o + 20) 1).testBit 0 }
/-- A region of a footprint list: object, access, first byte in the object and length. -/
def Region.bytes (r : Region) : List Byte :=
  leBytes 3 r.cap.obj ++ leBytes 1 r.access.toNat ++ leBytes 4 (r.cap.base * 64 + r.cap.cur + r.off) ++ leBytes 8 r.len
/-- The streams that hold a footprint list, in the order of the lists. -/
def footStreams : List Nat := [0, 1, 2, 3, 4, 5, 8]
def footBytes (l : List Region) : List Byte := (l.take 8).flatMap Region.bytes ++ leBytes (16 * (8 - min 8 l.length)) 0
def loadFoot (m : Memory) (i : Nat) (old : List Region) : List Region :=
  let o := offCore + 0x3000 + 128 * i
  if footBytes old == rdBytes m o 128 then old
  else (List.range 8).filterMap fun j =>
    let v := imgAt m (o + 16 * j) 16
    if slice v 24 2 = 0 then none
    else some { cap := ⟨BitVec.ofNat 128 (2 ^ 104 * slice v 0 24 + 2 ^ 64 * (slice v 32 32 / 64) + slice v 32 32 % 64 + 2 ^ 32 * (2 ^ 32 - 1) +
                          2 ^ 96 * 3), true⟩,
                access := BitVec.ofNat 2 (slice v 24 2), off := 0, len := slice v 64 64 }
/-- A command record (R481). -/
def Cmd.bytes (k : Cmd) (running : Bool) (progress : Nat) : List Byte :=
  leBytes 8 ((encode k.ins).getD 0).toNat ++ leBytes 32 k.src.toNat ++ leBytes 1 k.stream ++ leBytes 1 (b2n running) ++ leBytes 2 0 ++
    leBytes 4 progress ++ leBytes 16 0
/-- The records of an engine, the running command first. -/
def Engine.bytes (g : Engine) : List Byte :=
  let run := match g.run with | some r => [r.cmd.bytes true r.progress] | none => []
  let all := (run ++ g.queue.map fun k => k.bytes false 0).take 16
  all.flatten ++ leBytes (64 * (16 - all.length)) 0
/-- A command from a record; what the record has no room for stays as it was at the same place. -/
def loadCmd (m : Memory) (off : Nat) (old : Option Cmd) : Option Cmd :=
  match decode (BitVec.ofNat 64 (imgAt m off 8)) with
  | .ok i =>
    let k : Cmd := old.getD { ins := i }
    if imgAt m off 8 = 0 then none
    else some { k with ins := i, src := BitVec.ofNat 256 (imgAt m (off + 8) 32), stream := imgAt m (off + 40) 1 % 10 }
  | .error _ => none
def loadEngine (m : Memory) (e : Nat) (old : Engine) : Engine :=
  let o := offCore + 0x3400 + 0x400 * e
  if old.bytes == rdBytes m o 1024 then old
  else
    let olds := (match old.run with | some r => [r.cmd] | none => []) ++ old.queue
    let all := (List.range 16).filterMap fun j => (loadCmd m (o + 64 * j) olds[j]?).map fun k => (imgAt m (o + 64 * j + 41) 1 == 1, imgAt m (o + 64 * j + 44) 4, k)
    let run := match all.head?, old.run with
      | some (true, p, k), some r => some { r with cmd := k, progress := p }
      | some (true, p, k), none => some { cmd := k, progress := p, left := some 0 }
      | _, _ => none
    { old with run, queue := (all.filter fun x => !x.1).map fun x => x.2.2 }

/-- The core section of a core. -/
def Core.sectionBytes (x : Core) : List Byte :=
  let y := x.sh
  let pad (n : Nat) (l : List Byte) : List Byte := l ++ leBytes (n - l.length) 0
  (List.range 32).flatMap (fun n => (y.queue n).bytes) ++
    (List.range 32).flatMap (fun n => (y.queue n).stateBytes) ++
    (List.range 32).flatMap (fun e => leBytes 2 ((y.event e).count + 256 * b2n (y.event e).ovf)) ++
    leBytes 8 y.tags.toNat ++ (List.range 64).flatMap (fun t => leBytes 1 (y.tagCount t)) ++
    leBytes 8 (y.ccs 0).toNat ++ leBytes 8 (y.ccs 4).toNat ++
    (List.range 8).flatMap (fun b => leBytes 2 ((y.barrier b).mask.toNat + 16 * (y.barrier b).arrived.toNat)) ++
    (List.range 6).flatMap (fun e => leBytes 8 ((y.compRec e).out + 2 ^ 32 * (y.compRec e).done)) ++
    (List.range 6).flatMap (fun e => leBytes 2 (tabGet 0 y.pace e)) ++ leBytes 4 y.fmtLevel.toNat ++
    leBytes 16 y.epcfg.toNat ++ y.ring.bytes ++ (List.range 64).flatMap (fun b => leBytes 1 (bankRole y.pool b)) ++
    y.poolReq.bytes ++ leBytes 8 (y.countK.toNat + 2 ^ 32 * y.subCount) ++ leBytes 16 0 ++
    (List.range 4).flatMap (fun t => (List.range 12).flatMap fun i => leBytes 16 (tabGet 0 y.nest (12 * t + i)).toNat) ++
    (List.range 4).flatMap (fun t => (y.nestRunOf t).bytes) ++
    (List.range 16).flatMap (fun i => leBytes 8 (y.fmtEntry i).toNat) ++
    (List.range 64).flatMap (fun h => leBytes 8 (y.handle h).desc.toNat) ++
    (List.range 256).flatMap (fun i => leBytes 8 (tabGet 0 y.ct i).toNat) ++
    pad 1024 (footStreams.flatMap fun n => footBytes (x.stream n).foot) ++
    (List.range 6).flatMap (fun e => (y.engine e).bytes)
/-- FMT_LEVEL as an image gives it: reserved bits read 0, and LEVEL of 6 or 7 leaves the field as it was (R3, R135). -/
def loadLevel (old : BitVec 32) (v : Nat) : BitVec 32 :=
  BitVec.ofNat 32 (v % 16 / 8 * 8 + (if v % 8 < 6 then v % 8 else old.toNat % 8))
/-- The fields of EP's configuration; bits 31 to 22 and 7 to 3 are reserved (R212). -/
def epcfgFields : BitVec 96 := BitVec.ofNat 96 ((2 ^ 64 - 1) * 2 ^ 32 + 0x3FFF07)
/-- The fields of a level record and of a format-table entry, without their reserved bits (R119, R133). -/
def nestFields : BitVec 128 := ~~~(BitVec.ofNat 128 (15 * 2 ^ 90))
def fmtFields : Word := ~~~(0x30003FF : Word)
/-- Bits of byte i of a domain record that are reserved (R223). -/
def domainReserved (i : Nat) : Nat :=
  if i = 1 then 0xFC else if i ∈ [2, 3, 6, 7, 13, 14, 15, 18, 19] then 0xFF else 0
/-- Bits of byte i of a cell record that are reserved (R216, R219). -/
def cellReserved (i : Nat) : Nat := slice cellReservedBits.toNat (8 * i) 8
/-- Bits of the image byte at an offset that are reserved fields of registers: what is written there is ignored (R3). -/
def reservedBits (off : Nat) : Nat :=
  if offCore + 0x2200 ≤ off ∧ off < offCore + 0x2500 then (if off % 16 = 11 then 0x3C else 0)
  else if offCore + 0x2580 ≤ off ∧ off < offCore + 0x2600 then [0xFF, 3, 0, 3].getD (off % 8) 0
  else if offField ≤ off ∧ off < offField + 8192 then cellReserved (off % 32)
  else if offField + 8192 ≤ off ∧ off < offField + 8320 then domainReserved (off % 32)
  else if offField + 8352 ≤ off ∧ off < offField + 8448 then (if off = offField + 8352 then 0xFC else 0xFF)
  else
  if 0x1000 ≤ off ∧ off < 0x6000 ∧ off % 0x800 ∈ [8, 9, 10, 11] then [0xC0, 0xF8, 0xC0, 0xFF].getD (off % 0x800 - 8) 0
  else if offCore + 0x2158 ≤ off ∧ off < offCore + 0x2164 then (if off % 2 = 1 then 0xE0 else 0)
  else if offCore + 0x2164 ≤ off ∧ off < offCore + 0x2168 then (if off = offCore + 0x2164 then 0xF0 else 0xFF)
  else if offCore + 0x2108 ≤ off ∧ off < offCore + 0x2118 then (if off % 2 = 1 then 0xFE else 0)
  else if offCore + 0x2168 ≤ off ∧ off < offCore + 0x216C then [0xF8, 0, 0xC0, 0xFF].getD (off - (offCore + 0x2168)) 0
  else 0
/-- What a write of byte b leaves at an offset where `old` stands: reserved bits read 0, and a LEVEL of 6 or 7 or a rounding mode that
does not exist leaves its own field unchanged, and K63 holds all ones (R3, R49, R107, R135). -/
def snapByte (off : Nat) (old b : Byte) : Byte :=
  let b := b &&& ~~~(BitVec.ofNat 8 (reservedBits off))
  if 0x1000 ≤ off && off < 0x6000 && 828 ≤ off % 0x800 && off % 0x800 < 832 then 0xFF else
  let keeps := (off == offCore + 0x2164 && 6 ≤ b.toNat % 8) ||
    (0x1000 ≤ off && off < 0x6000 && off % 0x800 == 9 && 5 ≤ b.toNat % 8)
  if keeps then (b &&& 0xF8) ||| (old &&& 7) else b
/-- The core section of an image read into a core. -/
def Core.loadSection (x : Core) (m : Memory) (pending : Bool) : Core :=
  let o := offCore
  let y := x.sh
  let ids (n : Nat) : List Nat := x.acc.filterMap fun a => match a.dest with | .q q id => if q = n then some id else none | _ => none
  let role (r : Nat) : Nat := ((List.range 64).filter fun b => imgAt m (o + 0x2188 + b) 1 == r).length
  let ccs := imgAt m (o + 0x2108) 16
  let sh : Shared := { y with
    q := (List.range 32).foldl (fun t n => tabSet {} t n (loadQueue m n (y.queue n) (ids n))) []
    ev := (List.range 32).foldl (fun t e => let v := imgAt m (o + 0x2080 + 2 * e) 2; tabSet {} t e { count := v % 256, ovf := v.testBit 8 }) []
    tags := BitVec.ofNat 64 (imgAt m (o + 0x20C0) 8)
    tagOut := (List.range 64).foldl (fun t i => tabSet 0 t i (imgAt m (o + 0x20C8 + i) 1)) []
    cc := (List.range 8).foldl (fun t n =>
      let v := slice ccs (16 * n) 16
      tabSet {} t n { y.ccRec n with value := v.testBit 8, mask := BitVec.ofNat 4 (v / 16), arrived := BitVec.ofNat 4 v }) []
    bars := (List.range 8).foldl (fun t n =>
      let v := imgAt m (o + 0x2118 + 2 * n) 2
      tabSet {} t n { y.barrier n with mask := BitVec.ofNat 4 v, arrived := BitVec.ofNat 4 (v / 16) }) []
    comp := (List.range 6).foldl (fun t e =>
      let v := imgAt m (o + 0x2128 + 8 * e) 8
      tabSet {} t e { y.compRec e with out := v % 2 ^ 32, done := v / 2 ^ 32 }) []
    pace := (List.range 6).foldl (fun t e => tabSet 0 t e (imgAt m (o + 0x2158 + 2 * e) 2 % 2 ^ 13)) []
    fmtLevel := loadLevel y.fmtLevel (imgAt m (o + 0x2164) 4)
    epcfg := BitVec.ofNat 96 (imgAt m (o + 0x2168) 12) &&& epcfgFields
    ring := y.ring.load m
    pool := { reg := role 0, scr := role 1, cache := role 2, mat := role 3 }
    poolReq := y.poolReq.load m pending
    countK := BitVec.ofNat 32 (imgAt m (o + 0x21E8) 4)
    subCount := imgAt m (o + 0x21EC) 4 % 1024
    nest := (List.range 48).foldl (fun t i => tabSet 0 t i (BitVec.ofNat 128 (imgAt m (o + 0x2200 + 16 * i) 16) &&& nestFields)) []
    nestRun := (List.range 4).foldl (fun t n => tabSet {} t n ((y.nestRunOf n).load m n)) []
    fmt := (List.range 16).foldl (fun t i => tabSet 0 t i (BitVec.ofNat 64 (imgAt m (o + 0x2580 + 8 * i) 8) &&& fmtFields)) []
    handles := (List.range 64).foldl (fun t h =>
      let d : Word := BitVec.ofNat 64 (imgAt m (o + 0x2600 + 8 * h) 8)
      tabSet {} t h (if (y.handle h).desc = d then y.handle h else { desc := d, tile := (y.handle h).tile })) []
    ct := (List.range 256).foldl (fun t i => tabSet 0 t i (BitVec.ofNat 64 (imgAt m (o + 0x2800 + 8 * i) 8))) []
    engines := (List.range 6).foldl (fun t e => tabPut t e (loadEngine m e (y.engine e))) [] }
  let x := { x with sh }
  (footStreams.zip (List.range 7)).foldl (fun (x : Core) p => x.modStream p.1 fun t => { t with foot := loadFoot m p.2 t.foot }) x

/-! ## Pool banks and the deck -/

/-- The vector registers of a stream as bytes of REG: register n of CLi at (i × vregs + n) × 32 (log 19). -/
def Core.regCells (x : Core) (vregs : Nat) : Memory :=
  [0, 1, 2, 3].flatMap fun i => (x.stream i).v.flatMap fun r => if r.1 < vregs then cells ((i * vregs + r.1) * 32) (leBytes 32 r.2.toNat) else []
/-- The POOL tiles with the bytes of SCR at which they begin: in ascending order, one after another (log 19). -/
def Shared.poolTiles (x : Shared) : List (Nat × Nat × TileStore) :=
  ((x.tiles.filter fun t => !t.2.tstore).foldl (fun (r : List (Nat × Nat × TileStore) × Nat) t => (r.1 ++ [(r.2, t)], r.2 + t.2.foot)) ([], 0)).1
/-- The banks of REG, SCR and MAT as an image has them. -/
def Core.bankCells (x : Core) (vregs : Nat) : Memory :=
  let p := x.sh.pool
  let at_ (b : Nat) : Nat := offBanks + 0x8000 * b
  window (x.regCells vregs) 0 (0x8000 * p.reg) (at_ 0) ++
    x.sh.poolTiles.flatMap (fun t => window t.2.2.bytes 0 t.2.2.foot (at_ p.reg + t.1)) ++
    window x.sh.mat 0 (0x8000 * p.mat) (at_ (p.reg + p.scr))
/-- The bytes of a role in an image, its banks one after another. -/
def roleCells (m : Memory) (r : Nat) : Memory :=
  let banks := (List.range 64).filter fun b => imgAt m (offCore + 0x2188 + b) 1 == r && (imgAt m 8 8).testBit b
  let all := (List.range 64).filter fun b => imgAt m (offCore + 0x2188 + b) 1 == r
  banks.flatMap fun b => window m (offBanks + 0x8000 * b) 0x8000 (0x8000 * all.idxOf b)
/-- A table of 32-byte registers from bytes. -/
def regTable (m : Memory) : Tab Vec :=
  m.foldl (fun t x => tabPut t (x.1 / 32) (tabGet 0 t (x.1 / 32) ||| BitVec.ofNat 256 (x.2.toNat * 2 ^ (8 * (x.1 % 32))))) []
/-- The pool banks of an image read into a core: vector registers, POOL tiles, MAT. -/
def Core.loadPool (x : Core) (m : Memory) (vregs : Nat) : Core :=
  let regs := roleCells m 0
  let scr := roleCells m 1
  let x := [0, 1, 2, 3].foldl (fun (x : Core) i =>
    x.modStream i fun t => { t with v := regTable (window regs (i * vregs * 32) (vregs * 32) 0) }) x
  let tiles := x.sh.poolTiles.foldl (fun (t : Tab TileStore) p => tabPut t p.2.1 { p.2.2 with bytes := window scr p.1 p.2.2.foot 0 }) x.sh.tiles
  { x with sh := { x.sh with tiles, mat := roleCells m 3 } }

/-! ## Whole images -/

/-- The records of a core as the image that a save would write now (R476). -/
def State.rawImage (s : State) (c : Nat) : Memory :=
  let x := (s.park c).core c
  let k := s.task c
  let p := x.sh.pool
  let fl := sortFlights x.flight
  let held := x.heldLoads
  let head := leBytes 4 1 ++ leBytes 4 (2 * b2n x.sh.deckV + 4 * b2n x.sh.poolReq.pending) ++ leBytes 8 (2 ^ (p.reg + p.scr + p.mat) - 1) ++
    leBytes 2 fl.length ++ leBytes 2 held.length ++ leBytes 4 k.index ++ leBytes 1 k.lid ++ leBytes 2 k.gen ++ leBytes 1 k.ctx ++
    leBytes 8 (if x.tt = .save then x.timeSaved else s.time).toNat
  cells 0 head ++ (List.range 10).flatMap (fun n => cells (offStream n) (s.streamBytes c n)) ++
    cells offFlight (fl.take 512 |>.flatMap Flight.bytes) ++ cells offCore x.sectionBytes ++ cells offField x.sh.dda.image ++
    cells offHeld (held.take 64 |>.flatMap Access.bytes) ++ x.bankCells k.vregs ++
    (if x.sh.deckV then window x.sh.deck 0 0x300000 offDeck else [])
/-- An image with other bytes at some offsets. -/
def overlay (m : Memory) (bs : Tab Byte) : Memory := bs.foldl (fun m p => wrByte m p.1 p.2) m
/-- The live state of a core as its snapshot registers show it (R476, R487). -/
def State.image (s : State) (c : Nat) : Memory := overlay (s.rawImage c) (s.core c).snapBad
/-- An image read into a core of a task with a register count; `x` holds what the image has no room for. Numbers from `seq` on
name its results and accesses. -/
def Core.loadImage (x : Core) (m : Memory) (vregs seq : Nat) : Core :=
  let fl := sortFlights x.flight
  let held := x.heldLoads
  let x := (List.range 10).foldl (fun (x : Core) n => x.modStream n fun t => t.load m n) x
  let x := { x with
    flight := (List.range (imgAt m 16 2)).map fun i => loadFlight m (offFlight + 64 * i) (seq + i) fl[i]?
    acc := (List.range (imgAt m 18 2)).map fun i => loadHeld m (offHeld + 64 * i) (seq + 512 + i) held[i]? }
  let x := x.loadSection m ((imgAt m 4 4).testBit 2)
  let x := { x with sh := { x.sh with dda := (Dda.ofImage (rdBytes m offField 8448)).1.fields.withTaps x.sh.dda } }
  let x := x.loadPool m vregs
  if (imgAt m 4 4).testBit 1 then { x with sh := { x.sh with deckV := true, deck := window m offDeck 0x300000 0 } } else x

/-! ## Snapshot registers (R487, R499, R500) -/

/-- Whether every started stream of a core is debug-halted. -/
def Core.allHalted (x : Core) : Bool := !x.liveStreams.isEmpty && x.liveStreams.all fun n => (x.stream n).halted
/-- Whether the live state of a core can be reached. -/
def Core.reachable (x : Core) : Bool := x.tt == .faulted || x.allHalted
/-- The status of a snapshot word, but for RANGE: 0 DONE, 1 NOT_STOPPED, 2 DENIED. -/
def State.snapStatus (s : State) (c t : Nat) : Nat :=
  let fn (n : Nat) : Option Nat := (s.core n).task.map fun k => s.fnOfCtx k.ctx
  -- a word whose task has retired is judged by the function that owned it
  if t = c ∨ (fn t).isNone ∨ fn t ≠ some ((fn c).getD (s.core c).lastFn) then 2 else if !(s.core t).reachable then 1 else 0
/-- RANGE of a selector: an access of `size` bytes, a write or a read. -/
def State.snapRange (s : State) (sel : Word) (size : Nat) (write : Bool) : Bool :=
  let off := slice sel.toNat 0 23
  let t := slice sel.toNat 24 7
  let p := (s.sh t).pool
  sel.getLsbD 23 || slice sel.toNat 31 33 != 0 || 0x520000 ≤ off || off % size != 0 ||
    (write && (off < 16 || (off < 36 && 20 < off + size) ||
      (offBanks ≤ off && off < offDeck && p.reg + p.scr + p.mat ≤ (off - offBanks) / 0x8000)))
/-- Whether PROGRESS of a running command lies within its work (R481). -/
def Run.within (r : Run) : Bool :=
  match r.cmd.ins with
  | .mma .. | .mmac .. => r.progress ≤ r.steps
  | .astage .. => r.progress ≤ 32 * stageUnits r.fmt
  | .deckld _ _ _ u => r.progress ≤ u.toNat
  | .copy .. => r.progress ≤ slice r.cmd.src.toNat 0 32
  | .copyp .. => r.progress ≤ (Pattern.ofBytes r.data).count
  | .eprun .. => r.progress ≤ 64
  | .job .. => r.progress ≤ jbLen (r.data.take 64)
  | .near .. => r.progress ≤ nrCnt (r.data.take 64)
  | _ => r.progress == 0
/-- Whether a held-access record names a stream, a size, an agent, a storage set and DATA that R72 and R274 give a load. -/
def Access.recordLegal (a : Access) : Bool :=
  a.stream < 10 && a.w ≤ 5 && a.ord < 2 && a.agent ≤ 5 && a.stor ≤ 6 &&
    (a.kind == .gather || !Encoding.illegalKind a.stream (.load (BitVec.ofNat 3 a.w)) a.port)
/-- The records of a core that hold a reserved value, a REMAIN outside 1 to 127 or a PROGRESS beyond its command (R487): class, number
and contents of each. UNIT 15 stands for a result without a latch (log 145). -/
def Core.badRecords (x : Core) : List (Nat × Nat × Nat) :=
  let y := x.sh
  (x.flight.filter fun f => !(1 ≤ f.left && f.left ≤ 127 && f.stream < 10 && (f.unit < 10 || f.unit == 15))).map
    (fun f => (0, f.id, f.left + 2 ^ 8 * f.unit + 2 ^ 16 * f.stream)) ++
    (x.heldLoads.filter fun a => !a.recordLegal).map (fun a => (5, a.id, leNat a.bytes)) ++
    (y.ring.stage.filter fun g => 3 ≤ g.2).map (fun g => (6, g.1, g.2)) ++
    (if y.poolReq.pending && 5 ≤ y.poolReq.step then [(7, 0, y.poolReq.step)] else []) ++
    (y.handles.filter fun h => 16 ≤ slice h.2.desc.toNat 56 5).map (fun h => (8, h.1, h.2.desc.toNat)) ++
    (y.engines.filter fun g => match g.2.run with | some r => !r.within | none => false).map (fun g => (1, g.1, (g.2.run.map Run.progress).getD 0)) ++
    (y.nest.filter fun r => recKind r.2 == 3).map (fun r => (2, r.1, r.2.toNat)) ++
    (y.fmt.filter fun e => !fmtLegal e.2).map (fun e => (3, e.1, e.2.toNat)) ++
    (y.dda.cells.filter fun k => !recordLegal k.2).map (fun k => (4, k.1, k.2.toNat))
/-- The core that snapshot bytes give: what the write does not touch of accesses and results stays as it is. -/
def State.snapCore (s : State) (t off : Nat) (m : Memory) : Core :=
  let x := s.core t
  let p := (s.park t).core t
  let y := p.loadImage m (s.task t).vregs (s.seq + 1)
  let held := offHeld ≤ off && off < offBanks
  let fl := (offFlight ≤ off && off < offCore) || off == 16
  let y := { y with
    snapBad := []
    acc := if held then (p.acc.filter fun a => !(p.heldLoads.contains a)) ++ y.acc else if fl then p.acc else x.acc
    flight := if fl then y.flight else if held then p.flight else x.flight }
  -- a fault frame resumes each stream at the PC that the write gives (R455)
  if x.tt = .faulted then
    { y with frame := { x.frame with pcs := allStreams.foldl (fun t n =>
        if (x.stream n).pc = (y.stream n).pc then t else tabSet 0 t n (y.stream n).pc) x.frame.pcs } }
  else y
/-- A SNAPW of DONE status: the target takes the bytes, those of C and TAGBITS too (DESIGN CHOICE, log 137). What its records cannot hold stands beside them and is read back, and RESUME is
refused, until a later write makes all of it legal (R487, R500, log 32). -/
def State.snapWrite (s : State) (t off : Nat) (bs : List Byte) : State :=
  let x := s.core t
  let old := s.image t
  let bytes := ((List.range bs.length).zip bs).map fun b => (off + b.1, snapByte (off + b.1) (rdByte old (off + b.1)) b.2)
  let bad := bytes.foldl (fun t b => tabPut t b.1 b.2) x.snapBad
  let y := s.snapCore t off (overlay (s.rawImage t) bad)
  let now := (s.setCore t y).rawImage t
  let plain (o : Nat) : Bool := offBanks ≤ o || (offField + 8448 ≤ o && o < offHeld)
  if bad.all (fun b => plain b.1 || rdByte now b.1 == b.2) && y.badRecords.all fun r => x.badRecords.contains r then
    { s.setCore t y with seq := s.seq + 1024 }
  else s.modCore t fun x => { x with snapBad := bad }
/-- A snapshot word performs its access: its value is found, or its data is to be written at the end of the cycle. -/
def State.snapAccess (s : State) (c : Nat) (f : Flight) : Nat × State :=
  let off := slice f.snapSel.toNat 0 23
  let t := slice f.snapSel.toNat 24 7
  let size := if f.snap = 2 ∨ f.snap = 5 then 32 else 8
  let st := if f.snap ≠ 3 ∧ s.snapRange f.snapSel size (4 ≤ f.snap) then 3 else s.snapStatus c t
  match f.snap with
  | 3 =>
    let x := s.core t
    (s.snapStatus c t + 4 * b2n (x.tt == .faulted) + 8 * b2n x.allHalted + 16 * b2n (!x.snapBad.isEmpty), s)
  | 4 => (st, if st = 0 then { s with snapDue := s.snapDue ++ [(t, off, leBytes 8 f.snapData.toNat)] } else s)
  | 5 => (st, if st = 0 then { s with snapDue := s.snapDue ++ [(t, off, leBytes 32 f.snapData.toNat)] } else s)
  | _ => (if st = 0 then imgAt (s.image t) off size else 0, s)
/-- The snapshot words of a core that land in the cycle that begins, or that a save drains, perform their accesses (R479, R500). -/
def State.snapAll (s : State) (c : Nat) : State :=
  let due (f : Flight) : Bool := f.snap != 0 && (f.left == 1 || (s.core c).tt == .save)
  ((s.core c).flight.filter due).foldl (fun (s : State) f =>
    let r := s.snapAccess c f
    r.2.modCore c fun x => { x with flight := x.flight.map fun g =>
      if g.id = f.id then { g with snap := 0, val := BitVec.ofNat 1024 r.1 } else g }) s
/-- The start of a cycle for the snapshot words of all cores: every read sees the state at this moment. -/
def State.snapStart (s : State) : State :=
  ((s.cores.filter fun x => x.2.flight.any fun f => f.snap != 0).map Prod.fst).foldl State.snapAll s
/-- The end of a cycle for the snapshot words of all cores: the writes of the cycle take effect, in ascending core and stream (R500). -/
def State.snapEnd (s : State) : State :=
  if s.snapDue.isEmpty then s
  else s.snapDue.foldl (fun (s : State) w => if (s.core w.1).task.isSome then s.snapWrite w.1 w.2.1 w.2.2 else s) { s with snapDue := [] }

end Sys2Proof.Machine
end

