-- ==== Sys2Proof/Machine/Binding.lean ====
section
/-! DEFINITION. From the timetable to the task: inboxes (R342), commits and swaps (R348 to R357), launches and restores (R35,
R440, R441, R484, R485), saves (R468 to R475), die queues (R53, R359, R360), the watchdog and the deadline monitor (R366 to
R369). -/

namespace Sys2Proof.Machine

/-! ## Objects as sparse bytes -/

/-- The bytes of an object from off, len of them, as an image that begins at 0. -/
def State.objSparse (s : State) (ctx obj off len : Nat) : Memory :=
  match s.descr ctx obj with
  | none => []
  | some d =>
    let size := pageSize (descPg d)
    if len = 0 then []
    else ((List.range ((off + len - 1) / size - off / size + 1)).map fun i => off / size + i).flatMap fun i =>
      let lo := max off (i * size)
      let hi := min (off + len) ((i + 1) * size)
      match s.objPlace ctx obj lo with
      | some (host, pa) => window (if host then s.host else s.dev) pa (hi - lo) (lo - off)
      | none => []
/-- Writes an image of len bytes into an object from off on: every byte of it, zeros too. -/
def State.objPutImage (s : State) (ctx obj off len : Nat) (m : Memory) : State :=
  match s.descr ctx obj with
  | none => s
  | some d =>
    let size := pageSize (descPg d)
    if len = 0 then s
    else ((List.range ((off + len - 1) / size - off / size + 1)).map fun i => off / size + i).foldl (fun (s : State) i =>
      let lo := max off (i * size)
      let hi := min (off + len) ((i + 1) * size)
      match s.objPlace ctx obj lo with
      | some (false, pa) =>
        let dev := (window m (lo - off) (hi - lo) pa).foldl (fun d x => wrByte d x.1 x.2) (zeroBytes s.dev pa (hi - lo))
        let s := (List.range ((hi - lo + 31) / 32)).foldl (fun (s : State) i => s.touchL2 (pa + 32 * i) .dirty) s
        { s with dev, poison := s.poison.filter fun p => !(pa / 32 ≤ p.2 && p.2 < (pa + (hi - lo)) / 32)
                 devTags := s.devTags.filter fun g => !(pa / 16 ≤ g.1 && g.1 < (pa + (hi - lo)) / 16) }
      | _ => s) s

/-! ## The save area (R474, R475, R484) -/

/-- The offset of slot i in the save area. -/
def slotAt (i : Nat) : Nat := 0x100000 + i * 0x600000
/-- Whether a save in progress has taken slot i of a context. -/
def State.slotTaken (s : State) (ctx i : Nat) : Bool :=
  s.cores.any fun x => x.2.tt == .save && (x.2.task.getD {}).ctx == ctx && x.2.saveSlot == i
/-- The lowest slot whose VALID is 0 and which no save in progress has taken. -/
def State.freeSlot (s : State) (ctx : Nat) : Option Nat :=
  (List.range (s.saveSlots ctx)).find? fun i => !(s.dirEntry ctx i).testBit 31 && !s.slotTaken ctx i
/-- The slot that holds a task. -/
def State.slotOf (s : State) (ctx lid gen task : Nat) : Option Nat :=
  (List.range (s.saveSlots ctx)).find? fun i =>
    let e := s.dirEntry ctx i
    e.testBit 31 && slice e 0 24 == task && slice e 32 8 == lid && slice e 40 10 == gen
/-- Takes the record of a saved task. -/
def SaveSide.isOf (r : SaveSide) (ctx lid gen task : Nat) : Bool := r.ctx == ctx && r.lid == lid && r.gen == gen && r.task == task

/-! ## Saving (R470, R475) -/

/-- Whether a core in SAVE has completed its drain. -/
def State.drained (s : State) (c : Nat) : Bool :=
  let x := s.core c
  x.acc.all (fun a => !(a.kind.stores || a.kind.atomics || a.kind.releases)) &&
    x.flight.all (fun f => f.snap == 0 && !f.lands) && (x.sh.engine 5).run.isNone &&
    (match (x.sh.engine 2).run with | some r => r.left == none || r.left == some 0 | none => true) &&
    (match (x.sh.engine 4).run with
      | some r => (match r.cmd.ins with | .job .. => false | .near .. => false | _ => true)
      | none => true)
/-- Inserts a core into the order of a die's context engine: URGENT first, then ascending numbers (R354). -/
def insertOrder (urgent : Nat → Bool) (x : Nat × Bool) : List (Nat × Bool) → List (Nat × Bool)
  | [] => [x]
  | y :: t =>
    let before := if urgent x.1 == urgent y.1 then x.1 < y.1 else urgent x.1
    if before then x :: y :: t else y :: insertOrder urgent x t
def State.enqueueEngine (s : State) (c : Nat) (save : Bool) : State :=
  let urgent (n : Nat) : Bool := (s.task n).prio == 0
  s.modDie (dieOf c) fun d => if d.order.any (·.1 == c) then d else { d with order := insertOrder urgent (c, save) d.order }
/-- The core that a die's context engine serves next: the first in order whose restore waits neither for another launch nor for its
form's SPRING (R271, R354, R362). -/
def State.engineHead (s : State) (die : Nat) : Option (Nat × Bool) :=
  (s.die die).order.find? fun x => x.2 || (!s.launchHeld (s.task x.1).lid && (s.form (formOf x.1)).season == .summer)
/-- The bytes of an image that a save writes: always the first 128 KiB, then the present banks and the deck. -/
def imageParts (x : Core) : List (Nat × Nat) :=
  let p := x.sh.pool
  (0, 0x20000) :: (List.range (p.reg + p.scr + p.mat)).map (fun b => (offBanks + 0x8000 * b, 0x8000)) ++
    (if x.sh.deckV then [(offDeck, 0x300000)] else [])
/-- CONTEXT_SAVE: the image is written, the directory entry becomes VALID, and the core is spare (R475). A speculation that its
CACHE takes beyond R57's limit is stopped instead. -/
def State.saveTask (s : State) (c : Nat) : State :=
  let k := s.task c
  let slot := (s.core c).saveSlot
  let s := s.clearCache c
  if (s.core c).task.isNone then s
  else
  let m := s.image c
  let obj := s.saveObj k.ctx
  let s := (imageParts (s.core c)).foldl (fun (s : State) p =>
    s.objPutImage k.ctx obj (slotAt slot + p.1) p.2 (window m p.1 p.2 0)) s
  let entry := leBytes 4 (k.index + 2 ^ 31) ++ leBytes 1 k.lid ++ leBytes 2 k.gen ++ leBytes 9 0
  let s := s.objWrite k.ctx obj (16 * slot) entry
  let ms := s.marks.filter fun m => m.onCore == some c && !m.inDeck
  let side : SaveSide := { ctx := k.ctx, lid := k.lid, gen := k.gen, task := k.index, marks := ms,
                           core := { (s.park c).core c with soc := {}, cache := [], otc := [] } }
  let s : State := { s with side := (s.side.filter fun r => !r.isOf k.ctx k.lid k.gen k.index) ++ [side] }
  let s := s.notice { kind := 3, core := c, form := formOf c, lid := k.lid, task := k.index, ctx := k.ctx, detail := slot }
  -- its results in flight are in the image and land after the restore
  let s := s.modCore c fun x => { x with flight := [] }
  (s.modDie (dieOf c) fun d => { d with order := d.order.filter (·.1 ≠ c) }).unbind c
/-- The context engine writes the image of a core whose drain is complete; it stalls while a page of the image migrates (R430). -/
def State.contextSave (s : State) (c : Nat) : State :=
  if (s.core c).tt = .save ∧ s.drained c ∧ s.engineHead (dieOf c) = some (c, true) then
    let k := s.task c
    if (imageParts (s.core c)).any fun p => s.migrates k.ctx (s.saveObj k.ctx) (slotAt (s.core c).saveSlot + p.1) p.2 then
      s.noteStall (.image c)
    else s.saveTask c
  else s
def execContextSave (core : Nat) (s : State) : Host.Outcome State Fault Refusal := answer (s.contextSave core)
/-- Whether a timing error makes the next cycle of a stream's or engine's words repeat this one (R461). -/
def Core.repeating (x : Core) : Bool :=
  (x.liveStreams.any fun n => (x.stream n).verdict == .replayed) ||
    x.sh.engines.any fun g => g.2.replays != 0
/-- A request is taken at the end of a cycle where a save slot is free; else it stays pending (R468, R474). After a timing error it
waits for the end of the repeated cycle (R467, R469). -/
def State.takeRequest (s : State) (c : Nat) : State :=
  let x := s.core c
  if (x.preempt || x.yielding) && x.tt == .run && x.liveStreams.all (fun n => !(x.stream n).halted) && !x.repeating then
    match s.freeSlot (s.task c).ctx with
    | some slot => (s.park c).modCore c fun x =>
      { x with tt := .save, preempt := false, yielding := false, timeSaved := s.time, saveSlot := slot }
    | none => s
  else s
/-- A pre-emption request reaches a core that runs a task (R353). -/
def Core.request (x : Core) : Core :=
  if x.task.isSome && (x.tt == .run || x.tt == .restore) then { x with preempt := true } else x

/-! ## Binding (R35, R43, R440, R441, R484, R485) -/

/-- The task of a launch-table entry by index, or of a child's descriptor. -/
def State.taskOf (s : State) (lid index : Nat) (spec : Bool) (slot succ : Nat) (args : List Word) : Task :=
  let l := s.launch lid
  let p := l.packet
  { index, lid, gen := l.gen, ctx := l.ctx, prio := l.prio, ccls := l.ccls, poolFix := l.poolFix, spec, slot, succ,
    idem := (s.kern p 4 4).testBit 0, vregs := s.kVregs p, lv := taskCoords (s.kLevels p) index, kobj := pkObj p, koff := pkOff p, args }
/-- A core with nothing bound. -/
def Core.bare (x : Core) : Core := { (x.keep {}) with tt := x.tt }
/-- The scrub of R440 and the change of context of R441, before a task of context ctx is restored. A binding is an acquire that
leaves CACHE invalid (R51, R54, R267, R485). -/
def State.changeOwner (s : State) (c ctx : Nat) : State :=
  let x := s.core c
  let fn := s.fnOfCtx ctx
  let same := x.lastCtx == some ctx && x.lastFn == fn
  -- registers, tiles, MAT and the field are loaded anew, and the deck is zeroed where it has another owner
  let s := s.heal fun m => m.onCore == some c && !(same && m.inDeck)
  (s.flushCache c).modCore c fun x =>
    { x with sh := if same then x.sh else { x.sh with deck := [], deckV := false }, lastCtx := some ctx, lastFn := fn }
/-- Handles of a launch image take effect in ascending order (R35): their storage, or VALID = 0 where the quota is used up. -/
def State.bindHandles (s : State) (c : Nat) (scr : Memory) : State :=
  ((List.range 64).foldl (fun (r : State × Nat) h =>
    let s := r.1
    let d := ((s.sh c).handle h).desc
    if !dValid d then r
    else
      let v := d &&& (0x5FFFFFFFE0000000 : Word)
      let bytes := footUnits v * 32
      if dTstore v then
        if s.tallocCode c 64 v = 0 then (s.talloc c h v, r.2) else (s.modSh c fun x => x.setHandle h {}, r.2)
      else
        let s := s.talloc c h v
        let n := ((s.sh c).handle h).tile
        (s.modSh c fun x => x.setTile n { x.tile n with bytes := window scr r.2 bytes 0 }, r.2 + bytes)) (s, 0)).1
/-- Streams of a task bound from a launch image: started where their role has code, the clusters that have code one group. -/
def State.startStreams (s : State) (c : Nat) (p : List Byte) : State :=
  let codes := (List.range 10).map fun n => s.kCode p n
  let grp := (List.range 4).foldl (fun (g : BitVec 4) n => if (codes.getD n (0, 0)).2 = 0 then g else g ||| BitVec.ofNat 4 (2 ^ n)) 0
  s.modCore c fun x => (List.range 10).foldl (fun (x : Core) n => x.modStream n fun t =>
    let k := codes.getD n (0, 0)
    { t with codeOff := k.1, codeLen := k.2, started := k.2 != 0, ended := false, atStart := false, idleLoaded := false, idle := 0,
             group := if n < 4 ∧ k.2 ≠ 0 then grp else 0 }) x
/-- The three arguments of a child in CT252 to CT254 (R358). -/
def Shared.putArgs (x : Shared) (args : List Word) : Shared :=
  { x with ct := ((List.range args.length).zip args).foldl (fun t p => tabSet 0 t (252 + p.1) p.2) x.ct }
/-- Binds a task from its kernel's image (R35, R484). -/
def State.bindFresh (s : State) (c : Nat) (k : Task) (wdb : BitVec 32) : State :=
  let p := (s.launch k.lid).packet
  let im := s.kImage p
  let m := s.objSparse k.ctx k.kobj (k.koff + im.1) im.2
  let s := s.changeOwner c k.ctx
  let s := s.modCore c fun x => { (x.bare.loadImage m k.vregs s.seq) with task := some k, tt := .run, preempt := x.preempt }
  let s := s.modSh c fun x =>
    { (x.putArgs k.args) with
      budget := wdb, countK := 0, subCount := 0, nestRun := [], poolReq := { x.poolReq with pending := false },
      -- an MX command before any DECKSEL of the task uses 0 (R205)
      ring := { x.ring with deckBase := 0 } }
  let s := s.startStreams c p
  let s := { s with seq := s.seq + 1024 }
  s.bindHandles c (roleCells m 1)
/-- The accesses of a saved core that its held-access records do not hold: those that order others, and LDTs of TSTORE tiles, which
are issued again (R472, log 21). -/
def Core.orderings (x : Core) : List Access := (x.acc.filter fun a => match a.kind with
  | .mark | .fence | .flush | .inval | .rendezvous .. | .tileLoad => true
  | _ => false).map fun a => { a with age := 0 }
/-- Restores a saved task from its slot (R484, R485). -/
def State.bindSaved (s : State) (c : Nat) (k : Task) (wdb : BitVec 32) (slot : Nat) : State :=
  let obj := s.saveObj k.ctx
  let m := s.objSparse k.ctx obj (slotAt slot) 0x600000
  let side := s.side.find? fun r => r.isOf k.ctx k.lid k.gen k.index
  let s := s.changeOwner c k.ctx
  let s := s.modCore c fun x =>
    let base := match side with
      | some r => x.keep r.core
      | none => x.bare
    let k' := match side with
      | some r => { k with idem := (r.core.task.getD k).idem, spec := (r.core.task.getD k).spec, args := [] }
      | none => k
    let y := base.loadImage m k.vregs s.seq
    -- marks, fences and departures that its held loads follow or precede still order them (R472, R268)
    { y with task := some k', tt := .run, preempt := x.preempt, yielding := false, acc := base.orderings.foldl (fun l a => insertAcc a l) y.acc }
  let s := s.modSh c fun x => { x with budget := wdb }
  let p := (s.launch k.lid).packet
  let s := s.modCore c fun x => (List.range 10).foldl (fun (x : Core) n => x.modStream n fun t =>
    let q := s.kCode p n
    { t with codeOff := q.1, codeLen := q.2, ibuf := [], blocks := 0, fillAfter := 0, verdict := .none, replay := false, replays := 0,
             ending := false, asleep := false, wake := 0 }) x
  let s := s.modSh c fun x => { x with dda := s.catchUp x.dda }
  -- its handles pin their tiles in this cycle too (R313)
  let s := s.modCore c fun x => { x with soc := x.sh }
  let s : State := { s with
    marks := s.marks ++ (match side with | some r => r.marks.map fun m => m.moved c | none => [])
    seq := s.seq + 1024, side := s.side.filter fun r => !r.isOf k.ctx k.lid k.gen k.index }
  s.clearSlot k.ctx slot
/-- The budget that a bind record or a launch gives. -/
def State.wdbOf (s : State) (c lid : Nat) : BitVec 32 :=
  let r := s.activeRec c
  if brSrc r = 1 then (s.launch lid).wdb else BitVec.ofNat 32 (brWdb r)
/-- The debug port halts a stream with its join group (R373). -/
def Core.halt (x : Core) (n : Nat) : Core :=
  (allStreams.filter fun m => m == n || (m < 4 && (x.stream n).group.getLsbD m)).foldl
    (fun (y : Core) m => y.modStream m fun t => { t with halted := true }) x
/-- Halt requests that were held are taken before the restored task's first cycle (R488). -/
def Core.haltHeld (x : Core) : Core :=
  { ((allStreams.filter fun n => x.haltAsked.getLsbD n).foldl Core.halt x) with haltAsked := 0 }
/-- CONTEXT_RESTORE: the task that waits on a core is bound, from its saved image where it had one at the swap. -/
def State.restoreTask (s : State) (c : Nat) : State :=
  match (s.core c).task with
  | none => s
  | some k =>
    let s := s.modDie (dieOf c) fun d => { d with order := d.order.filter (·.1 ≠ c) }
    let wdb := s.wdbOf c k.lid
    let s := match k.saved with
      | some slot => s.bindSaved c k wdb slot
      | none => s.bindFresh c k wdb
    s.modCore c Core.haltHeld
/-- Whether a page of the image that a restore reads migrates. -/
def State.imageMigrates (s : State) (k : Task) : Bool :=
  match k.saved with
  | some slot => s.migrates k.ctx (s.saveObj k.ctx) (slotAt slot) 0x600000
  | none =>
    let im := s.kImage (s.launch k.lid).packet
    s.migrates k.ctx k.kobj (k.koff + im.1) im.2
/-- The context engine reads the image of the task that waits on a core; it stalls while a page of the image migrates (R430). -/
def State.contextRestore (s : State) (c : Nat) : State :=
  if (s.core c).tt = .restore ∧ s.engineHead (dieOf c) = some (c, false) ∧ (s.form (formOf c)).season = .summer then
    if s.imageMigrates (s.task c) then s.noteStall (.image c) else s.restoreTask c
  else s
def execContextRestore (core : Nat) (s : State) : Host.Outcome State Fault Refusal := answer (s.contextRestore core)

/-! ## Swaps (R352) -/

/-- Whether a ramp of the same unit already waits or runs. -/
def Ramp.same (a b : Ramp) : Bool := a.form == b.form && (if a.form then a.core / 4 == b.core / 4 else a.core == b.core && a.eng == b.eng)
/-- A ramp is asked for; one that draws on the reserve makes a waiting one of its unit do so. -/
def State.askRamp (s : State) (r : Ramp) : State :=
  s.modDie (dieOf r.core) fun d =>
    if d.ramps.any r.same then { d with ramps := d.ramps.map fun x => if r.same x then { x with reserve := x.reserve || r.reserve } else x }
    else { d with ramps := d.ramps ++ [r] }

/-- A core's new ACTIVE record acts: a restore, filler, or popping. A task that it names is looked up in its context's slot directory
here; a child of SPAWN never is (R352, R358, R484). -/
def State.activate (s : State) (c : Nat) (r : BitVec 128) : State :=
  let s := s.modCore c fun x => { x with tt := idleRole r, balanced := false }
  if !brValid r ∨ brSrc r ≠ 0 then s
  else
    let k := s.taskOf (brLid r) (brTask r) (brSpec r) (slice r.toNat 38 1) (slice r.toNat 37 1) []
    let k := { k with poolFix := brFix r, prio := brPrio r, ccls := brCcls r, saved := s.slotOf k.ctx k.lid k.gen k.index }
    (s.modCore c fun x => { x with task := some k, tt := .restore }).enqueueEngine c false
/-- FORM_SWAP: the NEXT records become ACTIVE together; a form in WINTER or MIDWINTER begins its SPRING (R385). -/
def State.swap (s : State) (f : Nat) : State :=
  let x := s.form f
  let cores := [0, 1, 2, 3].map fun i => 4 * f + i
  if x.next.isEmpty ∨ !s.powered ∨ !cores.all (fun c => (s.core c).spare) then s
  else
    let next := x.next
    let s := s.modForm f fun y => { y with active := next, next := [] }
    let s := if (x.season = .winter ∨ x.season = .midwinter) ∧ next.any (fun r => brValid r.2) then
        s.askRamp { core := 4 * f, form := true, units := 8 }
      else s
    let s := cores.foldl (fun (s : State) c => s.activate c (tabGet 0 next (c % 4))) s
    s.notice { kind := 4, core := 4 * f, form := f }
def execFormSwap (form : Nat) (s : State) : Host.Outcome State Fault Refusal := answer (s.swap form)

/-! ## Commits (R348, R351, R353) -/

/-- The staged record of a position. -/
def State.staged (s : State) (i : Nat) : BitVec 128 := tabGet 0 s.ttRec i
/-- What R349 asks of a record. -/
def State.recLegal (s : State) (r : BitVec 128) : Bool :=
  let l := s.launch (brLid r)
  slice r.toNat 88 8 == 0 && slice r.toNat 1 36 == 0 && brSrc r != 3 &&
    (match brSrc r with
      | 0 => !brValid r || (l.active && l.ctx == brCtx r)
      | 1 => brTask r == 0 && brLid r == 0 && slice r.toNat 37 3 == 0
      | _ => brTask r == 0 && brLid r == 0 && brCtx r == 0 && brPrio r == 0 && !brFix r && slice r.toNat 37 3 == 0)
/-- The outcome of a commit: the staged records are judged, and written, as they stand; the copy from the launch-table entry that R349
speaks of is the registrar's, who stages them (log 120). -/
def State.commitCode (s : State) : Nat :=
  let f := s.ttSel.toNat
  let rs := [0, 1, 2, 3].map s.staged
  let r0 := s.staged 0
  if rs.any fun r => brValid r != brValid r0 then 1
  else if brValid r0 && rs.any fun r => brCcls r != brCcls r0 || slice r.toNat 44 5 != slice r0.toNat 44 5 then 2
  else if rs.any fun r => !s.recLegal r then 3
  else if rs.any fun r => brValid r && brSrc r != 2 && brPrio r == 0 && !s.urgForms.getLsbD f then 4
  else if rs.any fun r => brValid r && brSrc r == 0 && (s.launch (brLid r)).tasks ≤ brTask r then 5
  else 0
/-- TT_COMMIT: the staged records are checked and become NEXT; a PREEMPT record sends its requests. -/
def State.ttCommitNow (s : State) : State :=
  let code := s.commitCode
  let s : State := { s with ttResult := BitVec.ofNat 3 code }
  if code ≠ 0 then s
  else
    let f := s.ttSel.toNat
    let next := [0, 1, 2, 3].map fun i => (i, s.staged i)
    let s := s.modForm f fun x => { x with next }
    let s := if next.any fun r => brPreempt r.2 then
        [0, 1, 2, 3].foldl (fun (s : State) i => s.modCore (4 * f + i) Core.request) s
      else s
    s.swapCheck f
def execTtCommit (s : State) : Host.Outcome State Fault Refusal := answer s.ttCommitNow

/-! ## Die queues (R53, R59, R359, R360) -/

/-- The descriptor that a popping core may take: the oldest of the most urgent class of its record's context and current class. -/
def State.popChoice (s : State) (c : Nat) : Option Child :=
  let r := s.activeRec c
  let q := (s.die (dieOf c)).queue
  (List.range (brPrio r + 1)).findSome? fun p =>
    q.find? fun d => d.published && d.ctx == brCtx r && chCcls d.desc == brCcls r && chPrio d.desc == p
/-- DIE_QUEUE_POP: a waiting core takes a descriptor and its restore begins. -/
def State.popChild (s : State) (c : Nat) : State :=
  if (s.core c).tt ≠ .popwait then s
  else match s.popChoice c with
    | none => s
    | some d =>
      let s := s.modDie (dieOf c) fun x => { x with queue := x.queue.erase d }
      let args := (List.range 3).map fun i => BitVec.ofNat 64 (slice d.desc.toNat (64 + 64 * i) 64)
      let k := s.taskOf (chLid d.desc) (chIndex d.desc) d.spec d.slot d.succ args
      let k := { k with prio := chPrio d.desc, ccls := chCcls d.desc, poolFix := brFix (s.activeRec c) }
      (s.modCore c fun x => { x with task := some k, tt := .restore }).enqueueEngine c false
def execDieQueuePop (core : Nat) (s : State) : Host.Outcome State Fault Refusal := answer (s.popChild core)
/-- OVERFLOW_DRAIN: the oldest overflow descriptor of a context for a die goes on chip, above the reserve. -/
def State.drainOverflow (s : State) (die ctx : Nat) : State :=
  let dies := (s.ctx ctx).ovfDies
  let all := s.ovfAll ctx
  if 4096 - ((s.die die).queue.length + (s.die die).freed) ≤ 256 then s
  else match dies.head?, all.head? with
    | some d, some desc =>
      if d ≠ die then s
      else
        let s := s.objWrite ctx (s.ovfObj ctx) 0 (leBytes 8 (s.ovfHead ctx + 1))
        let s := s.modCtx ctx fun k => { k with ovfDies := k.ovfDies.drop 1 }
        s.modDie die fun x => { x with queue := x.queue ++ [Child.ofDesc desc] }
    | _, _ => s
def execOverflowDrain (die ctx : Nat) (s : State) : Host.Outcome State Fault Refusal := answer (s.drainOverflow die ctx)

/-! ## Inboxes (R342, R344, R346) -/

/-- The bytes of host memory. -/
def State.hostBytes (s : State) (a n : Nat) : List Byte := rdBytes s.host a n
/-- A write to INBOX_TAIL; a tail more than SLOTS ahead is taken modulo SLOTS and its lost packets are marked. -/
def State.writeTail (s : State) (fn : Nat) (tail : BitVec 16) : State :=
  s.modFn fn fun f =>
    if f.slots = 0 ∨ f.flrBusy then f
    else
      let ahead := (tail - f.head).toNat
      if f.slots < ahead then
        { f with tail := f.head + BitVec.ofNat 16 (ahead % f.slots), lnchErr := true }
      else { f with tail }
def execInboxTail (fn : Nat) (tail : BitVec 16) (s : State) : Host.Outcome State Fault Refusal := answer (s.writeTail fn tail)
/-- LAUNCH_PACKET_ENTRY: the registrar takes the next packet; one that finds no free entry stays, and during a reset of the function the
inbox stands still (R439). -/
def State.takePacket (s : State) (fn : Nat) : State :=
  let f := s.fn fn
  if f.slots = 0 ∨ f.head = f.tail ∨ f.flrBusy then s
  else
    let p := s.hostBytes (f.inboxBase.toNat / 64 * 64 + 64 * (f.head.toNat % f.slots)) 64
    match s.submit fn none p with
    | (.full, _) => s
    | (_, s) => s.modFn fn fun f => { f with head := f.head + 1 }
def execLaunchPacketEntry (fn : Nat) (s : State) : Host.Outcome State Fault Refusal := answer (s.takePacket fn)

/-! ## The watchdog and the deadline monitor (R366 to R369) -/

/-- Whether a cycle of core c is an issue opportunity, judged at its start. -/
def Core.opportunity (x : Core) : Bool := x.tt == .run && !(x.liveStreams.any fun n => (x.stream n).halted)
/-- One issue opportunity. -/
def Shared.countDog (x : Shared) : Shared :=
  if x.budget = 0 then x
  else if x.subCount + 1 < 1024 then { x with subCount := x.subCount + 1 } else { x with subCount := 0, countK := x.countK + 1 }
/-- WATCHDOG_EXPIRY: COUNTK has just reached BUDGET; after RESUME the count goes on above it. -/
def State.watchdog (s : State) (c : Nat) : State :=
  let x := s.sh c
  if x.budget ≠ 0 ∧ x.budget = x.countK ∧ x.subCount = 0 ∧ (s.core c).tt = .run then s.takeFault c none 8 (x.budget.setWidth 64) true else s
def execWatchdogExpiry (core : Nat) (s : State) : Host.Outcome State Fault Refusal := answer (s.watchdog core)
/-- DEADLINE_MISS: as ELAPSED reaches DLN the monitor sets MISS and posts its notice; the function's deadline vector is raised. -/
def State.missDeadline (s : State) (lid : Nat) : State :=
  let l := s.launch lid
  if l.active ∧ l.dln ≠ 0 ∧ l.elapsed = l.dln ∧ 0 < l.remain ∧ !l.miss then
    ((s.modLaunch lid fun l => { l with miss := true }).notice { kind := 5, lid, ctx := l.ctx }).msix l.fn 2
  else s
def execDeadlineMiss (lid : Nat) (s : State) : Host.Outcome State Fault Refusal := answer (s.missDeadline lid)

end Sys2Proof.Machine
end

