-- ==== Sys2Proof/Machine/Power.lean ====
section
/-! DEFINITION. Power, clocks and heat: form imbalance and throttling (R377 to R383), seasons and their ramps (R384 to R389), the
thermal ceiling, trips and peers (R390 to R392), memory temperature (R393). -/

namespace Sys2Proof.Machine

/-! ## Form imbalance (R377 to R380) -/

/-- The current of a class at an FLL code, in mA (R375, R382). -/
def classMa (ccls code : Nat) : Nat := 500 * (ccls + 1) * (400 + 25 * code) / 1400
/-- A signed byte, saturating at ±127. -/
def devByte (d : Int) : Nat := ((max (-127) (min 127 d)) % 256).toNat
/-- MEAN and the deviations, in 10 mA units, of four currents in mA. -/
def imbalance (tot : List Nat) : Nat × List Int :=
  let mean := tot.foldl (· + ·) 0 / 4
  (mean, tot.map fun (x : Nat) => ((x : Int) - (mean : Int)).tdiv 10)
/-- The greatest deviation. -/
def peakOf (devs : List Int) : Nat := min 255 (devs.foldl (fun m d => max m d.natAbs) 0)
/-- FORM_IMB. -/
def imbWord (mean : Nat) (devs : List Int) : Word :=
  BitVec.ofNat 64 (mean % 65536 * 2 ^ 48 + peakOf devs * 2 ^ 32 +
    (List.range 4).foldl (fun n i => n + devByte (devs.getD i 0) * 2 ^ (8 * i)) 0)
/-- CCLS of a form: that of its valid ACTIVE records. -/
def Form.ccls (f : Form) : Nat := match f.active.find? fun r => brValid r.2 with | some r => brCcls r.2 | none => 0
/-- Whether a core runs filler at its form's class current, whatever PEAK shows: one of a bound form that is spare, stopped on a
fault or debug-halted, has an engine in WINTER, or has had one since the form was last swapped (R380, log 50). -/
def State.classFills (s : State) (c : Nat) : Bool :=
  let x := s.core c
  (s.form (formOf c)).active.any (fun r => brValid r.2) &&
    (x.spare || x.tt == .faulted || x.allHalted || x.balanced || x.sh.engines.any fun g => g.2.season == .winter)
/-- The sources of filler in their order of preference, in mA (R376): zero-weight MACs while MX is in SUMMER and has no started command,
multiply-adds in the idle VM slots of SUMMER clusters in the tick, and the shunt load. What the first two can draw is open (log 50). -/
def Core.fillSources (x : Core) : List Nat :=
  [Config.mxFiller (56 - x.mxUsed), Config.vmFiller (4 * 56 - x.vmUsed), 1000]
/-- What each source draws of a current that is asked: the first as far as it goes, then the next. -/
def drawFrom : List Nat → Nat → List Nat
  | [], _ => []
  | cap :: t, asked => min cap asked :: drawFrom t (asked - min cap asked)
/-- The filler of a core whose work draws w mA: what R379 and R380 ask of it, as far as its sources go, and whether that is their full
capacity. -/
def State.filler (s : State) (c w : Nat) : Nat × Bool :=
  let asked := if s.classFills c then classMa (s.form (formOf c)).ccls (s.freq c 4) - w else (s.core c).fillerMa
  if asked = 0 then (0, false)
  else
    let draws := drawFrom (s.core c).fillSources asked
    (draws.foldl (· + ·) 0, draws == (s.core c).fillSources)
/-- THR falls by a step, once in a tick, after sixteen calm ticks, with no thermal step owed (R383). -/
def State.relaxForm (s : State) (form : Nat) : State :=
  let f := s.form form
  if 16 ≤ f.calm ∧ !f.relaxed ∧ !(s.die (dieOf (4 * form))).excess then s.modForm form fun f => { f with thr := f.thr - 1, relaxed := true } else s
/-- The end of a tick for a form: FORM_IMB of the tick's currents in mA, work and filler of the four cores, and the response of R379.
`full` tells the cores whose filler ran at its full capacity. -/
def State.imbalanceTick (s : State) (form : Nat) (work filler : List Nat) (full : BitVec 4) : State :=
  let f := s.form form
  let w := (List.range 4).map fun i => work.getD i 0
  let z := (List.range 4).map fun i => filler.getD i 0
  let r := imbalance (w.zipWith (· + ·) z)
  let peak := peakOf r.2
  let atLimit := f.lim ≤ peak
  let step := (atLimit && (f.action == 1 || (f.action == 2 && f.hot && f.full))) || 100 ≤ peak
  let target := min (w.foldl max 0) (classMa f.ccls (s.freq (4 * form) 4))
  let fills := atLimit && f.action != 1
  let s := (List.range 4).foldl (fun (s : State) i =>
    s.modCore (4 * form + i) fun x =>
      let need := target - w.getD i 0
      { x with fillerMa := if fills || x.fillerMa != 0 then need else 0 }) s
  let s := s.modForm form fun f =>
    { f with imb := imbWord r.1 r.2, thr := min 48 (f.thr + b2n step), hot := atLimit, full := full != 0,
             calm := if 2 * peak < f.lim then f.calm + 1 else 0, relaxed := false, ticked := false }
  s.relaxForm form
/-- FORM_IMBALANCE_TICK: at the end of a tick, once, FORM_IMB is computed and the form responds; a reading of the meters that comes
within a tick is kept for its end (R377, log 50). -/
def execFormImbalanceTick (form : Nat) (work : List Nat) (filler : List Nat × BitVec 4) (s : State) : Host.Outcome State Fault Refusal :=
  answer (if 32 ≤ form then s
    else if (s.form form).ticked then s.imbalanceTick form work filler.1 filler.2
    else s.modForm form fun f => { f with reading := some (work, filler) })
def execThrottleRelax (form : Nat) (s : State) : Host.Outcome State Fault Refusal := answer (s.relaxForm form)
/-- The currents of a form in the tick that ends: the meters' reading, else the last work currents and the filler that they call for. -/
def State.meter (s : State) (f : Nat) : List Nat × List Nat × BitVec 4 :=
  match (s.form f).reading with
  | some r => r
  | none =>
    let z := (List.range 4).map fun i => s.filler (4 * f + i) ((s.form f).work.getD i 0)
    ((s.form f).work, z.map Prod.fst, BitVec.ofNat 4 ((List.range 4).foldl (fun n i => n + b2n (z.getD i (0, false)).2 * 2 ^ i) 0))
/-- The power of a die's forms, mW: the mean of a form's currents at 2.7 V (R375, R377, log 117). -/
def State.diePower (s : State) (d : Nat) : Nat :=
  ((tabKeys s.forms).filter fun f => f / 16 == d).foldl (fun n f =>
    let m := s.meter f
    n + (List.range 4).foldl (fun k i => k + m.1.getD i 0 + m.2.1.getD i 0) 0 / 4 * 27 / 10) 0
/-- A die's power joins its last 1,024 ticks, and its average is held against THERM_ALLOW, in permille of 150 W (R390). -/
def Die.heat (d : Die) (mw : Nat) : Die :=
  let power := if d.power.isEmpty ∧ mw = 0 then [] else (mw :: d.power).take 1024
  let sum := power.foldl (· + ·) 0
  let cap := 1024 * 150 * d.thermAllow
  { d with power, excess := cap < sum, cool := if 100 * sum < 95 * cap then min 1024 (d.cool + 1) else 0, moved := false }
/-- The end of a tick for the meters: every form's imbalance is due, then the dies' ceiling steps. -/
def State.meterTick (s : State) : State :=
  let fs := (tabKeys s.forms).filter fun f => f < 32
  let due := fs.map fun f => let m := s.meter f; Instr.formImbalanceTick f m.1 m.2
  let t := [0, 1].foldl (fun (t : State) d => t.modDie d fun x => x.heat (s.diePower d)) s
  let t := fs.foldl (fun (t : State) f => t.modForm f fun x => { x with work := (s.meter f).1, reading := none, ticked := true }) t
  let steps := [0, 1].flatMap fun d =>
    if (t.die d).excess then [Instr.thermalCeilingStep d false] else if 1024 ≤ (t.die d).cool then [Instr.thermalCeilingStep d true] else []
  { t with due := t.due ++ due ++ steps }

/-! ## Seasons (R384 to R389) -/

/-- Units of slew budget that a die's running ramps hold. -/
def Die.held (d : Die) : Nat := (d.ramps.filter fun r => r.running).foldl (fun n r => n + r.units) 0
/-- The units of an engine's ramp from WINTER. -/
def engineUnits (e : Nat) : Nat := if e = 2 then 4 else 1
/-- The ramp that may start next: a waiting reserve ramp before any ordinary one, each in request order. -/
def Die.nextRamp (d : Die) : Option Ramp :=
  match d.ramps.find? fun r => !r.running && r.reserve with
  | some r => if d.held + r.units ≤ 32 then some r else none
  | none => match d.ramps.find? fun r => !r.running with
    | some r => if d.held + r.units + d.slewResv ≤ 32 then some r else none
    | none => none
/-- The season of the unit of a ramp. -/
def State.putSeason (s : State) (r : Ramp) (v : Season) : State :=
  if r.form then s.modForm (formOf r.core) fun f => { f with season := v }
  else s.modSh r.core fun x => x.modEngine r.eng fun g => { g with season := v }
/-- SPRING_RAMP_START: the next ramp takes its units and its unit is in SPRING: 1.6 µs from WINTER, 40 µs from MIDWINTER. -/
def State.startRamp (s : State) (die : Nat) : State :=
  match (s.die die).nextRamp with
  | none => s
  | some r =>
    let mid := r.form && (s.form (formOf r.core)).season == .midwinter
    (s.putSeason r .spring).modDie die fun d =>
      { d with ramps := d.ramps.map fun x => if x.same r then { x with running := true, ticks := if mid then 1000 else 40 } else x }
def execSpringRampStart (die : Nat) (s : State) : Host.Outcome State Fault Refusal := answer (s.startRamp die)
/-- Whether every unit of a form has reached AUTUMN or above. -/
def State.formAwake (s : State) (f : Nat) : Bool :=
  let up (x : Season) : Bool := x == .summer || x == .autumn
  up (s.form f).season && [0, 1, 2, 3].all fun i => (s.sh (4 * f + i)).engines.all fun g => up g.2.season
/-- URG_FORMS bits whose forms are awake come to read 1 (R389). -/
def State.urgSettle (s : State) : State :=
  let ready := (List.range 32).filter fun f => s.urgWanted.getLsbD f && s.formAwake f
  let bits : BitVec 32 := ready.foldl (fun b f => b ||| BitVec.ofNat 32 (2 ^ f)) 0
  { s with urgForms := s.urgForms ||| bits, urgWanted := s.urgWanted &&& ~~~bits }
/-- SPRING_RAMP_DONE: a ramp whose SPRING has passed brings its unit to SUMMER and frees its units. -/
def State.endRamp (s : State) (die : Nat) : State :=
  match (s.die die).ramps.find? fun r => r.running && r.ticks == 0 with
  | none => s
  | some r =>
    ((s.putSeason r .summer).modDie die fun d => { d with ramps := d.ramps.filter fun x => !(x.same r) }).urgSettle
def execSpringRampDone (die : Nat) (s : State) : Host.Outcome State Fault Refusal := answer (s.endRamp die)
/-- URG_FORMS (R389): a bit set asks for reserve ramps of every unit below AUTUMN. -/
def State.writeUrg (s : State) (mask : BitVec 32) : State :=
  let s : State := { s with urgForms := s.urgForms &&& mask, urgWanted := mask &&& ~~~s.urgForms }
  let s := ((List.range 32).filter fun f => s.urgWanted.getLsbD f).foldl (fun (s : State) f =>
    let s := if (s.form f).season == .summer then s else s.askRamp { core := 4 * f, form := true, units := 8, reserve := true }
    [0, 1, 2, 3].foldl (fun (s : State) i =>
      ((s.sh (4 * f + i)).engines.filter fun g => g.2.season == .winter || g.2.season == .spring).foldl (fun (s : State) g =>
        s.askRamp { core := 4 * f + i, eng := g.1, units := engineUnits g.1, reserve := true }) s) s) s
  s.urgSettle
def execUrgForms (mask : BitVec 32) (s : State) : Host.Outcome State Fault Refusal := answer (s.writeUrg mask)

/-- Fields of a SEASON_REQ. -/
def srTarget (v : Word) : Nat := slice v.toNat 16 4
def srForm (v : Word) : Bool := v.getLsbD 8
def srEngines (v : Word) : List Nat := (List.range 6).filter fun e => v.getLsbD e
/-- Whether a request is malformed. -/
def srBad (v : Word) : Bool :=
  slice v.toNat 20 44 != 0 || slice v.toNat 9 7 != 0 || slice v.toNat 6 2 != 0 || !(srTarget v == 0 || srTarget v == 2 || srTarget v == 3) ||
    (srTarget v == 3 && !srForm v) || (srForm v == !(srEngines v).isEmpty)
/-- The units that a request names: bits 0 to 5 the engines, bit 6 the form. -/
def srUnits (v : Word) : BitVec 7 := if srForm v then 64 else v.setWidth 6 |>.setWidth 7
/-- Units of a mask that have not reached the target of a request. -/
def State.seasonLack (s : State) (c : Nat) (v : Word) (units : BitVec 7) : BitVec 7 :=
  let want : Season := if srTarget v = 0 then .summer else if srTarget v = 2 then .winter else .midwinter
  let at_ (n : Nat) : Bool := if n = 6 then (s.form (formOf c)).season == want else ((s.sh c).engine n).season == want
  (List.range 7).foldl (fun b n => if units.getLsbD n && at_ n then b &&& ~~~(BitVec.ofNat 7 (2 ^ n)) else b) units
/-- Whether every unit that a request names has reached its target. -/
def State.seasonReached (s : State) (c : Nat) (v : Word) : Bool := s.seasonLack c v (srUnits v) == 0
/-- Units that have reached the target are out of the request, whatever they do later; PENDING clears with the last. -/
def State.seasonSettle (s : State) (c : Nat) : State :=
  let x := s.core c
  if x.seasonRes.getLsbD 3 then
    let left := s.seasonLack c x.seasonReq x.seasonLeft
    s.modCore c fun x => { x with seasonLeft := left, seasonRes := if left = 0 then 0 else x.seasonRes }
  else s
/-- The end of a cycle for the pending requests; a form that waits for MIDWINTER has whatever task its cores hold saved (R385). -/
def State.seasonRound (s : State) : State :=
  ((tabKeys s.cores).filter fun c => c < 128 && (s.core c).seasonRes.getLsbD 3).foldl (fun (s : State) c =>
    let s := s.seasonSettle c
    let x := s.core c
    if x.seasonRes.getLsbD 3 && srTarget x.seasonReq == 3 then
      [0, 1, 2, 3].foldl (fun (s : State) i => s.modCore (4 * formOf c + i) Core.request) s
    else s) s
/-- SEASON_ENTRY: units that may now enter WINTER or MIDWINTER do: an engine that is empty and idle, a form whose cores are spare. -/
def State.enterSeason (s : State) (c : Nat) : State :=
  let x := s.core c
  let v := x.seasonReq
  let f := formOf c
  if !x.seasonRes.getLsbD 3 ∨ srTarget v = 0 then s.seasonSettle c
  -- a form whose URG_FORMS bit has been set meanwhile stays where it is (R386, R389, log 52)
  else if s.urgForms.getLsbD f ∨ s.urgWanted.getLsbD f then s.modCore c fun x => { x with seasonRes := 2 }
  else if srForm v then
    let cores := [0, 1, 2, 3].map fun i => 4 * f + i
    let from_ := (s.form f).season == .summer || (srTarget v == 3 && (s.form f).season == .winter)
    if from_ && cores.all (fun n => (s.core n).spare) then
      -- entry invalidates the OTCs, and writes back and invalidates CACHE (R429); MIDWINTER keeps nothing (R384)
      let s := cores.foldl (fun (s : State) n => (s.flushCache n).modCore n fun y => { y with otc := [] }) s
      let s := if srTarget v = 3 then cores.foldl (fun (s : State) n =>
          s.modCore n fun y => { y with sh := { y.sh with deck := [], deckV := false } }) s else s
      (s.modForm f fun y => { y with season := if srTarget v = 2 then .winter else .midwinter }).seasonSettle c
    else s
  else
    let s := s.modSh c fun y => (srEngines v).foldl (fun (y : Shared) e =>
      let g := y.engine e
      if (g.season == .summer || g.season == .autumn) && g.queue.isEmpty && g.run.isNone && g.wake == 0 then
        y.setEngine e { g with season := .winter } else y) y
    let s := s.modCore c fun x =>
      { x with balanced := x.balanced || (srEngines v).any fun e => (x.sh.engine e).season == .winter }
    s.seasonSettle c
def execSeasonEntry (core : Nat) (s : State) : Host.Outcome State Fault Refusal := answer (s.enterSeason core)
/-- A write to SEASON_REQ (R386, R387). -/
def State.seasonRequest (s : State) (c : Nat) (v : Word) : State :=
  let x := s.core c
  let done (code : Nat) : State := s.modCore c fun x => { x with seasonRes := BitVec.ofNat 4 code }
  if 128 ≤ c ∨ x.seasonRes.getLsbD 3 then s
  else if srBad v then done 1
  else if srTarget v ≠ 0 ∧ s.urgForms.getLsbD (formOf c) then done 2
  else
    let s := s.modCore c fun x => { x with seasonReq := v, seasonRes := 8, seasonLeft := srUnits v }
    let f := formOf c
    let s :=
      if srTarget v = 0 then
        if srForm v then
          if (s.form f).season == .summer then s else s.askRamp { core := 4 * f, form := true, units := 8 }
        else (srEngines v).foldl (fun (s : State) e =>
          match ((s.sh c).engine e).season with
          | .winter => s.askRamp { core := c, eng := e, units := engineUnits e }
          | .autumn => s.modSh c fun y => y.modEngine e fun g => if g.wake = 0 then { g with wake := 13, idleFor := 0 } else g
          | _ => s) s
      else if srTarget v = 3 then [0, 1, 2, 3].foldl (fun (s : State) i => s.modCore (4 * f + i) Core.request) s
      else s
    s.seasonSettle c
def execSeasonReqSummer (core : Nat) (val : BitVec 64) (s : State) : Host.Outcome State Fault Refusal := answer (s.seasonRequest core val)
def execSeasonReqWinter (core : Nat) (val : BitVec 64) (s : State) : Host.Outcome State Fault Refusal := answer (s.seasonRequest core val)
def execSeasonReqMidwinter (core : Nat) (val : BitVec 64) (s : State) : Host.Outcome State Fault Refusal := answer (s.seasonRequest core val)
/-- A core's seasons in one cycle: an engine in WINTER with a command asks for its ramp; one in AUTUMN wakes, of which this cycle is
the first of twelve (R385). -/
def State.seasonCycle (s : State) (c : Nat) : State :=
  (List.range 6).foldl (fun (s : State) e =>
    let g := (s.sh c).engine e
    let called := !g.queue.isEmpty || g.run.isSome || (e == 5 && (s.sh c).dda.restless)
    match g.season with
    | .winter => if g.queue.isEmpty ∧ g.run.isNone then s else s.askRamp { core := c, eng := e, units := engineUnits e }
    | .autumn => if called ∧ g.wake = 0 then s.modSh c fun y => y.setEngine e { g with wake := 12 } else s
    | _ => s) s

/-! ## Heat (R390 to R392) -/

/-- The class of a form: the most urgent of its bound records; an unbound form counts as BULK. -/
def Form.prio (f : Form) : Nat := (f.active.filter fun r => brValid r.2 && brSrc r.2 != 2).foldl (fun p r => min p (brPrio r.2)) 3
/-- The best of a list under an order. -/
def best (before : Nat → Nat → Bool) : List Nat → Option Nat
  | [] => none
  | x :: t => match best before t with
    | none => some x
    | some y => if before y x then some y else some x
/-- THERMAL_CEILING_STEP: the power controller lowers CEIL by a step on one form of the die, or raises it in the reverse order. -/
def State.ceilingStep (s : State) (die : Nat) (raise : Bool) : State :=
  let forms := (List.range 16).map fun i => 16 * die + i
  let p (f : Nat) : Nat := (s.form f).prio
  let k (f : Nat) : Nat := s.ceil f
  let first (a b : Nat) : Bool := p b < p a || (p a == p b && (k b < k a || (k a == k b && a < b)))
  let pick := if raise then best (fun a b => first b a) (forms.filter fun f => (s.form f).ceil < 48) else best first (forms.filter fun f => 0 < k f)
  match pick with
  | none => s
  | some f => s.modForm f fun x => { x with ceil := if raise then x.ceil + 1 else k f - 1 }
/-- A step takes place at most once in a tick: down while the average exceeds the allowance, up once it has stayed below 95 % of it
for 1,024 ticks. -/
def execThermalCeilingStep (die : Nat) (raise : Bool) (s : State) : Host.Outcome State Fault Refusal :=
  answer (
    let d := s.die die
    if die < 2 ∧ !d.moved ∧ (if raise then 1024 ≤ d.cool else d.excess) then
      (s.ceilingStep die raise).modDie die fun d => { d with moved := true }
    else s)
/-- A message on every trained Taloth port: a slow-down notice is the byte 1 and its code, a release notice the byte 0 (log 20). -/
def State.sendAll (s : State) (m : List Byte) : State := { s with sent := s.sent ++ s.peers.map fun p => (p.1, m) }
/-- The lowest CEIL of a die. -/
def State.lowestCeil (s : State) (die : Nat) : Nat := (List.range 16).foldl (fun m i => min m (s.ceil (16 * die + i))) 48
def State.slowDown (s : State) (die : Nat) : State :=
  (s.sendAll [1, BitVec.ofNat 8 (s.lowestCeil die)]).modDie die fun d => { d with tripTicks := 0 }
def execThermalTrip (die : Nat) (s : State) : Host.Outcome State Fault Refusal :=
  answer (if die < 2 ∧ !(s.die die).trip then (s.modDie die fun d => { d with thermAllow := 500, trip := true }).keeperVector.slowDown die else s)
def execThermalTripRelease (die : Nat) (s : State) : Host.Outcome State Fault Refusal :=
  answer (if (s.die die).trip then (s.modDie die fun d => { d with trip := false }).sendAll [0] else s)
/-- SLOW_DOWN_NOTICE_REPEAT: 100 µs, 2,500 ticks, after the last. -/
def State.repeatNotice (s : State) (die : Nat) : State := if (s.die die).trip ∧ 2500 ≤ (s.die die).tripTicks then s.slowDown die else s
def execSlowDownNoticeRepeat (die : Nat) (s : State) : Host.Outcome State Fault Refusal := answer (s.repeatNotice die)
def execSlowDownNotice (port : Nat) (code : BitVec 6) (s : State) : Host.Outcome State Fault Refusal :=
  answer (if s.peers.any (·.1 == port) then { s with peerCeil := tabPut s.peerCeil port (code.toNat, 0) } else s)
def execReleaseNotice (port : Nat) (s : State) : Host.Outcome State Fault Refusal :=
  answer { s with peerCeil := tabDel s.peerCeil port }
/-- PEER_CEILING_EXPIRY: 1 ms, 25,000 ticks, without a renewal. -/
def State.peerExpiry (s : State) (port : Nat) : State :=
  if s.peerCeil.any fun p => p.1 == port && 25000 ≤ p.2.2 then { s with peerCeil := tabDel s.peerCeil port } else s
def execPeerCeilingExpiry (port : Nat) (s : State) : Host.Outcome State Fault Refusal := answer (s.peerExpiry port)
/-- MEM_TEMP_READ (R393). -/
def State.memTemp (s : State) (ch temp : Nat) : State :=
  let cool := if temp ≤ 82 then tabGet 0 s.coolReads ch + 1 else 0
  let was := s.memTherm.getLsbD (8 * ch + 7)
  let hot := 85 < temp || (was && cool < 2)
  { s with memTherm := putBits s.memTherm (8 * ch) 8 (min 127 temp + 128 * b2n hot), coolReads := tabSet 0 s.coolReads ch cool }
def execMemTempRead (channel temp : Nat) (s : State) : Host.Outcome State Fault Refusal :=
  answer (if channel < 16 then s.memTemp channel temp else s)
/-- The power controller's part of a reference tick. -/
def State.powerTick (s : State) : State :=
  let s := [0, 1].foldl (fun (s : State) d =>
    s.modDie d fun x => { x with tripTicks := x.tripTicks + b2n x.trip, ramps := x.ramps.map fun r => if r.running then { r with ticks := r.ticks - 1 } else r }) s
  let s : State := { s with peerCeil := s.peerCeil.map fun p => (p.1, p.2.1, p.2.2 + 1) }
  let s : State := { s with cores := s.cores.map fun x => (x.1, { x.2 with clkNow := x.2.clkSet }) }
  let s := [0, 1].foldl (fun (s : State) d => ((s.die d).ramps.foldl (fun (s : State) _ => s.endRamp d) s).repeatNotice d) s
  let s := ((tabKeys s.peerCeil).foldl (fun (s : State) p => s.peerExpiry p) s).meterTick
  let clear (x : Core) : Core := { x with vmUsed := 0, mxUsed := 0 }
  { s with cores := s.cores.map fun x => (x.1, clear x.2), rest := clear s.rest }

end Sys2Proof.Machine
end

