-- ==== Sys2Proof/Machine/SensorPath.lean ====
section
/-! DEFINITION. From the sensor's packets to released sets: ports and streams (R302 to R306), frames and bad rows (R309 to R311),
the line-buffer processors (R307, R308), publication (R312 to R314) and roll-call (R316 to R319). -/

namespace Sys2Proof.Machine

/-! ## Fields of a stream -/

def Sensor.port (x : Sensor) : Nat := slice x.scfg.toNat 11 5
def Sensor.vc (x : Sensor) : Nat := slice x.scfg.toNat 7 4
def Sensor.policy (x : Sensor) : Nat := slice x.ran.toNat 66 2
def Sensor.lag (x : Sensor) (i : Nat) : Nat := slice x.ran.toNat (16 + 4 * i) 4
def Sensor.deadline (x : Sensor) : Nat := slice x.scfg.toNat 104 24
/-- Bytes of an output row. -/
def Sensor.rowSize (x : Sensor) : Nat := x.width * elemBytes x.ofmt
/-- TIME plus CORR (R309). -/
def Sensor.stamp (x : Sensor) (time : Word) : Word := time + ((BitVec.ofNat 16 (slice x.scfg.toNat 80 16)).signExtend 64)
/-- A saturating count (R306). -/
def bump (n : Nat) : Nat := min 65535 (n + 1)
/-- SERR. -/
def Sensor.serr (x : Sensor) : Word := BitVec.ofNat 64 (x.missing + 2 ^ 16 * x.corrupt + 2 ^ 32 * x.drop + 2 ^ 48 * x.skip)
/-- The running streams of a port, in ascending order. -/
def State.streamsOf (s : State) (port : Nat) : List Nat := (s.sensors.filter fun x => x.2.en && x.2.port == port).map Prod.fst
/-- The running stream of a port and virtual channel. -/
def State.streamAt (s : State) (port vc : Nat) : Option Nat := (s.streamsOf port).find? fun n => (s.sensor n).vc == vc
/-- Where the rows in flight are kept. -/
def rowKey (frame row : Nat) : Nat := 8192 * frame + row

/-! ## Filling bad rows (R310) -/

/-- A quotient rounded to nearest, ties to even. -/
def roundDiv (n d : Nat) : Nat :=
  let q := n / d
  let r := n % d
  if d < 2 * r ∨ (2 * r = d ∧ q % 2 = 1) then q + 1 else q
/-- INTERP between good rows a < j < b. -/
def interpolate (a j b : Nat) (va vb : List (BitVec 16)) : List (BitVec 16) :=
  (List.range (max va.length vb.length)).map fun i =>
    BitVec.ofNat 16 (roundDiv ((va.getD i 0).toNat * (b - j) + (vb.getD i 0).toNat * (j - a)) (b - a))
/-- The samples that a bad row takes; none while INTERP waits for a later good row. -/
def Sensor.fillFor (x : Sensor) (r : ChainRow) : Option (List (BitVec 16)) :=
  let before := match x.good with | some g => if g.1 = r.frame then some g.2 else none | none => none
  let same := match before with | some g => g.2 | none => []
  match x.policy with
  | 1 => some []
  | 2 =>
    match x.input.find? fun q => q.frame == r.frame && r.row < q.row && q.cls == 0 with
    | some b => some (match before with | some g => interpolate g.1 r.row b.row g.2 b.samples | none => b.samples)
    | none => if (match x.opened with | some f => f.frame == r.frame | none => false) then none else some same
  | _ => some same
/-- FLUSH runs stand behind the last input row of a processor (R308). -/
def Sensor.flushes (x : Sensor) (r : ChainRow) (stage : Nat) : List ChainRow :=
  if r.row + 1 = x.rpf then (List.range (x.lag stage)).map fun k => { frame := r.frame, row := x.rpf + k, cls := 3, stamp := r.stamp, stage }
  else []
/-- The next row that may enter the chain, and the stream without it. -/
def Sensor.enter (x : Sensor) : Option (ChainRow × Sensor) :=
  match x.input with
  | [] => none
  | r :: t =>
    let take (v : List (BitVec 16)) : Sensor :=
      { x with
        input := t
        good := if r.cls = 0 then some (r.frame, r.row, v) else x.good
        chain := x.chain ++ x.flushes r 0
        rows := tabPut x.rows (rowKey r.frame r.row) { cls := r.cls, stamp := r.stamp, ok := r.cls == 0 } }
    if r.cls = 0 then some (r, take r.samples)
    else match x.fillFor r with
      | some v => some ({ r with samples := v }, take v)
      | none => none
/-- The next row for the processor at a position of the chain, and the stream without it. -/
def Sensor.nextFor (x : Sensor) (stage : Nat) : Option (ChainRow × Sensor) :=
  match x.chain.find? fun r => r.stage == stage with
  | some r => some (r, { x with chain := x.chain.erase r })
  | none => if stage = 0 then x.enter else none
/-- A row arrives before a processor. -/
def Sensor.arrive (x : Sensor) (r : ChainRow) : Sensor := { x with chain := x.chain ++ r :: x.flushes r r.stage }
/-- INTERP on an element of a row of an output type (R310). -/
def interpElem (ty a j b va vb : Nat) : Nat :=
  if isFloatTy ty then
    match (fmtOf ty).val va, (fmtOf ty).val vb with
    | .fin na ma ea, .fin nb mb eb =>
      let z := addExact (signed na ma * (b - j : Nat)) ea (signed nb mb * (j - a : Nat)) eb
      -- the sum of two negative zeros is a negative zero (R93)
      let sum := if z.1 = 0 ∧ na ∧ nb then .fin true 0 0 else ofSigned z.1 z.2
      (divF (fmtOf ty) .rne sum (ofSigned (b - a : Nat) 0)).1
    | x, y => (addF (fmtOf ty) .rne x y).1
  else
    let n : Int := laneZ ty va * (b - j : Nat) + laneZ ty vb * (j - a : Nat)
    let d : Int := (b - a : Nat)
    let q := n / d
    let r := n % d
    wrapN (widthOf ty) (if d < 2 * r ∨ (2 * r = d ∧ q % 2 = 1) then q + 1 else q)
/-- INTERP on the bytes of output rows a < j < b. -/
def interpBytes (ty a j b : Nat) (va vb : List Byte) : List Byte :=
  let w := elemBytes ty
  let at_ (l : List Byte) (i : Nat) : Nat := leNat ((l.drop (w * i)).take w)
  (List.range (max va.length vb.length / w)).flatMap fun i => leBytes w (interpElem ty a j b (at_ va i) (at_ vb i))

/-! ## Line-buffer processors (R307, R308) -/

/-- The stream and row that processor l takes next. -/
def State.lbpNext (s : State) (l : Nat) : Option (Nat × ChainRow × Sensor) :=
  (s.streamsOf (l / 4)).findSome? fun n => ((s.sensor n).nextFor (l % 4)).map fun p => (n, p.1, p.2)
/-- Idle processors of a port's chain that have a row to run are due. -/
def State.kick (s : State) (port : Nat) : State :=
  (List.range 4).foldl (fun (s : State) i =>
    let l := 4 * port + i
    if !(s.lbp l).running && (s.lbpNext l).isSome && !s.due.contains (.lbpRowRun l) then { s with due := s.due ++ [.lbpRowRun l] } else s) s
/-- A row that processor l emits goes to the next processor, or to publication. -/
def State.emit (s : State) (l n frame row : Nat) (bytes : List Byte) : State :=
  if l % 4 < 3 then
    s.modSensor n fun x =>
      let info := tabGet {} x.rows (rowKey frame row)
      x.arrive { frame, row, cls := info.cls, stamp := info.stamp, samples := toSamples bytes, stage := l % 4 + 1 }
  else
    let s := s.modSensor n fun x => { x with out := x.out ++ [{ frame, row, bytes }] }
    { s with due := s.due ++ [.rowPublish n] }
/-- The row of a faulted run (R308, R310): filled from the last good row of the frame that the processor has emitted, and under
INTERP from the next one too (log 58). -/
def Lbp.fill (b : Lbp) (x : Sensor) (row : Nat) (next : Option (Nat × List Byte)) : List Byte :=
  let before := match b.last.lookup b.stream with
    | some g => if g.1 = b.frame ∧ g.2.1 < row then some g.2 else none
    | none => none
  match x.policy, before, next with
  | 1, _, _ => []
  | 2, some g, some q => interpBytes x.ofmt g.1 row q.1 g.2 q.2
  | 2, none, some q => q.2
  | _, some g, _ => g.2
  | _, none, _ => []
/-- The end of a run: the row that it gives is emitted. Under INTERP the row of a faulted run, and the rows behind it, wait until
the processor gives a good row of the frame, or its last row. -/
def State.endRun (s : State) (l : Nat) : State :=
  let b := s.lbp l
  let i := l % 4
  let x := s.sensor b.stream
  let s := s.modLbp l fun y => { y with running := false }
  let s : State := if b.failed then { s.keeperVector with lbpFaults := s.lbpFaults + 1 } else s
  let s :=
    if b.row < x.lag i then s
    else
      let n := b.row - x.lag i
      let key := rowKey b.frame n
      let info := tabGet {} x.rows key
      let bytes := rdBytes b.h1 0 x.rowSize
      let good := !b.failed && info.ok
      let s := if b.failed then s.modSensor b.stream fun x => { x with rows := tabPut x.rows key { info with ok := false } } else s
      let rows := tabGet [] b.wait b.stream ++ [(n, if b.failed then none else some bytes)]
      if x.policy = 2 ∧ !good ∧ n + 1 ≠ x.rpf ∧ (b.failed ∨ rows.length ≠ 1) then
        s.modLbp l fun y => { y with wait := tabPut y.wait b.stream rows }
      else
        let s := s.modLbp l fun y =>
          { y with wait := tabDel y.wait b.stream, last := if good then tabPut y.last b.stream (b.frame, n, bytes) else y.last }
        rows.foldl (fun (s : State) r =>
          s.emit l b.stream b.frame r.1 (r.2.getD (b.fill x r.1 (if good then some (n, bytes) else none)))) s
  s.kick (l / 4)
/-- LBP_ROW_RUN: a processor takes its next row. Without a program it moves the row that it emits; else its program starts. -/
def State.runRow (s : State) (l : Nat) : State :=
  if (s.lbp l).running then s
  else match s.lbpNext l with
    | none => s
    | some (n, r, x) =>
      let s := s.modSensor n fun _ => x
      let s := s.modLbp l fun b =>
        let b := { b with stream := n, frame := r.frame, row := r.row, cls := r.cls, h1 := [], failed := false }
        if r.cls = 3 then b else b.setRows ((r.samples.take 8192 :: (if r.row = 0 then [] else b.rows)).take 64)
      if (s.lbp l).len = 0 then
        -- the row that it emits stands at coordinate LAG, or nearer once FLUSH runs add no more rows
        let k := if r.cls = 3 then x.lag (l % 4) - (r.row - x.rpf + 1) else x.lag (l % 4)
        (s.modLbp l fun b => { b with h1 := wrBytes [] 0 ((b.rowBytes k).take x.rowSize) }).endRun l
      else
        (s.modLbp l fun b => { b with running := true }).modStream (128 + l) 0 fun t =>
          { t with pc := 0, codeLen := (s.lbp l).len, started := true, ended := false, ending := false, idle := 0, idleLoaded := false,
                   group := 0, verdict := .none }
def execLbpRowRun (lbp : Nat) (s : State) : Host.Outcome State Fault Refusal := answer (if lbp < 96 then s.runRow lbp else s)

/-! ## Rows and frames (R303, R309 to R311) -/

/-- Rows of an open frame from its next one up to j are MISSING. -/
def Sensor.miss (x : Sensor) (j : Nat) : Sensor :=
  match x.opened with
  | none => x
  | some f =>
    let rows := (List.range (j - f.nextRow)).map fun k => ({ frame := f.frame, row := f.nextRow + k, cls := 1, stamp := f.lastStamp } : ChainRow)
    { x with input := x.input ++ rows, missing := min 65535 (x.missing + rows.length),
             opened := some { f with nextRow := max f.nextRow j } }
/-- The open frame closes: rows that have not arrived are MISSING. -/
def Sensor.close (x : Sensor) : Sensor :=
  match x.opened with
  | none => x
  | some _ => { x.miss x.rpf with opened := none, closed := x.closed + 1 }
/-- A frame opens with its first packet; a frame still open closes. -/
def Sensor.openFrame (x : Sensor) (time : Word) : Sensor :=
  let x := x.close
  { x with opened := some { frame := x.frames, lastStamp := x.stamp time }, frames := (x.frames + 1) % 2 ^ 32 }
/-- A line start, or a lidar row's header: out of sequence it is discarded, else it reveals MISSING rows. -/
def Sensor.lineStart (x : Sensor) (line : Nat) : Sensor :=
  match x.opened with
  | none => { x with drop := bump x.drop }
  | some f =>
    if line ≤ f.lastLine ∨ x.rpf < line then
      { x with drop := bump x.drop, opened := some { f with announced := none, skipNext := true } }
    else
      let x := x.miss (line - 1)
      { x with opened := x.opened.map fun f => { f with lastLine := line, announced := some (line - 1), skipNext := false } }
/-- Rows of a port that wait in its chain's input buffer. -/
def State.buffered (s : State) (port : Nat) : Nat :=
  (s.streamsOf port).foldl (fun n k => n + ((s.sensor k).input.filter fun r => r.cls != 1).length) 0
/-- A row's samples have left the PHY: the announced row arrives, good or CORRUPT; the last row closes its frame. -/
def Sensor.rowArrives (x : Sensor) (time : Word) (crcBad full : Bool) (samples : List (BitVec 16)) : Sensor :=
  match x.opened with
  | none => { x with drop := bump x.drop }
  | some f =>
    match f.announced with
    | none =>
      if f.skipNext then { x with opened := some { f with skipNext := false, lastStamp := x.stamp time } } else { x with drop := bump x.drop }
    | some j =>
      if full then { x with drop := bump x.drop, opened := some { f with announced := none, lastStamp := x.stamp time } }
      else
        let stamp := x.stamp time
        let row : ChainRow := { frame := f.frame, row := j, cls := if crcBad then 2 else 0, stamp, samples := if crcBad then [] else samples.take 8192 }
        let x := { x with
          input := x.input ++ [row]
          corrupt := if crcBad then bump x.corrupt else x.corrupt
          opened := some { f with nextRow := j + 1, announced := none, lastStamp := stamp } }
        if j + 1 = x.rpf then x.close else x
/-- Acts on a stream and wakes its chain. -/
def State.atStream (s : State) (n : Nat) (f : Sensor → Sensor) : State := (s.modSensor n f).kick (s.sensor n).port
/-- A camera packet of a port and virtual channel. -/
def State.camera (s : State) (port vc : Nat) (f : Sensor → Sensor) : State :=
  match if port < 16 then s.streamAt port vc else none with | some n => s.atStream n f | none => s
/-- A packet with an uncorrectable header has no effect (R302). -/
def execCsi2FrameStart (port : Nat) (head : CsiHeader) (s : State) : Host.Outcome State Fault Refusal :=
  answer (if head.eccBad then s else s.camera port head.vc fun x => x.openFrame s.time)
def execCsi2FrameEnd (port : Nat) (head : CsiHeader) (s : State) : Host.Outcome State Fault Refusal :=
  answer (if head.eccBad then s else s.camera port head.vc Sensor.close)
def execCsi2LineStart (port : Nat) (head : CsiHeader) (line : Nat) (s : State) : Host.Outcome State Fault Refusal :=
  answer (if head.eccBad then s else s.camera port head.vc fun x => x.lineStart line)
/-- Bits of a sample of a data type (R302). -/
def csiBits : CsiData → Nat
  | .raw8 | .yuv422 => 8
  | .raw10 => 10
  | .raw12 => 12
  | .raw14 => 14
  | .raw16 => 16
  | .other => 0
/-- The samples of a long packet, each zero-extended into 16 bits. -/
def csiSamples (kind : CsiData) (l : List (BitVec 16)) : List (BitVec 16) := l.map fun v => BitVec.ofNat 16 (v.toNat % 2 ^ csiBits kind)
/-- A long packet with an uncorrectable header, or of another data type, has no effect (R302). -/
def execCsi2LongPacket (port vc : Nat) (kind : CsiData) (eccBad crcBad : Bool) (samples : List (BitVec 16)) (s : State) :
    Host.Outcome State Fault Refusal :=
  answer (if eccBad ∨ kind = .other then s
    else s.camera port vc fun x => x.rowArrives s.time crcBad (64 ≤ s.buffered port) (csiSamples kind samples))

/-! ## Lidar rows (R304) -/

/-- One bit of the reflected Ethernet CRC-32. -/
def crcBit (c : BitVec 32) : BitVec 32 := if c.getLsbD 0 then (c >>> 1) ^^^ 0xEDB88320 else c >>> 1
def crcByte (c : BitVec 32) (b : Byte) : BitVec 32 := (List.range 8).foldl (fun c _ => crcBit c) (c ^^^ b.setWidth 32)
/-- CRC-32 by the Ethernet polynomial. -/
def crc32 (l : List Byte) : BitVec 32 := ~~~(l.foldl crcByte 0xFFFFFFFF)
/-- A lidar frame opens with the first accepted row of its LFRAME; a row of it that was discarded before had left the PHY, and gives
the stamp of MISSING rows (R309, R311). -/
def Sensor.openLframe (x : Sensor) (time : Word) (lframe : Nat) : Sensor :=
  let y := x.openFrame time
  let stamp : Option Word := (x.early.filter fun e => e.1 == lframe).map Prod.snd
  { y with lframe := some lframe, early := none, opened := y.opened.map fun f => { f with lastStamp := stamp.getD f.lastStamp } }
/-- LIDAR_FRAME: one row behind its 16-byte header. A new LFRAME opens a frame with its first accepted row; a row of the frame that
has closed is discarded. -/
def State.lidar (s : State) (port : Nat) (p : List Byte) : State :=
  let lframe := bytesNat p 0 4
  let line := bytesNat p 4 2 + 1
  let data := (p.drop 16).take (2 * bytesNat p 6 2)
  let bad := data.length ≠ 2 * bytesNat p 6 2 ∨ (crc32 data).toNat ≠ bytesNat p 8 4
  if p.length < 16 ∨ (Config.headerCrc (p.take 14)).toNat ≠ bytesNat p 14 2 then s
  else match if 16 ≤ port then s.streamAt port 0 else none with
    | none => s
    | some n =>
      s.atStream n fun x =>
        let fresh := x.lframe ≠ some lframe
        let full : Bool := 64 ≤ s.buffered port
        if fresh ∧ x.rpf < line then { x with drop := bump x.drop }
        else if fresh ∧ full then { x with drop := bump x.drop, early := some (lframe, x.stamp s.time) }
        else
          let x := if fresh then x.openLframe s.time lframe else x
          match x.opened with
          | none => { x with drop := bump x.drop }
          | some _ =>
            let y := x.lineStart line
            y.rowArrives s.time bad full (toSamples data)
/-- A port takes frames of its EtherType that are addressed to its station (R304). -/
def execLidarFrame (port : Nat) (head : EtherFrame) (payload : List (BitVec 8)) (s : State) :
    Host.Outcome State Fault Refusal :=
  answer (if head.fcsBad ∨ 23 < port ∨ head.etherType ≠ 0x88B5 ∨ head.dst ≠ s.boot.stations.getD (port - 16) 0 then s else s.lidar port payload)
/-- FRAME_DEADLINE (R311). -/
def State.frameDeadline (s : State) (n : Nat) : State :=
  let x := s.sensor n
  if x.en && x.deadline != 0 && x.opened.any (fun f => x.deadline ≤ f.ticks) then s.atStream n Sensor.close else s
def execFrameDeadline (sn : Nat) (s : State) : Host.Outcome State Fault Refusal := answer (s.frameDeadline sn)
/-- A reference tick passes for the open frames. -/
def State.sensorTick (s : State) : State :=
  let s : State := { s with sensors := s.sensors.map fun x => (x.1, { x.2 with opened := x.2.opened.map fun f => { f with ticks := f.ticks + 1 } }) }
  let late := s.sensors.filter fun x => x.2.en && x.2.deadline != 0 && x.2.opened.any fun f => x.2.deadline ≤ f.ticks
  { s with due := s.due ++ late.map fun x => .frameDeadline x.1 }

/-! ## Publication (R311 to R314) -/

/-- Whether a core has begun its cycle in this round. -/
def State.begun (s : State) (c : Nat) : Bool := c < s.curCore || (c == s.curCore && s.phase != .prepare)
/-- Whether a tile is pinned: by a handle of a task, bound or saved, as it stood at the start of the cycle, or by a released set
(R313). -/
def State.pinned (s : State) (t : SensorTile) : Bool :=
  let holds (x : Shared) : Bool := x.handles.any fun h => dValid h.2.desc && h.2.bound == some t
  s.cores.any (fun x => holds (if s.begun x.1 then x.2.soc else x.2.sh)) || s.side.any (fun r => holds r.core.sh) ||
    s.groups.any fun g => g.2.given.contains t || g.2.queue.any fun q => q.held.any fun p => p.2 == t
/-- Roll-call consumes the poison of the tiles that its groups hold: a row with a poisoned word counts with validity 0 (R466, R308). -/
def State.rollPoison (s : State) : State :=
  let offered (n slot : Nat) : Bool := s.groups.any fun g => g.2.members.any fun m => m.2.offers.any fun o => o.tile.stream == n && o.tile.slot == slot
  s.marks.foldl (fun (s : State) m => match m with
    | .ringTile n slot w =>
      if offered n slot then s.modSensor n fun x =>
        let k := tabGet {} x.tiles slot
        { x with tiles := tabPut x.tiles slot { k with validity := k.validity &&& ~~~(BitVec.ofNat 64 (2 ^ (8 * w / dPitch x.boundDesc))) } }
      else s
    | _ => s) s
/-- A tile's slot is reused in a cycle in which an STBIND has bound a handle to it: the STBIND finds the tile GONE and binds nothing
(R313). -/
def State.loseBinds (s : State) (t : SensorTile) : State :=
  let late (x : Core) : List (Nat × Nat) := x.binds.filter fun b => (x.sh.handle b.1).bound == some t
  if s.cores.any fun x => !(late x.2).isEmpty then
    { s with cores := s.cores.map fun x =>
        let ls := late x.2
        let sh := ls.foldl (fun (y : Shared) b => y.setHandle b.1 {}) x.2.sh
        (x.1, { x.2 with sh, flight := x.2.flight.map fun f => if ls.any fun b => b.2 == f.id then { f with val := 2 } else f }) }
  else s
/-- The tile that a ring slot of a stream holds. -/
def RingTile.name (k : RingTile) (n slot : Nat) : SensorTile := { stream := n, frame := k.frame, tile := k.tile, slot }
/-- A tile that has become AVAILABLE is offered to AUTO members (R316); an offer of them that was held is this one. -/
def State.offerTile (s : State) (t : SensorTile) : State :=
  let o := s.offerOf t
  { s with groups := s.groups.map fun g =>
      (g.1, (List.range 8).foldl (fun (g : RollGroup) m =>
        let x := g.member m
        if mEn x.record && mAuto x.record && mStream x.record == t.stream then g.offer m o else g) g.2) }
/-- The held offers of a group whose tiles have become AVAILABLE are made at the end of the tick (R338). -/
def State.offerHeld (s : State) (g : RollGroup) : RollGroup :=
  let ready (t : SensorTile) : Bool := (s.sensor t.stream).tileState t.frame t.tile == 0
  (List.range 8).foldl (fun (g : RollGroup) m =>
    let x := g.member m
    let now := x.held.filter ready
    if now.isEmpty then g
    else now.foldl (fun (g : RollGroup) t => g.offer m (s.offerOf t)) (g.setMember m { x with held := x.held.filter fun t => !ready t })) g
/-- A row advance of stream n clocks a row-clocked domain, whatever RUN and the row's validity, and its row taps (R221, R224). -/
def Dda.rowAdvance (g : Dda) (n : Nat) (frame : BitVec 32) (row : BitVec 16) : Dda :=
  [0, 1, 2, 3].foldl (fun (g : Dda) d =>
    let x := g.dom d
    if x.kind = 3 ∧ x.stream = n then
      (g.setDom d { x with rowFrm := frame, rowNum := row, taps := x.taps.map (· + 1) }).trigger d 1
    else g) g
/-- A row advance reaches the fields of all cores. -/
def State.rowAdvance (s : State) (n : Nat) (frame : BitVec 32) (row : BitVec 16) : State :=
  { s with cores := s.cores.map fun x =>
      if x.2.counts then (x.1, { x.2 with sh := { x.2.sh with dda := x.2.sh.dda.rowAdvance n frame row } }) else x }
/-- ROW_PUBLISH: samples, then validity and stamps, then the position, in one update. The rings hold any amount: what happens where
rings and TSTORE tiles together exceed the tile store the spec does not say (DESIGN CHOICE, log 113). -/
def State.publishRow (s : State) (n : Nat) : State :=
  let x := s.sensor n
  match x.out with
  | [] => s
  | o :: rest =>
    let th := x.height
    let i := o.row % th
    let info := tabGet {} x.rows (rowKey o.frame o.row)
    let slot := x.slotOf o.frame (o.row / th)
    let old := tabGet {} x.tiles slot
    let fresh := i = 0 ∧ !s.pinned (old.name n slot)
    let k : RingTile := if fresh then { frame := o.frame, tile := o.row / th, live := true, bytes := old.bytes } else old
    let stored := k.live && k.frame == o.frame && k.tile == o.row / th
    let s := if fresh then s.loseBinds (old.name n slot) else s
    let bytes := (o.bytes ++ List.replicate x.rowSize 0).take x.rowSize
    let last := i + 1 == th
    let k := { k with
      bytes := wrBytes k.bytes (i * dPitch x.boundDesc) bytes
      validity := if info.ok then k.validity ||| BitVec.ofNat 64 (2 ^ i) else k.validity
      first := if i = 0 then info.stamp else k.first
      last := if last then info.stamp else k.last
      avail := last }
    let s := s.modSensor n fun x =>
      { x with
        out := rest
        rows := tabDel x.rows (rowKey o.frame o.row)
        tiles := if stored then tabPut x.tiles slot k else x.tiles
        skip := if stored then x.skip else bump x.skip
        lastStamp := info.stamp
        frame := BitVec.ofNat 32 o.frame
        row := BitVec.ofNat 16 (o.row + 1) }
    let s := s.heal fun m => match m with
      | .ringTile a b w => a == n && b == slot && (fresh || wordIn w (i * dPitch x.boundDesc) x.rowSize)
      | _ => false
    let s := s.rowAdvance n (BitVec.ofNat 32 o.frame) (BitVec.ofNat 16 (o.row + 1))
    if stored && last then s.offerTile (k.name n slot) else s
def execRowPublish (sn : Nat) (s : State) : Host.Outcome State Fault Refusal := answer (s.publishRow sn)

/-! ## Configuration (R305, R306) -/

/-- What a write that sets EN must satisfy. -/
def scfgLegal (v : BitVec 128) : Bool :=
  let x : Sensor := { scfg := v, ran := v }
  slice v.toNat 96 8 == 0 && slice v.toNat 32 3 == 0 && slice v.toNat 1 6 == 0 && slice v.toNat 74 6 != 0 && x.policy != 3 &&
    [1, 4, 5, 9, 10].contains x.ofmt && x.port < 24 && (x.port < 16 || x.vc == 0) && x.rpf % x.height == 0
/-- SCFG without its reserved fields (R3). -/
def scfgFields (v : BitVec 128) : BitVec 128 := putBits (putBits (putBits v 96 8 0) 32 3 0) 1 6 0
/-- Tiles of a stream leave the offers of every group; held offers too. -/
def RollGroup.withdraw (g : RollGroup) (gone : SensorTile → Bool) : RollGroup :=
  { g with
    members := g.members.map fun m =>
      (m.1, { m.2 with offers := m.2.offers.filter fun o => !gone o.tile, held := m.2.held.filter fun t => !gone t })
    heldRef := match g.heldRef with | some o => if gone o.tile then none else some o | none => none }
/-- Setting EN: the position returns to (0, 0) and every tile is GONE; a pinned slot stays until it is unpinned. -/
def State.enableStream (s : State) (n : Nat) (v : BitVec 128) : State :=
  let x := s.sensor n
  let tiles := (x.tiles.filter fun k => s.pinned (k.2.name n k.1)).map fun k => (k.1, { k.2 with live := false })
  let s := s.modSensor n fun x =>
    { scfg := v, ran := v, skip := x.skip, drop := x.drop, corrupt := x.corrupt, missing := x.missing, tiles }
  -- no row of an earlier run stands for one of this run
  let s := (List.range 4).foldl (fun (s : State) i =>
    s.modLbp (4 * (s.sensor n).port + i) fun b => { b with last := tabDel b.last n, wait := tabDel b.wait n }) s
  { s with groups := s.groups.map fun g => (g.1, g.2.withdraw fun t => t.stream == n) }
/-- Clearing EN: accepted rows that are not published are dropped, the open frame is abandoned, held offers are never made. -/
def State.disableStream (s : State) (n : Nat) : State :=
  let x := s.sensor n
  let lost := (x.input.filter fun r => r.cls != 1).length + (x.rows.filter fun r => r.2.cls != 1).length
  let s := s.modSensor n fun x =>
    { x with scfg := putBits x.scfg 0 1 0, drop := min 65535 (x.drop + lost), opened := none, input := [], chain := [], out := [], rows := [] }
  let s := (List.range 4).foldl (fun (s : State) i =>
    let l := 4 * x.port + i
    let s := s.modLbp l fun b => { b with wait := tabDel b.wait n }
    if (s.lbp l).running && (s.lbp l).stream == n then
      (s.modLbp l fun b => { b with running := false }).modCore (128 + l) fun y => { y with flight := [] }
    else s) s
  let s : State := { s with groups := s.groups.map fun g =>
      (g.1, { g.2 with members := g.2.members.map fun m => (m.1, { m.2 with held := m.2.held.filter fun t => t.stream != n }) }) }
  -- processors that have become free take the rows of the port's other streams
  s.kick x.port
/-- A write to SCFG. -/
def State.writeScfg (s : State) (n : Nat) (v : BitVec 128) : State :=
  let x := s.sensor n
  if 64 ≤ n then s
  else if x.en then if v.getLsbD 0 then s else s.disableStream n
  else if !v.getLsbD 0 then s.modSensor n fun x => { x with scfg := scfgFields v }
  else if scfgLegal v then s.enableStream n v
  else s.modSensor n fun x => { x with scfg := putBits (scfgFields v) 0 1 0 }
def execScfgEnable (sn : Nat) (val : BitVec 128) (s : State) : Host.Outcome State Fault Refusal := answer (s.writeScfg sn val)
def execScfgDisable (sn : Nat) (val : BitVec 128) (s : State) : Host.Outcome State Fault Refusal := answer (s.writeScfg sn val)
/-- A write to SERR_CTL. -/
def State.writeSerrCtl (s : State) (n : Nat) (v : Word) : State :=
  if n < 64 ∧ v.getLsbD 0 then s.modSensor n fun x => { x with skip := 0, drop := 0, corrupt := 0, missing := 0 } else s
def execSerrCtlClr (sn : Nat) (val : BitVec 64) (s : State) : Host.Outcome State Fault Refusal := answer (s.writeSerrCtl sn val)

/-! ## Roll-call (R317 to R319) -/

/-- The distance of two times. -/
def timeGap (a b : Int) : Nat := (a - b).natAbs
/-- The in-window offer nearest T_ref, the earlier on a tie. -/
def nearestOffer (tref : Int) : List Offer → Option Offer
  | [] => none
  | o :: t => match nearestOffer tref t with
    | none => some o
    | some q =>
      if timeGap o.time tref < timeGap q.time tref ∨ (timeGap o.time tref = timeGap q.time tref ∧ o.time ≤ q.time) then some o else some q
/-- The in-window tile of a member. -/
def Member.inWindow (m : Member) (tref : Int) : Option Offer := nearestOffer tref (m.offers.filter fun o => timeGap o.time tref ≤ mWin m.record)
/-- The latest offered tile before the window, no older than AGE. -/
def Member.history (m : Member) (tref : Int) : Option Offer :=
  (m.offers.filter fun o => o.time < tref - mWin m.record && tref - o.time ≤ mAge m.record).getLast?
/-- What a member holds in a released set: its tile and flag. -/
def Member.entry (m : Member) (tref : Int) : Option Offer × Nat :=
  if !mEn m.record then (none, 2)
  else match m.inWindow tref with
    | some o => (some o, 0)
    | none => match m.history tref with
      | some o => (some o, 1)
      | none => (none, 2)
/-- Whether a member no longer holds the set back. -/
def Member.settled (m : Member) (tref time : Int) : Bool :=
  !mEn m.record || (m.inWindow tref).isSome || tref + mWin m.record + mLat m.record ≤ time
/-- One evaluation of a group at the end of a tick. A group queues four sets; a fifth discards the oldest. -/
def RollGroup.tick (g : RollGroup) (time : Int) : RollGroup :=
  if g.ref.isNone then g
  else
    match g.opened with
    | none => g
    | some r =>
      let ms := (List.range 8).map g.member
      if !ms.all fun m => m.settled r.time time then g
      else
        let set : RollSet := { tref := r.time, entries := ms.map fun m => m.entry r.time }
        let full := 4 ≤ g.queue.length
        -- the held reference opens the next set before any offer of the next tick (R318)
        { g with opened := g.heldRef, heldRef := none, queue := (if full then g.queue.drop 1 else g.queue) ++ [set], lost := g.lost + b2n full }
/-- ROLL_CALL_TICK: held offers are made, tiles that have become GONE are withdrawn, then every group is evaluated. -/
def State.rollCall (s : State) : State :=
  let s := s.rollPoison
  let gone (t : SensorTile) : Bool := match s.ringTile t with | some k => !k.2.live | none => true
  { s with groups := s.groups.map fun g => (g.1, ((s.offerHeld g.2).withdraw gone).tick s.time.toNat) }
def execRollCallTick (s : State) : Host.Outcome State Fault Refusal := answer s.rollCall

end Sys2Proof.Machine
end

