-- ==== Sys2Proof/Machine/Recovery.lean ====
section
/-! DEFINITION. Resolving faults (R454 to R460), timing errors and soft errors (R461 to R466), and the debug port's halts (R373,
R488). -/

namespace Sys2Proof.Machine

/-! ## FF_CTL (R454 to R460) -/

/-- Whether a write to FF_CTL is taken: by the registrar, or by the function that owns the context of the bound task; and only
while the frame holds a fault and no snapshot value stands refused (R487). -/
def State.ctlTaken (s : State) (c : Nat) (writer : Option Nat) : Bool :=
  let x := s.core c
  c < 128 && x.tt == .faulted && x.frame.valid && x.snapBad.isEmpty && x.task.isSome &&
    (match writer with | none => true | some fn => s.fnOfCtx (s.task c).ctx == fn)
def State.ctlResume (s : State) (c : Nat) (writer : Option Nat) : State :=
  if s.ctlTaken c writer then s.modCore c fun x => { x.resume with ctl := [] } else s
def execFfCtlResume (core : Nat) (writer : Option Nat) (s : State) : Host.Outcome State Fault Refusal := answer (s.ctlResume core writer)
/-- Whether access b, which is not to be performed, keeps access a from it: a later one of its stream, or a departure from a barrier
that b stands before (R267, R450). -/
def Access.keeps (b a : Access) : Bool :=
  b.stream == a.stream && b.id < a.id ||
    match a.kind with | .rendezvous mask before => mask.testBit b.stream && b.id < before && b.kind.moves | _ => false
/-- The accesses that a fault holds at the memory port, with those that stand behind them: none is performed before the fault is
resolved (R450). -/
def Core.stuckIds (x : Core) : List Nat :=
  x.acc.foldl (fun l a => if a.held || x.acc.any fun b => l.contains b.id && b.keeps a then a.id :: l else l) []
/-- Whether a fault keeps an access from being performed. -/
def Core.stuck (x : Core) (a : Access) : Bool := x.stuckIds.contains a.id
/-- The publication of a SPAWN's descriptor. -/
def AccKind.spawns : AccKind → Bool
  | .spawnPub _ => true
  | _ => false
/-- Issued stores, atomics and SPAWN publications that are still to be performed before the task may end (R450, R462). -/
def Core.lagging (x : Core) : Bool := x.acc.any fun a => (a.kind.stores || a.kind.atomics || a.kind.spawns) && !x.stuck a
/-- The entries that the task's SPAWNs have reserved are published, whatever held access they follow (R462). -/
def State.publishAll (s : State) (c : Nat) : State :=
  ((s.core c).acc.filter fun a => a.kind.spawns).foldl (fun (s : State) a => match a.kind with | .spawnPub d => s.publish c a d | _ => s) s
/-- ABANDON: what has issued passes its commit lag first (R450); what a migration stalls makes it wait. Held accesses and the engines'
work go with the task (R456, log 124). -/
def State.ctlAbandon (s : State) (c : Nat) (writer : Option Nat) : State :=
  if s.ctlTaken c writer then
    let s := if (s.core c).lagging then s.drainAll c else s
    if (s.core c).lagging then s.modCore c fun x => { x with ctl := [(writer, 2)] }
    else (s.publishAll c).abandonTask c
  else s
def execFfCtlAbandon (core : Nat) (writer : Option Nat) (s : State) : Host.Outcome State Fault Refusal := answer (s.ctlAbandon core writer)
/-- ABORT: an idempotent task's provisional sectors go, and the task returns to the registrar unretired, with the object and page of
FF_INFO (R460, log 92). -/
def State.ctlAbort (s : State) (c : Nat) (writer : Option Nat) : State :=
  let t := s.task c
  if s.ctlTaken c writer ∧ (s.core c).frame.cause.getLsbD 14 then
    let back : Returned := { ctx := t.ctx, lid := t.lid, gen := t.gen, task := t.index, info := (s.core c).frame.info }
    { (s.discard (.idem t.ctx t.lid t.gen t.index)).dropTask c with returned := s.returned ++ [back] }
  else s
def execFfCtlAbort (core : Nat) (writer : Option Nat) (s : State) : Host.Outcome State Fault Refusal := answer (s.ctlAbort core writer)
/-- A write to FF_CTL: one bit of the three, or nothing; what it asks for happens at the end of the cycle (R454, R455). A value
with a reserved bit of [31:3] beside its one bit is dropped whole (DESIGN CHOICE, log 135). -/
def State.writeFfCtl (s : State) (c : Nat) (writer : Option Nat) (v : Nat) : State :=
  if s.ctlTaken c writer ∧ (v = 1 ∨ v = 2 ∨ (v = 4 ∧ (s.core c).frame.cause.getLsbD 14)) then
    s.modCore c fun x => { x with ctl := x.ctl ++ [(writer, v)] }
  else s
/-- The write to FF_CTL that a cycle takes: the registrar's, else the owning function's first (R454). -/
def Core.ctlChoice (x : Core) : Option (Option Nat × Nat) := (x.ctl.find? fun w => w.1.isNone).or x.ctl.head?
/-- The end of a cycle for FF_CTL. -/
def State.ctlRound (s : State) : State :=
  (s.cores.filter fun x => !x.2.ctl.isEmpty).foldl (fun (s : State) x =>
    let s := s.modCore x.1 fun y => { y with ctl := [] }
    match x.2.ctlChoice with
    | some (w, 1) => s.ctlResume x.1 w
    | some (w, 2) => s.ctlAbandon x.1 w
    | some (w, _) => s.ctlAbort x.1 w
    | none => s) s

/-! ## Timing errors and soft errors (R461 to R466) -/

/-- TIMING_ERROR_REPLAY: the next cycle of a stream's unit, or of engine n - 10, or a commit stage of an access, is a repeat; the
sixteenth in succession is a soft error. -/
def State.timingError (s : State) (c n : Nat) (commit : Option Nat) : State :=
  let x := s.core c
  match commit with
  | some id => match x.access id with
    | none => s
    | some a =>
      if a.lag = 0 then s
      else if 15 ≤ a.repeats then (s.setAcc c { a with lag := a.lag + 1, repeats := 0, again := true }).takeFault c (some a.stream) 9 (softInfo 7 0 true) true
      else (s.setAcc c { a with lag := a.lag + 1, repeats := a.repeats + 1, again := true }).modStream c a.stream fun t => t.count 3
  | none =>
    if n < 10 then
      let t := x.stream n
      if x.tt ≠ .run ∨ !t.started ∨ t.ended then s
      else if 15 ≤ t.replays then (s.modStream c n fun t => { t with replay := true, replays := 0 }).takeFault c (some n) 9 (softInfo 7 0 false) true
      else s.modStream c n fun t => { t with replay := true, replays := t.replays + 1 }
    else
      let e := n - 10
      let g := x.sh.engine e
      -- a command in progress, one that would start, or the field's steps are the cycle's work
      let works := g.run.isSome || !g.queue.isEmpty || (e == 5 && x.sh.dda.restless)
      if 5 < e ∨ !works ∨ !(x.tt == .run || x.tt == .faulted || x.tt == .save) then s
      else if 15 ≤ g.replays then
        (s.modSh c fun y => y.modEngine e fun g => { g with replays := 0, stall := true }).takeFault c
          (some (match g.run with | some r => r.cmd.stream | none => (g.queue.head?.map Cmd.stream).getD n)) 9 (softInfo 7 0 false) true
      else s.modSh c fun y => y.modEngine e fun g => { g with stall := true, replays := g.replays + 1 }
def execTimingErrorReplay (core stream : Nat) (commit : Option Nat) (s : State) : Host.Outcome State Fault Refusal :=
  answer (if core < 128 then s.timingError core stream commit else s)
/-- SOFT_ERROR_CONSUMED: a stream, engine or slice of a core, or a line-buffer processor, consumes poisoned data. -/
def State.softError (s : State) (c : Nat) (st : Option Nat) (store : BitVec 4) (number : BitVec 8) (commit : Bool) : State :=
  if isLbp c then if (s.lbp (c - 128)).running then s.takeFault c st 9 0 true else s
  else if [TtState.run, .faulted, .save].contains (s.core c).tt then s.takeFault c st 9 (softInfo store.toNat number.toNat commit) true
  else s
def execSoftErrorConsumed (core : Nat) (stream : Option Nat) (store : BitVec 4) (number : BitVec 8) (commit : Bool) (s : State) :
    Host.Outcome State Fault Refusal := answer (s.softError core stream store number commit)
/-- KEEPER_SCRUB: single-bit errors are corrected and counted (R465). From 2^32 on the operand also names a word in which the scrub finds
an uncorrectable error: it is marked, and the keeper's vector is raised (R466, log 28). -/
def execKeeperScrub (corrected : Nat) (s : State) : Host.Outcome State Fault Refusal :=
  let s : State := { s with corrected := s.corrected + corrected % 2 ^ 32 }
  answer (if corrected < 2 ^ 32 then s else (s.markBad (corrected / 2 ^ 32)).keeperVector)

/-! ## The debug port (R373, R488) -/

/-- DEBUG_HALT_REQUEST: the stream halts with its group; during a save or a restore the request is held. -/
def State.haltRequest (s : State) (c n : Nat) : State :=
  let x := s.core c
  if 128 ≤ c ∨ 10 ≤ n then s
  else match x.tt with
    | .run | .faulted => s.modCore c fun x => x.halt n
    | .save | .restore => s.modCore c fun x => { x with haltAsked := x.haltAsked ||| streamBit n }
    | _ => s
def execDebugHaltRequest (core stream : Nat) (s : State) : Host.Outcome State Fault Refusal := answer (s.haltRequest core stream)
/-- DEBUG_RESUME: the stream and its group issue again, unless a snapshot value stands refused (R487). -/
def State.haltRelease (s : State) (c n : Nat) : State :=
  if 10 ≤ n ∨ !(s.core c).snapBad.isEmpty then s
  else s.modCore c fun x =>
    let x := { x with haltAsked := x.haltAsked &&& ~~~(streamBit n) }
    (allStreams.filter fun m => m == n || (m < 4 && (x.stream n).group.getLsbD m)).foldl
      (fun (y : Core) m => y.modStream m fun t => { t with halted := false }) x
def execDebugResume (core stream : Nat) (s : State) : Host.Outcome State Fault Refusal := answer (s.haltRelease core stream)

end Sys2Proof.Machine
end

