-- ==== Sys2Proof/Machine/Host.lean ====
section
/-! DEFINITION. The host's and the registrar's side: table commands, shoot-downs and migration (R427 to R430), function-level and
device reset (R439, R443), attestation (R446), the time base (R309), and the register windows (R356, R436, R437). -/

namespace Sys2Proof.Machine

/-! ## Shoot-downs (R429) -/

/-- Whether an access of a core has translated to a page of a command and no home slice has accepted it yet. -/
def OtCmd.meets (o : OtCmd) (ctx : Nat) (pg : Bool) (a : Access) : Bool :=
  a.translated && ctx == o.ctx && a.cap.obj == o.obj &&
    ((o.op == 0 && o.page == 0xFFFFF) || a.pieces.any fun p => p.pos / pageSize pg ≤ o.page && o.page ≤ (p.pos + p.size - 1) / pageSize pg)
/-- The page size of an object. -/
def State.pgOf (s : State) (ctx obj : Nat) : Bool := match s.descr ctx obj with | some d => descPg d | none => false
/-- An access that is to be translated again. -/
def Access.forget (a : Access) : Access := { a with translated := false, pieces := a.pieces.map fun p => { p with at_ := [] } }
/-- What a receiver does before it acknowledges: a core drops its entries, writes back its CACHE sectors of the context and drops
them, and what a fault or a save keeps from the home slice is translated anew when it goes on (R431, R472); a die's second-level
cache, receiver 128 + die, drops its entries. -/
def State.purge (s : State) (o : OtCmd) (r : Nat) : State :=
  if 128 ≤ r then s.modDie (r - 128) fun d => { d with tlb := d.tlb.filter fun e => !o.covers e }
  else
    let keys := ((s.core r).cache.filter fun k => k.2.ctx == o.ctx).map Prod.fst
    let meets := o.meets (s.task r).ctx (s.pgOf o.ctx o.obj)
    let s := keys.foldl (fun (s : State) k => s.writeBack r k) s
    if keys.isEmpty && !(s.core r).otc.any o.covers && !(s.core r).acc.any meets then s
    else s.modCore r fun x => { x with
      otc := x.otc.filter fun e => !o.covers e, cache := x.cache.filter fun k => k.2.ctx != o.ctx
      acc := x.acc.map fun a => if meets a then a.forget else a }
/-- Whether a receiver can acknowledge now. What a core in SAVE gives up is waited for by nobody, nor is what a fault holds, with all
that stands behind it (R429, R431, R472). -/
def State.canAck (s : State) (o : OtCmd) (r : Nat) : Bool :=
  128 ≤ r || (!(s.core r).acc.any (fun a => !(s.core r).leaves a && !(s.core r).stuck a && o.meets (s.task r).ctx (s.pgOf o.ctx o.obj) a) &&
    ((s.form (formOf r)).season != .spring || (s.core r).otc.isEmpty))
/-- The receivers of a shoot-down. -/
def shootDownReceivers : List Nat := List.range 130
/-- Cores that acknowledge in the cycle of receipt: those of forms in WINTER and MIDWINTER, and of forms in SPRING with an invalid
OTC (R429). -/
def State.ackAtOnce (s : State) (r : Nat) : Bool :=
  r < 128 && (match (s.form (formOf r)).season with
    | .winter | .midwinter => true
    | .spring => (s.core r).otc.isEmpty
    | _ => false)

/-! ## Table commands (R427, R428, R430) -/

/-- Why a command fails: 1 BADARG, 2 SPEC, 0 for one that runs. -/
def State.otCheck (s : State) (o : OtCmd) : Nat :=
  if 2 < o.op ∨ !(s.ctx o.ctx).cfg.getLsbD 0 ∨ s.fnOfCtx o.ctx ≠ o.fn then 1
  else match s.descr o.ctx o.obj with
    | none => 1
    | some d =>
      let all := o.op = 0 ∧ o.page = 0xFFFFF
      let e := s.pageEntry d o.page
      if !all ∧ descPages d ≤ o.page then 1
      else if o.op = 0 then 0
      else if !e.testBit 0 ∨ descHost d then 1
      else if o.op = 2 then 0
      else if (descPg d ∧ slice o.arg.toNat 17 4 ≠ 0) ∨ Config.deviceBytes ≤ o.arg.toNat ∨
          s.inTagStore (o.arg.toNat / 2 ^ 17 * 2 ^ 17) (pageSize (descPg d)) then 1
      else
        let base := e / 2 ^ 17 * 2 ^ 17
        if s.prov.any fun p => base ≤ p.addr && p.addr < base + pageSize (descPg d) then 2 else 0
/-- DIRTY: every dirty L2 sector of the 2 MiB is written back, and the bitmap is copied and cleared. -/
def State.otDirty (s : State) (o : OtCmd) : State :=
  match s.descr o.ctx o.obj with
  | none => s
  | some d =>
    let base := s.pageEntry d o.page / 2 ^ 21 * 2 ^ 21
    let wrote (l : Nat × L2Line) : Bool := base ≤ 128 * l.1 && 128 * l.1 < base + 2 ^ 21 && l.2.secs.contains .dirty
    let units := (s.l2.filter wrote).foldl (fun (t : Tab Bool) l => tabSet false t (l.1 / 32) true) s.dirtyUnits
    let bits := (List.range 512).foldl (fun n i => n + b2n (tabGet false units (base / 4096 + i)) * 2 ^ i) 0
    let s : State := { s with
      l2 := s.l2.map fun l => if wrote l then (l.1, { l.2 with secs := l.2.secs.map fun x => if x = .dirty then .clean else x }) else l
      dirtyUnits := units.filter fun u => !(base / 4096 ≤ u.1 && u.1 < base / 4096 + 512) }
    s.modFn o.fn fun f => { f with otData := BitVec.ofNat 512 bits }
/-- Rewrites the low bits and frame of a page entry. -/
def State.putEntry (s : State) (o : OtCmd) (f : Nat → Nat) : State :=
  match s.descr o.ctx o.obj with
  | none => s
  | some d =>
    let a := descPt d * 4096 + 8 * o.page
    s.cohWrite none ((leBytes 8 (f (s.pageEntry d o.page))).zipIdx.map fun x => (false, a + x.2, x.1))
/-- The head command finishes with a code. -/
def State.otDone (s : State) (o : OtCmd) (code : Nat) : State :=
  { s.modFn o.fn (fun f => { f with otBusy := false, otCode := BitVec.ofNat 2 code }) with otQueue := s.otQueue.drop 1 }
/-- Takes one acknowledgement of the head command. The last one finishes an INVAL, and lets a MIGRATE copy. -/
def State.takeAck (s : State) (r : Nat) : State :=
  match s.otQueue with
  | [] => s
  | o :: t => match o.waits with
    | none => s
    | some w =>
      if !w.contains r || !s.canAck o r then s
      else
        let s := s.purge o r
        let w := w.erase r
        let s : State := { s with otQueue := { o with waits := some w } :: t }
        if !w.isEmpty then s
        else if o.op = 0 then s.otDone o 0
        else { s with due := s.due ++ [.migrationCopy] }
/-- The head command starts, where it has not; a failing one and a DIRTY finish at once, and the next one starts. -/
def State.otStart (s : State) : Nat → State
  | 0 => s
  | fuel + 1 =>
    match s.otQueue with
    | [] => s
    | o :: t =>
      if o.waits.isSome then s
      else
        let code := s.otCheck o
        if code ≠ 0 then (s.otDone o code).otStart fuel
        else if o.op = 2 then ((s.otDirty o).otDone o 0).otStart fuel
        else
          let s := if o.op = 1 then s.putEntry o fun e => e ||| 2 else s
          let s : State := { s with otQueue := { o with waits := some shootDownReceivers } :: t }
          let s := (if s.patience = 0 then shootDownReceivers.filter s.ackAtOnce else shootDownReceivers).foldl State.takeAck s
          s.otStart fuel
/-- A write to OT_CMD. -/
def State.writeOtCmd (s : State) (fn : Nat) (v : Word) : State :=
  if (s.fn fn).otBusy ∨ 5 ≤ fn then s
  else
    let n := v.toNat
    let o : OtCmd := { fn, op := slice n 60 4, ctx := slice n 56 4, obj := slice n 32 24, page := slice n 0 20, waits := none, arg := (s.fn fn).otArg }
    let s := s.modFn fn fun f => { f with otBusy := true }
    ({ s with otQueue := s.otQueue ++ [o] } : State).otStart 8
def execOtCmdInval (fn : Nat) (val : BitVec 64) (s : State) : Host.Outcome State Fault Refusal := answer (s.writeOtCmd fn val)
def execOtCmdMigrate (fn : Nat) (val : BitVec 64) (s : State) : Host.Outcome State Fault Refusal := answer (s.writeOtCmd fn val)
def execOtCmdDirty (fn : Nat) (val : BitVec 64) (s : State) : Host.Outcome State Fault Refusal := answer (s.writeOtCmd fn val)
/-- SHOOT_DOWN_ACK: the next command starts where the head has finished. -/
def execShootDownAck (receiver : Nat) (s : State) : Host.Outcome State Fault Refusal := answer ((s.takeAck receiver).otStart 8)
/-- The entries of a table within a range of keys, copied by a distance. -/
def copyTab {α : Type} (t : Tab α) (lo n dst : Nat) : Tab α :=
  (t.filter fun x => lo ≤ x.1 && x.1 < lo + n).foldl (fun t x => tabPut t (x.1 - lo + dst) x.2) (t.filter fun x => !(dst ≤ x.1 && x.1 < dst + n))
/-- The entries of a table within a range of keys, moved by a distance. -/
def moveTab {α : Type} (t : Tab α) (lo n dst : Nat) : Tab α :=
  let inside (k : Nat) : Bool := lo ≤ k && k < lo + n
  (t.filter fun x => inside x.1).foldl (fun t x => tabPut t (x.1 - lo + dst) x.2)
    (t.filter fun x => !inside x.1 && !(dst ≤ x.1 && x.1 < dst + n))
/-- The L2 lines of a page move with it, its sectors in their states. -/
def State.moveLines (s : State) (old size new : Nat) : State :=
  let inside (lo : Nat) (l : Nat × L2Line) : Bool := lo / 128 ≤ l.1 && l.1 < (lo + size) / 128
  let ls := s.l2.filter (inside old)
  let s : State := { s with l2 := s.l2.filter fun l => !inside old l && !inside new l }
  ls.foldl (fun (s : State) l => (l.2.secs.zipIdx.filter fun x => x.1 != .invalid).foldl (fun (s : State) x =>
    s.touchL2 (128 * l.1 - old + new + 32 * x.2) x.1) s) s
/-- An address of a page's old frame as one of its new frame. -/
def movedTo (old size new a : Nat) : Nat := if old ≤ a ∧ a < old + size then a - old + new else a
/-- The page of a MIGRATE moves: data and tags are copied, with the provisional bytes that a write-back has left there meanwhile and
the poisoned sectors; dirty bits and tag summary bits move, so that the old frame's tags go with their summary (R426, log 133); then its entry changes (R272, R430). -/
def State.movePage (s : State) (o : OtCmd) : State :=
  match s.descr o.ctx o.obj with
  | none => s
  | some d =>
    let size := pageSize (descPg d)
    let old := s.pageEntry d o.page / 2 ^ 17 * 2 ^ 17
    let new := o.arg.toNat / 2 ^ 17 * 2 ^ 17
    let s : State := if old = new then s else State.moveLines { s with
      dev := copyTab s.dev old size new
      devTags := moveTab s.devTags (old / 16) (size / 16) (new / 16)
      poison := s.poison.map fun p => (p.1, movedTo (old / 32) (size / 32) (new / 32) p.2)
      prov := s.prov.map fun p => { p with addr := movedTo old size new p.addr }
      provTags := s.provTags.map fun p => (p.1, movedTo (old / 16) (size / 16) (new / 16) p.2.1, p.2.2)
      tagSums := moveTab s.tagSums (old / 4096) (size / 4096) (new / 4096)
      dirtyUnits := moveTab s.dirtyUnits (old / 4096) (size / 4096) (new / 4096) } old size new
    s.putEntry o fun _ => new + 1
/-- What has stalled at a memory port goes there again. -/
def State.serveStall (s : State) : StallAt → State
  | .access c id => s.performAcc c id
  | .engine c e => s.serveEngine c e
  | .fill c n block => s.fillBlock c n block
  | .image c => (s.contextSave c).contextRestore c
  | .write ctx obj off bs => s.objWrite ctx obj off bs
/-- Everything that stalls goes to its memory port again, and is performed there as far as it may be, in the order in which it stalled
(R430). -/
def State.unstall (s : State) : State := s.stalls.foldl State.serveStall { s with stalls := [] }
/-- MIGRATION_COPY: after all acknowledgements the page moves, and the accesses that stalled go to the memory port again. -/
def State.migrate (s : State) : State :=
  match s.otQueue with
  | [] => s
  | o :: _ =>
    if o.op ≠ 1 ∨ o.waits ≠ some [] then s
    else
      let s := (s.movePage o).unstall
      ((s.otDone o 0).otStart 8)
def execMigrationCopy (s : State) : Host.Outcome State Fault Refusal := answer s.migrate
/-- Completes the head command at once, whatever has not been acknowledged. -/
def State.otForce (s : State) : State :=
  match s.otQueue with
  | [] => s
  | o :: t => match o.waits with
    | none => s
    | some w =>
      let s := w.foldl (fun (s : State) r => s.purge o r) s
      let s : State := { s with otQueue := { o with waits := some [] } :: t }
      if o.op = 1 then s.migrate else s.otDone o 0

/-! ## Resets (R439, R443) -/

/-- The valid contexts of a function. -/
def State.ctxsOf (s : State) (fn : Nat) : List Nat := (List.range 16).filter fun c => (s.ctx c).cfg.getLsbD 0 && s.fnOfCtx c == fn
/-- Whether the firmware loaded is at least what the record accepts (R444). -/
def firmwareAccepted (r : BootRecord) : Bool := r.lowest.1 ≤ r.versions.1 && r.lowest.2 ≤ r.versions.2
/-- DEVICE_RESET: every register as after reset; the host's memory and what the model itself counts go on. A failed check of the
firmware or the record, or firmware older than the record accepts, leaves the array dies unpowered, and nothing of the record is taken (log 125). -/
def State.deviceReset (s : State) (signed : Bool) (record : BootRecord) : State :=
  let verified := signed && firmwareAccepted record
  { State.reset with
    host := s.host, boot := if verified then record else State.reset.boot, bootErr := !verified, powered := verified
    hostTime := verified && record.hostTime, sent := s.sent, seq := s.seq,
    free := s.free, outside := s.outside, patience := s.patience }
def execDeviceReset (verified : Bool) (record : BootRecord) (s : State) : Host.Outcome State Fault Refusal :=
  answer (s.deviceReset verified record)
/-- A core after the scrub of R440: every register file, queue, event, tag, handle and condition-code record, the field, the nest and
format tables, MAT and the deck hold zero, CACHE is invalid, and nothing is in flight. -/
def Core.scrubbed (x : Core) : Core :=
  let y := x.bare
  { y with cache := [], sh := { y.sh with deck := [], deckV := false } }
/-- One core that a function-level reset stops: its task ends, and its deck and CACHE are scrubbed. -/
def State.resetCore (s : State) (c : Nat) : State :=
  ((s.dropTask c).heal fun m => m.onCore == some c).modCore c Core.scrubbed
/-- FUNCTION_LEVEL_RESET of a virtual function: steps 1 to 4. A reset of the physical function resets the device, whose firmware and
record pass or fail their checks as they did before. -/
def State.resetFunction (s : State) (fn : Nat) : State :=
  if fn = 0 then s.deviceReset (!s.bootErr) s.boot
  else if 5 ≤ fn then s
  else
    let cs := s.ctxsOf fn
    let mine (c : Nat) : Bool := cs.contains c
    let s := s.modFn fn fun f => { f with flrBusy := true }
    let s := if s.otQueue.head?.any (·.fn == fn) then s.otForce else s
    let s : State := { s with otQueue := s.otQueue.filter fun o => o.fn != fn || o.waits.isSome }
    let cores := (s.cores.filter fun x => x.1 < 128 && x.2.task.any fun t => mine t.ctx).map Prod.fst
    let s := cores.foldl State.resetCore s
    let lids := (s.launches.filter fun l => l.2.active && mine l.2.ctx).map Prod.fst
    let s := lids.foldl (fun (s : State) l => s.freeLaunch l 3) s
    let ofIdent (i : Ident) : Bool := match i with | .spec c _ _ => mine c | .idem c _ _ _ => mine c
    let lost := s.prov.filter fun p => ofIdent p.ident
    let s : State := { s with
      side := s.side.filter fun r => !mine r.ctx
      prov := s.prov.filter fun p => !ofIdent p.ident
      provTags := s.provTags.filter fun p => !ofIdent p.1
      cores := s.cores.map fun x => (x.1, { x.2 with cache := x.2.cache.filter fun k => !mine k.2.ctx, otc := x.2.otc.filter fun e => !mine e.ctx })
      dies := s.dies.map fun d => (d.1, { d.2 with queue := d.2.queue.filter fun k => !mine k.ctx, tlb := d.2.tlb.filter fun e => !mine e.ctx }) }
    let s := s.unprovision lost
    cs.foldl (fun (s : State) c =>
      let s := if (s.ctx c).ovfDies.isEmpty then s else s.ovfPut c [] []
      s.modCtx c fun k => { k with specs := 0, tsUsed := 0, ovfDies := [], ovfComing := [], ovfFreed := 0 }) s
def execFunctionLevelReset (fn : Nat) (s : State) : Host.Outcome State Fault Refusal := answer (s.resetFunction fn)
/-- FLR_DONE: step 5, the window's registers return to their reset values. -/
def State.resetWindow (s : State) (fn : Nat) : State :=
  if !(s.fn fn).flrBusy then s
  else
    let s := (s.ctxsOf fn).foldl (fun (s : State) c => s.modCtx c fun k => { k with otRoot := 0, otLen := 0 }) s
    s.modFn fn fun _ => {}
def execFlrDone (fn : Nat) (s : State) : Host.Outcome State Fault Refusal := answer (s.resetWindow fn)

/-! ## Attestation (R446) and the time base (R309) -/

/-- A write to ATT_CMD. -/
def State.attStart (s : State) : State := if s.attBusy then s else { s with attBusy := true, attDone := false }
def execAttCmd (s : State) : Host.Outcome State Fault Refusal := answer s.attStart
/-- The signed part of a report: the digests that the keeper has verified at boot, that of the record XOR-ed with the nonce. -/
def State.attSigned (s : State) : BitVec 768 := s.boot.digests ^^^ (s.attNonce ++ (0 : BitVec 512))
/-- The report comes to stand: the hashes of both firmwares, that of the record XOR the nonce, and the identity key's signature over
them. A report of other digests or another signature is none of the keeper's, and does not come about (log 125). -/
def State.attReady (s : State) (keeper registrar config r v : BitVec 256) : State :=
  if !s.attBusy ∨ config ++ registrar ++ keeper ≠ s.boot.digests ∨ v ++ r ≠ Config.attSignature s.attSigned then s
  else { s with attBusy := false, attDone := true, attReport := v ++ r ++ s.attSigned }
def execAttestationReportDone (keeper registrar config r s : BitVec 256) (st : State) : Host.Outcome State Fault Refusal :=
  answer (st.attReady keeper registrar config r s)
/-- TIME_SYNC_MESSAGE of the source that the record selects: a forward error is taken up with the next tick, one over 10 ms as a
step, and one that would set TIME back is slewed (R309, R341, log 70). -/
def State.syncTime (s : State) (host synced : Bool) (time : Word) : State :=
  if host ≠ s.hostTime then s
  else
    let s : State := { s with sync := synced }
    if s.time.toNat ≤ time.toNat then
      { s with timeAhead := time.toNat - s.time.toNat, slewOwed := 0 }
    else { s with timeAhead := 0, slewOwed := s.time.toNat - time.toNat }
def execTimeSyncMessage (host synced : Bool) (time : BitVec 64) (s : State) : Host.Outcome State Fault Refusal :=
  answer (s.syncTime host synced time)

/-! ## Registers of a function's window (R436, R437) -/

/-- Whether a context has a bound task, or an active launch. -/
def State.ctxBound (s : State) (c : Nat) : Bool := s.cores.any fun x => x.2.task.any (·.ctx == c)
def State.ctxBusy (s : State) (c : Nat) : Bool := s.ctxBound c || s.launches.any fun l => l.2.active && l.2.ctx == c
/-- Entry i of a table of registers of `step` bytes from `base` on, with the offset inside it. -/
def regAt (off base step n : Nat) : Option (Nat × Nat) :=
  if base ≤ off ∧ off < base + step * n then some ((off - base) / step, (off - base) % step) else none
/-- CTX_CFG (R432). -/
def State.writeCtxCfg (s : State) (c : Nat) (v : Word) : State :=
  if s.ctxBusy c then s
  else
    let n := v.toNat
    let quota := min 160 (slice n 32 8)
    let valid := v.getLsbD 0 && slice n 23 3 < 5
    let cfg : Word := BitVec.ofNat 64 (slice n 40 24 * 2 ^ 40 + quota * 2 ^ 32 + slice n 23 9 * 2 ^ 23 + b2n valid)
    let others := ((List.range 16).filter fun k => k != c && (s.ctx k).cfg.getLsbD 0).foldl (fun t k => t + slice (s.ctx k).cfg.toNat 32 8) 0
    if valid ∧ 160 < others + quota then s else s.modCtx c fun k => { k with cfg }
/-- Whether a stream of a chain's port runs. -/
def State.chainRuns (s : State) (chain : Nat) : Bool := !(s.streamsOf chain).isEmpty
/-- The device-wide registers of the physical function's window. -/
def State.writePf (s : State) (off : Nat) (val : BitVec 128) : State :=
  let v : Word := val.setWidth 64
  match regAt off 0x20000 8 16 with
  | some (c, 0) => s.writeCtxCfg c v
  | _ =>
  match regAt off 0x20080 8 16 with
  | some (c, 0) =>
    if s.ctxBusy c then s
    else s.modCtx c fun k => { k with save := BitVec.ofNat 64 (slice v.toNat 0 24 + slice v.toNat 32 8 * 2 ^ 32) }
  | _ =>
  match regAt off 0x20100 8 16 with
  | some (c, 0) => s.modCtx c fun k => { k with sread := v }
  | _ =>
  match regAt off 0x20180 8 16 with
  | some (g, 0) => s.modGroup g fun x => { x with ctx := slice v.toNat 0 4, assigned := v.getLsbD 4 }
  | _ =>
  match regAt off 0x20300 8 4 with
  | some (i, 0) => if s.attBusy then s else { s with attNonce := putBits s.attNonce (64 * i) 64 v.toNat }
  | _ =>
  match regAt off 0x30000 0x20 64 with
  | some (n, 0) => s.writeScfg n val
  | some (n, 8) =>
    -- a write of the upper half alone does not write EN
    if (s.sensor n).scfg.getLsbD 0 then s else s.modSensor n fun x => { x with scfg := scfgFields (putBits x.scfg 64 64 v.toNat) }
  | some (n, 0x18) => s.writeSerrCtl n v
  | _ =>
  match regAt off 0x31000 8 96 with
  | some (l, 0) =>
    if s.chainRuns (l / 4) ∨ 1024 < slice v.toNat 0 11 then s else s.modLbp l fun b => { b with len := slice v.toNat 0 11 }
  | _ =>
  match regAt off 0x40000 8 (1024 * 96) with
  | some (i, 0) =>
    if s.chainRuns (i / 4096) then s else s.modLbp (i / 1024) fun b => { b with code := tabSet 0 b.code (i % 1024) v }
  | _ =>
    if off = 0x20200 then
      if s.tagBaseSet then s else { s with tagBase := BitVec.ofNat 64 (v.toNat / 2 ^ 21 * 2 ^ 21), tagBaseSet := true }
    else if off = 0x20320 then s.attStart
    else s
/-- Whether n is a legal INBOX_SIZE. -/
def slotsLegal (n : Nat) : Bool := n == 0 || (List.range 15).any fun k => n == 2 ^ (k + 1)
/-- A write to a function's window. -/
def State.writeFn (s : State) (fn off : Nat) (val : BitVec 128) : State :=
  let v : Word := val.setWidth 64
  if 5 ≤ fn then s
  else
  match regAt off 0x1000 0x20 16 with
  | some (c, r) =>
    if !(s.ctxsOf fn).contains c ∨ s.ctxBound c then s
    else if r = 0 then s.modCtx c fun k => { k with otRoot := BitVec.ofNat 64 (v.toNat / 4096 * 4096) }
    else if r = 8 then s.modCtx c fun k => { k with otLen := BitVec.ofNat 32 (v.toNat % 2 ^ 24) }
    else s
  | none =>
  match regAt off 0x10000 0x80 128 with
  | some (c, 0x18) => s.writeFfCtl c (some fn) (v.toNat % 2 ^ 32)
  | some _ => s
  | none =>
    match off with
    | 0x0 => s.modFn fn fun f => { f with inboxBase := BitVec.ofNat 64 (v.toNat / 64 * 64) }
    | 0x8 => if slotsLegal (v.toNat % 65536) then s.modFn fn fun f => { f with slots := v.toNat % 65536 } else s
    | 0x10 => s.writeTail fn (v.setWidth 16)
    | 0x20 => s.modFn fn fun f => { f with noRec := f.noRec && !v.getLsbD 3, lnchErr := f.lnchErr && !v.getLsbD 0 }
    | 0x100 => s.writeOtCmd fn v
    | 0x108 => s.modFn fn fun f => { f with otArg := v }
    | _ => if fn = 0 then s.writePf off val else s

/-! ## The registrar's window (R356), the keeper's own registers, the debug port -/

/-- CLK_SET: five codes, each at most 48 (R382). -/
def clkSetOf (v : Word) : BitVec 30 := BitVec.ofNat 30 ((List.range 5).foldl (fun n i => n + min 48 (slice v.toNat (6 * i) 6) * 64 ^ i) 0)
/-- A write to the registrar's window. THERM_ALLOW is the keeper's, and FORM_TEMP is read-only. -/
def State.writeRegistrar (s : State) (off : Nat) (val : BitVec 128) : State :=
  let v : Word := val.setWidth 64
  let n := v.toNat
  match regAt off 0x10 16 4 with
  | some (i, 0) => { s with ttRec := tabSet 0 s.ttRec i val }
  | some (i, 8) => { s with ttRec := tabSet 0 s.ttRec i (putBits (tabGet 0 s.ttRec i) 64 64 n) }
  | some _ => s
  | none =>
  match regAt off 0x1400 8 128 with
  | some (c, 0) => s.modCore c fun x => { x with clkSet := clkSetOf v }
  | _ =>
  match regAt off 0x1800 8 128 with
  | some (c, 0) => s.seasonRequest c v
  | _ =>
  match regAt off 0x2100 8 32 with
  | some (f, 0) => s.modForm f fun x =>
      { x with lim := max 4 (min 100 (slice n 8 8)), action := if slice n 16 2 = 3 then x.action else slice n 16 2 }
  | _ =>
  match regAt off 0x2200 8 32 with
  | some (f, 0) => s.modForm f fun x => { x with floor := min 48 (slice n 24 6) }
  | _ =>
  match regAt off 0x3000 16 64 with
  | some (l, 0) => if v.getLsbD 0 then s.modLaunch l fun x => { x with miss := false } else s
  | some _ => s
  | none =>
  match regAt off 0x4000 0x80 128 with
  | some (c, 0x18) => s.writeFfCtl c none (n % 2 ^ 32)
  | some _ => s
  | none =>
    match off with
    | 0x0 => { s with ttSel := v.setWidth 5 }
    | 0x50 => s.ttCommitNow
    | 0x60 => s.writeUrg (v.setWidth 32)
    | 0x68 => s.modDie 0 fun d => { d with slewResv := min 16 (n % 32) }
    | 0x70 => s.modDie 1 fun d => { d with slewResv := min 16 (n % 32) }
    | 0x80 => { s with nrBase := BitVec.ofNat 64 (n / 32 * 32) }
    | 0x88 =>
      if slotsLegal (n % 65536) ∧ 16 ≤ n % 65536 ∧ n % 65536 ≤ 4096 then { s with nrSize := n % 65536, nrAt := s.nrBase } else s
    | 0x90 => { s with nrHead := n }
    | 0xA0 => if v.getLsbD 0 then { s with nrLost := false } else s
    | _ => s
/-- A write by the keeper: THERM_ALLOW at 0x8000, every register that the registrar writes, and at offsets of the model's own the
time base status, 0x10000, where a 1 at bit 0 clears TB_STEP, and the reading of form f's hottest sensor, 0x12000 + 8f, which
FORM_TEMP shows (log 23). -/
def State.writeKeeper (s : State) (off : Nat) (val : BitVec 128) : State :=
  let v : Word := val.setWidth 64
  match regAt off 0x8000 8 2, regAt off 0x12000 8 32 with
  | some (d, 0), _ => s.modDie d fun x => { x with thermAllow := v.toNat % 1024 }
  | _, some (f, 0) => s.modForm f fun x => { x with temp := v.setWidth 16 }
  | _, _ =>
    if off = 0x10000 then (if v.getLsbD 0 then { s with tbStep := false } else s)
    else if s.powered then s.writeRegistrar off val
    else s
/-- Byte of a saved image that the debug port names: from 2^32 on the bytes of the save area of context c (R488, log 23). -/
def stoserSaved (c off : Nat) : Option Nat := if c < 16 ∧ 2 ^ 32 ≤ off ∧ off % 8 = 0 then some (off - 2 ^ 32) else none
/-- A write through the debug port: a snapshot register by its offset while the core's live state can be reached, a saved image through
the save area, or DBG, at an offset of the model's own, 0x1000000 (log 23). -/
def State.writeStoser (s : State) (c off : Nat) (v : Word) : State :=
  match stoserSaved c off with
  | some o => s.objWrite c (s.saveObj c) o (leBytes 8 v.toNat)
  | none =>
    if 128 ≤ c then s
    else if off = 0x1000000 then s.modCore c fun x => { x with dbg := BitVec.ofNat 64 (v.toNat % 4) }
    else if (s.core c).reachable ∧ off % 8 = 0 ∧ off + 8 ≤ 0x600000 then s.snapWrite c off (leBytes 8 v.toNat)
    else s
/-- What the debug port reads at the same places. -/
def State.readStoser (s : State) (c off : Nat) : Word :=
  match stoserSaved c off with
  | some o => BitVec.ofNat 64 (s.objNat c (s.saveObj c) o 8)
  | none =>
    if 128 ≤ c then 0
    else if off = 0x1000000 then (s.core c).dbg
    else if (s.core c).reachable ∧ off % 8 = 0 ∧ off + 8 ≤ 0x600000 then BitVec.ofNat 64 (imgAt (s.image c) off 8)
    else 0
/-- REGISTER_WRITE. -/
def State.writeRegister (s : State) (win : RegWindow) (off : Nat) (val : BitVec 128) : State :=
  match win with
  | .function fn => s.writeFn fn off val
  | .registrar => if s.powered then s.writeRegistrar off val else s
  | .keeper => s.writeKeeper off val
  | .stoser c => s.writeStoser c off (val.setWidth 64)
def execRegisterWrite (win : RegWindow) (offset : Nat) (val : BitVec 128) (s : State) : Host.Outcome State Fault Refusal :=
  answer (s.writeRegister win offset val)

end Sys2Proof.Machine
end

