-- ==== Sys2Proof/Machine/Cycle.lean ====
section
/-! DEFINITION. A core's cycle around its words: fetch and the instruction buffer (R61, R498), idle counts, bundles and stalls (R44
to R47, R64, R65), what a cycle begins with and ends with, the rounds of cycles and the reference tick (R7, R66, R68). -/

namespace Sys2Proof.Machine

/-! ## The instruction buffer (R61, R498) -/

/-- The word at index i of a stream's code, where its block is present. A line-buffer processor has its own instruction memory. -/
def State.wordAt (s : State) (c n i : Nat) : Option Word :=
  if isLbp c then some (tabGet 0 (s.lbp (c - 128)).code i)
  else
    let t := s.stream c n
    if t.blocks.getLsbD (i / 16) then some (tabGet 0 t.ibuf i) else none
/-- The next word of a stream. -/
def State.nextWord (s : State) (c n : Nat) : Option Word := s.wordAt c n (s.stream c n).pc
/-- A word of a reserved opcode, or one that its encoding makes illegal, raises the illegal instruction in every stream, whatever
the guard (R83, R85). -/
def execReservedOpcode (w : BitVec 64) (s : State) : Host.Outcome State Fault Refusal :=
  .next (s.takeFault s.curCore (some s.curStream) 1 (illegalInfo ((w >>> 45).setWidth 8)) false)
/-- The instruction of a word: one that does not decode stands as a reserved one. -/
def instrOf (w : Word) : Instr := match decode w with | .ok i => i | .error _ => .reservedOpcode w

/-! ## Which words a slot of the cycle offers (R44, R45, R64, R65) -/

/-- JOIN of a word. -/
def wordJoins (w : Word) : Bool := w.getLsbD 53
/-- Whether cluster n still stands at a JOIN that has completed. -/
def Core.pendingJoin (x : Core) (n : Nat) : Bool := n < 4 && x.sh.cc.any fun r => r.2.leaving.getLsbD n
/-- Whether a stream may issue at all in this cycle. -/
def State.runs (s : State) (c n : Nat) : Bool :=
  let t := s.stream c n
  t.started && !t.ended && !t.halted && (if isLbp c then (s.lbp (c - 128)).running else (s.core c).tt == .run)
/-- The members of a stream's join group that have not ended; itself alone where it is forked. -/
def Core.bundleOf (x : Core) (n : Nat) : List Nat :=
  if 4 ≤ n ∨ x.pendingJoin n ∨ (x.stream n).group = 0 then [n]
  else (maskList (x.stream n).group).filter fun m => (x.stream m).started && !(x.stream m).ended
/-- Members whose next word has JOIN = 0 leave the group before it issues (R45). -/
def State.leaveUnjoined (s : State) (c n : Nat) : State :=
  if 4 ≤ n ∨ isLbp c then s
  else
    let ms := (s.core c).bundleOf n
    let out := ms.filter fun m => !(s.core c).pendingJoin m && (s.stream c m).group != 0 &&
      (match s.nextWord c m with | some w => !wordJoins w | none => false)
    if out.isEmpty then s else s.modCore c fun x => out.foldl Core.leave x
/-- One cycle of a stream's idle count (R64): a missing word is a stall; a count above zero counts. -/
def State.countIdle (s : State) (c n : Nat) : State :=
  match s.nextWord c n with
  | none => s.modStream c n fun t => { t with verdict := .missed }
  | some w =>
    let t := s.stream c n
    let idle := if t.idleLoaded then t.idle else slice w.toNat 54 10
    if idle = 0 then (if t.idleLoaded ∧ t.idle = 0 then s else s.modStream c n fun t => { t with idle := 0, idleLoaded := true })
    else s.modStream c n fun t => { t with idle := idle - 1, idleLoaded := true, verdict := .idle }
/-- The verdict of every member. -/
def State.mark (s : State) (c : Nat) (ms : List Nat) (v : Verdict) : State :=
  ms.foldl (fun (s : State) m => s.modStream c m fun t => { t with verdict := v }) s
/-- The words of a bundle. -/
def State.wordsOf (s : State) (c : Nat) (ms : List Nat) : List (Nat × Instr) :=
  ms.filterMap fun m => (s.nextWord c m).map fun w => (m, instrOf w)
/-- The words that stand for issue in stream n's slot. A bundle stands in the slot of its lowest member, and none does while a
member idles, misses or is halted; a replay stalls the whole group. -/
def State.slotWords (s : State) (c n : Nat) : State × List (Nat × Instr) :=
  -- a later member of a bundle that has been found to issue runs its own word here (R66)
  if n < 4 ∧ (s.core c).pass.getLsbD n then (s, s.wordsOf c [n])
  else if !s.runs c n ∨ (s.stream c n).verdict ≠ .none then (s, [])
  else
    let s := s.leaveUnjoined c n
    let x := s.core c
    let ms := x.bundleOf n
    if ms.head? ≠ some n then (s, [])
    else if ms.length ≠ 1 ∧ ms.any (fun m => x.pendingJoin m || (x.stream m).halted) then (s, [])
    else if ms.any fun m => (x.stream m).replay then (s.mark c ms .replayed, [])
    else
      let s := ms.foldl (fun (s : State) m => s.countIdle c m) s
      if ms.all fun m => (s.stream c m).verdict == .none then (s, s.wordsOf c ms) else (s, [])
/-- Whether a word waits for a rendezvous that others complete. -/
def meeting : Instr → Bool
  | .start _ => true
  | .joinCc _ _ _ => true
  | _ => false
/-- The words of stream n's bundle once more, where a rendezvous that held it back has completed in this cycle (R404, R406). -/
def State.againWords (s : State) (c n : Nat) : State × List (Nat × Instr) :=
  let ms := (s.core c).bundleOf n
  let ws := s.wordsOf c ms
  if s.runs c n && (s.stream c n).verdict == .blocked && ms.head? == some n && ws.any fun w => meeting w.2 then (s.mark c ms .none, ws)
  else (s, [])
/-- The words that stand for issue at the cursor. -/
def State.fetchStep (s : State) : State × List (Nat × Instr) :=
  match s.phase with
  | .stream n => s.slotWords s.curCore n
  | .again n => s.againWords s.curCore n
  | _ => (s, [])

/-! ## Settling a bundle (R44, R47) -/

/-- What becomes of the words of a slot once they have run. -/
inductive Settled where
  /-- They stand as they are. -/
  | done (s : State)
  /-- Only these run, from this state. -/
  | rerun (s : State) (ws : List (Nat × Instr))
deriving Repr

/-- The verdict of a stream at the cursor's core. -/
def State.verdictOf (s : State) (n : Nat) : Verdict := (s.stream s.curCore n).verdict
/-- Words whose waits are rendezvous: one that only such a wait holds back has arrived. -/
def rendezvousWord : Instr → Bool
  | .start _ => true
  | .joinCc _ _ _ => true
  | .bar _ _ _ => true
  | .sleep _ _ => true
  | _ => false
/-- The arrival of a rendezvous word by itself: a wait keeps what it recorded; the last arrival of a START or JOIN keeps that alone. -/
def State.arrive (s : State) (w : Nat × Instr) : State :=
  let c := s.curCore
  let at_ := { s with phase := .stream w.1 }
  let o : Host.Outcome State Fault Refusal := match w.2 with
    | .start h => execStart h at_
    | .joinCc h cc m => execJoinCc h cc m at_
    | .bar h b m => execBar h b m at_
    | .sleep h e => execSleep h e at_
    | _ => .next at_
  match o with
  | .next t =>
    let t := { t with phase := s.phase }
    if t.verdictOf w.1 = .blocked then t.mark c [w.1] .none
    else match w.2 with
      | .start _ =>
        if (t.core c).startGo && !(s.core c).startGo then
          s.modCore c fun x => { (x.modStream w.1 fun u => { u with atStart := true }) with startGo := true }
        else s
      | .joinCc _ _ _ =>
        let y := t.core c
        if y.joinGo = (s.core c).joinGo then s else s.modCore c fun x => { x with joinGo := y.joinGo, sh := { x.sh with cc := y.sh.cc } }
      | _ => s
  | _ => s
/-- A bundle of several words that has run as `s`, from `s0`. One in which a word blocks does not issue; one in which only
rendezvous hold words back has arrived there, and runs once more where the last arrival completes one; one in which a word raises
an at-issue fault does not issue either, for no member issues without the others (R44). -/
def State.settle (s0 s : State) (ws : List (Nat × Instr)) (last : Bool) : Settled :=
  let c := s0.curCore
  let ms := ws.map Prod.fst
  let s : State := { s with phase := s0.phase }
  if ws.length ≤ 1 then .done s
  else
    let held := ws.filter fun w => s.verdictOf w.1 == .blocked
    let bad := ws.filter fun w => s.verdictOf w.1 == .faulted
    if held.any fun w => !rendezvousWord w.2 then .done (s0.mark c ms .blocked)
    else if !bad.isEmpty then .rerun (held.foldl State.arrive s0) bad
    else if held.isEmpty then
      let took := ms.filter fun m => s.verdictOf m == .taken
      .done (if took.isEmpty || took.length == ms.length then s
        else s.modCore c fun x => { x with forking := x.forking ||| ms.foldl (fun b m => b ||| BitVec.ofNat 4 (2 ^ m)) 0 })
    else if last then .done (s0.mark c ms .blocked)
    else
      let t := (ws.filter fun w => rendezvousWord w.2).foldl State.arrive s0
      let go := ((t.core c).startGo && ws.any fun w => match w.2 with | .start _ => true | _ => false) ||
        ((t.core c).joinGo != 0 && ws.any fun w => match w.2 with | .joinCc _ _ _ => true | _ => false)
      if go then .rerun t ws else .done (t.mark c ms .blocked)

/-! ## The beginning of a cycle -/

/-- A stream at the start of a cycle. -/
def Stream.begin (t : Stream) : Stream := if t.verdict = .none then t else { t with verdict := .none }
/-- Complete barriers let their participants depart in this cycle (R329). -/
def Core.openBars (x : Core) : Core :=
  if x.sh.bars.any fun b => b.2.mask != 0 && b.2.arrived == b.2.mask && (maskList b.2.mask).all fun n => !(x.stream n).halted then
    { x with sh := { x.sh with bars := x.sh.bars.map fun b =>
        if b.2.mask ≠ 0 ∧ b.2.arrived = b.2.mask ∧ (maskList b.2.mask).all fun n => !(x.stream n).halted then (b.1, { leaving := b.2.mask }) else b } }
  else x
/-- JOINs whose participants have all arrived while one was halted. -/
def Core.openJoins (x : Core) : BitVec 8 :=
  x.sh.cc.foldl (fun b r =>
    if r.2.mask ≠ 0 ∧ r.2.arrived = r.2.mask ∧ (maskList r.2.mask).all (fun n => !(x.stream n).halted) then b ||| ccBit r.1 else b) 0
/-- Ages of the engines: cycles since a command entered and started, and of each command and of idleness. -/
def Engine.older (g : Engine) : Engine :=
  { g with
    accAge := min 8192 (g.accAge + 1)
    startAge := min 8192 (g.startAge + 1)
    -- the wake from AUTUMN ends with its last cycle
    wake := g.wake - 1, season := if g.wake = 1 then .summer else g.season
    idleFor := if g.queue.isEmpty ∧ g.run.isNone ∧ g.season = .summer ∧ g.wake = 0 then min 64 (g.idleFor + 1) else 0
    queue := g.queue.map fun k => { k with age := k.age + 1 } }
/-- What a core's records hold at the start of a cycle. -/
def Core.begin (x : Core) : Core :=
  let x := x.openBars.addCounts
  let sh := { x.sh with engines := (List.range 6).foldl (fun t e => tabPut t e (x.sh.engine e).older) x.sh.engines, dda := x.sh.dda.begin }
  { x with
    sh, soc := sh, dirtyAt := dirtyBanks x.cache sh.pool.cache, seasonAt := ({ x with sh } : Core).units
    forking := 0, pass := 0, tdone := 0, halting := 0, yielded := false
    trapped := false, binds := []
    streams := x.streams.map fun t => (t.1, t.2.begin)
    startGo := !x.liveStreams.isEmpty && x.liveStreams.all fun n => (x.stream n).atStart && !(x.stream n).halted
    joinGo := x.openJoins }
/-- Engines with a command that waits for a wake (R497). -/
def Core.waking (x : Core) : Bool := x.sh.engines.any fun g => (!g.2.queue.isEmpty || g.2.run.isSome) && (g.2.wake != 0 || g.2.season != .summer)
/-- Adds happenings to those due. -/
def State.owe (s : State) (l : List Instr) : State := if l.isEmpty then s else { s with due := s.due ++ l }
/-- The engines' part of the beginning of a cycle: commands that start, the field's steps and counts, commands in progress. -/
def State.beginEngines (s : State) (c : Nat) : State :=
  let x := s.core c
  let run := x.tt == .run
  let es := [0, 1, 2, 3, 4, 5]
  let s := s.owe ((es.filter x.mayStart).map fun e => .engineCommandStart c e)
  let s := if x.stepping.isEmpty then s else s.owe [.domainStep c]
  let da := x.sh.engine 5
  let s := if da.awake && !da.stall && (run || x.tt == .faulted) then
      s.owe (([0, 1, 2, 3].filter fun d => (x.sh.dda.dom d).run && (x.sh.dda.dom d).kind == 2).map fun d => .domainEngineTrigger c d) else s
  (es.filter x.engineGoes).foldl (fun (s : State) e => s.tickEngine c e) s
/-- Whether an engine has been without work for 64 cycles (R385). -/
def Core.autumnDue (x : Core) (e : Nat) : Bool :=
  let g := x.sh.engine e
  g.season == Season.summer && g.wake == 0 && decide (64 ≤ g.idleFor) && g.queue.isEmpty && g.run.isNone &&
    !(e == 5 && x.sh.dda.restless)
/-- The happenings that the model brings about by itself (log 4). -/
def State.beginOwn (s : State) (c : Nat) (missed : List Nat) : State :=
  if s.patience = 0 then s
  else
    let x := s.core c
    let s := s.owe ((missed.filter fun n => s.mayFill c n ((x.stream n).pc / 16)).map fun n => .instructionBufferFill c n ((x.stream n).pc / 16))
    let s := if x.sh.poolReq.pending && x.tt == .run then s.owe [.poolRequestStep c] else s
    let near : Bool := match (x.sh.engine 4).run with
      | some r => (match r.cmd.ins with | .near .. => true | _ => false)
      | none => false
    let active : Bool := [TtState.run, TtState.faulted, TtState.save].contains x.tt
    if near && active then s.nearPart c else s
/-- The beginning of core c's cycle. -/
def State.prepareCore (s : State) (c : Nat) : State :=
  let old := s.core c
  let missed := allStreams.filter fun n => (old.stream n).verdict == .missed
  let s := (s.modCore c fun x => { x.begin with seqAt := s.seq }).seasonCycle c
  let s := s.owe (([0, 1, 2, 3, 4, 5].filter fun e => (s.core c).autumnDue e).map fun e => .engineAutumnEntry c e)
  match old.tt with
  | .run =>
    let s := if (s.core c).waking then s.modCore c fun x => x.count 11 else s
    let s := s.beginEngines c
    s.beginOwn c missed
  | .faulted => (s.beginEngines c).beginOwn c []
  | .save =>
    let s := (s.beginEngines c).beginOwn c []
    if s.drained c then
      let s := s.enqueueEngine c true
      if s.engineHead (dieOf c) = some (c, true) then s.owe [.contextSave c] else s
    else s
  | _ => s
/-- The beginning of a line-buffer processor's cycle. -/
def State.prepareLbp (s : State) (c : Nat) : State := s.modStream c 0 Stream.begin

/-! ## Landing (R81, R82, R109, R110) -/

/-- Takes a landed word's destination from the outstanding loads of its stream that were issued before it (R275). -/
def Core.shadow (x : Core) (f : Flight) : Core :=
  match f.dest with
  | .none | .q .. => x
  | d =>
    let hitA (a : Access) : Bool := a.kind.loads && a.stream == f.stream && a.id < f.id
    let hitF (g : Flight) : Bool := g.load && g.stream == f.stream && g.id < f.id
    if x.acc.any hitA || x.flight.any hitF then
      { x with
        acc := x.acc.map fun a => if hitA a then { a with dest := a.dest.without d } else a
        flight := x.flight.map fun g => if hitF g then { g with dest := g.dest.without d } else g }
    else x
/-- One result lands. An enabled flag raises its fault (R110), but for a result of a task that has retired (log 146). -/
def State.landFlight (s : State) (c : Nat) (f : Flight) : State :=
  let s := s.modCore c fun x =>
    let x := x.modStream f.stream fun t => ((t.write f.dest f.val f.tag).writeLatch f.unit f.val f.tag).addFlags f.flags
    let x := match f.dest with
      | .q n id => { x with sh := x.sh.setQueue n ((x.sh.queue n).fill id (f.val.setWidth 256)) }
      | _ => x
    x.shadow f
  let s := s.heal fun m => match m with
    | .vreg d st n => d == c && st == f.stream && (match f.dest with | .v k => k == n | .line a b e g => [a, b, e, g].contains n | _ => false)
    | _ => false
  if ((s.core c).task.isSome || isLbp c) && enabledFlags (s.stream c f.stream).status f.flags != 0 then s.takeFault c (some f.stream) 7 (f.flags.setWidth 64) true
  else s
/-- The results whose latency ends with this cycle land, in issue order. A core in SAVE lands the old values of
its atomics alone (R470, R479). -/
def State.land (s : State) (c : Nat) : State :=
  let x := s.core c
  if x.flight.isEmpty then s
  else
    let moves (f : Flight) : Bool := x.tt != .save || f.lands
    let older := x.flight.map fun f => if moves f then { f with left := f.left - 1 } else f
    let ready := (older.filter fun f => f.left == 0 && moves f).foldr insertFlight []
    let s := s.modCore c fun x => { x with flight := older.filter fun f => !(f.left == 0 && moves f) }
    ready.foldl (fun (s : State) f => s.landFlight c f) s

/-! ## The end of a cycle -/

/-- The finish of a pool request: all four counts take effect, a bank that enters a role reads as zero, its ticket is DONE (R241). -/
def Shared.finishPool (x : Shared) : Shared :=
  if !x.poolReq.ending then x
  else
    let r := x.poolReq
    let keep := 32768 * min r.want.mat x.pool.mat
    { x with
      mat := x.mat.filter fun b => b.1 < keep
      pool := r.want
      poolReq := { r with pending := false, ending := false, step := 0,
                          tickets := r.tickets.map fun t => if t.ticket = r.ticket then { t with pending := false, code := 0 } else t } }
/-- The end of a cycle of the ring: RINGCFGs come nearer, and those due take effect in issue order (R208). -/
def Ring.settle (r : Ring) : Ring :=
  r.coming.foldl (fun (r : Ring) k =>
    if k.2.2 ≤ 1 then { r with d := k.1, s := k.2.1, hd := 0, tl := 0, stage := [], current := false }
    else { r with coming := r.coming ++ [(k.1, k.2.1, k.2.2 - 1)] }) { r with coming := [] }
/-- The end of a cycle of the shared records: queues, events, the ring, the field's fresh bits, a pool request. -/
def Shared.settle (x : Shared) : Shared :=
  let ring := if x.ring.coming.isEmpty then x.ring else x.ring.settle
  Shared.finishPool { x with
    ring
    q := (x.q.map fun p => (p.1, p.2.settle)).filter fun p => p.2 != {}
    ev := x.ev.map fun p => if p.2.adds = 0 then p else
      (p.1, { count := min 255 (p.2.count + p.2.adds), ovf := p.2.ovf || 255 < p.2.count + p.2.adds })
    dda := x.dda.begin }
/-- A cycle of a unit whose clock SLEEP has stopped (R409, R496). -/
def Stream.sleepCycle (t : Stream) : Stream := if t.asleep then { t with stopped := t.stopped + 1 } else t
/-- Counters of a stream's cycle (R497). -/
def Stream.tally (t : Stream) : Stream :=
  match t.verdict with
    | .blocked => t.count 1
    | .missed => t.count 2
    | .replayed => if t.replay then { (t.count 3) with replay := false } else t
    | _ => t
/-- A cycle that is not repeated ends the succession of R463. -/
def Stream.calm (t : Stream) : Stream := if t.verdict = .replayed ∨ t.replays = 0 ∨ t.replay then t else { t with replays := 0 }
/-- The end of a cycle of the engines: a repeated one leaves a count with the stream of its command, else with the engine's own (R461,
log 124), and one that is not repeated ends the succession of R463. -/
def Core.tallyEngines (x : Core) : Core :=
  (x.sh.engines.filter fun g => g.2.stall || g.2.replays != 0).foldl (fun (x : Core) g =>
    let st := match g.2.run with | some r => r.cmd.stream | none => (g.2.queue.head?.map Cmd.stream).getD (4 + g.1)
    let x := if g.2.stall then x.modStream st fun t => t.count 3 else x
    { x with sh := x.sh.modEngine g.1 fun e => { e with stall := false, replays := if e.stall then e.replays else 0 } }) x
/-- Engines with an undisposed or running command, and whether a tag is outstanding (R38, R407). -/
def Shared.undisposed (x : Shared) : Nat :=
  let bit (e : Nat) : Bool :=
    let r := x.compRec e
    let g := x.engine e
    r.out != 0 || r.done != 0 || r.skip != 0 || !g.queue.isEmpty || g.run.isSome
  (List.range 6).foldl (fun n e => n + b2n (bit e) * 2 ^ e) 0 + b2n (x.tagOut.any fun t => t.2 != 0) * 256
/-- Clusters that wait at a JOIN or BAR whose mask holds a cluster that has ended fault (R330, R404). -/
def State.faultWaiters (s : State) (c : Nat) (gone : BitVec 4) : State :=
  let x := s.core c
  let ccs := x.sh.cc.filter fun r => r.2.mask &&& gone != 0 && r.2.arrived != r.2.mask
  let bars := x.sh.bars.filter fun b => b.2.mask &&& gone != 0 && b.2.arrived != 0
  let fault (op : BitVec 8) (m : BitVec 4) (s : State) : State :=
    (maskList (m &&& ~~~gone)).foldl (fun (s : State) n => s.takeFault c (some n) 1 (illegalInfo op) false) s
  let s := ccs.foldl (fun (s : State) r => fault 0xC8 r.2.arrived s) s
  let s := bars.foldl (fun (s : State) b => fault 0xB5 b.2.arrived s) s
  s.modSh c fun y =>
    let y := ccs.foldl (fun (y : Shared) r => y.setCc r.1 { r.2 with mask := 0, arrived := 0 }) y
    bars.foldl (fun (y : Shared) b => y.setBarrier b.1 { b.2 with mask := 0, arrived := 0 }) y
/-- A stream ends: it leaves its group and its START, and its footprint list is discarded (R299). -/
def Core.endStream (x : Core) (n : Nat) : Core :=
  let x := if n < 4 ∧ (x.stream n).group ≠ 0 then x.leave n else x
  x.modStream n fun t => { t with ended := true, ending := false, atStart := false, foot := [] }
/-- An END that is not executed: its stream stays at it. -/
def Stream.unend (t : Stream) : Stream := { t with ending := false, perf := tabSet 0 t.perf 0 (tabGet 0 t.perf 0 - 1) }
/-- An END or TDONE that may not retire the task raises UNDISPOSED and takes no effect (R38, R407). -/
def State.undisposedFault (s : State) (c : Nat) (ns : List Nat) (info : Nat) : State :=
  ns.foldl (fun (s : State) n =>
    (s.modStream c n Stream.unend).takeFault c (some n) 5
      (BitVec.ofNat 64 info) false) s
/-- The ENDs and TDONEs that a synchronous trap of their cycle keeps from being executed (R59, R417, R469, R490): all of them. Beside a
fault of another kind the END of another stream ends that stream (R467, log 108). -/
def Core.trapHolds (x : Core) : List Nat :=
  if !x.stopping || !x.trapped then [] else x.liveStreams.filter fun n => (x.stream n).ending
/-- The ENDs and TDONEs of a cycle are judged at its end (R38, R407, R416). -/
def State.judgeEnds (s : State) (c : Nat) : State :=
  let s := s.modCore c fun x => x.trapHolds.foldl (fun (x : Core) n => x.modStream n Stream.unend) x
  let x := s.core c
  let ends := x.liveStreams.filter fun n => (x.stream n).ending
  if ends.isEmpty then s
  else
    let dones := ends.filter fun n => x.tdone.getLsbD n
    let plain := ends.filter fun n => !x.tdone.getLsbD n
    let info := x.sh.undisposed
    let last := ends.length == x.liveStreams.length
    if !dones.isEmpty ∧ info = 0 then
      -- every stream ends; the waits of abandoned ones take nothing
      s.modCore c fun x =>
        let x := x.liveStreams.foldl Core.endStream x
        { x with sh := { x.sh with
            cc := x.sh.cc.map fun r => (r.1, { r.2 with mask := 0, arrived := 0, leaving := 0 })
            bars := [] } }
    else
      let fail := if info = 0 then [] else if last || !dones.isEmpty then ends else dones
      let ok := plain.filter fun n => !fail.contains n
      let s := s.undisposedFault c fail info
      let s := s.modCore c fun x => ok.foldl Core.endStream x
      let gone : BitVec 4 := (ok.filter fun n => n < 4).foldl (fun b n => b ||| BitVec.ofNat 4 (2 ^ n)) 0
      if gone = 0 then s else s.faultWaiters c gone
/-- Groups change at the end of the cycle (R46, R47, R403, R404). -/
def Core.regroup (x : Core) : Core :=
  let x := if x.forking = 0 then x else x.dissolve x.forking
  if x.joinGo = 0 then x
  else (x.sh.cc.filter fun r => x.joinGo &&& ccBit r.1 != 0 && r.2.arrived == r.2.mask && r.2.mask != 0).foldl (fun (x : Core) r =>
    let late : BitVec 4 := ((maskList r.2.mask).filter fun n => (x.stream n).verdict != .issued).foldl (fun b n => b ||| BitVec.ofNat 4 (2 ^ n)) 0
    (({ x with sh := x.sh.setCc r.1 { r.2 with mask := 0, arrived := 0, leaving := late } } : Core).dissolve r.2.mask).unite r.2.mask) x
/-- A START that has completed: streams that a stall kept from issuing issue later (R406). -/
def Core.started (x : Core) : Core :=
  if !x.startGo then x
  else
    let late := x.liveStreams.filter fun n => (x.stream n).atStart
    late.foldl (fun (x : Core) n => x.modStream n fun t => { t with atStart := false })
      { x with startGo := false, startLeft := x.startLeft ||| late.foldl (fun b n => b ||| streamBit n) 0 }
/-- Streams that BRK halts (R491). -/
def Core.brkHalt (x : Core) : Core :=
  if x.halting = 0 then x else (allStreams.filter fun n => x.halting.getLsbD n).foldl (fun (x : Core) n => x.modStream n fun t => { t with halted := true }) x
/-- The watchdog's count of a cycle (R366, R368); it is judged as the cycle began. -/
def State.watchCycle (s : State) (c : Nat) (counts : Bool) : State :=
  let x := s.core c
  if x.yielded then s.modSh c fun y => { y with countK := 0, subCount := 0 }
  else if counts then (s.modSh c Shared.countDog).watchdog c
  else s
/-- The stop of a core (R449): the frame takes the resume words, the registrar a notice, the host its vector. -/
def State.stopCore (s : State) (c : Nat) : State :=
  let x := s.core c
  let t := s.task c
  let pcs := x.streams.filterMap fun p => if p.2.pc = 0 then none else some (p.1, p.2.pc % 1024)
  let s := s.modCore c fun x =>
    { x with tt := .faulted, stopping := false, preempt := false, yielding := false, frame := { x.frame with pcs, rank := 0 } }
  (s.notice { kind := 2, core := c, form := formOf c, lid := t.lid, task := t.index, ctx := t.ctx, detail := slice x.frame.cause.toNat 0 8 }).msix
    (s.fnOfCtx t.ctx) 1
/-- Whether the task of core c retires in this cycle: every stream has ended and R37 holds. -/
def Core.mayRetire (x : Core) : Bool := x.tt == .run && x.task.isSome && x.liveStreams.isEmpty && x.sh.undisposed == 0
/-- Whether its stores, atomics and releases are performed, which the completion orders (R33). -/
def Core.performed (x : Core) : Bool := x.acc.all fun a => !(a.kind.stores || a.kind.atomics || a.kind.releases)
/-- A task whose last streams have ended retires: what it has issued is performed first. A fault of one of its accesses stops the
core instead, and an access that waits for a migrating page makes it wait (log 11). -/
def State.tryRetire (s : State) (c : Nat) : State :=
  let s := s.drainAll c
  let x := s.core c
  if x.task.isNone then s
  else if x.stopping then s.stopCore c
  else if x.performed then s.retireTask c
  else s
/-- A cycle of a core for filler: the clusters whose VM slot it cannot use, and MX where it has a started command or is not in SUMMER; in
a form that is not in SUMMER, all of them (R376, log 50). -/
def Core.countFill (x : Core) (off : Bool) : Core :=
  let used := [0, 1, 2, 3].filter fun n =>
    off || (x.stream n).asleep || (x.stream n).wake != 0 || x.flight.any fun f => f.unit == 3 && f.stream == n && x.seqAt ≤ f.id
  let mx := off || (x.sh.engine 2).season != .summer || (x.sh.engine 2).run.isSome
  { x with vmUsed := x.vmUsed + used.length, mxUsed := x.mxUsed + b2n mx }
/-- A cycle of a core that is not listed: its engines age, and stand in AUTUMN after 64 cycles (R385). -/
def Core.idleCycle (x : Core) : Core :=
  let autumn (g : Engine) : Engine := if g.season = .summer ∧ 64 ≤ g.idleFor then { g with season := .autumn } else g
  let y : Core := { x with sh := { x.sh with
    engines := (List.range 6).foldl (fun t e => tabPut t e (autumn (x.sh.engine e).older)) x.sh.engines } }
  ({ y with seasonAt := y.units } : Core).countFill false
/-- The end of core c's cycle. -/
def State.finishCore (s : State) (c : Nat) : State :=
  let x := s.core c
  let counts := x.opportunity
  let s := (((s.modCore c fun x => x.countFill ((s.form (formOf c)).season != .summer)).memoryCycle c).land c)
  if x.tt ≠ .run then
    -- memory, results and the records still settle while the core is stopped, saved or spare
    if x.task.isNone then s
    else if x.tt = .restore then
      if s.engineHead (dieOf c) = some (c, false) ∧ (s.form (formOf c)).season = .summer then s.owe [.contextRestore c] else s
    else
      -- a fault of an access or a command that the drain completes wins over the save (R467, log 118)
      let wins := x.tt = .save ∧ (s.core c).stopping
      let s := ((s.modCore c Core.tallyEngines).modCore c fun x =>
        { x with sh := x.sh.settle, stopping := false, streams := x.streams.map fun t => (t.1, t.2.sleepCycle) }).sweepTiles c
      if wins then (s.modDie (dieOf c) fun d => { d with order := d.order.filter (·.1 ≠ c) }).stopCore c else s
  else
    let s := s.watchCycle c counts
    let s := s.judgeEnds c
    let s := s.modCore c fun x =>
      let x := ((x.regMeet.regroup.started).brkHalt).tallyEngines
      { x with
        sh := x.sh.settle, joinGo := 0
        streams := x.streams.map fun t => (t.1, t.2.calm.tally.sleepCycle) }
    let s := s.sweepTiles c
    if (s.core c).tt ≠ .run then s
    else if (s.core c).stopping then s.stopCore c
    else if (s.core c).mayRetire then s.tryRetire c
    else if (s.core c).liveStreams.isEmpty then s
    else s.takeRequest c
/-- The end of a line-buffer processor's cycle: results land; after its END or fault, and its last result, the run ends. -/
def State.finishLbp (s : State) (c : Nat) : State :=
  let s := s.land c
  let s := s.modStream c 0 fun t => if t.ending then { t with ended := true, ending := false } else t
  if (s.lbp (c - 128)).running ∧ (s.stream c 0).ended ∧ (s.core c).flight.isEmpty then s.endRun (c - 128) else s

/-! ## Rounds, and the reference tick (R7) -/

/-- The units that take a cycle in a round: listed cores, then running line-buffer processors. -/
def State.units (s : State) : List Nat :=
  (if s.powered then (tabKeys s.cores).filter fun c => c < 128 else []) ++ (s.lbps.filter fun l => l.2.running).map fun l => 128 + l.1
/-- Launches with a deadline count a tick (R369). -/
def Launch.tick (l : Launch) : Launch := if l.active ∧ l.dln ≠ 0 then { l with elapsed := min (2 ^ 32 - 1) (l.elapsed + 1) } else l
/-- The reference tick: 40 ns (R7); a slew takes 1 ns from every 125th, which is 200 ppm (R309). -/
def State.refTick (s : State) : State :=
  let late := (s.launches.filter fun l => l.2.active && l.2.dln != 0 && l.2.elapsed + 1 == l.2.dln).map fun l => Instr.deadlineMiss l.1
  let slews := s.slewOwed ≠ 0 ∧ s.tick.toNat % 125 = 124
  let s : State := { s with
    time := s.time + (if slews then 39 else 40) + BitVec.ofNat 64 s.timeAhead
    tbStep := s.tbStep || (10000000 : Nat) < s.timeAhead
    timeAhead := 0
    tick := s.tick + 1
    slewOwed := if slews then s.slewOwed - 1 else s.slewOwed
    launches := s.launches.map fun l => (l.1, l.2.tick)
    cores := s.cores.map fun x => if s.classFills x.1 ∨ x.2.fillerMa ≠ 0 then (x.1, x.2.count 10) else x }
  let s := s.powerTick.sensorTick
  let s := s.owe late
  let s := s.owe ((s.cores.filter fun x => x.2.counts).flatMap fun x => ([0, 1, 2, 3].filter fun d => (x.2.sh.dda.dom d).run && (x.2.sh.dda.dom d).kind == 1).map fun d =>
    .domainReferenceTrigger x.1 d)
  s.owe [.rollCallTick]
/-- What the registrar, the power controller and the memory ports do by themselves in a round (log 4). -/
def State.roundOwn (s : State) : State :=
  if s.patience = 0 then s
  else
    let s := [0, 1, 2, 3, 4].foldl (fun (s : State) f => s.takePacket f) s
    let s := s.ctxs.foldl (fun (s : State) k => match k.2.ovfDies with | d :: _ => s.drainOverflow d k.1 | [] => s) s
    let s := [0, 1].foldl (fun (s : State) d => if (s.die d).ramps.isEmpty then s else s.startRamp d) s
    let s := (tabKeys s.cores).foldl (fun (s : State) c => if (s.core c).seasonRes.getLsbD 3 then s.enterSeason c else s) s
    match s.otQueue with
    | o :: _ => ((o.waits.getD []).foldl State.takeAck s).otStart 8
    | [] => s
/-- The pops of a cycle: after every push of it, in ascending core number (R59, R359). -/
def State.servePops (s : State) : State :=
  s.owe ((s.cores.filter fun x => x.1 < 128 && x.2.tt == .popwait && (s.popChoice x.1).isSome).map fun x => .dieQueuePop x.1)
/-- The end of a cycle of all units: clocks count (R496); RCCFGs land (R337); entries that the cycle has freed are free from the next
on (R347, R361), and the retirements of the cycle are counted (R361). -/
def State.freshRound (s : State) : State :=
  { s with
    clock := s.clock + 1
    rest := if s.powered then s.rest.idleCycle else s.rest
    forms := s.forms.map fun f => if f.2.season = .summer then f else (f.1, { f.2 with stopped := f.2.stopped + 1 })
    groups := s.groups.map fun g => (g.1, g.2.land)
    dies := s.dies.map fun d => (d.1, { d.2 with freed := 0 })
    ctxs := s.ctxs.map fun k => (k.1, { k.2 with ovfFreed := 0 })
    launches := s.launches.map fun l => (l.1, { l.2 with before := l.2.retired, freeing := false }) }
/-- A round is over: every unit has taken a cycle; the 56th brings the reference tick. -/
def State.endRound (s : State) : State :=
  let s := s.servePops.snapEnd.ctlRound.freshRound.roundOwn
  let s := if s.rounds ≤ 1 then { s.refTick with rounds := 56 } else { s with rounds := s.rounds - 1 }
  let s := s.seasonRound.snapStart
  { s with curCore := s.units.headD 0, phase := .prepare }
/-- The next unit of the round. -/
def State.nextUnit (s : State) : State :=
  match s.units.find? fun c => s.curCore < c with
  | some c => { s with curCore := c, phase := .prepare }
  | none => s.endRound
/-- The cursor's next place. -/
def State.advance (s : State) : State :=
  let x := s.core s.curCore
  match s.phase with
  | .prepare => { s with phase := if isLbp s.curCore || x.tt == .run then .stream 0 else .finish }
  | .stream n =>
    if isLbp s.curCore then { s with phase := .finish }
    else if n < 9 then { s with phase := .stream (n + 1) }
    else { s with phase := if x.startGo || x.joinGo != 0 then .again 0 else .finish }
  | .again n => { s with phase := if n < 9 then .again (n + 1) else .finish }
  | .finish => s.nextUnit
/-- What the cursor's place does where it offers no words: the beginning or the end of a unit's cycle. -/
def State.frame (s : State) : State :=
  let c := s.curCore
  if isLbp c then
    match s.phase with
    | .prepare => s.prepareLbp c
    | .finish => s.finishLbp c
    | _ => s
  else if !(s.cores.any fun x => x.1 == c) || !s.powered then s
  else match s.phase with
    | .prepare => s.prepareCore c
    | .finish => s.finishCore c
    | _ => s

end Sys2Proof.Machine
end

