-- ==== Sys2Proof/Machine/Windows.lean ====
section
/-! DEFINITION. What the management register windows read as (R356, R436, R437): the host's and the registrar's view of the
state. A read changes nothing; an unlisted offset, a write-only register and a register of another function read zero. -/

namespace Sys2Proof.Machine

/-- Register i of a fault frame's block (R356): FF_CAUSE, FF_STREAM, FF_INFO, FF_CTL, FF_PC0 to FF_PC9. -/
def Core.frameReg (x : Core) (off : Nat) : Nat :=
  let f := x.frameAt
  if off = 0 then f.cause.toNat
  else if off = 8 then f.stream.toNat
  else if off = 0x10 then f.info.toNat
  else if 0x20 ≤ off ∧ off < 0x70 ∧ off % 8 = 0 then f.pcOf ((off - 0x20) / 8)
  else 0
/-- The code of a dispatch state; HALTED where a stream of the task is debug-halted (R355). -/
def Core.stateCode (x : Core) : Nat :=
  match x.tt with
  | .idle => 0
  | .restore => 1
  | .run => if x.liveStreams.any fun n => (x.stream n).halted then 7 else 2
  | .save => 3
  | .popwait => 4
  | .filler => 5
  | .faulted => 6
/-- TT_STAT (R355). -/
def State.ttStat (s : State) (c : Nat) : Nat :=
  let x := s.core c
  let t := s.task c
  t.index * 2 ^ 40 + t.lid * 2 ^ 34 + b2n (s.form (formOf c)).nextValid * 2 ^ 8 + t.ctx * 16 + x.stateCode
/-- FORM_CLK (R383). -/
def State.formClk (s : State) (f : Nat) : Nat := (s.form f).floor * 2 ^ 24 + s.ceil f * 2 ^ 16 + (s.form f).thr * 2 ^ 8
/-- LT_DL (R369). -/
def Launch.deadline (l : Launch) : Nat := l.dln * 2 ^ 64 + l.elapsed * 2 ^ 32 + b2n l.miss
/-- The registrar's window (R356). -/
def State.readRegistrar (s : State) (off : Nat) : BitVec 128 := BitVec.ofNat 128 <|
  match regAt off 0x10 16 4 with
  | some (i, 0) => (s.staged i).toNat
  | some (i, 8) => (s.staged i).toNat / 2 ^ 64
  | some _ => 0
  | none =>
  match regAt off 0x1000 8 128, regAt off 0x1400 8 128, regAt off 0x1C00 8 128 with
  | some (c, 0), _, _ => s.ttStat c
  | _, some (c, 0), _ => (s.core c).clkSet.toNat
  | _, _, some (c, 0) => (s.core c).seasonRes.toNat
  | _, _, _ =>
  match regAt off 0x2000 8 32, regAt off 0x2100 8 32, regAt off 0x2200 8 32, regAt off 0x2300 8 32 with
  | some (f, 0), _, _, _ => (s.form f).imb.toNat
  | _, some (f, 0), _, _ => (s.form f).action * 2 ^ 16 + (s.form f).lim * 2 ^ 8
  | _, _, some (f, 0), _ => s.formClk f
  | _, _, _, some (f, 0) => (s.form f).temp.toNat
  | _, _, _, _ =>
  match regAt off 0x3000 16 64, regAt off 0x4000 0x80 128 with
  | some (l, 0), _ => (s.launch l).deadline
  | some (l, 8), _ => (s.launch l).deadline / 2 ^ 64
  | _, some (c, r) => (s.core c).frameReg r
  | _, _ =>
    match off with
    | 0x0 => s.ttSel.toNat
    | 0x58 => s.ttResult.toNat
    | 0x60 => s.urgForms.toNat
    | 0x68 => (s.die 0).slewResv
    | 0x70 => (s.die 1).slewResv
    | 0x80 => s.nrBase.toNat
    | 0x88 => s.nrSize
    | 0x90 => s.nrHead
    | 0x98 => s.nrTail
    | 0xA0 => b2n s.nrLost
    | 0x8000 => (s.die 0).thermAllow
    | 0x8008 => (s.die 1).thermAllow
    | 0x8010 => s.memTherm.toNat % 2 ^ 64
    | 0x8018 => s.memTherm.toNat / 2 ^ 64
    | _ => 0
/-- The device-wide registers of the physical function's window (R437). -/
def State.readPf (s : State) (off : Nat) : Nat :=
  match regAt off 0x20000 8 16, regAt off 0x20080 8 16, regAt off 0x20100 8 16, regAt off 0x20180 8 16 with
  | some (c, 0), _, _, _ => (s.ctx c).cfg.toNat
  | _, some (c, 0), _, _ => (s.ctx c).save.toNat
  | _, _, some (c, 0), _ => (s.ctx c).sread.toNat
  | _, _, _, some (g, 0) => (s.group g).ctx + 16 * b2n (s.group g).assigned
  | _, _, _, _ =>
  match regAt off 0x20300 8 4, regAt off 0x20400 8 20, regAt off 0x30000 0x20 64 with
  | some (i, 0), _, _ => slice s.attNonce.toNat (64 * i) 64
  | _, some (i, 0), _ => if s.attDone then slice s.attReport.toNat (64 * i) 64 else 0
  | _, _, some (n, 0) => (s.sensor n).scfg.toNat
  | _, _, some (n, 8) => (s.sensor n).scfg.toNat / 2 ^ 64
  | _, _, some (n, 0x10) => (s.sensor n).serr.toNat
  | _, _, _ =>
  match regAt off 0x31000 8 96, regAt off 0x40000 8 (1024 * 96) with
  | some (l, 0), _ => (s.lbp l).len
  | _, some (i, 0) => (tabGet 0 (s.lbp (i / 1024)).code (i % 1024)).toNat
  | _, _ =>
    match off with
    | 0x20200 => s.tagBase.toNat
    | 0x20328 => b2n s.attBusy + 2 * b2n s.attDone
    | _ => 0
/-- FUNC_STAT (R436). -/
def State.funcStat (s : State) (fn : Nat) : Nat :=
  let f := s.fn fn
  b2n f.noRec * 8 + b2n (fn == 0 && s.bootErr) * 4 + b2n (!f.flrBusy) * 2 + b2n f.lnchErr
/-- The window of a function (R436). A core's fault frame is seen by the function that owns its task's context. -/
def State.readFn (s : State) (fn off : Nat) : BitVec 128 := BitVec.ofNat 128 <|
  if 5 ≤ fn then 0
  else
  match regAt off 0x1000 0x20 16, regAt off 0x10000 0x80 128, regAt off 0x140 8 8 with
  | some (c, r), _, _ =>
    if !(s.ctxsOf fn).contains c then 0
    else if r = 0 then (s.ctx c).otRoot.toNat else if r = 8 then (s.ctx c).otLen.toNat else 0
  | _, some (c, r), _ => if (s.core c).task.any fun t => s.fnOfCtx t.ctx == fn then (s.core c).frameReg r else 0
  | _, _, some (i, 0) => slice (s.fn fn).otData.toNat (64 * i) 64
  | _, _, _ =>
    match off with
    | 0x0 => (s.fn fn).inboxBase.toNat
    | 0x8 => (s.fn fn).slots
    | 0x18 => (s.fn fn).head.toNat
    | 0x20 => s.funcStat fn
    | 0x108 => (s.fn fn).otArg.toNat
    | 0x110 => b2n (s.fn fn).otBusy * 4 + (s.fn fn).otCode.toNat
    | _ => if fn = 0 then s.readPf off else 0

end Sys2Proof.Machine
end

