-- ==== Sys2Proof/Machine/Dispatch.lean ====
section
/-! DEFINITION. Which meaning each instruction has: one arm per constructor of `Instr`. -/

namespace Sys2Proof.Machine

/-- The meaning of an instruction at a state. -/
def exec (i : Instr) (s : State) : Host.Outcome State Fault Refusal :=
  match i with
  | .nop h => Sys2Proof.Machine.execNop h s
  | .add h d a b ty => Sys2Proof.Machine.execAdd h d a b ty s
  | .sub h d a b ty => Sys2Proof.Machine.execSub h d a b ty s
  | .mul h d a b ty => Sys2Proof.Machine.execMul h d a b ty s
  | .mulh h d a b ty => Sys2Proof.Machine.execMulh h d a b ty s
  | .mulhn h d a b ty => Sys2Proof.Machine.execMulhn h d a b ty s
  | .div h d a b ty => Sys2Proof.Machine.execDiv h d a b ty s
  | .divn h d a b ty => Sys2Proof.Machine.execDivn h d a b ty s
  | .rem h d a b ty => Sys2Proof.Machine.execRem h d a b ty s
  | .remn h d a b ty => Sys2Proof.Machine.execRemn h d a b ty s
  | .and h d a b ty => Sys2Proof.Machine.execAnd h d a b ty s
  | .or h d a b ty => Sys2Proof.Machine.execOr h d a b ty s
  | .xor h d a b ty => Sys2Proof.Machine.execXor h d a b ty s
  | .andn h d a b ty => Sys2Proof.Machine.execAndn h d a b ty s
  | .shl h d a b ty => Sys2Proof.Machine.execShl h d a b ty s
  | .shr h d a b ty => Sys2Proof.Machine.execShr h d a b ty s
  | .sar h d a b ty => Sys2Proof.Machine.execSar h d a b ty s
  | .rot h d a b ty => Sys2Proof.Machine.execRot h d a b ty s
  | .cmp h d a b cond wd => Sys2Proof.Machine.execCmp h d a b cond wd s
  | .min h d a b ty => Sys2Proof.Machine.execMin h d a b ty s
  | .max h d a b ty => Sys2Proof.Machine.execMax h d a b ty s
  | .minn h d a b ty => Sys2Proof.Machine.execMinn h d a b ty s
  | .maxn h d a b ty => Sys2Proof.Machine.execMaxn h d a b ty s
  | .clz h d a ty => Sys2Proof.Machine.execClz h d a ty s
  | .popc h d a ty => Sys2Proof.Machine.execPopc h d a ty s
  | .sel h d a b k => Sys2Proof.Machine.execSel h d a b k s
  | .ldi h d imm => Sys2Proof.Machine.execLdi h d imm s
  | .ldih h d imm => Sys2Proof.Machine.execLdih h d imm s
  | .mov h d a => Sys2Proof.Machine.execMov h d a s
  | .capadd h d a b n => Sys2Proof.Machine.execCapadd h d a b n s
  | .capsetWin h d a b => Sys2Proof.Machine.execCapsetWin h d a b s
  | .capsetRights h d a b => Sys2Proof.Machine.execCapsetRights h d a b s
  | .capsetCur h d a b => Sys2Proof.Machine.execCapsetCur h d a b s
  | .capsetUntag h d a b => Sys2Proof.Machine.execCapsetUntag h d a b s
  | .capget h d a fld => Sys2Proof.Machine.execCapget h d a fld s
  | .vadd h d a b ty => Sys2Proof.Machine.execVadd h d a b ty s
  | .vsub h d a b ty => Sys2Proof.Machine.execVsub h d a b ty s
  | .vmul h d a b ty => Sys2Proof.Machine.execVmul h d a b ty s
  | .vmulh h d a b ty => Sys2Proof.Machine.execVmulh h d a b ty s
  | .vmulw h d a b ty => Sys2Proof.Machine.execVmulw h d a b ty s
  | .vfma h d a b ty => Sys2Proof.Machine.execVfma h d a b ty s
  | .vfms h d a b ty => Sys2Proof.Machine.execVfms h d a b ty s
  | .vfnma h d a b ty => Sys2Proof.Machine.execVfnma h d a b ty s
  | .vdiv h d a b ty => Sys2Proof.Machine.execVdiv h d a b ty s
  | .vsqrt h d a ty => Sys2Proof.Machine.execVsqrt h d a ty s
  | .vrcp h d a ty => Sys2Proof.Machine.execVrcp h d a ty s
  | .vrsq h d a ty => Sys2Proof.Machine.execVrsq h d a ty s
  | .vexp2 h d a ty => Sys2Proof.Machine.execVexp2 h d a ty s
  | .vlog2 h d a ty => Sys2Proof.Machine.execVlog2 h d a ty s
  | .vmin h d a b ty => Sys2Proof.Machine.execVmin h d a b ty s
  | .vmax h d a b ty => Sys2Proof.Machine.execVmax h d a b ty s
  | .vabs h d a ty => Sys2Proof.Machine.execVabs h d a ty s
  | .vneg h d a ty => Sys2Proof.Machine.execVneg h d a ty s
  | .vand h d a b ty => Sys2Proof.Machine.execVand h d a b ty s
  | .vor h d a b ty => Sys2Proof.Machine.execVor h d a b ty s
  | .vxor h d a b ty => Sys2Proof.Machine.execVxor h d a b ty s
  | .vshl h d a b ty => Sys2Proof.Machine.execVshl h d a b ty s
  | .vshr h d a b ty => Sys2Proof.Machine.execVshr h d a b ty s
  | .vsar h d a b ty => Sys2Proof.Machine.execVsar h d a b ty s
  | .vpopc h d a ty => Sys2Proof.Machine.execVpopc h d a ty s
  | .vclz h d a ty => Sys2Proof.Machine.execVclz h d a ty s
  | .vcmp h d a b md => Sys2Proof.Machine.execVcmp h d a b md s
  | .vsel h d a b ty => Sys2Proof.Machine.execVsel h d a b ty s
  | .vmerge h d a b ty => Sys2Proof.Machine.execVmerge h d a b ty s
  | .vdot4 h d a b ty => Sys2Proof.Machine.execVdot4 h d a b ty s
  | .vdot2 h d a b ty => Sys2Proof.Machine.execVdot2 h d a b ty s
  | .vreds h d a b ty => Sys2Proof.Machine.execVreds h d a b ty s
  | .vredx h d a b ty => Sys2Proof.Machine.execVredx h d a b ty s
  | .vscan h d a b ty => Sys2Proof.Machine.execVscan h d a b ty s
  | .vclmul h d a b ty => Sys2Proof.Machine.execVclmul h d a b ty s
  | .vperm h d a b ty => Sys2Proof.Machine.execVperm h d a b ty s
  | .vshuf h d a b ty => Sys2Proof.Machine.execVshuf h d a b ty s
  | .vbcast h d a b ty => Sys2Proof.Machine.execVbcast h d a b ty s
  | .vslide h d a b ty => Sys2Proof.Machine.execVslide h d a b ty s
  | .vcompr h d a b ty => Sys2Proof.Machine.execVcompr h d a b ty s
  | .vexpnd h d a b ty => Sys2Proof.Machine.execVexpnd h d a b ty s
  | .viota h d a ty => Sys2Proof.Machine.execViota h d a ty s
  | .vcvt h d a st ty => Sys2Proof.Machine.execVcvt h d a st ty s
  | .vpack h d a b ty => Sys2Proof.Machine.execVpack h d a b ty s
  | .vunpk h d a b ty => Sys2Proof.Machine.execVunpk h d a b ty s
  | .vround h d a ty => Sys2Proof.Machine.execVround h d a ty s
  | .vqnt h d a b ty => Sys2Proof.Machine.execVqnt h d a b ty s
  | .vdqnt h d a b ty => Sys2Proof.Machine.execVdqnt h d a b ty s
  | .kand h d a b => Sys2Proof.Machine.execKand h d a b s
  | .kor h d a b => Sys2Proof.Machine.execKor h d a b s
  | .kxor h d a b => Sys2Proof.Machine.execKxor h d a b s
  | .knot h d a => Sys2Proof.Machine.execKnot h d a s
  | .kpopc h d a => Sys2Proof.Machine.execKpopc h d a s
  | .kfirst h d a => Sys2Proof.Machine.execKfirst h d a s
  | .kmov h d a => Sys2Proof.Machine.execKmov h d a s
  | .kmovFirst h d a => Sys2Proof.Machine.execKmovFirst h d a s
  | .nestw h tbl lvl src => Sys2Proof.Machine.execNestw h tbl lvl src s
  | .nestr h gd tbl lvl copy half => Sys2Proof.Machine.execNestr h gd tbl lvl copy half s
  | .go h mask src => Sys2Proof.Machine.execGo h mask src s
  | .nstat h gd tbl sel => Sys2Proof.Machine.execNstat h gd tbl sel s
  | .fmtw h idx src => Sys2Proof.Machine.execFmtw h idx src s
  | .fmtsel h en lvl => Sys2Proof.Machine.execFmtsel h en lvl s
  | .mma h close last gang kc => Sys2Proof.Machine.execMma h close last gang kc s
  | .mmac h close last gang kc => Sys2Proof.Machine.execMmac h close last gang kc s
  | .ringcfg h gd sn dn => Sys2Proof.Machine.execRingcfg h gd sn dn s
  | .rhead h gd => Sys2Proof.Machine.execRhead h gd s
  | .rpop h => Sys2Proof.Machine.execRpop h s
  | .rdiscard h => Sys2Proof.Machine.execRdiscard h s
  | .epcfgAct h act => Sys2Proof.Machine.execEpcfgAct h act s
  | .epcfgBias h hn en => Sys2Proof.Machine.execEpcfgBias h hn en s
  | .epcfgScale h hn en => Sys2Proof.Machine.execEpcfgScale h hn en s
  | .epcfgLo h src => Sys2Proof.Machine.execEpcfgLo h src s
  | .epcfgHi h src => Sys2Proof.Machine.execEpcfgHi h src s
  | .eprun h hn => Sys2Proof.Machine.execEprun h hn s
  | .deckld h cn src units => Sys2Proof.Machine.execDeckld h cn src units s
  | .decksel h units => Sys2Proof.Machine.execDecksel h units s
  | .ccnt h gd eng => Sys2Proof.Machine.execCcnt h gd eng s
  | .ccons h eng n => Sys2Proof.Machine.execCcons h eng n s
  | .cdisc h eng n => Sys2Proof.Machine.execCdisc h eng n s
  | .cdiscAll h eng => Sys2Proof.Machine.execCdiscAll h eng s
  | .pace h eng gap => Sys2Proof.Machine.execPace h eng gap s
  | .astage h cn kn src => Sys2Proof.Machine.execAstage h cn kn src s
  | .patch h hn src keep => Sys2Proof.Machine.execPatch h hn src keep s
  | .cellw h src item cell => Sys2Proof.Machine.execCellw h src item cell s
  | .cellr h gd item cell => Sys2Proof.Machine.execCellr h gd item cell s
  | .stepdom h dom src kind => Sys2Proof.Machine.execStepdom h dom src kind s
  | .step h dom n => Sys2Proof.Machine.execStep h dom n s
  | .darun h stop run => Sys2Proof.Machine.execDarun h stop run s
  | .dasave h hn => Sys2Proof.Machine.execDasave h hn s
  | .daload h hn => Sys2Proof.Machine.execDaload h hn s
  | .dainj h chan src => Sys2Proof.Machine.execDainj h chan src s
  | .datap h gd clr cell => Sys2Proof.Machine.execDatap h gd clr cell s
  | .dastat h gd clr sel => Sys2Proof.Machine.execDastat h gd clr sel s
  | .ld h d cn off w ord ag stor => Sys2Proof.Machine.execLd h d cn off w ord ag stor s
  | .st h d cn off w ord ag stor => Sys2Proof.Machine.execSt h d cn off w ord ag stor s
  | .ldt h hn gc d w => Sys2Proof.Machine.execLdt h hn gc d w s
  | .stt h hn gc d w => Sys2Proof.Machine.execStt h hn gc d w s
  | .gath h d cn off w ord ag stor => Sys2Proof.Machine.execGath h d cn off w ord ag stor s
  | .scat h d cn off w ord ag stor => Sys2Proof.Machine.execScat h d cn off w ord ag stor s
  | .amo h d cn opn w ord ag stor => Sys2Proof.Machine.execAmo h d cn opn w ord ag stor s
  | .cas h d cn off w ord ag stor => Sys2Proof.Machine.execCas h d cn off w ord ag stor s
  | .amof h d cn opn w ord ag stor => Sys2Proof.Machine.execAmof h d cn opn w ord ag stor s
  | .fence h ord ag stor => Sys2Proof.Machine.execFence h ord ag stor s
  | .mark h ag stor => Sys2Proof.Machine.execMark h ag stor s
  | .talloc h gd hn src => Sys2Proof.Machine.execTalloc h gd hn src s
  | .tfree h hn => Sys2Proof.Machine.execTfree h hn s
  | .tinfo h gd hn => Sys2Proof.Machine.execTinfo h gd hn s
  | .copy h tag dk dst src sk sn => Sys2Proof.Machine.execCopy h tag dk dst src sk sn s
  | .copyp h tag hn => Sys2Proof.Machine.execCopyp h tag hn s
  | .twaitany h gd src => Sys2Proof.Machine.execTwaitany h gd src s
  | .twaitall h src => Sys2Proof.Machine.execTwaitall h src s
  | .tffr h gd src => Sys2Proof.Machine.execTffr h gd src s
  | .tclr h src => Sys2Proof.Machine.execTclr h src s
  | .pref h d cn off => Sys2Proof.Machine.execPref h d cn off s
  | .prefw h d a => Sys2Proof.Machine.execPrefw h d a s
  | .poolset h gd src => Sys2Proof.Machine.execPoolset h gd src s
  | .poolqOcc h gd => Sys2Proof.Machine.execPoolqOcc h gd s
  | .poolqTkt h gd src => Sys2Proof.Machine.execPoolqTkt h gd src s
  | .cflush h cn off => Sys2Proof.Machine.execCflush h cn off s
  | .cinv h cn off => Sys2Proof.Machine.execCinv h cn off s
  | .foot h cn src acc => Sys2Proof.Machine.execFoot h cn src acc s
  | .job h tag hn => Sys2Proof.Machine.execJob h tag hn s
  | .near h tag hn => Sys2Proof.Machine.execNear h tag hn s
  | .push h qn src ag stor => Sys2Proof.Machine.execPush h qn src ag stor s
  | .pop h qn d ag stor => Sys2Proof.Machine.execPop h qn d ag stor s
  | .post h en n => Sys2Proof.Machine.execPost h en n s
  | .await h en n => Sys2Proof.Machine.execAwait h en n s
  | .awaitn h gd src => Sys2Proof.Machine.execAwaitn h gd src s
  | .bar h bid mask => Sys2Proof.Machine.execBar h bid mask s
  | .rowwait h sn src => Sys2Proof.Machine.execRowwait h sn src s
  | .rowget h gd sn => Sys2Proof.Machine.execRowget h gd sn s
  | .frmgetCnt h gd sn => Sys2Proof.Machine.execFrmgetCnt h gd sn s
  | .frmgetStamp h gd sn => Sys2Proof.Machine.execFrmgetStamp h gd sn s
  | .rcsub h hn grp m => Sys2Proof.Machine.execRcsub h hn grp m s
  | .rcget h gd hb hr grp => Sys2Proof.Machine.execRcget h gd hb hr grp s
  | .rccfg h grp src m => Sys2Proof.Machine.execRccfg h grp src m s
  | .timeget h d => Sys2Proof.Machine.execTimeget h d s
  | .timegetSt h d => Sys2Proof.Machine.execTimegetSt h d s
  | .qstatQ h d n => Sys2Proof.Machine.execQstatQ h d n s
  | .qstatE h d n => Sys2Proof.Machine.execQstatE h d n s
  | .stbind h hn sn src gd => Sys2Proof.Machine.execStbind h hn sn src gd s
  | .qdrainQ h gd n => Sys2Proof.Machine.execQdrainQ h gd n s
  | .qdrainE h gd n => Sys2Proof.Machine.execQdrainE h gd n s
  | .br h disp => Sys2Proof.Machine.execBr h disp s
  | .bri h a => Sys2Proof.Machine.execBri h a s
  | .briRel h a => Sys2Proof.Machine.execBriRel h a s
  | .call h gn disp => Sys2Proof.Machine.execCall h gn disp s
  | .ret h a => Sys2Proof.Machine.execRet h a s
  | .loop h n disp => Sys2Proof.Machine.execLoop h n disp s
  | .lclose h n disp => Sys2Proof.Machine.execLclose h n disp s
  | .rrbset h a b ek ev => Sys2Proof.Machine.execRrbset h a b ek ev s
  | .fork h => Sys2Proof.Machine.execFork h s
  | .joinCc h cc mask => Sys2Proof.Machine.execJoinCc h cc mask s
  | .ccset h val cc => Sys2Proof.Machine.execCcset h val cc s
  | .ccwait h val cc => Sys2Proof.Machine.execCcwait h val cc s
  | .start h => Sys2Proof.Machine.execStart h s
  | .endStream h => Sys2Proof.Machine.execEndStream h s
  | .yieldCore h => Sys2Proof.Machine.execYieldCore h s
  | .sleep h en => Sys2Proof.Machine.execSleep h en s
  | .spawn h gd src => Sys2Proof.Machine.execSpawn h gd src s
  | .launch h gd hn => Sys2Proof.Machine.execLaunch h gd hn s
  | .spec h gd hn => Sys2Proof.Machine.execSpec h gd hn s
  | .decide h gd slot succ => Sys2Proof.Machine.execDecide h gd slot succ s
  | .twaitLaunch h gd src => Sys2Proof.Machine.execTwaitLaunch h gd src s
  | .twaitIdle h eng => Sys2Proof.Machine.execTwaitIdle h eng s
  | .tdone h => Sys2Proof.Machine.execTdone h s
  | .trap h code => Sys2Proof.Machine.execTrap h code s
  | .brk h => Sys2Proof.Machine.execBrk h s
  | .snaprD h d a => Sys2Proof.Machine.execSnaprD h d a s
  | .snaprV h d a => Sys2Proof.Machine.execSnaprV h d a s
  | .snaprSt h d a => Sys2Proof.Machine.execSnaprSt h d a s
  | .snapwD h d a b => Sys2Proof.Machine.execSnapwD h d a b s
  | .snapwV h d a b => Sys2Proof.Machine.execSnapwV h d a b s
  | .csrr h d csr => Sys2Proof.Machine.execCsrr h d csr s
  | .csrw h d csr b opn => Sys2Proof.Machine.execCsrw h d csr b opn s
  | .idget h d sel => Sys2Proof.Machine.execIdget h d sel s
  | .clkget h d sel => Sys2Proof.Machine.execClkget h d sel s
  | .perfr h d n clr => Sys2Proof.Machine.execPerfr h d n clr s
  | .ifence h => Sys2Proof.Machine.execIfence h s
  | .reservedOpcode w => Sys2Proof.Machine.execReservedOpcode w s
  | .engineCommandStart core eng => Sys2Proof.Machine.execEngineCommandStart core eng s
  | .engineCommandFinish core eng => Sys2Proof.Machine.execEngineCommandFinish core eng s
  | .kStep core => Sys2Proof.Machine.execKStep core s
  | .engineAutumnEntry core eng => Sys2Proof.Machine.execEngineAutumnEntry core eng s
  | .domainStep core => Sys2Proof.Machine.execDomainStep core s
  | .domainReferenceTrigger core dom => Sys2Proof.Machine.execDomainReferenceTrigger core dom s
  | .domainEngineTrigger core dom => Sys2Proof.Machine.execDomainEngineTrigger core dom s
  | .copypEndMarker core => Sys2Proof.Machine.execCopypEndMarker core s
  | .poolRequestStep core => Sys2Proof.Machine.execPoolRequestStep core s
  | .loadDataReturn core id => Sys2Proof.Machine.execLoadDataReturn core id s
  | .atomicReturn core id => Sys2Proof.Machine.execAtomicReturn core id s
  | .addressTranslation core id => Sys2Proof.Machine.execAddressTranslation core id s
  | .pushEntryPoppable core id => Sys2Proof.Machine.execPushEntryPoppable core id s
  | .postAdditionLands core id => Sys2Proof.Machine.execPostAdditionLands core id s
  | .ccsetValueLands core id => Sys2Proof.Machine.execCcsetValueLands core id s
  | .instructionBufferFill core stream block => Sys2Proof.Machine.execInstructionBufferFill core stream block s
  | .watchdogExpiry core => Sys2Proof.Machine.execWatchdogExpiry core s
  | .deadlineMiss lid => Sys2Proof.Machine.execDeadlineMiss lid s
  | .formSwap form => Sys2Proof.Machine.execFormSwap form s
  | .contextSave core => Sys2Proof.Machine.execContextSave core s
  | .contextRestore core => Sys2Proof.Machine.execContextRestore core s
  | .dieQueuePop core => Sys2Proof.Machine.execDieQueuePop core s
  | .frameDeadline sn => Sys2Proof.Machine.execFrameDeadline sn s
  | .lbpRowRun lbp => Sys2Proof.Machine.execLbpRowRun lbp s
  | .rowPublish sn => Sys2Proof.Machine.execRowPublish sn s
  | .storePerformed core writeBack id => Sys2Proof.Machine.execStorePerformed core writeBack id s
  | .nearPartDone core => Sys2Proof.Machine.execNearPartDone core s
  | .prefetchComplete core token => Sys2Proof.Machine.execPrefetchComplete core token s
  | .timingErrorReplay core stream commit => Sys2Proof.Machine.execTimingErrorReplay core stream commit s
  | .softErrorConsumed core stream store number commit => Sys2Proof.Machine.execSoftErrorConsumed core stream store number commit s
  | .keeperScrub corrected => Sys2Proof.Machine.execKeeperScrub corrected s
  | .ffCtlResume core writer => Sys2Proof.Machine.execFfCtlResume core writer s
  | .ffCtlAbandon core writer => Sys2Proof.Machine.execFfCtlAbandon core writer s
  | .ffCtlAbort core writer => Sys2Proof.Machine.execFfCtlAbort core writer s
  | .debugHaltRequest core stream => Sys2Proof.Machine.execDebugHaltRequest core stream s
  | .debugResume core stream => Sys2Proof.Machine.execDebugResume core stream s
  | .inboxTail fn tail => Sys2Proof.Machine.execInboxTail fn tail s
  | .launchPacketEntry fn => Sys2Proof.Machine.execLaunchPacketEntry fn s
  | .ttCommit => Sys2Proof.Machine.execTtCommit s
  | .overflowDrain die ctx => Sys2Proof.Machine.execOverflowDrain die ctx s
  | .urgForms mask => Sys2Proof.Machine.execUrgForms mask s
  | .seasonReqSummer core val => Sys2Proof.Machine.execSeasonReqSummer core val s
  | .seasonReqWinter core val => Sys2Proof.Machine.execSeasonReqWinter core val s
  | .seasonReqMidwinter core val => Sys2Proof.Machine.execSeasonReqMidwinter core val s
  | .seasonEntry core => Sys2Proof.Machine.execSeasonEntry core s
  | .springRampStart die => Sys2Proof.Machine.execSpringRampStart die s
  | .springRampDone die => Sys2Proof.Machine.execSpringRampDone die s
  | .formImbalanceTick form work filler => Sys2Proof.Machine.execFormImbalanceTick form work filler s
  | .throttleRelax form => Sys2Proof.Machine.execThrottleRelax form s
  | .thermalCeilingStep die raise => Sys2Proof.Machine.execThermalCeilingStep die raise s
  | .thermalTrip die => Sys2Proof.Machine.execThermalTrip die s
  | .thermalTripRelease die => Sys2Proof.Machine.execThermalTripRelease die s
  | .slowDownNoticeRepeat die => Sys2Proof.Machine.execSlowDownNoticeRepeat die s
  | .slowDownNotice port code => Sys2Proof.Machine.execSlowDownNotice port code s
  | .releaseNotice port => Sys2Proof.Machine.execReleaseNotice port s
  | .peerCeilingExpiry port => Sys2Proof.Machine.execPeerCeilingExpiry port s
  | .memTempRead channel temp => Sys2Proof.Machine.execMemTempRead channel temp s
  | .otCmdInval fn val => Sys2Proof.Machine.execOtCmdInval fn val s
  | .otCmdMigrate fn val => Sys2Proof.Machine.execOtCmdMigrate fn val s
  | .otCmdDirty fn val => Sys2Proof.Machine.execOtCmdDirty fn val s
  | .shootDownAck receiver => Sys2Proof.Machine.execShootDownAck receiver s
  | .migrationCopy => Sys2Proof.Machine.execMigrationCopy s
  | .functionLevelReset fn => Sys2Proof.Machine.execFunctionLevelReset fn s
  | .flrDone fn => Sys2Proof.Machine.execFlrDone fn s
  | .deviceReset verified record => Sys2Proof.Machine.execDeviceReset verified record s
  | .attCmd => Sys2Proof.Machine.execAttCmd s
  | .attestationReportDone keeper registrar config sigR sigS => Sys2Proof.Machine.execAttestationReportDone keeper registrar config sigR sigS s
  | .hostLinkError core id => Sys2Proof.Machine.execHostLinkError core id s
  | .scfgEnable sn val => Sys2Proof.Machine.execScfgEnable sn val s
  | .scfgDisable sn val => Sys2Proof.Machine.execScfgDisable sn val s
  | .serrCtlClr sn val => Sys2Proof.Machine.execSerrCtlClr sn val s
  | .csi2FrameStart port head => Sys2Proof.Machine.execCsi2FrameStart port head s
  | .csi2FrameEnd port head => Sys2Proof.Machine.execCsi2FrameEnd port head s
  | .csi2LineStart port head line => Sys2Proof.Machine.execCsi2LineStart port head line s
  | .csi2LongPacket port vc kind eccBad crcBad samples => Sys2Proof.Machine.execCsi2LongPacket port vc kind eccBad crcBad samples s
  | .lidarFrame port head payload => Sys2Proof.Machine.execLidarFrame port head payload s
  | .rollCallTick => Sys2Proof.Machine.execRollCallTick s
  | .timeSyncMessage host synced time => Sys2Proof.Machine.execTimeSyncMessage host synced time s
  | .registerWrite win offset val => Sys2Proof.Machine.execRegisterWrite win offset val s
  | .talothPortTraining port peer => Sys2Proof.Machine.execTalothPortTraining port peer s
  | .talothJobPeerMessage port peer data => Sys2Proof.Machine.execTalothJobPeerMessage port peer data s

end Sys2Proof.Machine
end

