-- ==== Sys2Proof/Machine/Cursor.lean ====
section
/-! DEFINITION. What one step does at the cursor (log 3): a happening that is due, the words of a slot of the cycle, or the
beginning or end of a unit's cycle; and the placing of one instruction where the next step fetches it. -/

namespace Sys2Proof.Machine

/-- Runs the words of a slot in the order of their streams, each with the cursor at its own stream (R44, R66). -/
def runWords : List (Nat × Instr) → State → Host.Outcome State Fault Refusal
  | [], s => .next s
  | w :: ws, s =>
    match exec w.2 { s with phase := .stream w.1 } with
    | .next t => runWords ws (t.consumed s w)
    | .fault f => .fault f
    | .refused r => .refused r
/-- The words of a slot that run once more after others of the bundle have been held back; what they do then stands. -/
def runAgain (s : State) (ws : List (Nat × Instr)) : Host.Outcome State Fault Refusal :=
  match runWords ws s with
  | .next t =>
    match s.settle t ws true with
    | .done u => answer u.advance
    | .rerun _ _ => answer ({ t with phase := s.phase } : State).advance
  | .fault f => .fault f
  | .refused r => .refused r
/-- Clusters that lie between the members of a bundle and are none of them. -/
def gapsOf (ws : List (Nat × Instr)) : List Nat :=
  [1, 2].filter fun n => !(ws.any fun w => w.1 == n) && ws.any (fun w => w.1 < n) && ws.any fun w => n < w.1
/-- The words of two slots in the order of their streams. -/
def merged (a b : List (Nat × Instr)) : List (Nat × Instr) := [0, 1, 2, 3].flatMap fun n => (a ++ b).filter fun w => w.1 == n
/-- Whether words have issued. -/
def State.issuedAll (s : State) (ws : List (Nat × Instr)) : Bool := ws.all fun w => s.verdictOf w.1 == .issued || s.verdictOf w.1 == .taken
/-- The state from which a bundle's words and those of the clusters between them run in trial, and the latter's words: of those that
would issue. -/
def State.gapWords (s : State) (ws : List (Nat × Instr)) : State × List (Nat × Instr) :=
  let g := (gapsOf ws).foldl (fun (a : State × List (Nat × Instr)) n => let r := a.1.slotWords s.curCore n; (r.1, a.2 ++ r.2)) (s, [])
  match runWords (merged ws g.2) g.1 with
  | .next t => (g.1, if t.issuedAll g.2 then g.2 else [])
  | _ => (g.1, [])
/-- What has become of a slot's words, and the cursor goes on. -/
def runSettled (s : State) (ws : List (Nat × Instr)) (t : State) : Host.Outcome State Fault Refusal :=
  match s.settle t ws false with
  | .done u => answer u.advance
  | .rerun u vs => runAgain u vs
/-- A bundle whose members lie apart: whether it issues shows in a trial with the words between; then each member runs in its own
slot, so that effects come in the order of the streams (R44, R66). -/
def runApart (s : State) (ws : List (Nat × Instr)) : Host.Outcome State Fault Refusal :=
  let g := s.gapWords ws
  match runWords (merged ws g.2) g.1 with
  | .next t =>
    if t.issuedAll ws then
      let ms := ws.map Prod.fst
      let bits (l : List Nat) : BitVec 4 := l.foldl (fun b m => b ||| BitVec.ofNat 4 (2 ^ m)) 0
      let took := ms.filter fun m => t.verdictOf m == .taken
      let s := s.modCore s.curCore fun x =>
        { x with pass := x.pass ||| bits (ms.drop 1), forking := if took.isEmpty || took.length == ms.length then x.forking else x.forking ||| bits ms }
      match runWords (ws.take 1) s with
      | .next u => answer u.advance
      | .fault f => .fault f
      | .refused r => .refused r
    else runSettled s ws t
  | .fault f => .fault f
  | .refused r => .refused r
/-- The words that stand for issue run, and the cursor goes on. -/
def runSlot (s : State) (ws : List (Nat × Instr)) : Host.Outcome State Fault Refusal :=
  if !(gapsOf ws).isEmpty then runApart s ws
  else match runWords ws s with
    | .next t => runSettled s ws t
    | .fault f => .fault f
    | .refused r => .refused r
/-- The step at the cursor. -/
def State.cursorStep (s : State) : Host.Outcome State Fault Refusal :=
  match s.fetchStep with
  | (t, []) => answer t.frame.advance
  | (t, ws) => runSlot t ws
/-- One step: a happening that the rules fix to this moment, then one from outside whose wait is over, then the cursor. What comes
from outside falls between the cycles of two units, so that a cycle sees it from its start or not at all (log 3). -/
def State.stepNow (s : State) : Host.Outcome State Fault Refusal :=
  match s.due with
  | i :: t => exec i { s with due := t }
  | [] =>
    match s.outside with
    | (0, i) :: t => if s.phase = .prepare then exec i { s with outside := t } else s.cursorStep
    | (n + 1, i) :: t => State.cursorStep { s with outside := (n, i) :: t }
    | [] => s.cursorStep

/-- The lowest-numbered stream of a core in which a word's opcode is legal; CL0 for one that is legal in none. -/
def homeStream (w : Word) : Nat :=
  (allStreams.find? fun n => (Encoding.legalStreams (slice w.toNat 45 8)).getLsbD n).getD 0
/-- A stream that stands at a word and issues it in the next slot. -/
def Stream.standAt (t : Stream) (w : Word) : Stream :=
  { t with
    ibuf := tabPut t.ibuf t.pc w, blocks := t.blocks ||| BitVec.ofNat 64 (2 ^ (t.pc / 16)), codeLen := max t.codeLen 1024
    started := true, ended := false, halted := false, atStart := false, idle := 0, idleLoaded := true, replay := false
    verdict := .none, ending := false }
/-- Core 0 runs a task in which one stream stands at a word, and the cursor stands at that stream (log 24). -/
def State.placeWord (s : State) (w : Word) : State :=
  let n := homeStream w
  let s := s.modCore 0 fun x => ((if n < 4 ∧ (x.stream n).group ≠ 0 then x.leave n else x).modStream n fun t => t.standAt w)
  let s := s.modCore 0 fun x => { x with tt := .run, pass := 0, task := some (x.task.getD { vregs := 384 }) }
  { s with due := [], outside := [], curCore := 0, phase := .stream n, powered := true, broken := none }

end Sys2Proof.Machine
end

