-- ==== Sys2Proof/Safety.lean ====
section
/-! DEFINITION. The terms in which the claims are made: what a safe run is, when a word issues, and the states that an issued word
leaves behind. -/

namespace Sys2Proof.Machine

/-! ## Outcomes -/

/-- Whether an outcome is a next state. -/
def isNext : Host.Outcome State Fault Refusal → Bool
  | .next _ => true
  | _ => false

/-- Whether a run of k steps goes on throughout: it meets no address that does not exist and no instruction without a meaning. -/
def State.safeFor : Nat → State → Bool
  | 0, _ => true
  | k + 1, s => match step s with | .next t => t.safeFor k | _ => false

/-! ## When a word issues (R62, R63, R65, R83) -/

/-- The word's encoding raises no fault in the stream at the cursor (R83). -/
def State.encodes (s : State) (i : Instr) : Bool :=
  match Encoding.hdr i with
  | some h => (encodingFault (portFile s s.curCore s.curStream) s.curStream i h).isNone
  | none => false
/-- The word's guard is true (R62). -/
def State.guarded (s : State) (i : Instr) : Bool :=
  match Encoding.hdr i with
  | some h => s.own.guard h
  | none => false
/-- The word issues at the cursor unless its own description makes it wait or fault: no encoding fault, a true guard, no queue
register that it names stands in its way, and no other cluster's link port is named outside its join group (R48). -/
def State.issues (s : State) (i : Instr) : Bool :=
  s.encodes i && s.guarded i && !portsBlocked s.now i && (strayLink s s.curCore s.curStream i).isNone
/-- The word at the cursor is not the last word of its code object. -/
def State.hasNext (s : State) : Bool := s.own.pc + 1 < s.own.codeLen
/-- The word issues, and a word in sequence follows it. -/
def State.ready (s : State) (i : Instr) : Bool := s.issues i && s.hasNext
/-- A word index lies within the code object of the stream at the cursor. -/
def State.inCode (s : State) (n : Int) : Bool := 0 ≤ n && n < (s.own.codeLen : Int)

/-! ## What an issued word leaves -/

/-- The word at the cursor of s has issued with the effects that u holds: the next word in sequence stands next; a stream that ends
stays at its word. -/
def State.after (s u : State) : State :=
  u.retire s.curCore s.curStream (if (u.stream s.curCore s.curStream).ending then s.own.pc else s.own.pc + 1) false
/-- The word at the cursor of s has issued with the effects that u holds, and word n stands next. -/
def State.jump (s u : State) (n : Int) : State := u.retire s.curCore s.curStream n.toNat true
/-- One 64-bit source, and a result of a unit (latch 15: none) with a latency. -/
def State.gives1 (s : State) (unit lat : Nat) (d a : Port) (f : Word → Word) : State :=
  (s.readInt a).2.deliverTo unit lat d ((f (s.readInt a).1).setWidth 1024)
/-- Two 64-bit sources, SRCA before SRCB, and a result of a unit with a latency. -/
def State.gives2 (s : State) (unit lat : Nat) (d a b : Port) (f : Word → Word → Word) : State :=
  let x := s.readInt a
  let y := x.2.readInt b
  y.2.deliverTo unit lat d ((f x.1 y.1).setWidth 1024)
/-- One 256-bit source, and a vector result with its flags. -/
def State.givesV1 (s : State) (unit lat : Nat) (d a : Port) (f : Vec → Vec × Flags) : State :=
  let x := s.read a
  let r := f x.1
  x.2.deliverTo unit lat d (r.1.setWidth 1024) r.2
/-- Two 256-bit sources, and a vector result with its flags. -/
def State.givesV2 (s : State) (unit lat : Nat) (d a b : Port) (f : Vec → Vec → Vec × Flags) : State :=
  let x := s.read a
  let y := x.2.read b
  let r := f x.1 y.1
  y.2.deliverTo unit lat d (r.1.setWidth 1024) r.2
/-- A value of width w as 64 bits: sign-extended for an .i type, zero-extended for an .n type (R148). -/
def extendTo64 (ty : Nat) {w : Nat} (x : BitVec w) : Word := if signedTy ty then x.signExtend 64 else x.setWidth 64
/-- A result of the low w bits of two sources, w the width of the type. -/
def onBits (ty : Nat) (f : BitVec (widthOf ty) → BitVec (widthOf ty) → BitVec (widthOf ty)) (x y : Word) : Word :=
  extendTo64 ty (f (x.setWidth (widthOf ty)) (y.setWidth (widthOf ty)))
/-- The order of a type on values of its width. -/
def lessOn (ty : Nat) {w : Nat} (x y : BitVec w) : Bool := if signedTy ty then x.slt y else x.ult y

/-! ## Lanes of vector words (R170, R174) -/

/-- A word of one lane type over two sources: lane i of the result from lane i of each (R174). -/
def State.givesLanes2 (s : State) (unit lat : Nat) (d a b : Port) (ty : Nat) (f : Nat → Nat → Nat × Flags) : State :=
  s.givesV2 unit lat d a b fun x y =>
    lanes2 (widthOf ty) f (widen a x (widthOf ty) (immOf ty)) (widen b y (widthOf ty) (immOf ty))
/-- The same over one source. -/
def State.givesLanes1 (s : State) (unit lat : Nat) (d a : Port) (ty : Nat) (f : Nat → Nat × Flags) : State :=
  s.givesV1 unit lat d a fun x => lanes1 (widthOf ty) f (widen a x (widthOf ty) (immOf ty))
/-- The same over two sources and the old lanes of the destination (R171). -/
def State.givesLanes3 (s : State) (unit lat : Nat) (d a b : Port) (ty : Nat) (f : Nat → Nat → Nat → Nat × Flags) : State :=
  s.givesV2 unit lat d a b fun x y =>
    lanes3 (widthOf ty) f (widen a x (widthOf ty) (immOf ty)) (widen b y (widthOf ty) (immOf ty)) (oldDst s d)
/-- A permute: lane k of the result is the lane of SRCA that `pick` names from the control operand, and 0 where it names none
(R185). -/
def State.givesPerm (s : State) (d a b : Port) (ty : Nat) (pick : Vec → Nat → Option Nat) : State :=
  s.givesV2 4 3 d a b fun x y =>
    (fromLanes (widthOf ty) ((List.range (256 / widthOf ty)).map fun k =>
      match pick y k with | some j => lane (widenP a x ty) (widthOf ty) j | none => 0), 0)

/-! ## Commands to engines (R58, R65, R66, R213) -/

/-- Every engine listed can take a command in this cycle, and OUT has room for it. -/
def State.takesCommand (s : State) (engs : List Nat) : Bool :=
  engs.all fun e => !engineBusy s.now s.old e && (s.now.compRec e).out < 2 ^ 32 - 1
/-- Commands enter their engines' queues, each after the accesses of its stream so far, and the stream counts them. -/
def State.commanded (s : State) (cmds : List (Nat × Cmd)) : State :=
  (s.tickSeq.modSh s.curCore fun x => cmds.foldl (fun y z => y.accept z.1 { z.2 with since := s.seq }) x).modStream s.curCore s.curStream
    fun t => cmds.foldl (fun u _ => u.count 7) t
/-- The command of a word with one SRC port and the tiles of the handles that it names. -/
def State.commandOf (s : State) (i : Instr) (src : Vec) (hs : List Nat) : Cmd :=
  { ins := i, src, stream := s.curStream, tiles := namedTiles s.now hs }

/-! ## What words leave alone -/

/-- The registers of a stream that results are written into: G, K, V, C, LC, its link, its latches and the tag of CU.o. -/
def Stream.files (t : Stream) : Tab Word × Tab (BitVec 32) × Tab Vec × Tab Cap × Tab (BitVec 32) × Vec × Tab Vec × Bool :=
  (t.g, t.k, t.v, t.c, t.lc, t.link, t.latch, t.cuTag)
/-- Words whose issue acquires or releases memory, which moves CACHE sectors, or decides over stores held back. -/
def publishes : Instr → Bool
  | .pop .. | .spawn .. | .launch .. | .spec .. | .decide .. | .twaitLaunch .. => true
  | _ => false
/-- DECIDE. -/
def decides : Instr → Bool
  | .decide .. => true
  | _ => false
/-- CSRW. -/
def writesStatus : Instr → Bool
  | .csrw .. => true
  | _ => false

end Sys2Proof.Machine
end

