-- ==== Sys2Proof/Certificates/Slice0/Obligations.lean ====
section
/-! DEFINITION. What is claimed of the machine. -/

open Sys2Proof Sys2Proof.Machine

/-- A word whose guard is false issues and has no effect but the advance of its stream: no result, no pop or push, no command, no access,
no branch, no fault of its own (R63). A fault of a word's encoding is raised at issue whatever the guard, and the word does nothing else
(R83). A word that names an empty queue register as a source, or a full one as its destination, blocks in this cycle: nothing changes but
the record that it blocked (R65, items 1 and 2). -/
def Obligations.WordsBeforeTheirEffects : Prop :=
  (
    ∀ (i : Instr) (s : State), s.encodes i = true → s.guarded i = false → s.hasNext = true →
      exec i s = .next (s.retire s.curCore s.curStream (s.own.pc + 1) false)) ∧
  (
    ∀ (i : Instr) (s : State) (h : Hdr) (f : Nat × Word), Encoding.hdr i = some h →
      encodingFault (portFile s s.curCore s.curStream) s.curStream i h = some f →
      exec i s = .next (s.takeFault s.curCore (some s.curStream) f.1 f.2 false)) ∧
  (
    ∀ (i : Instr) (s : State), s.encodes i = true → s.guarded i = true → portsBlocked s.now i = true →
      exec i s = .next (s.block s.curCore s.curStream))

/-- Where a word has both an illegal operand and an absent port, the illegal instruction is reported (R83); a guard predicate that the
stream's file lacks is a port fault that records its port (R62). A word of a reserved opcode decodes to no instruction, and raises the
illegal instruction with its opcode in FF_INFO, in every stream and whatever its guard (R85). -/
def Obligations.IllegalInstructionsAndReservedOpcodes : Prop :=
  (
    (∀ (f : Encoding.PortFile) (st : Nat) (i : Instr) (h : Hdr), f.lbp = false → Encoding.fieldsOk i = false →
      encodingFault f st i h = some (1, illegalInfo (Encoding.opcode i))) ∧
    (∀ (f : Encoding.PortFile) (st : Nat) (i : Instr) (h : Hdr) (x : Encoding.Use × Port), f.lbp = false → x ∈ Encoding.operands i →
      Encoding.illegalKind f.own x.1 x.2 = true → encodingFault f st i h = some (1, illegalInfo (Encoding.opcode i))) ∧
    (∀ (f : Encoding.PortFile) (st : Nat) (i : Instr) (h : Hdr) (p : Nat × Word), f.lbp = false →
      encodingFault f st i h = some p → p.1 = 2 →
      (Encoding.legalStreams (Encoding.opcode i).toNat).getLsbD st = true ∧ Encoding.fieldsOk i = true ∧
        ((f.fullK = false ∧ p.2 = BitVec.ofNat 64 (0x1C0 + h.gk.toNat)) ∨
          ∃ x ∈ Encoding.operands i, Encoding.absent f x.1 x.2 = true ∧ p.2 = BitVec.ofNat 64 x.2.toNat))) ∧
  (
    (∀ w : Word, let op := slice w.toNat 45 8
      (0x57 ≤ op ∧ op ≤ 0x5F) ∨ (0x75 ≤ op ∧ op ≤ 0x7F) ∨ (0x8B ≤ op ∧ op ≤ 0x8F) ∨ (0xAD ≤ op ∧ op ≤ 0xAF) ∨
        (0xD5 ≤ op ∧ op ≤ 0xDF) ∨ (0xEA ≤ op ∧ op ≤ 0xFF) → instrOf w = .reservedOpcode w) ∧
    (∀ (w : Word) (s : State), exec (.reservedOpcode w) s =
      .next (s.takeFault s.curCore (some s.curStream) 1 (BitVec.ofNat 64 (slice w.toNat 45 8 * 256)) false)))

/-- ADD, SUB, MUL and the bitwise instructions: modulo 2^w on the low w bits of both sources, extended as the type says, to DST and the
unit's latch with latency 1, MUL 3. Shifts and rotation by the low log2(w) bits of SRCB; the minima and maxima of their types; CLZ and
POPC (R151). The high halves of exact products, with latency 3 (R151). -/
def Obligations.IntegerInstructions : Prop :=
  (
    ∀ (h : Hdr) (d a b : Port) (ty : BitVec 5) (s : State),
      (s.ready (.add h d a b ty) = true →
        exec (.add h d a b ty) s = .next (s.after (s.gives2 0 1 d a b (onBits ty.toNat fun x y => x + y)))) ∧
      (s.ready (.sub h d a b ty) = true →
        exec (.sub h d a b ty) s = .next (s.after (s.gives2 0 1 d a b (onBits ty.toNat fun x y => x - y)))) ∧
      (s.ready (.mul h d a b ty) = true →
        exec (.mul h d a b ty) s = .next (s.after (s.gives2 1 3 d a b (onBits ty.toNat fun x y => x * y)))) ∧
      (s.ready (.and h d a b ty) = true →
        exec (.and h d a b ty) s = .next (s.after (s.gives2 0 1 d a b (onBits ty.toNat fun x y => x &&& y)))) ∧
      (s.ready (.or h d a b ty) = true →
        exec (.or h d a b ty) s = .next (s.after (s.gives2 0 1 d a b (onBits ty.toNat fun x y => x ||| y)))) ∧
      (s.ready (.xor h d a b ty) = true →
        exec (.xor h d a b ty) s = .next (s.after (s.gives2 0 1 d a b (onBits ty.toNat fun x y => x ^^^ y)))) ∧
      (s.ready (.andn h d a b ty) = true →
        exec (.andn h d a b ty) s = .next (s.after (s.gives2 0 1 d a b (onBits ty.toNat fun x y => x &&& ~~~y))))) ∧
  (
    ∀ (h : Hdr) (d a b : Port) (ty : BitVec 5) (s : State), let w := widthOf ty.toNat
      (s.ready (.shl h d a b ty) = true →
        exec (.shl h d a b ty) s = .next (s.after (s.gives2 0 1 d a b (onBits ty.toNat fun x y => x <<< (y.toNat % w))))) ∧
      (s.ready (.shr h d a b ty) = true →
        exec (.shr h d a b ty) s = .next (s.after (s.gives2 0 1 d a b (onBits ty.toNat fun x y => x >>> (y.toNat % w))))) ∧
      (s.ready (.sar h d a b ty) = true →
        exec (.sar h d a b ty) s = .next (s.after (s.gives2 0 1 d a b (onBits ty.toNat fun x y => x.sshiftRight (y.toNat % w))))) ∧
      (s.ready (.rot h d a b ty) = true →
        exec (.rot h d a b ty) s = .next (s.after (s.gives2 0 1 d a b (onBits ty.toNat fun x y => x.rotateLeft (y.toNat % w))))) ∧
      (s.ready (.min h d a b ty) = true →
        exec (.min h d a b ty) s =
          .next (s.after (s.gives2 0 1 d a b (onBits ty.toNat fun x y => if lessOn ty.toNat y x then y else x)))) ∧
      (s.ready (.max h d a b ty) = true →
        exec (.max h d a b ty) s =
          .next (s.after (s.gives2 0 1 d a b (onBits ty.toNat fun x y => if lessOn ty.toNat x y then y else x)))) ∧
      (s.ready (.minn h d a b ty) = true →
        exec (.minn h d a b ty) s =
          .next (s.after (s.gives2 0 1 d a b (onBits ty.toNat fun x y => if lessOn ty.toNat y x then y else x)))) ∧
      (s.ready (.maxn h d a b ty) = true →
        exec (.maxn h d a b ty) s =
          .next (s.after (s.gives2 0 1 d a b (onBits ty.toNat fun x y => if lessOn ty.toNat x y then y else x)))) ∧
      (s.ready (.clz h d a ty) = true →
        exec (.clz h d a ty) s = .next (s.after (s.gives1 0 1 d a fun x => extendTo64 ty.toNat
          (BitVec.ofNat w ((List.range w).takeWhile fun j => !x.getLsbD (w - 1 - j)).length)))) ∧
      (s.ready (.popc h d a ty) = true →
        exec (.popc h d a ty) s = .next (s.after (s.gives1 0 1 d a fun x => extendTo64 ty.toNat
          (BitVec.ofNat w ((List.range w).filter fun j => x.getLsbD j).length))))) ∧
  (
    ∀ (h : Hdr) (d a b : Port) (ty : BitVec 5) (s : State), let w := widthOf ty.toNat
      let high (x y : Word) : Word := extendTo64 ty.toNat (BitVec.ofInt w ((operandZ ty.toNat x * operandZ ty.toNat y) / 2 ^ w))
      (s.ready (.mulh h d a b ty) = true → exec (.mulh h d a b ty) s = .next (s.after (s.gives2 1 3 d a b high))) ∧
      (s.ready (.mulhn h d a b ty) = true → exec (.mulhn h d a b ty) s = .next (s.after (s.gives2 1 3 d a b high))))

/-- Quotient and remainder, truncated toward zero, with a zero divisor giving all ones and the dividend (R152), with the latency of the
width (R153) and without flag or trap. -/
def Obligations.QuotientsAndRemainders : Prop :=
  ∀ (h : Hdr) (d a b : Port) (ty : BitVec 5) (s : State), let w := widthOf ty.toNat
    let quo (x y : Word) : Word := extendTo64 ty.toNat (if operandZ ty.toNat y = 0 then BitVec.allOnes w
      else BitVec.ofInt w ((operandZ ty.toNat x).tdiv (operandZ ty.toNat y)))
    let rest (x y : Word) : Word := extendTo64 ty.toNat (if operandZ ty.toNat y = 0 then BitVec.ofInt w (operandZ ty.toNat x)
      else BitVec.ofInt w (operandZ ty.toNat x - operandZ ty.toNat y * (operandZ ty.toNat x).tdiv (operandZ ty.toNat y)))
    let lat := if w = 8 then 6 else if w = 16 then 10 else if w = 32 then 18 else 34
    (s.ready (.div h d a b ty) = true → exec (.div h d a b ty) s = .next (s.after (s.gives2 1 lat d a b quo))) ∧
    (s.ready (.divn h d a b ty) = true → exec (.divn h d a b ty) s = .next (s.after (s.gives2 1 lat d a b quo))) ∧
    (s.ready (.rem h d a b ty) = true → exec (.rem h d a b ty) s = .next (s.after (s.gives2 1 lat d a b rest))) ∧
    (s.ready (.remn h d a b ty) = true → exec (.remn h d a b ty) s = .next (s.after (s.gives2 1 lat d a b rest)))

/-- SEL delivers SRCA where bit 0 of its predicate, one of K0 to K31, is 1, and SRCB where it is 0; it reads both, with latency 1 in SA
(R155). -/
def Obligations.SelChoosesByItsPredicate : Prop :=
  ∀ (h : Hdr) (d a b : Port) (k : BitVec 5) (s : State),
    let p : Bool := (tabGet 0 s.own.k k.toNat).getLsbD 0
    s.ready (.sel h d a b k) = true →
      exec (.sel h d a b k) s = .next (s.after (s.gives2 0 1 d a b fun x y => if p then x else y))

/-- CMP delivers 1 where its condition holds on the low bits of its width, else 0 (R154); NOP has no effect but its issue (R156); LDI,
LDIH and MOV deliver as R157 to R159 say. -/
def Obligations.ComparisonsConstantsAndMoves : Prop :=
  ∀ (h : Hdr) (d a b : Port) (s : State),
    (∀ (cond : BitVec 3) (wd : BitVec 2), s.ready (.cmp h d a b cond wd) = true →
      exec (.cmp h d a b cond wd) s = .next (s.after (s.gives2 0 1 d a b fun x y =>
        let w := 8 * 2 ^ wd.toNat
        let p := x.setWidth w
        let q := y.setWidth w
        if (match cond.toNat with
          | 0 => p == q | 1 => p != q | 2 => p.slt q | 3 => q.sle p | 4 => p.ult q | 5 => q.ule p | _ => p &&& q != 0)
        then 1 else 0))) ∧
    (s.ready (.nop h) = true → exec (.nop h) s = .next (s.after s)) ∧
    (∀ imm : BitVec 27, s.ready (.ldi h d imm) = true →
      exec (.ldi h d imm) s = .next (s.after (s.deliverTo 0 1 d ((imm.signExtend 64).setWidth 1024)))) ∧
    (∀ imm : BitVec 27, s.ready (.ldih h d imm) = true →
      exec (.ldih h d imm) s = .next (s.after (s.deliverTo 0 1 d
        (((s.readInt d).1 <<< 27 ||| imm.setWidth 64).setWidth 1024)))) ∧
    (s.ready (.mov h d a) = true → Encoding.isC d = false →
      exec (.mov h d a) s = .next (s.after ((s.read a).2.deliverTo 15 1 d ((s.read a).1.setWidth 1024)))) ∧
    (s.ready (.mov h d a) = true → Encoding.isC d = true → let c := capOf s s.curCore s.curStream a
      exec (.mov h d a) s = .next (s.after (s.deliverTo 15 1 d (c.bits.setWidth 1024) 0 c.tag)))

/-- CAPADD, the four CAPSETs and CAPGET complete where their conditions hold, with latency 2 in CU (R163, R165 to R167). The value of
CAPGET.rem where CUR lies beyond LEN is the model's free value (log 5): no clause rests on it. A capability word whose check fails pops
its queue source, delivers nothing, and raises the capability fault with the first cause that applies and the register that SRCA names
(R163, R165, R166). -/
def Obligations.CapabilityWords : Prop :=
  (
    ∀ (h : Hdr) (d a b : Port) (s : State),
      let c := capOf s s.curCore s.curStream a
      let y := (s.readInt b).1
      let gives (r : Cap) : Host.Outcome State Fault Refusal :=
        .next (s.after ((s.readInt b).2.deliverTo 8 2 d (r.bits.setWidth 1024) 0 r.tag))
      (∀ n : BitVec 3, s.ready (.capadd h d a b n) = true → c.tag = true → 0 ≤ (c.cur : Int) + y.toInt * 2 ^ n.toNat →
        (c.cur : Int) + y.toInt * 2 ^ n.toNat ≤ c.len →
        exec (.capadd h d a b n) s = gives (c.put 0 32 ((c.cur : Int) + y.toInt * 2 ^ n.toNat).toNat)) ∧
      (s.ready (.capsetWin h d a b) = true → c.tag = true → c.has 7 = true → slice y.toNat 0 32 % 64 = 0 →
        slice y.toNat 0 32 + slice y.toNat 32 32 ≤ c.len →
        exec (.capsetWin h d a b) s =
          gives (((c.put 64 32 (c.base + slice y.toNat 0 32 / 64)).put 32 32 (slice y.toNat 32 32)).put 0 32 0)) ∧
      (s.ready (.capsetRights h d a b) = true → c.tag = true →
        exec (.capsetRights h d a b) s = gives (c.put 96 8 (c.rights &&& y.setWidth 8).toNat)) ∧
      (s.ready (.capsetCur h d a b) = true → c.tag = true → y.toNat ≤ c.len →
        exec (.capsetCur h d a b) s = gives (c.put 0 32 y.toNat)) ∧
      (s.ready (.capsetUntag h d a b) = true → exec (.capsetUntag h d a b) s = gives { c with tag := false }) ∧
      (∀ fld : BitVec 3, s.ready (.capget h d a fld) = true → c.cur ≤ c.len →
        exec (.capget h d a fld) s = .next (s.after (s.deliverTo 8 2 d ((BitVec.ofNat 64
          (match fld.toNat with
            | 0 => c.obj | 1 => c.rights.toNat | 2 => c.base | 3 => c.len | 4 => c.cur | 5 => b2n c.tag | 6 => c.base * 64 + c.cur
            | _ => c.len - c.cur)).setWidth 1024))))) ∧
  (
    ∀ (h : Hdr) (d a b : Port) (s : State),
      let c := capOf s s.curCore s.curStream a
      let y := (s.readInt b).1
      let faults (cause : CapCause) : Host.Outcome State Fault Refusal :=
        .next ((s.readInt b).2.takeFault s.curCore (some s.curStream) 3 (capWordInfo cause a) false)
      (∀ n : BitVec 3, s.issues (.capadd h d a b n) = true →
        (c.tag = false → exec (.capadd h d a b n) s = faults .tag) ∧
        (c.tag = true → ((c.cur : Int) + y.toInt * 2 ^ n.toNat < 0 ∨ (c.len : Int) < (c.cur : Int) + y.toInt * 2 ^ n.toNat) →
          exec (.capadd h d a b n) s = faults .bounds)) ∧
      (s.issues (.capsetWin h d a b) = true →
        (c.tag = false → exec (.capsetWin h d a b) s = faults .tag) ∧
        (c.tag = true → c.has 7 = false → exec (.capsetWin h d a b) s = faults .rights) ∧
        (c.tag = true → c.has 7 = true → (slice y.toNat 0 32 % 64 ≠ 0 ∨ c.len < slice y.toNat 0 32 + slice y.toNat 32 32) →
          exec (.capsetWin h d a b) s = faults .bounds)) ∧
      (s.issues (.capsetRights h d a b) = true → c.tag = false → exec (.capsetRights h d a b) s = faults .tag) ∧
      (s.issues (.capsetCur h d a b) = true →
        (c.tag = false → exec (.capsetCur h d a b) s = faults .tag) ∧
        (c.tag = true → c.len < y.toNat → exec (.capsetCur h d a b) s = faults .bounds)))

/-- Sums, products and the fused forms: integer lanes modulo 2^w, floating-point lanes the exact result rounded once under the word's
mode; unit and latency by R172 (R174, R175). Division, roots and reciprocals rounded once, the routines of R177 and R178, and rounding to
an integral value, each with the latency of its unit (R172, R174, R176 to R178, R188). Minima, maxima, absolute value, negation, bitwise
words, shifts by the count modulo w, and bit counts, lane by lane with latency 2 in VA (R172, R174). -/
def Obligations.VectorArithmetic : Prop :=
  (
    ∀ (h : Hdr) (d a b : Port) (ty : BitVec 5) (s : State),
      let t := ty.toNat
      let w := widthOf t
      let m := rmOf s.here t
      let lat := if isFloatTy t then 3 else 2
      let val (x : Nat) : FVal := (fmtOf t).val x
      (s.ready (.vadd h d a b ty) = true →
        exec (.vadd h d a b ty) s = .next (s.after (s.givesLanes2 2 lat d a b t fun x y =>
          if isFloatTy t then addF (fmtOf t) m (val x) (val y) else (wrapN w (laneZ t x + laneZ t y), 0)))) ∧
      (s.ready (.vsub h d a b ty) = true →
        exec (.vsub h d a b ty) s = .next (s.after (s.givesLanes2 2 lat d a b t fun x y =>
          if isFloatTy t then addF (fmtOf t) m (val x) (val y).neg else (wrapN w (laneZ t x - laneZ t y), 0)))) ∧
      (s.ready (.vmul h d a b ty) = true →
        exec (.vmul h d a b ty) s = .next (s.after (s.givesLanes2 3 4 d a b t fun x y =>
          if isFloatTy t then mulF (fmtOf t) m (val x) (val y) else (wrapN w (laneZ t x * laneZ t y), 0)))) ∧
      (s.ready (.vmulh h d a b ty) = true →
        exec (.vmulh h d a b ty) s = .next (s.after (s.givesLanes2 3 4 d a b t fun x y =>
          (wrapN w ((laneZ t x * laneZ t y) / 2 ^ w), 0)))) ∧
      (s.ready (.vmulw h d a b ty) = true →
        exec (.vmulw h d a b ty) s = .next (s.after (s.givesV2 3 4 d a b fun x y =>
          gather (2 * w) ((List.range (128 / w)).map fun i =>
            let p := lane (widen a x w (immOf t)) w i
            let q := lane (widen b y w (immOf t)) w i
            if isFloatTy t then mulF fp32 s.here.rm (val p) (val q) else (wrapN (2 * w) (laneZ t p * laneZ t q), 0))))) ∧
      (s.ready (.vfma h d a b ty) = true →
        exec (.vfma h d a b ty) s = .next (s.after (s.givesLanes3 3 4 d a b t fun x y z =>
          if isFloatTy t then fmaF (fmtOf t) m (val x) (val y) (val z) else (wrapN w (laneZ t x * laneZ t y + laneZ t z), 0)))) ∧
      (s.ready (.vfms h d a b ty) = true →
        exec (.vfms h d a b ty) s = .next (s.after (s.givesLanes3 3 4 d a b t fun x y z =>
          if isFloatTy t then fmaF (fmtOf t) m (val x) (val y) (val z).neg else (wrapN w (laneZ t x * laneZ t y - laneZ t z), 0)))) ∧
      (s.ready (.vfnma h d a b ty) = true →
        exec (.vfnma h d a b ty) s = .next (s.after (s.givesLanes3 3 4 d a b t fun x y z =>
          if isFloatTy t then fmaF (fmtOf t) m (val x).neg (val y) (val z) else (wrapN w (laneZ t z - laneZ t x * laneZ t y), 0))))) ∧
  (
    ∀ (h : Hdr) (d a b : Port) (ty : BitVec 5) (s : State),
      let t := ty.toNat
      let w := widthOf t
      let m := rmOf s.here t
      let val (x : Nat) : FVal := (fmtOf t).val x
      let lat := if isFloatTy t then 12 else if w = 8 then 6 else if w = 16 then 10 else if w = 32 then 18 else 34
      (s.ready (.vdiv h d a b ty) = true →
        exec (.vdiv h d a b ty) s = .next (s.after (s.givesLanes2 5 lat d a b t fun x y =>
          if isFloatTy t then divF (fmtOf t) m (val x) (val y)
          else (wrapN w (if laneZ t y = 0 then 2 ^ w - 1 else (laneZ t x).tdiv (laneZ t y)), 0)))) ∧
      (s.ready (.vsqrt h d a ty) = true →
        exec (.vsqrt h d a ty) s = .next (s.after (s.givesLanes1 5 12 d a t fun x => sqrtF (fmtOf t) m (val x)))) ∧
      (s.ready (.vrcp h d a ty) = true →
        exec (.vrcp h d a ty) s = .next (s.after (s.givesLanes1 5 8 d a t fun x => rcpF (fmtOf t) m (val x)))) ∧
      (s.ready (.vrsq h d a ty) = true →
        exec (.vrsq h d a ty) s = .next (s.after (s.givesLanes1 5 8 d a t fun x => rsqrtF (fmtOf t) m (val x)))) ∧
      (s.ready (.vexp2 h d a ty) = true →
        exec (.vexp2 h d a ty) s = .next (s.after (s.givesLanes1 5 10 d a t (viaFp32 (fmtOf t) exp2Core)))) ∧
      (s.ready (.vlog2 h d a ty) = true →
        exec (.vlog2 h d a ty) s = .next (s.after (s.givesLanes1 5 12 d a t (viaFp32 (fmtOf t) log2Core)))) ∧
      (s.ready (.vround h d a ty) = true →
        exec (.vround h d a ty) s = .next (s.after (s.givesLanes1 4 3 d a t (roundIntegral (fmtOf t) m))))) ∧
  (
    ∀ (h : Hdr) (d a b : Port) (ty : BitVec 5) (s : State),
      let t := ty.toNat
      let w := widthOf t
      (s.ready (.vmin h d a b ty) = true →
        exec (.vmin h d a b ty) s = .next (s.after (s.givesLanes2 2 2 d a b t fun x y =>
          if isFloatTy t then minMaxF (fmtOf t) false x y else (if laneZ t y < laneZ t x then y else x, 0)))) ∧
      (s.ready (.vmax h d a b ty) = true →
        exec (.vmax h d a b ty) s = .next (s.after (s.givesLanes2 2 2 d a b t fun x y =>
          if isFloatTy t then minMaxF (fmtOf t) true x y else (if laneZ t x < laneZ t y then y else x, 0)))) ∧
      (s.ready (.vabs h d a ty) = true →
        exec (.vabs h d a ty) s = .next (s.after (s.givesLanes1 2 2 d a t fun x =>
          (if isFloatTy t then x % 2 ^ (w - 1) else wrapN w (laneZ t x).natAbs, 0)))) ∧
      (s.ready (.vneg h d a ty) = true →
        exec (.vneg h d a ty) s = .next (s.after (s.givesLanes1 2 2 d a t fun x =>
          (if isFloatTy t then x ^^^ 2 ^ (w - 1) else wrapN w (-(laneZ t x)), 0)))) ∧
      (s.ready (.vand h d a b ty) = true →
        exec (.vand h d a b ty) s = .next (s.after (s.givesLanes2 2 2 d a b t fun x y => (x &&& y, 0)))) ∧
      (s.ready (.vor h d a b ty) = true →
        exec (.vor h d a b ty) s = .next (s.after (s.givesLanes2 2 2 d a b t fun x y => (x ||| y, 0)))) ∧
      (s.ready (.vxor h d a b ty) = true →
        exec (.vxor h d a b ty) s = .next (s.after (s.givesLanes2 2 2 d a b t fun x y => (x ^^^ y, 0)))) ∧
      (s.ready (.vshl h d a b ty) = true →
        exec (.vshl h d a b ty) s = .next (s.after (s.givesLanes2 2 2 d a b t fun x y => (x * 2 ^ (y % w) % 2 ^ w, 0)))) ∧
      (s.ready (.vshr h d a b ty) = true →
        exec (.vshr h d a b ty) s = .next (s.after (s.givesLanes2 2 2 d a b t fun x y => (x / 2 ^ (y % w), 0)))) ∧
      (s.ready (.vsar h d a b ty) = true →
        exec (.vsar h d a b ty) s = .next (s.after (s.givesLanes2 2 2 d a b t fun x y => (wrapN w (laneZ t x / 2 ^ (y % w)), 0)))) ∧
      (s.ready (.vpopc h d a ty) = true →
        exec (.vpopc h d a ty) s = .next (s.after (s.givesLanes1 2 2 d a t fun x => (((List.range w).filter x.testBit).length, 0)))) ∧
      (s.ready (.vclz h d a ty) = true →
        exec (.vclz h d a ty) s = .next (s.after (s.givesLanes1 2 2 d a t fun x => (w - (if x = 0 then 0 else Nat.log2 x + 1), 0)))))

/-- VCMP gives one mask bit a lane (R179); VSEL chooses lanes by the mask and VMERGE bits by the old destination (R180). The predicate
words on the low 32 bits of their ports, latency 1 in KU (R191). -/
def Obligations.VectorComparisonsAndPredicateWords : Prop :=
  (
    ∀ (h : Hdr) (d a b : Port) (s : State),
      (∀ md : BitVec 5, s.ready (.vcmp h d a b md) = true → md.toNat < 16 →
        let w := 8 * 2 ^ (md.toNat % 4)
        exec (.vcmp h d a b md) s = .next (s.after (s.givesV2 2 2 d a b fun x y =>
          (BitVec.ofNat 256 (flagBits ((List.range (256 / w)).map fun i =>
            let p := lane (widen a x w (immBits w)) w i
            let q := lane (widen b y w (immBits w)) w i
            match md.toNat / 4 with | 0 => p == q | 1 => p != q | 2 => decide (sext w p < sext w q) | _ => decide (p < q))), 0)))) ∧
      (∀ md : BitVec 5, s.ready (.vcmp h d a b md) = true → 16 ≤ md.toNat →
        let f := vcmpFmt md.toNat
        exec (.vcmp h d a b md) s = .next (s.after (s.givesV2 2 2 d a b fun x y =>
          laneMask f.size (vcmpFloat f (md.toNat % 4)) (widen a x f.size (immFloat f)) (widen b y f.size (immFloat f))))) ∧
      (∀ ty : BitVec 5, let w := widthOf ty.toNat
        s.ready (.vsel h d a b ty) = true →
        exec (.vsel h d a b ty) s = .next (s.after (s.givesV2 2 2 d a b fun x m =>
          (fromLanes w ((List.range (256 / w)).map fun i =>
            if m.getLsbD i then lane (widenP a x ty.toNat) w i else lane (oldDst s d) w i), 0)))) ∧
      (∀ ty : BitVec 5, s.ready (.vmerge h d a b ty) = true →
        exec (.vmerge h d a b ty) s = .next (s.after (s.givesV2 2 2 d a b fun x y =>
          ((widenP a x ty.toNat &&& oldDst s d) ||| (widenP b y ty.toNat &&& ~~~(oldDst s d)), 0))))) ∧
  (
    ∀ (h : Hdr) (d a b : Port) (s : State),
      let lo (x : Word) : BitVec 32 := x.setWidth 32
      (s.ready (.kand h d a b) = true →
        exec (.kand h d a b) s = .next (s.after (s.gives2 6 1 d a b fun x y => (lo x &&& lo y).setWidth 64))) ∧
      (s.ready (.kor h d a b) = true →
        exec (.kor h d a b) s = .next (s.after (s.gives2 6 1 d a b fun x y => (lo x ||| lo y).setWidth 64))) ∧
      (s.ready (.kxor h d a b) = true →
        exec (.kxor h d a b) s = .next (s.after (s.gives2 6 1 d a b fun x y => (lo x ^^^ lo y).setWidth 64))) ∧
      (s.ready (.knot h d a) = true →
        exec (.knot h d a) s = .next (s.after (s.gives1 6 1 d a fun x => (~~~(lo x)).setWidth 64))) ∧
      (s.ready (.kpopc h d a) = true →
        exec (.kpopc h d a) s = .next (s.after (s.gives1 6 1 d a fun x =>
          BitVec.ofNat 64 ((List.range 32).filter fun j => x.getLsbD j).length))) ∧
      (s.ready (.kfirst h d a) = true →
        exec (.kfirst h d a) s = .next (s.after (s.gives1 6 1 d a fun x =>
          BitVec.ofNat 64 ((List.range 32).takeWhile fun j => !x.getLsbD j).length))) ∧
      (s.ready (.kmov h d a) = true → exec (.kmov h d a) s = .next (s.after (s.gives1 6 1 d a fun x => (lo x).setWidth 64))) ∧
      (s.ready (.kmovFirst h d a) = true →
        exec (.kmovFirst h d a) s = .next (s.after (s.gives1 6 1 d a fun x => BitVec.ofNat 64 (2 ^ min x.toNat 32 - 1)))))

/-- Dot products into the eight old 32-bit lanes (R181), the tree of R182, the scan of R183 and the carry-less product of R184. The
permutes: each lane of the result is the lane of SRCA that R185 names, or 0. -/
def Obligations.DotProductsReductionsScansAndPermutes : Prop :=
  (
    ∀ (h : Hdr) (d a b : Port) (ty : BitVec 5) (s : State),
      let t := ty.toNat
      let w := widthOf t
      let m := rmOf s.here t
      let ws (p : Port) (x : Vec) : Vec := widen p x w (immOf t)
      let sum : Nat → Nat → Nat × Flags := fun p q =>
        if isFloatTy t then addF (fmtOf t) m ((fmtOf t).val p) ((fmtOf t).val q) else (wrapN w (laneZ t p + laneZ t q), 0)
      (s.ready (.vdot4 h d a b ty) = true →
        exec (.vdot4 h d a b ty) s = .next (s.after (s.givesV2 3 4 d a b fun x y =>
          dotProduct t 4 s.here.rm (ws a x) (ws b y) (oldDst s d)))) ∧
      (s.ready (.vdot2 h d a b ty) = true →
        exec (.vdot2 h d a b ty) s = .next (s.after (s.givesV2 3 4 d a b fun x y =>
          dotProduct t 2 s.here.rm (ws a x) (ws b y) (oldDst s d)))) ∧
      (s.ready (.vreds h d a b ty) = true →
        exec (.vreds h d a b ty) s = .next (s.after (s.givesV2 2 6 d a b fun x k =>
          let r := treeReduce sum (treeDepth w) (maskedLanes w (ws a x) k (if isFloatTy t then (fmtOf t).signBit else 0))
          (BitVec.ofNat 256 r.1, r.2)))) ∧
      (s.ready (.vredx h d a b ty) = true →
        exec (.vredx h d a b ty) s = .next (s.after (s.givesV2 2 6 d a b fun x k =>
          let r := treeReduce (minMaxLane t true) (treeDepth w) (maskedLanes w (ws a x) k
            (if isFloatTy t then (fmtOf t).signBit + (fmtOf t).inf else if signedTy t then 2 ^ (w - 1) else 0))
          (BitVec.ofNat 256 r.1, r.2)))) ∧
      (s.ready (.vscan h d a b ty) = true →
        exec (.vscan h d a b ty) s = .next (s.after (s.givesV2 2 7 d a b fun x k =>
          let r := scanLanes sum w (maskedLanes w (ws a x) k (if isFloatTy t then (fmtOf t).signBit else 0))
          (fromLanes w r.1, r.2)))) ∧
      (s.ready (.vclmul h d a b ty) = true →
        exec (.vclmul h d a b ty) s = .next (s.after (s.givesLanes2 3 4 d a b t fun x y =>
          ((List.range w).foldl (fun r j => if x.testBit j then r ^^^ (y * 2 ^ j % 2 ^ w) else r) 0, 0))))) ∧
  (
    ∀ (h : Hdr) (d a b : Port) (ty : BitVec 5) (s : State),
      let w := widthOf ty.toNat
      let n := 256 / widthOf ty.toNat
      (s.ready (.vperm h d a b ty) = true →
        exec (.vperm h d a b ty) s = .next (s.after (s.givesPerm d a b ty.toNat fun y i =>
          some (lane (widenP b y ty.toNat) w i % n)))) ∧
      (s.ready (.vshuf h d a b ty) = true →
        exec (.vshuf h d a b ty) s = .next (s.after (s.givesPerm d a b ty.toNat fun y i =>
          let half := n / 2
          match y.toNat % 8 with
          | 0 => some (n - 1 - i)
          | 1 => some (i ^^^ 1)
          | 2 => some (if i < half then 2 * i else 2 * (i - half) + 1)
          | 3 => some (if i % 2 = 0 then i / 2 else half + (i - 1) / 2)
          | 4 => some ((i + half) % n)
          | 5 => some (if i < half then half - 1 - i else n - 1 - (i - half))
          | 6 => some i
          | _ => none))) ∧
      (s.ready (.vbcast h d a b ty) = true →
        exec (.vbcast h d a b ty) s = .next (s.after (s.givesPerm d a b ty.toNat fun y _ => some (y.toNat % 2 ^ 64 % n)))) ∧
      (s.ready (.vslide h d a b ty) = true →
        exec (.vslide h d a b ty) s = .next (s.after (s.givesPerm d a b ty.toNat fun y i =>
          let k : Int := i + (y.setWidth 64).toInt
          if 0 ≤ k ∧ k < n then some k.toNat else none))) ∧
      (s.ready (.vcompr h d a b ty) = true →
        exec (.vcompr h d a b ty) s = .next (s.after (s.givesPerm d a b ty.toNat fun y i =>
          ((List.range n).filter fun j => y.getLsbD j)[i]?))) ∧
      (s.ready (.vexpnd h d a b ty) = true →
        exec (.vexpnd h d a b ty) s = .next (s.after (s.givesPerm d a b ty.toNat fun y i =>
          if i < n ∧ y.getLsbD i = true then some ((List.range i).filter fun j => y.getLsbD j).length else none))) ∧
      (s.ready (.viota h d a ty) = true →
        exec (.viota h d a ty) s = .next (s.after (s.givesV1 4 3 d a fun m =>
          (fromLanes w ((List.range n).map fun i => ((List.range i).filter fun j => m.getLsbD j).length), 0)))))

/-- The conversions between lane types, packing, unpacking, quantisation and its inverse (R186, R187, R189, R190). That the value -2^(k-1)
under S = 0xFE dequantises to minus infinity with OF and NX (log 111, where R115 and R190 call the conversion exact), and that LANEID
counts lanes of the word's own type in a conversion of two widths (log 27), are the model's choices. -/
def Obligations.Conversions : Prop :=
  ∀ (h : Hdr) (d a b : Port) (ty : BitVec 5) (s : State),
    let t := ty.toNat
    let w := widthOf t
    (∀ st : BitVec 5, s.ready (.vcvt h d a st ty) = true →
      exec (.vcvt h d a st ty) s = .next (s.after (s.givesV1 4 3 d a fun x =>
        gather w ((List.range (256 / max w (widthOf st.toNat))).map fun i =>
          convLane (rmOf s.here t) t st.toNat (lane (widenConv a x t st.toNat) (widthOf st.toNat) i))))) ∧
    (s.ready (.vpack h d a b ty) = true →
      let st := if isFloatTy t then 8 else t + 1
      exec (.vpack h d a b ty) s = .next (s.after (s.givesV2 4 3 d a b fun x y =>
        gather w (((lanesOf (widthOf st) (widenConv a x t st)).map (convLane s.here.rm t st)) ++
          ((lanesOf (widthOf st) (widenConv b y t st)).map (convLane s.here.rm t st)))))) ∧
    (s.ready (.vunpk h d a b ty) = true →
      let dt := if t = 11 ∨ t = 12 then 9 else if isFloatTy t then 8 else t + 1
      exec (.vunpk h d a b ty) s = .next (s.after (s.givesV2 4 3 d a b fun x y =>
        gather (2 * w) ((List.range (128 / w)).map fun i =>
          convLane .rne dt t (lane (widen a x w (immOf t)) w ((if y.getLsbD 0 then 128 / w else 0) + i)))))) ∧
    (s.ready (.vqnt h d a b ty) = true →
      exec (.vqnt h d a b ty) s = .next (s.after (s.givesV2 4 3 d a b fun x y =>
        let es := (List.range 8).map fun i => quantElem (mxBits t) (slice y.toNat 0 8) s.here.rm (lane (widenConv a x t 8) 32 i)
        (fromLanes 8 ((List.range 32).map fun i =>
          if i / 8 = slice y.toNat 8 2 then wrapN 8 (es.getD (i % 8) (0, 0)).1 else lane (oldDst s d) 8 i),
          orFlags (es.map Prod.snd))))) ∧
    (s.ready (.vdqnt h d a b ty) = true →
      exec (.vdqnt h d a b ty) s = .next (s.after (s.givesV2 4 3 d a b fun x y =>
        gather 32 ((List.range 8).map fun i =>
          fp32.make .rne (mxVal (mxBits t) (slice y.toNat 0 8)
            (sext (mxBits t) (lane (widen a x 8 (immBits 8)) 8 (8 * slice y.toNat 8 2 + i) % 2 ^ mxBits t)))))))

/-- NESTW writes a legal record into the shadow table and raises the illegal instruction on another one (R119, R196); NESTR reads half of
a record of either copy, as it stood at the start of the cycle, with latency 2 (R197); NSTAT reads the progress of the active table (R198).
The index of an iteration beyond the last is the model's free value (log 5), and that a table that is not live gives its stored indices
the model's choice (log 130). FMTW writes a legal format entry and faults on another one
(R134, R200); FMTSEL sets the format level (R201); RINGCFG answers its outcome and, where that is 0, sets the ring's geometry two ends of
cycle later (R208); RHEAD gives HD and TL (R209), modulo 2^32 each, which is the model's choice (log 112). -/
def Obligations.NestFormatAndRingWords : Prop :=
  (
    ∀ (h : Hdr) (tbl : BitVec 2) (s : State),
      (∀ (lvl : BitVec 3) (src : Port), let r : BitVec 128 := (s.read src).1.setWidth 128
        (s.ready (.nestw h tbl lvl src) = true → recLegal tbl.toNat r = true →
          exec (.nestw h tbl lvl src) s = .next (s.after ((s.read src).2.share fun y => y.setNestRec tbl.toNat 0 lvl.toNat r))) ∧
        (s.issues (.nestw h tbl lvl src) = true → recLegal tbl.toNat r = false →
          exec (.nestw h tbl lvl src) s = .next ((s.read src).2.takeFault s.curCore (some s.curStream) 1 (illegalInfo 0x60) false))) ∧
      (∀ (gd : BitVec 6) (lvl : BitVec 3) (copy half : BitVec 1), s.ready (.nestr h gd tbl lvl copy half) = true →
        exec (.nestr h gd tbl lvl copy half) s = .next (s.after (s.deliverG 2 gd
          ((s.old.nestRec tbl.toNat copy.toNat lvl.toNat >>> (64 * half.toNat)).setWidth 64)))) ∧
      (∀ (gd : BitVec 6) (sel : BitVec 3), s.ready (.nstat h gd tbl sel) = true →
        (sel.toNat < 6 → ((s.old.nestRunOf tbl.toNat).live = false ∨ s.old.nestLeft tbl.toNat = true) →
          exec (.nstat h gd tbl sel) s =
            .next (s.after (s.deliverG 2 gd (BitVec.ofNat 64 ((s.old.nestRunOf tbl.toNat).idx.getD sel.toNat 0))))) ∧
        (sel.toNat = 6 → exec (.nstat h gd tbl sel) s = .next (s.after (s.deliverG 2 gd (s.old.nestRunOf tbl.toNat).delivered))) ∧
        (6 < sel.toNat → exec (.nstat h gd tbl sel) s = .next (s.after (s.deliverG 2 gd (BitVec.ofNat 64 (flagBits
          [!s.old.nestLeft tbl.toNat, s.old.goWaits tbl.toNat, (s.old.nestRunOf tbl.toNat).live]))))))) ∧
  (
    ∀ (h : Hdr) (s : State),
      (∀ (idx : BitVec 4) (src : Port), let v := (s.readInt src).1
        (s.ready (.fmtw h idx src) = true → fmtLegal v = true →
          exec (.fmtw h idx src) s = .next (s.after ((s.readInt src).2.share fun y => { y with fmt := tabSet 0 y.fmt idx.toNat v }))) ∧
        (s.issues (.fmtw h idx src) = true → fmtLegal v = false →
          exec (.fmtw h idx src) s = .next ((s.readInt src).2.takeFault s.curCore (some s.curStream) 1 (illegalInfo 0x64) false))) ∧
      (∀ (en : BitVec 1) (lvl : BitVec 3), s.ready (.fmtsel h en lvl) = true →
        exec (.fmtsel h en lvl) s = .next (s.after (s.share fun y => { y with fmtLevel := BitVec.ofNat 32 (8 * en.toNat + lvl.toNat) }))) ∧
      (∀ (gd : BitVec 6) (sn dn : BitVec 4), s.ready (.ringcfg h gd sn dn) = true →
        let code := ringOutcome s.old s.now.poolReq.pending dn.toNat sn.toNat
        (code ≠ 0 → exec (.ringcfg h gd sn dn) s = .next (s.after (s.deliverG 2 gd (BitVec.ofNat 64 code)))) ∧
        (code = 0 → exec (.ringcfg h gd sn dn) s = .next (s.after ((s.share fun y =>
          { y with ring := { y.ring with coming := y.ring.coming ++ [(dn.toNat, sn.toNat, 2)] } }).deliverG 2 gd 0)))) ∧
      (∀ gd : BitVec 6, s.ready (.rhead h gd) = true →
        exec (.rhead h gd) s = .next (s.after (s.deliverG 1 gd
          (BitVec.ofNat 64 (s.old.ring.hd % 2 ^ 32 + s.old.ring.tl % 2 ^ 32 * 2 ^ 32))))))

/-- A command word puts its command into its engine's queue, with the value of its SRC port and the tiles of the handles that it names as
they stand at issue, and counts it in OUT (R58, R66, R195, R213, R290). GO sends one command to each engine of its mask, each with the
shadow table of its engine, and marks the table as asked for; a base word with a reserved bit for EP or ST is an illegal instruction
(R122, R199). A command word whose engine's queue is full, or whose pacing gap has not passed, blocks with no effect (R65, items 4 and 5).
-/
def Obligations.CommandsToEngines : Prop :=
  (
    ∀ (h : Hdr) (src : Port) (s : State),
      let sends (i : Instr) (e : Nat) (hs : List Nat) : Prop := s.ready i = true → s.takesCommand [e] = true →
        exec i s = .next (s.after (s.commanded [(e, s.commandOf i 0 hs)]))
      let sendsSrc (i : Instr) (e : Nat) (hs : List Nat) : Prop := s.ready i = true → s.takesCommand [e] = true →
        exec i s = .next (s.after ((s.read src).2.commanded [(e, s.commandOf i (s.read src).1 hs)]))
      (∀ (close last : BitVec 1) (gang kc : BitVec 3), sends (.mma h close last gang kc) 2 [] ∧ sends (.mmac h close last gang kc) 2 []) ∧
      (sends (.rpop h) 3 [] ∧ sends (.rdiscard h) 3 []) ∧
      (∀ act : BitVec 3, sends (.epcfgAct h act) 3 []) ∧
      (∀ (hn : BitVec 6) (en : BitVec 1), sends (.epcfgBias h hn en) 3 [hn.toNat] ∧ sends (.epcfgScale h hn en) 3 [hn.toNat]) ∧
      (sendsSrc (.epcfgLo h src) 3 [] ∧ sendsSrc (.epcfgHi h src) 3 []) ∧
      (∀ hn : BitVec 6, sends (.eprun h hn) 3 [hn.toNat]) ∧
      (∀ (cn : BitVec 5) (units : BitVec 11), sendsSrc (.deckld h cn src units) 0 []) ∧
      (∀ units : BitVec 11, sends (.decksel h units) 2 []) ∧
      (∀ (cn : BitVec 5) (kn : BitVec 3), sendsSrc (.astage h cn kn src) 0 []) ∧
      (∀ (hn : BitVec 6) (keep : BitVec 1), sendsSrc (.patch h hn src keep) 5 [hn.toNat]) ∧
      (∀ (item : BitVec 4) (cell : BitVec 8), sendsSrc (.cellw h src item cell) 5 []) ∧
      (∀ (dom kind : BitVec 2), sendsSrc (.stepdom h dom src kind) 5 []) ∧
      (∀ hn : BitVec 6, sends (.dasave h hn) 5 [hn.toNat] ∧ sends (.daload h hn) 5 [hn.toNat])) ∧
  (
    ∀ (h : Hdr) (mask : BitVec 4) (src : Port) (s : State),
      let es := [0, 1, 2, 3].filter fun e => mask.getLsbD e
      let cmd (e : Nat) : Cmd :=
        { ins := .go h mask src, src := (s.read src).1, stream := s.curStream, nest := (List.range 6).map fun l => s.old.nestRec e 0 l }
      (s.ready (.go h mask src) = true → s.takesCommand es = true → (∀ e ∈ es, baseLegal e (goBase src (s.read src).1 e) = true) →
        exec (.go h mask src) s = .next (s.after ((s.read src).2.commanded (es.map fun e => (e, cmd e))))) ∧
      (s.issues (.go h mask src) = true → s.takesCommand es = true → (∃ e ∈ es, baseLegal e (goBase src (s.read src).1 e) = false) →
        exec (.go h mask src) s = .next ((s.read src).2.takeFault s.curCore (some s.curStream) 1 (illegalInfo 0x62) false))) ∧
  (
    ∀ (i : Instr) (s : State) (e : Nat), s.issues i = true → engineBusy s.now s.old e = true →
      (match i with
        | .mma .. | .mmac .. | .decksel .. => e = 2
        | .rpop .. | .rdiscard .. | .epcfgAct .. | .epcfgBias .. | .epcfgScale .. | .epcfgLo .. | .epcfgHi .. | .eprun .. => e = 3
        | .deckld .. | .astage .. => e = 0
        | .go _ mask _ => e < 4 ∧ mask.getLsbD e = true
        | .copy .. | .copyp .. | .job .. | .near .. => e = 4
        | .patch .. | .cellw .. | .stepdom .. | .dasave .. | .daload .. => e = 5
        | _ => False) →
      exec i s = .next (s.block s.curCore s.curStream))

/-- CCNT, CCONS, CDISC and PACE on the completion records and pacing gaps (R213 to R215): a disposal takes n from OUT, and from DONE as
many as are there, the rest being counted as discarded commands still to finish. -/
def Obligations.CompletionAndPacingWords : Prop :=
  ∀ (h : Hdr) (eng : BitVec 3) (s : State),
    let out := outstanding s.now eng.toNat
    let rec_ := s.now.compRec eng.toNat
    let disposed (n : Nat) : State := s.share fun y => y.setComp eng.toNat
      { out := rec_.out - n, done := rec_.done - min n rec_.done, skip := rec_.skip + (n - min n rec_.done) }
    (∀ gd : BitVec 6, s.ready (.ccnt h gd eng) = true →
      exec (.ccnt h gd eng) s = .next (s.after (s.deliverG 1 gd
        (BitVec.ofNat 64 ((s.old.compRec eng.toNat).done * 2 ^ 32 + (s.old.compRec eng.toNat).out))))) ∧
    (∀ n : BitVec 8, s.issues (.ccons h eng n) = true →
      (out < n.toNat → exec (.ccons h eng n) s = .next (s.takeFault s.curCore (some s.curStream) 1 (illegalInfo 0x71) false)) ∧
      (n.toNat ≤ out → rec_.done < n.toNat → exec (.ccons h eng n) s = .next (s.block s.curCore s.curStream)) ∧
      (s.hasNext = true → n.toNat ≤ out → n.toNat ≤ rec_.done → exec (.ccons h eng n) s = .next (s.after (disposed n.toNat)))) ∧
    (∀ n : BitVec 8, s.issues (.cdisc h eng n) = true →
      (out < n.toNat → exec (.cdisc h eng n) s = .next (s.takeFault s.curCore (some s.curStream) 1 (illegalInfo 0x72) false)) ∧
      (s.hasNext = true → n ≠ 0 → n.toNat ≤ out → exec (.cdisc h eng n) s = .next (s.after (disposed n.toNat)))) ∧
    (s.ready (.cdiscAll h eng) = true → exec (.cdiscAll h eng) s = .next (s.after (disposed out))) ∧
    (∀ gap : BitVec 13, s.ready (.pace h eng gap) = true →
      exec (.pace h eng gap) s = .next (s.after (s.share fun y => { y with pace := tabSet 0 y.pace eng.toNat gap.toNat }))) ∧
    (s.ready (.twaitIdle h eng) = true → (s.old.engine eng.toNat).queue = [] → (s.old.engine eng.toNat).run = none →
      exec (.twaitIdle h eng) s = .next (s.after s)) ∧
    (s.issues (.twaitIdle h eng) = true → ((s.old.engine eng.toNat).queue ≠ [] ∨ (s.old.engine eng.toNat).run ≠ none) →
      exec (.twaitIdle h eng) s = .next (s.block s.curCore s.curStream))

/-- The words that read and drive the integrator field at issue (R230, R234, R237): STEP of a domain that KIND does not leave to software
is an illegal instruction, DARUN sets and clears RUN, DAINJ adds to a channel clamped to ±32,767, DATAP and DASTAT read the start of the
cycle, and a clear leaves what this cycle adds. That DASTAT with CLR leaves the INJSAT of its cycle too is
the model's choice (log 123). -/
def Obligations.IntegratorWords : Prop :=
  ∀ (h : Hdr) (s : State), let f := s.old.dda
    (∀ (gd : BitVec 6) (item : BitVec 4) (cell : BitVec 8), s.ready (.cellr h gd item cell) = true →
      exec (.cellr h gd item cell) s = .next (s.after (s.deliverG 3 gd (cellItem item.toNat (f.cell cell.toNat))))) ∧
    (∀ (dom : BitVec 2) (n : BitVec 8),
      (s.ready (.step h dom n) = true → (f.dom dom.toNat).kind = 0 →
        exec (.step h dom n) s = .next (s.after (s.field fun g => g.trigger dom.toNat n.toNat))) ∧
      (s.issues (.step h dom n) = true → (f.dom dom.toNat).kind ≠ 0 →
        exec (.step h dom n) s = .next (s.takeFault s.curCore (some s.curStream) 1 (illegalInfo 0x84) false))) ∧
    (∀ stop run : BitVec 4, s.ready (.darun h stop run) = true →
      exec (.darun h stop run) s = .next (s.after (s.field fun g => [0, 1, 2, 3].foldl (fun g d =>
        if run.getLsbD d then g.setDom d { g.dom d with run := true }
        else if stop.getLsbD d then g.setDom d { g.dom d with run := false } else g) g))) ∧
    (∀ (chan : BitVec 4) (src : Port), s.ready (.dainj h chan src) = true →
      exec (.dainj h chan src) s = .next (s.after ((s.readInt src).2.field fun g =>
        let z := g.chan chan.toNat + (s.readInt src).1.toInt
        if -32767 ≤ z ∧ z ≤ 32767 then g.setChan chan.toNat z
        else { (g.setChan chan.toNat (if z < 0 then -32767 else 32767)) with injsat := true, fresh := g.fresh ||| 32 }))) ∧
    (∀ (gd : BitVec 6) (cell : BitVec 8), let v := BitVec.ofInt 64 (cellTap (f.cell cell.toNat))
      (s.ready (.datap h gd 0 cell) = true → exec (.datap h gd 0 cell) s = .next (s.after (s.deliverG 2 gd v))) ∧
      (s.ready (.datap h gd 1 cell) = true → exec (.datap h gd 1 cell) s = .next (s.after ((s.field fun g =>
        g.setCell cell.toNat (cellPut (g.cell cell.toNat) 96 32 (emitted g f cell.toNat))).deliverG 2 gd v)))) ∧
    (∀ (gd : BitVec 6) (sel : BitVec 3), let v := dastatValue s.old sel.toNat
      (s.ready (.dastat h gd 0 sel) = true → exec (.dastat h gd 0 sel) s = .next (s.after (s.deliverG 1 gd v))) ∧
      (s.ready (.dastat h gd 1 sel) = true → exec (.dastat h gd 1 sel) s = .next (s.after ((s.field fun g =>
        if sel.toNat < 4 then g.setDom sel.toNat { g.dom sel.toNat with lost := g.fresh.getLsbD sel.toNat }
        else { g with wrap := g.fresh.getLsbD 4, injsat := g.fresh.getLsbD 5 }).deliverG 1 gd v))))

/-- The checks of a capability at issue, in their order (R273). LD and ST check their capability at CUR + OFFSET and put one access of
their size into their stream's queues, a store with its data of the issue cycle and three commit stages; a capability register as DATA
moves 16 bytes and needs CAPLOAD or CAPSTORE besides. A check that fails raises the capability fault with the register's number, and no
access is made (R273, R274, R276, R277). That EXEC, which a write to an object with X = 1 needs, is tested with the other rights, before
BOUNDS, is the model's reading (log 29). -/
def Obligations.CheckedLoadsAndStores : Prop :=
  (
    ∀ (c : Cap) (rights : List Nat) (p : Int) (size : Nat) (aligned : Bool),
      (c.tag = false → capCheck c rights p size aligned = some .tag) ∧
      (c.tag = true → (∃ r ∈ rights, c.has r = false) → capCheck c rights p size aligned = some .rights) ∧
      (c.tag = true → (∀ r ∈ rights, c.has r = true) → (p < 0 ∨ (c.len : Int) < p + size) →
        capCheck c rights p size aligned = some .bounds) ∧
      (c.tag = true → (∀ r ∈ rights, c.has r = true) → 0 ≤ p → p + size ≤ (c.len : Int) →
        (aligned = true → (p.toNat + c.base * 64) % size ≠ 0 → capCheck c rights p size aligned = some .align) ∧
        (aligned = false ∨ (p.toNat + c.base * 64) % size = 0 → capCheck c rights p size aligned = none))) ∧
  (
    ∀ (h : Hdr) (d : Port) (cn : BitVec 5) (off : Port) (w : BitVec 3) (ord : BitVec 2) (ag stor : BitVec 3) (s : State),
      let cap := s.capReg cn
      let isC := Encoding.isC d
      let size := if isC then 16 else wSize w
      let ld : Instr := .ld h d cn off w ord ag stor
      let st : Instr := .st h d cn off w ord ag stor
      let pos (x : Word) : Int := cap.cur + x.toInt
      let acc (kind : AccKind) (x : Word) : Access :=
        { id := 0, stream := 0, kind, cap, reg := cn.toNat, ord := ord.toNat, agent := ag.toNat, stor := stor.toNat,
          pieces := [{ pos := cap.byte (pos x), size }] }
      let check := capCheck cap (if isC then [0, 3] else [0]) (pos (s.readInt off).1) size isC
      let stored := capOf s s.curCore s.curStream d
      let v := if isC then (stored.bits.setWidth 1024 ||| BitVec.ofNat 1024 (b2n stored.tag * 2 ^ 128), s) else storeData s w d
      let x := v.2.readInt off
      let checkW := capCheck cap (s.writeRights s.curCore cap (if isC then [4] else [])) (pos x.1) size isC
      (s.ready ld = true → check = none →
        exec ld s = .next (s.after ((s.readInt off).2.enter (acc (if isC then .capLoad else .load) (s.readInt off).1) w (some d)))) ∧
      (∀ cause, s.issues ld = true → check = some cause →
        exec ld s = .next ((s.readInt off).2.takeFault s.curCore (some s.curStream) 3 (capInfo cause cn.toNat) false)) ∧
      (s.ready st = true → s.withheld ord = false → checkW = none → (isC && s.storeRefused cap stored) = false →
        exec st s = .next (s.after (x.2.enter
          { acc (if isC then .capStore else .store) x.1 with data := v.1, lag := 3 } w none))) ∧
      (∀ cause, s.issues st = true → s.withheld ord = false → checkW = some cause →
        exec st s = .next (x.2.takeFault s.curCore (some s.curStream) 3 (capInfo cause cn.toNat) false)) ∧
      (s.issues st = true → s.withheld ord = false → checkW = none → (isC && s.storeRefused cap stored) = true →
        exec st s = .next (x.2.takeFault s.curCore (some s.curStream) 3 (capInfo .rights cn.toNat) false)) ∧
      (s.issues st = true → s.withheld ord = true → exec st s = .next (s.block s.curCore s.curStream)))

/-- GATH makes one access of a piece for every active lane, none where every lane is inactive (it then delivers zero with latency 6);
SCAT makes one store for every active lane, in ascending lane order; neither makes an access where any lane fails its check (R279). The
atomics act at the cursor with ATOMIC and WRITE and need alignment; the access carries its operation, the operand that DATA holds at
issue, and CAS its comparand (R280 to R283). A word whose ORD holds release waits in a speculative task (R55). That SCAT and the atomics test EXEC
of an object with X = 1 with the other rights, before BOUNDS, is the model's reading (log 29). -/
def Obligations.LaneAccessesAndAtomics : Prop :=
  (
    ∀ (h : Hdr) (d : Port) (cn : BitVec 5) (off : Port) (w : BitVec 3) (ord : BitVec 2) (ag stor : BitVec 3) (s : State),
      let cap := s.capReg cn
      let ga : Instr := .gath h d cn off w ord ag stor
      let sc : Instr := .scat h d cn off w ord ag stor
      let lanes (o : Vec) : List (Nat × Int) :=
        ((List.range (if w = 3 then 4 else 8)).filter fun i => lane o 32 i ≠ 2 ^ 31).map fun i =>
          (i, (cap.cur : Int) + sext 32 (lane o 32 i))
      let fails (rights : List Nat) (l : List (Nat × Int)) : Option CapCause :=
        l.findSome? fun l => capCheck cap rights l.2 (wSize w) false
      let acc (kind : AccKind) (l : List (Nat × Int)) (data : BitVec 1024) (lag : Nat) : Access :=
        { id := 0, stream := 0, kind, cap, reg := cn.toNat, ord := ord.toNat, agent := ag.toNat, stor := stor.toNat,
          pieces := l.map fun l => { pos := cap.byte l.2, size := wSize w, lane := l.1 }, data, lag }
      let x := s.read off
      let v := s.read d
      let y := v.2.read off
      (s.ready ga = true → fails [0] (lanes x.1) = none →
        (lanes x.1 = [] → exec ga s = .next (s.after (x.2.reserveTo 7 6 d 0))) ∧
        (lanes x.1 ≠ [] → exec ga s = .next (s.after (x.2.enter (acc .gather (lanes x.1) (x.1.setWidth 1024) 0) w (some d))))) ∧
      (∀ cause, s.issues ga = true → fails [0] (lanes x.1) = some cause →
        exec ga s = .next (x.2.takeFault s.curCore (some s.curStream) 3 (capInfo cause cn.toNat) false)) ∧
      (s.ready sc = true → s.withheld ord = false → fails (s.writeRights s.curCore cap []) (lanes y.1) = none →
        exec sc s = .next (s.after ((lanes y.1).foldl (fun (t : State) l => t.enter (acc .scatter [l] (v.1.setWidth 1024) 3) w none) y.2))) ∧
      (∀ cause, s.issues sc = true → s.withheld ord = false → fails (s.writeRights s.curCore cap []) (lanes y.1) = some cause →
        exec sc s = .next (y.2.takeFault s.curCore (some s.curStream) 3 (capInfo cause cn.toNat) false)) ∧
      (s.issues sc = true → s.withheld ord = true → exec sc s = .next (s.block s.curCore s.curStream))) ∧
  (
    ∀ (h : Hdr) (d : Port) (cn : BitVec 5) (off : Port) (opn : BitVec 10) (w : BitVec 3) (ord : BitVec 2) (ag stor : BitVec 3) (s : State),
      let cap := s.capReg cn
      let check := capCheck cap (s.writeRights s.curCore cap [5]) cap.cur (wSize w) true
      let acc (kind : AccKind) : Access :=
        { id := 0, stream := 0, kind, cap, reg := cn.toNat, ord := ord.toNat, agent := ag.toNat, stor := stor.toNat,
          pieces := [{ pos := cap.byte cap.cur, size := wSize w }], lag := 3 }
      let amo : Instr := .amo h d cn opn w ord ag stor
      let amof : Instr := .amof h d cn opn w ord ag stor
      let cas : Instr := .cas h d cn off w ord ag stor
      (s.ready amo = true → s.withheld ord = false → check = none →
        exec amo s = .next (s.after (s.enter (acc (.atomic opn.toNat (s.readInt d).1 0)) w (some d)))) ∧
      (s.ready amof = true → s.withheld ord = false → check = none →
        exec amof s = .next (s.after (s.enter (acc (.atomicF opn.toNat (s.readInt d).1)) w (some d)))) ∧
      (s.ready cas = true → s.withheld ord = false → check = none →
        exec cas s = .next (s.after ((s.readInt off).2.enter (acc (.atomic 9 (s.readInt d).1 (s.readInt off).1)) w (some d)))) ∧
      (s.withheld ord = true → ∀ i ∈ [amo, amof, cas], s.issues i = true → exec i s = .next (s.block s.curCore s.curStream)) ∧
      (∀ cause, s.withheld ord = false → check = some cause →
        (s.issues amo = true → exec amo s = .next (s.takeFault s.curCore (some s.curStream) 3 (capInfo cause cn.toNat) false)) ∧
        (s.issues amof = true → exec amof s = .next (s.takeFault s.curCore (some s.curStream) 3 (capInfo cause cn.toNat) false)) ∧
        (s.issues cas = true →
          exec cas s = .next ((s.readInt off).2.takeFault s.curCore (some s.curStream) 3 (capInfo cause cn.toNat) false))))

/-- FENCE and MARK take their place in the stream's queues (R259, R262, R284), a FENCE that releases waiting in a speculative task (R55);
CFLUSH and CINV check their range and take theirs, an empty range completing at once (R285); PREF checks its range, delivers the next token
and takes its place in the load queue (R257, R286), and PREFW waits for a token and then delivers 1 (R287); FOOT appends a region to the stream's
list of at most eight, where its check passes (R299). LDT and STT of an array core check the handle, the coordinate and the alignment, and
put an access of the tile into the stream's queues; a check that fails raises the capability fault on the handle (R292, R335, R452). In a
line-buffer processor handles 0 and 1 name H0 and H1, and LDT reads and STT writes them at issue (R307, R308). That a PREF of an empty
range completes at once (log 25), that PREFW delivers to any port, and that STT takes an immediate (log 84), are the model's choices. -/
def Obligations.OrderingCacheAndTileWords : Prop :=
  (
    ∀ (h : Hdr) (s : State),
      (∀ (ord : BitVec 2) (ag stor : BitVec 3), s.ready (.fence h ord ag stor) = true → s.withheld ord = false →
        let kind : AccKind := if ord = 0 then .mark else .fence
        exec (.fence h ord ag stor) s = .next (s.after (s.enter
          { id := 0, stream := 0, kind, ord := ord.toNat, agent := ag.toNat, stor := stor.toNat } 0 none))) ∧
      (∀ (ord : BitVec 2) (ag stor : BitVec 3), s.issues (.fence h ord ag stor) = true → s.withheld ord = true →
        exec (.fence h ord ag stor) s = .next (s.block s.curCore s.curStream)) ∧
      (∀ ag stor : BitVec 3, s.ready (.mark h ag stor) = true →
        exec (.mark h ag stor) s = .next (s.after (s.enter
          { id := 0, stream := 0, kind := .mark, agent := ag.toNat, stor := stor.toNat } 0 none))) ∧
      (∀ (cn : BitVec 5) (off : Port), let cap := s.capReg cn
        let x := s.readInt off
        let acc (kind : AccKind) : Access :=
          { id := 0, stream := 0, kind, cap, reg := cn.toNat, pieces := [{ pos := cap.byte cap.cur, size := x.1.toNat }] }
        (s.ready (.cflush h cn off) = true → capCheck cap [0] cap.cur x.1.toNat false = none →
          exec (.cflush h cn off) s = .next (s.after (if x.1 = 0 then x.2 else x.2.enter (acc .flush) 0 none))) ∧
        (s.ready (.cinv h cn off) = true → capCheck cap [1] cap.cur x.1.toNat false = none →
          exec (.cinv h cn off) s = .next (s.after (if x.1 = 0 then x.2 else x.2.enter (acc .inval) 0 none))) ∧
        (∀ cause, s.issues (.cflush h cn off) = true → capCheck cap [0] cap.cur x.1.toNat false = some cause →
          exec (.cflush h cn off) s = .next (x.2.takeFault s.curCore (some s.curStream) 3 (capInfo cause cn.toNat) false)) ∧
        (∀ cause, s.issues (.cinv h cn off) = true → capCheck cap [1] cap.cur x.1.toNat false = some cause →
          exec (.cinv h cn off) s = .next (x.2.takeFault s.curCore (some s.curStream) 3 (capInfo cause cn.toNat) false))) ∧
      (∀ (d : Port) (cn : BitVec 5) (off : Port), let cap := s.capReg cn
        let x := s.readInt off
        let ctx := (s.task s.curCore).ctx
        let token := (s.core s.curCore).prefCtr + 1
        let inHost : Bool := match s.descr ctx cap.obj with | some o => descHost o | none => false
        let kept : List PrefToken :=
          if (s.core s.curCore).prefs.length < 16 ∧ inHost = false ∧ x.1 ≠ 0 then
            [{ token := token.toNat, ctx, obj := cap.obj, first := cap.byte cap.cur, len := x.1.toNat }]
          else []
        let counted := x.2.modCore s.curCore fun y => { y with prefCtr := token, prefs := (s.core s.curCore).prefs ++ kept }
        let sent := if kept = [] then counted else counted.enter { id := 0, stream := 0, kind := .prefetch token.toNat, cap, reg := cn.toNat,
                                                                   pieces := [{ pos := cap.byte cap.cur, size := x.1.toNat }] } 0 none
        (s.ready (.pref h d cn off) = true → capCheck cap [0] cap.cur x.1.toNat false = none →
          exec (.pref h d cn off) s = .next (s.after (sent.deliverTo 15 1 d (token.setWidth 1024)))) ∧
        (∀ cause, s.issues (.pref h d cn off) = true → capCheck cap [0] cap.cur x.1.toNat false = some cause →
          exec (.pref h d cn off) s = .next (x.2.takeFault s.curCore (some s.curStream) 3 (capInfo cause cn.toNat) false))) ∧
      (∀ d a : Port, let x := s.readInt a
        (s.ready (.prefw h d a) = true → (∀ t ∈ (s.core s.curCore).prefs, t.token ≠ x.1.toNat % 65536) →
          exec (.prefw h d a) s = .next (s.after (x.2.deliverTo 15 1 d 1))) ∧
        (s.issues (.prefw h d a) = true → (∃ t ∈ (s.core s.curCore).prefs, t.token = x.1.toNat % 65536) →
          exec (.prefw h d a) s = .next (s.block s.curCore s.curStream))) ∧
      (∀ (cn : BitVec 5) (src : Port) (acc : BitVec 2), let cap := s.capReg cn
        let x := s.readInt src
        let off := slice x.1.toNat 0 32
        let len := slice x.1.toNat 32 32
        let rights := (if acc.getLsbD 0 then [0] else []) ++ (if acc.getLsbD 1 then [1] else [])
        (s.ready (.foot h cn src acc) = true → s.own.foot.length < 8 → capCheck cap rights (cap.cur + off : Nat) len false = none →
          exec (.foot h cn src acc) s = .next (s.after (x.2.modStream s.curCore s.curStream fun t =>
            { t with foot := t.foot ++ [{ cap, access := acc, off, len }] }))) ∧
        (s.issues (.foot h cn src acc) = true → 8 ≤ s.own.foot.length →
          exec (.foot h cn src acc) s = .next (x.2.takeFault s.curCore (some s.curStream) 1 (illegalInfo 0xAA) false)) ∧
        (∀ cause, s.issues (.foot h cn src acc) = true → s.own.foot.length < 8 →
          capCheck cap rights (cap.cur + off : Nat) len false = some cause →
          exec (.foot h cn src acc) s = .next (x.2.takeFault s.curCore (some s.curStream) 3 (capInfo cause cn.toNat) false)))) ∧
  (
    ∀ (h : Hdr) (hn gc : BitVec 6) (d : Port) (w : BitVec 3) (s : State),
      let g := (s.readInt (Encoding.portG gc)).1
      let handle := s.old.handle hn.toNat
      let v := storeData s w d
      let acc (kind : AccKind) (off : Nat) : Access :=
        { id := 0, stream := 0, kind, agent := 1, stor := if dTstore handle.desc then 2 else 1, handle,
          pieces := [{ pos := off, size := wSize w }] }
      (isLbp s.curCore = false →
       (∀ off, s.ready (.ldt h hn gc d w) = true → tilePlace handle.desc g (wSize w) false = .ok off →
         exec (.ldt h hn gc d w) s = .next (s.after (s.enter (acc .tileLoad off) w (some d)))) ∧
       (∀ cause, s.issues (.ldt h hn gc d w) = true → tilePlace handle.desc g (wSize w) false = .error cause →
         exec (.ldt h hn gc d w) s = .next (s.takeFault s.curCore (some s.curStream) 3 (handleInfo cause hn.toNat) false)) ∧
       (∀ off, s.ready (.stt h hn gc d w) = true → tilePlace handle.desc g (wSize w) true = .ok off →
         exec (.stt h hn gc d w) s = .next (s.after (v.2.enter { acc .tileStore off with data := v.1, lag := 3 } w none))) ∧
       (∀ cause, s.issues (.stt h hn gc d w) = true → tilePlace handle.desc g (wSize w) true = .error cause →
         exec (.stt h hn gc d w) s = .next (v.2.takeFault s.curCore (some s.curStream) 3 (handleInfo cause hn.toNat) false))) ∧
      (∀ desc, isLbp s.curCore = true → lbpDesc s (s.curCore - 128) hn.toNat = some desc →
       (∀ off, s.ready (.ldt h hn gc d w) = true → tilePlace desc g (wSize w) false = .ok off →
         exec (.ldt h hn gc d w) s = .next (s.after (s.deliverTo 15 4 d
           (BitVec.ofNat 1024 (leNat (lbpRead (s.lbp (s.curCore - 128)) hn.toNat off (wSize w))))))) ∧
       (∀ off, s.ready (.stt h hn gc d w) = true → tilePlace desc g (wSize w) true = .ok off →
         exec (.stt h hn gc d w) s = .next (s.after (v.2.modLbp (s.curCore - 128) fun l =>
           lbpWrite l hn.toNat off (leBytes (wSize w) v.1.toNat)))) ∧
       (∀ cause, tilePlace desc g (wSize w) false = .error cause → s.issues (.ldt h hn gc d w) = true →
         exec (.ldt h hn gc d w) s = .next (s.takeFault s.curCore (some s.curStream) 3 (handleInfo cause hn.toNat) false)) ∧
       (∀ cause, tilePlace desc g (wSize w) true = .error cause → s.issues (.stt h hn gc d w) = true →
         exec (.stt h hn gc d w) s = .next (v.2.takeFault s.curCore (some s.curStream) 3 (handleInfo cause hn.toNat) false))))

/-- TALLOC delivers its outcome and allocates a tile of zero bytes where there is room (R246, R289); TFREE clears VALID and BOUND (R290);
TINFO delivers the descriptor of the start of the cycle (R291); POOLSET takes a ticket and delivers its status, POOLQ reads occupancy and
tickets (R239, R243, R298). Which bank a CACHE line stands in is the model's free value (log 5). -/
def Obligations.HandleAndPoolWords : Prop :=
  ∀ (h : Hdr) (gd hn : BitVec 6) (src : Port) (s : State),
    let x := s.readInt src
    let code := x.2.tallocCode s.curCore hn.toNat x.1
    let t := s.task s.curCore
    let n := x.1.toNat
    let want : PoolRoles := { reg := slice n 0 8, scr := slice n 8 8, cache := slice n 16 8, mat := slice n 24 8 }
    let outcome := poolCode s.now s.old t.vregs t.poolFix want
    let r := s.now.poolReq.take s.now.pool want outcome
    (s.ready (.talloc h gd hn src) = true → shapeLegal x.1 = true →
      exec (.talloc h gd hn src) s = .next (s.after
        ((if code = 0 then x.2.talloc s.curCore hn.toNat x.1 else x.2).deliverG 2 gd (BitVec.ofNat 64 code)))) ∧
    (s.issues (.talloc h gd hn src) = true → shapeLegal x.1 = false →
      exec (.talloc h gd hn src) s = .next (x.2.takeFault s.curCore (some s.curStream) 1 (illegalInfo 0x9B) false)) ∧
    (s.ready (.tfree h hn) = true → exec (.tfree h hn) s = .next (s.after (s.freeHandle s.curCore hn.toNat))) ∧
    (s.ready (.tinfo h gd hn) = true →
      exec (.tinfo h gd hn) s = .next (s.after (s.deliverG 1 gd (s.old.handle hn.toNat).desc))) ∧
    (s.ready (.poolset h gd src) = true → n < 2 ^ 32 →
      exec (.poolset h gd src) s = .next (s.after ((x.2.share fun y => { y with poolReq := r }).deliverG 2 gd
        (BitVec.ofNat 64 (r.counter.toNat + 2 ^ 16 * b2n (outcome == 0 && s.now.pool != want) + 2 ^ 17 * outcome))))) ∧
    (s.issues (.poolset h gd src) = true → 2 ^ 32 ≤ n →
      exec (.poolset h gd src) s = .next (x.2.takeFault s.curCore (some s.curStream) 1 (illegalInfo 0xA6) false)) ∧
    (s.ready (.poolqOcc h gd) = true →
      exec (.poolqOcc h gd) s = .next (s.after (s.deliverG 1 gd
        (BitVec.ofNat 64 (poolOcc s.old t.vregs + 2 ^ 40 * (s.core s.curCore).dirtyAt))))) ∧
    (s.ready (.poolqTkt h gd src) = true →
      exec (.poolqTkt h gd src) s = .next (s.after (x.2.deliverG 1 gd (s.old.poolReq.status (x.1.setWidth 16)))))

/-- COPY, COPYP, JOB and NEAR issue where CP's queue takes a command and their tag's count lets it, whatever the record or card holds: the
command enters CP's queue, the tag's count goes up and its bit clears, and JOB and NEAR take the stream's footprint list with them; the
256th command on a tag is an illegal instruction (R294, R299). The tag waits and TCLR read TAGS at the start of the cycle (R297). -/
def Obligations.TagCommandsAndTagWaits : Prop :=
  (
    ∀ (h : Hdr) (tag : BitVec 6) (s : State),
      let room := (s.now.tagCount tag.toNat) < 255
      let started (u : State) : State := u.share fun y =>
        { y with tagOut := tabSet 0 y.tagOut tag.toNat (y.tagCount tag.toNat + 1), tags := y.tags &&& ~~~(BitVec.ofNat 64 (2 ^ tag.toNat)) }
      let overflow (i : Instr) (op : BitVec 8) (u : State) : Prop := s.issues i = true → s.takesCommand [4] = true → ¬room →
        exec i s = .next (u.takeFault s.curCore (some s.curStream) 1 (illegalInfo op) false)
      (∀ (dk : BitVec 1) (dst : BitVec 6) (src : Port) (sk : BitVec 1) (sn : BitVec 6), let i : Instr := .copy h tag dk dst src sk sn
        let hs := (if dk = 1 then [dst.toNat] else []) ++ (if sk = 1 then [sn.toNat] else [])
        (s.ready i = true → s.takesCommand [4] = true → room →
          exec i s = .next (s.after (started ((s.read src).2.commanded [(4, s.commandOf i (s.read src).1 hs)])))) ∧
        overflow i 0x9E (s.read src).2) ∧
      (∀ hn : BitVec 6, let i : Instr := .copyp h tag hn
        (s.ready i = true → s.takesCommand [4] = true → room →
          exec i s = .next (s.after (started (s.commanded [(4, s.commandOf i 0 [hn.toNat])])))) ∧
        overflow i 0x9F s) ∧
      (∀ hn : BitVec 6,
        let listed (i : Instr) : State := (started (s.commanded [(4, { s.commandOf i 0 [hn.toNat] with foot := s.own.foot })])).modStream
          s.curCore s.curStream fun t => { t with foot := [] }
        (s.ready (.job h tag hn) = true → s.takesCommand [4] = true → room →
          exec (.job h tag hn) s = .next (s.after (listed (.job h tag hn)))) ∧
        overflow (.job h tag hn) 0xAB s ∧
        (s.ready (.near h tag hn) = true → s.takesCommand [4] = true → room →
          exec (.near h tag hn) s = .next (s.after (listed (.near h tag hn)))) ∧
        overflow (.near h tag hn) 0xAC s)) ∧
  (
    ∀ (h : Hdr) (gd : BitVec 6) (src : Port) (s : State), let m := (s.readInt src).1
      let u := (s.readInt src).2
      (s.ready (.twaitany h gd src) = true → s.old.tags &&& m ≠ 0 →
        exec (.twaitany h gd src) s = .next (s.after (u.deliverG 1 gd (s.old.tags &&& m)))) ∧
      (s.issues (.twaitany h gd src) = true → m ≠ 0 → s.old.tags &&& m = 0 →
        exec (.twaitany h gd src) s = .next (s.block s.curCore s.curStream)) ∧
      (s.issues (.twaitany h gd src) = true → m = 0 →
        exec (.twaitany h gd src) s = .next (u.takeFault s.curCore (some s.curStream) 1 (illegalInfo 0xA0) false)) ∧
      (s.ready (.twaitall h src) = true → s.old.tags &&& m = m → exec (.twaitall h src) s = .next (s.after u)) ∧
      (s.issues (.twaitall h src) = true → s.old.tags &&& m ≠ m →
        exec (.twaitall h src) s = .next (s.block s.curCore s.curStream)) ∧
      (s.ready (.tffr h gd src) = true → exec (.tffr h gd src) s = .next (s.after (u.deliverG 1 gd
        (BitVec.ofNat 64 ((List.range 64).takeWhile fun j => !(s.old.tags &&& m).getLsbD j).length)))) ∧
      (s.ready (.tclr h src) = true →
        exec (.tclr h src) s = .next (s.after (u.share fun y => { y with tags := y.tags &&& ~~~m }))))

/-- PUSH with AGENT STREAM pushes at once, with a wider scope through a release; POP takes the oldest entry, with its acquire, and waits
where none is poppable; QSTAT and QDRAIN count entries and events (R249, R322, R323, R327, R328). POST adds through a release; AWAIT and
AWAITN take from a count that is large enough, AWAITN from the lowest event of its mask, and wait otherwise (R324 to R326). A participant
of BAR arrives once, waits, and departs with its acquire once the barrier is complete; a BAR outside its own mask, or against another mask,
is an illegal instruction (R329, R330). That QDRAIN of an event delivers what earlier consumptions of its cycle have left is the model's
choice (log 85). -/
def Obligations.QueueEventAndBarrierWords : Prop :=
  (
    ∀ (h : Hdr) (n : BitVec 5) (ag stor : BitVec 3) (s : State),
      let q := s.now.queue n.toNat
      (∀ src : Port, let x := s.read src
        (s.ready (.push h n src ag stor) = true → (s.task s.curCore).spec = false → q.full = false → ag = 0 →
          exec (.push h n src ag stor) s = .next (s.after (x.2.share fun y =>
            y.setQueue n.toNat ((y.queue n.toNat).push { val := x.1 })))) ∧
        (s.ready (.push h n src ag stor) = true → (s.task s.curCore).spec = false → q.full = false → ag ≠ 0 →
          exec (.push h n src ag stor) s = .next (s.after ((x.2.enter
            { id := 0, stream := 0, kind := .pushRel n.toNat, ord := 2, agent := ag.toNat, stor := stor.toNat } 0 none).share fun y =>
              y.setQueue n.toNat ((y.queue n.toNat).push { val := x.1, state := .release s.seq })))) ∧
        (s.issues (.push h n src ag stor) = true → (q.full = true ∨ (s.task s.curCore).spec = true) →
          exec (.push h n src ag stor) s = .next (s.block s.curCore s.curStream))) ∧
      (∀ d : Port, (s.ready (.pop h n d ag stor) = true → q.ripe ≠ 0 →
          exec (.pop h n d ag stor) s = .next (s.after (((s.share fun y => y.setQueue n.toNat q.pop.2).acquireCache
            s.curCore ag.toNat stor.toNat).deliverTo 15 1 d (q.pop.1.setWidth 1024)))) ∧
        (s.issues (.pop h n d ag stor) = true → q.ripe = 0 →
          exec (.pop h n d ag stor) s = .next (s.block s.curCore s.curStream))) ∧
      (∀ d : Port, (s.ready (.qstatQ h d n) = true → let o := s.old.queue n.toNat
          exec (.qstatQ h d n) s = .next (s.after (s.deliverTo 0 1 d (BitVec.ofNat 1024 (o.ripe + 16 * (o.ents.length - o.ripe)))))) ∧
        (s.ready (.qstatE h d n) = true → let e := s.old.event n.toNat
          exec (.qstatE h d n) s = .next (s.after (s.deliverTo 0 1 d (BitVec.ofNat 1024 (e.count + 256 * b2n e.ovf)))))) ∧
      (∀ gd : BitVec 6, (s.ready (.qdrainQ h gd n) = true →
          exec (.qdrainQ h gd n) s = .next (s.after ((s.share fun y => y.setQueue n.toNat q.drain.2).deliverG 1 gd
            (BitVec.ofNat 64 q.drain.1)))) ∧
        (s.ready (.qdrainE h gd n) = true → let e := s.now.event n.toNat
          exec (.qdrainE h gd n) s = .next (s.after ((s.share fun y =>
            y.setEvent n.toNat { e with count := 0, ovf := false }).deliverG 1 gd (BitVec.ofNat 64 (e.count + 256 * b2n e.ovf))))))) ∧
  (
    ∀ (h : Hdr) (en : BitVec 5) (n : BitVec 8) (s : State),
      let e := s.now.event en.toNat
      (s.ready (.post h en n) = true → exec (.post h en n) s = .next (s.after (s.enter
        { id := 0, stream := 0, kind := .postRel en.toNat n.toNat, ord := 2, agent := 1 } 0 none))) ∧
      (s.ready (.await h en n) = true → n.toNat ≤ e.count → exec (.await h en n) s = .next (s.after (s.share fun y =>
        y.setEvent en.toNat { y.event en.toNat with count := (y.event en.toNat).count - n.toNat }))) ∧
      (s.issues (.await h en n) = true → e.count < n.toNat → exec (.await h en n) s = .next (s.block s.curCore s.curStream)) ∧
      (∀ (gd : BitVec 6) (src : Port) (k : Nat), let m := (s.readInt src).1
        let u := (s.readInt src).2
        (s.ready (.awaitn h gd src) = true → k < 32 → m.getLsbD k = true → (s.now.event k).count ≠ 0 →
          (∀ j < k, m.getLsbD j = true → (s.now.event j).count = 0) →
          exec (.awaitn h gd src) s = .next (s.after ((u.share fun y =>
            y.setEvent k { y.event k with count := (y.event k).count - 1 }).deliverG 1 gd (BitVec.ofNat 64 k)))) ∧
        (s.issues (.awaitn h gd src) = true → m.toNat % 2 ^ 32 ≠ 0 → (∀ j < 32, m.getLsbD j = true → (s.now.event j).count = 0) →
          exec (.awaitn h gd src) s = .next (s.block s.curCore s.curStream)) ∧
        (s.issues (.awaitn h gd src) = true → m.toNat % 2 ^ 32 = 0 →
          exec (.awaitn h gd src) s = .next (u.takeFault s.curCore (some s.curStream) 1 (illegalInfo 0xB4) false))) ∧
      (∀ (bid : BitVec 3) (mask : BitVec 4), let b := s.now.barrier bid.toNat
        let own := s.ownBit
        (s.ready (.bar h bid mask) = true → b.leaving &&& own ≠ 0 →
          exec (.bar h bid mask) s = .next (s.after ((s.share fun y =>
            y.setBarrier bid.toNat { b with leaving := b.leaving &&& ~~~own }).rendezvous mask))) ∧
        (s.issues (.bar h bid mask) = true → b.leaving &&& own = 0 → b.arrived &&& own = 0 → mask &&& own ≠ 0 →
          (b.arrived = 0 ∨ b.mask = mask) →
          exec (.bar h bid mask) s = .next ((s.share fun y =>
            y.setBarrier bid.toNat { b with mask, arrived := b.arrived ||| own }).block s.curCore s.curStream)) ∧
        (s.issues (.bar h bid mask) = true → b.leaving &&& own = 0 → b.arrived &&& own ≠ 0 →
          exec (.bar h bid mask) s = .next (s.block s.curCore s.curStream)) ∧
        (s.issues (.bar h bid mask) = true → b.leaving &&& own = 0 → b.arrived &&& own = 0 →
          (mask &&& own = 0 ∨ (b.arrived ≠ 0 ∧ b.mask ≠ mask)) →
          exec (.bar h bid mask) s = .next (s.takeFault s.curCore (some s.curStream) 1 (illegalInfo 0xB5) false))))

/-- The words that read a sensor stream's position need its SREAD right (R331 to R333): without it they raise the capability fault on the
stream. ROWWAIT waits until the position has passed its row; STBIND binds a handle to a tile that is AVAILABLE or PENDING and delivers its
code (R334); TIMEGET delivers the time base or its status (R341). -/
def Obligations.SensorAndTimeWords : Prop :=
  ∀ (h : Hdr) (gd sn : BitVec 6) (s : State),
    let x := s.sensor sn.toNat
    let may := s.mayRead sn.toNat
    let denied (u : State) : Host.Outcome State Fault Refusal :=
      .next (u.takeFault s.curCore (some s.curStream) 3 (sreadInfo sn.toNat) false)
    (s.ready (.rowget h gd sn) = true → may = true → exec (.rowget h gd sn) s =
      .next (s.after (s.deliverG 1 gd (BitVec.ofNat 64 (x.row.toNat + 65536 * x.frame.toNat))))) ∧
    (s.ready (.frmgetCnt h gd sn) = true → may = true → exec (.frmgetCnt h gd sn) s =
      .next (s.after (s.deliverG 1 gd (BitVec.ofNat 64 (x.frame.toNat + 2 ^ 32 * x.closed.toNat))))) ∧
    (s.ready (.frmgetStamp h gd sn) = true → may = true → exec (.frmgetStamp h gd sn) s =
      .next (s.after (s.deliverG 1 gd x.lastStamp))) ∧
    (may = false → (s.issues (.rowget h gd sn) = true → exec (.rowget h gd sn) s = denied s) ∧
      (s.issues (.frmgetCnt h gd sn) = true → exec (.frmgetCnt h gd sn) s = denied s) ∧
      (s.issues (.frmgetStamp h gd sn) = true → exec (.frmgetStamp h gd sn) s = denied s)) ∧
    (∀ src : Port, let v := (s.readInt src).1.toNat
      let u := (s.readInt src).2
      slice v 16 16 = 0 →
      (s.ready (.rowwait h sn src) = true → may = true → x.passed (slice v 32 32) (slice v 0 16) = true →
        exec (.rowwait h sn src) s = .next (s.after u)) ∧
      (s.issues (.rowwait h sn src) = true → may = true → x.passed (slice v 32 32) (slice v 0 16) = false →
        exec (.rowwait h sn src) s = .next (s.block s.curCore s.curStream)) ∧
      (s.issues (.rowwait h sn src) = true → may = false → exec (.rowwait h sn src) s = denied u) ∧
      (∀ hn : BitVec 6, let f := slice v 32 32
        let t := slice v 0 16
        let code := if dValid (s.now.handle hn.toNat).desc then 3 else x.tileState f t
        let bound := if code ≤ 1 then
            (u.bindTile s.curCore hn.toNat { stream := sn.toNat, frame := f, tile := t, slot := x.slotOf f t }).modCore s.curCore fun y =>
              { y with binds := y.binds ++ [(hn.toNat, u.seq)] } else u
        (s.ready (.stbind h hn sn src gd) = true → may = true →
          exec (.stbind h hn sn src gd) s = .next (s.after (bound.deliverG 2 gd (BitVec.ofNat 64 code)))) ∧
        (s.issues (.stbind h hn sn src gd) = true → may = false → exec (.stbind h hn sn src gd) s = denied u))) ∧
    (∀ d : Port,
      (s.ready (.timeget h d) = true → exec (.timeget h d) s = .next (s.after (s.deliverTo 0 1 d (s.time.setWidth 1024)))) ∧
      (s.ready (.timegetSt h d) = true → exec (.timegetSt h d) s = .next (s.after (s.deliverTo 0 1 d
        (BitVec.ofNat 1024 (b2n s.tbStep + 2 * b2n s.sync + 4 * b2n s.hostTime))))))

/-- RCCFG gives a legal member record, which lands at the end of the cycle, RCSUB offers a tile that is AVAILABLE and holds one that is
PENDING, RCGET binds the oldest released set; each needs its group to be assigned to the task's context (R316 to R319, R337 to R339). That
the flags and the bound mask are 0 with NONE and IN_USE is the model's choice (log 87). -/
def Obligations.RollCallWords : Prop :=
  ∀ (h : Hdr) (hn : BitVec 6) (grp : BitVec 4) (m : BitVec 3) (s : State),
    let g := s.group grp.toNat
    let mine := s.groupMine grp.toNat
    let v := s.old.handle hn.toNat
    (∀ src : Port, let r : BitVec 128 := (s.read src).1.setWidth 128
      (s.ready (.rccfg h grp src m) = true → memberLegal r = true → mine = true → (mEn r = true → s.mayRead (mStream r) = true) →
        exec (.rccfg h grp src m) s =
          .next (s.after ((s.read src).2.modGroup grp.toNat fun g => { g with coming := g.coming ++ [(m.toNat, r)] }))) ∧
      ((g.coming = [] → g.land = g) ∧
        (g.coming = [(m.toNat, r)] → (g.land.member m.toNat).record = r ∧ g.land.coming = [] ∧
          ∀ j, j ≠ m.toNat → g.land.member j = g.member j)) ∧
      (s.issues (.rccfg h grp src m) = true → memberLegal r = true → mine = false →
        exec (.rccfg h grp src m) s =
          .next ((s.read src).2.takeFault s.curCore (some s.curStream) 3 (groupInfo grp.toNat) false))) ∧
    (∀ t : SensorTile, s.ready (.rcsub h hn grp m) = true → mine = true → dValid v.desc = true → v.bound = some t →
      mEn (g.member m.toNat).record = true → mStream (g.member m.toNat).record = t.stream → g.ref.isSome = true →
      ((s.sensor t.stream).tileState t.frame t.tile = 0 →
        exec (.rcsub h hn grp m) s = .next (s.after (s.modGroup grp.toNat fun g => g.offer m.toNat (s.offerOf t)))) ∧
      ((s.sensor t.stream).tileState t.frame t.tile = 1 → t ∉ (g.member m.toNat).held →
        (∀ o ∈ (g.member m.toNat).offers, o.tile ≠ t) →
        exec (.rcsub h hn grp m) s = .next (s.after (s.modGroup grp.toNat fun g =>
          g.setMember m.toNat { g.member m.toNat with held := (g.member m.toNat).held ++ [t] })))) ∧
    (∀ gd hb hr : BitVec 6, let r := s.old.handle hr.toNat
      let word (code bound flags queued : Nat) : Word :=
        BitVec.ofNat 64 (code + 16 * queued + 256 * bound + 65536 * flags + 2 ^ 32 * min g.lost 65535)
      hb.toNat + 7 ≤ 63 → dValid r.desc = true → dTstore r.desc = false → 256 ≤ dFoot r.desc → mine = true →
      s.ready (.rcget h gd hb hr grp) = true →
      (g.queue = [] → exec (.rcget h gd hb hr grp) s = .next (s.after (s.deliverG 2 gd (word 1 0 0 0)))) ∧
      (∀ set rest, g.queue = set :: rest → (∃ x ∈ set.held, dValid (s.now.handle (hb.toNat + x.1)).desc = true) →
        exec (.rcget h gd hb hr grp) s = .next (s.after (s.deliverG 2 gd (word 2 0 0 g.queue.length)))) ∧
      (∀ set rest, g.queue = set :: rest → (∀ x ∈ set.held, dValid (s.now.handle (hb.toNat + x.1)).desc = false) →
        exec (.rcget h gd hb hr grp) s = .next (s.after
          ((((set.held.foldl (fun (s : State) x => s.bindTile s.curCore (hb.toNat + x.1) x.2) s).tileWrite s.curCore r 0 set.record).modGroup
            grp.toNat fun g => { g with queue := rest, given := g.given ++ set.held.map Prod.snd }).deliverG 2 gd
            (word 0 (set.held.foldl (fun n x => n + 2 ^ x.1) 0)
              ((List.range 8).foldl (fun n j => n + (set.entries.getD j (none, 2)).2 * 4 ^ j) 0) rest.length)))))

/-- BR goes to word index + DISP where its guard is true, and to the next word where it is false; BRI and RET go to the word their source
names, BRI.rel that far from their own; CALL goes as BR and delivers the index of the next word. A target outside the code object is an
illegal instruction at the word, which then writes nothing (R61, R396 to R399), and a word whose guard is false has no other effect (R63). -/
def Obligations.BranchesCallsAndReturns : Prop :=
  ∀ (h : Hdr) (s : State), let pc : Int := s.own.pc
    let astray (i : Instr) : Host.Outcome State Fault Refusal :=
      .next ((s.popAll s.curCore i).takeFault s.curCore (some s.curStream) 1 (illegalInfo (Encoding.opcode i)) false)
    (∀ disp : BitVec 31, let target := pc + disp.toInt
      (s.issues (.br h disp) = true → s.inCode target = true → exec (.br h disp) s = .next (s.jump s target)) ∧
      (s.issues (.br h disp) = true → s.inCode target = false → exec (.br h disp) s = astray (.br h disp)) ∧
      (s.encodes (.br h disp) = true → s.guarded (.br h disp) = false → s.hasNext = true →
        exec (.br h disp) s = .next (s.retire s.curCore s.curStream (s.own.pc + 1) false)) ∧
      (∀ gn : BitVec 6, (s.issues (.call h gn disp) = true → s.inCode target = true →
          exec (.call h gn disp) s = .next (s.jump ((s.deliverG 1 gn (BitVec.ofNat 64 (s.own.pc + 1))).modOwn fun t => t.count 5) target)) ∧
        (s.issues (.call h gn disp) = true → s.inCode target = false → exec (.call h gn disp) s = astray (.call h gn disp)))) ∧
    (∀ a : Port, let x := s.readInt a
      (s.issues (.bri h a) = true → s.inCode x.1.toNat = true → exec (.bri h a) s = .next (s.jump x.2 x.1.toNat)) ∧
      (s.issues (.bri h a) = true → s.inCode x.1.toNat = false → exec (.bri h a) s = astray (.bri h a)) ∧
      (s.issues (.briRel h a) = true → s.inCode (pc + x.1.toInt) = true →
        exec (.briRel h a) s = .next (s.jump x.2 (pc + x.1.toInt))) ∧
      (s.issues (.briRel h a) = true → s.inCode (pc + x.1.toInt) = false → exec (.briRel h a) s = astray (.briRel h a)) ∧
      (s.issues (.ret h a) = true → s.inCode x.1.toNat = true →
        exec (.ret h a) s = .next (s.jump (x.2.modOwn fun t => t.count 6) x.1.toNat)) ∧
      (s.issues (.ret h a) = true → s.inCode x.1.toNat = false → exec (.ret h a) s = astray (.ret h a)))

/-- LOOP goes on into its body where its counter is not zero, and skips it where it is zero (R400); LCLOSE takes one from its counter but
never below zero, rotates both bases in a cluster, and goes back where what is left is not zero, else on (R50, R400); RRBSET writes the
bases its form names and refuses a value beyond its base's range, changing neither (R401). A target outside the code object is an illegal
instruction (R396). -/
def Obligations.LoopsAndRotation : Prop :=
  ∀ (h : Hdr) (n : BitVec 2) (disp : BitVec 31) (s : State),
    let lc := tabGet 0 s.own.lc n.toNat
    let target : Int := s.own.pc + disp.toInt
    let astray (i : Instr) : Host.Outcome State Fault Refusal :=
      .next ((s.popAll s.curCore i).takeFault s.curCore (some s.curStream) 1 (illegalInfo (Encoding.opcode i)) false)
    (s.ready (.loop h n disp) = true → lc ≠ 0 → exec (.loop h n disp) s = .next (s.after s)) ∧
    (s.issues (.loop h n disp) = true → lc = 0 → s.inCode target = true → exec (.loop h n disp) s = .next (s.jump s target)) ∧
    (s.issues (.loop h n disp) = true → lc = 0 → s.inCode target = false → exec (.loop h n disp) s = astray (.loop h n disp)) ∧
    (let counted := s.deliverTo 15 1 (BitVec.ofNat 11 (0x2C4 + n.toNat)) (BitVec.ofNat 1024 (lc.toNat - 1))
     let turned := if s.curStream < 4 then counted.modOwn fun t =>
        { t with rrbV := (t.rrbV + 127) % 128, rrbK := (t.rrbK + 30) % 31 } else counted
     (s.ready (.lclose h n disp) = true → lc.toNat ≤ 1 → exec (.lclose h n disp) s = .next (s.after turned)) ∧
     (s.issues (.lclose h n disp) = true → 1 < lc.toNat → s.inCode target = true →
       exec (.lclose h n disp) s = .next (s.jump turned target)) ∧
     (s.issues (.lclose h n disp) = true → 1 < lc.toNat → s.inCode target = false →
       exec (.lclose h n disp) s = astray (.lclose h n disp))) ∧
    (∀ (a b : Port) (ek ev : BitVec 1), let i : Instr := .rrbset h a b ek ev
      let x := if ev = 1 then s.readInt a else (0, s)
      let y := if ek = 1 then x.2.readInt b else (0, x.2)
      (s.ready i = true → x.1.toNat ≤ 127 → y.1.toNat ≤ 30 → exec i s = .next (s.after (y.2.modOwn fun t =>
        { t with rrbV := if ev = 1 then x.1.toNat else t.rrbV, rrbK := if ek = 1 then y.1.toNat else t.rrbK }))) ∧
      (s.issues i = true → (127 < x.1.toNat ∨ 30 < y.1.toNat) →
        exec i s = .next (y.2.takeFault s.curCore (some s.curStream) 1 (illegalInfo 0xC6) false)))

/-- FORK marks its group to dissolve (R403). The last participant of a JOIN completes it and goes on with its acquire, the others go on
once it is complete; an earlier one arrives and waits; a JOIN outside its own mask, or against another mask, is an illegal instruction
(R404). CCSET writes 0 at once and 1 through a release; CCWAIT waits for its value (R405). The last stream to reach START goes on, and
the others with it; an earlier one waits (R406). END and TDONE end their streams at the end of the cycle, and YIELD asks for a save where
the form has a valid NEXT record (R407, R408, R416). SLEEP waits while its count is 0, wakes in 12 cycles, and issues after them, consuming
one, or sleeps again (R409; the wake of a count found at arrival is log 44's reading). -/
def Obligations.ForkJoinStartAndEndWords : Prop :=
  (
    ∀ (h : Hdr) (cc : BitVec 3) (mask : BitVec 4) (s : State),
      let r := s.now.ccRec cc.toNat
      let own := s.ownBit
      let st := s.curStream
      let go := (s.core s.curCore).joinGo &&& ccBit cc.toNat ≠ 0
      let join : Instr := .joinCc h cc mask
      let arriving : State := s.share fun y => y.setCc cc.toNat { r with mask, arrived := r.arrived ||| own }
      let fits := mask &&& own ≠ 0 ∧ (r.mask = 0 ∨ r.mask = mask)
      let full := r.arrived ||| own = mask ∧ (∀ m ∈ maskList mask, (s.stream s.curCore m).halted = false)
      (s.ready (.fork h) = true → exec (.fork h) s = .next (s.after
        (if h.join = 1 then s.modCur fun x => { x with forking := x.forking ||| s.own.group } else s))) ∧
      (s.ready join = true → r.leaving &&& own ≠ 0 → exec join s = .next (s.after ((s.share fun y =>
        y.setCc cc.toNat { r with leaving := r.leaving &&& ~~~own }).rendezvous mask))) ∧
      (s.ready join = true → r.leaving &&& own = 0 → r.arrived &&& own ≠ 0 → go → exec join s = .next (s.after (s.rendezvous mask))) ∧
      (s.issues join = true → r.leaving &&& own = 0 → r.arrived &&& own ≠ 0 → ¬ go → exec join s = .next (s.block s.curCore st)) ∧
      (s.ready join = true → r.leaving &&& own = 0 → r.arrived &&& own = 0 → fits → full →
        exec join s =
          .next (s.after ((arriving.modCur fun x => { x with joinGo := x.joinGo ||| ccBit cc.toNat }).rendezvous mask))) ∧
      (s.issues join = true → r.leaving &&& own = 0 → r.arrived &&& own = 0 → fits → ¬ full →
        exec join s = .next (arriving.block s.curCore st)) ∧
      (s.issues join = true → r.leaving &&& own = 0 → r.arrived &&& own = 0 → ¬ fits →
        exec join s = .next (s.takeFault s.curCore (some st) 1 (illegalInfo 0xC8) false)) ∧
      (s.ready (.ccset h 0 cc) = true → exec (.ccset h 0 cc) s = .next (s.after (s.modCur fun x => x.landCc cc.toNat false s.seq))) ∧
      (s.ready (.ccset h 1 cc) = true → exec (.ccset h 1 cc) s = .next (s.after
        (s.enter { id := 0, stream := 0, kind := .ccRel cc.toNat true, ord := 2, agent := 1 } 0 none))) ∧
      (∀ val : BitVec 1, let v := b2n (s.old.ccRec cc.toNat).value
        (s.ready (.ccwait h val cc) = true → v = val.toNat → exec (.ccwait h val cc) s = .next (s.after s)) ∧
        (s.issues (.ccwait h val cc) = true → v ≠ val.toNat → exec (.ccwait h val cc) s = .next (s.block s.curCore st)))) ∧
  (
    ∀ (h : Hdr) (s : State), let st := s.curStream
      let x := s.core s.curCore
      (s.ready (.start h) = true → x.startLeft &&& streamBit st ≠ 0 →
        exec (.start h) s = .next (s.after (s.modCur fun x => { x with startLeft := x.startLeft &&& ~~~(streamBit st) }))) ∧
      (s.ready (.start h) = true → x.startLeft &&& streamBit st = 0 → s.own.atStart = true → x.startGo = true →
        exec (.start h) s = .next (s.after (s.modOwn fun t => { t with atStart := false }))) ∧
      (s.issues (.start h) = true → x.startLeft &&& streamBit st = 0 → s.own.atStart = true → x.startGo = false →
        exec (.start h) s = .next (s.block s.curCore st)) ∧
      (s.ready (.start h) = true → x.startLeft &&& streamBit st = 0 → s.own.atStart = false → x.othersAtStart st = true →
        exec (.start h) s = .next (s.after (s.modCur fun x => { x with startGo := true }))) ∧
      (s.issues (.start h) = true → x.startLeft &&& streamBit st = 0 → s.own.atStart = false → x.othersAtStart st = false →
        exec (.start h) s = .next ((s.modOwn fun t => { t with atStart := true }).block s.curCore st)) ∧
      (s.issues (.endStream h) = true →
        exec (.endStream h) s = .next ((s.modOwn fun t => { t with ending := true }).retire s.curCore st s.own.pc false)) ∧
      (s.issues (.tdone h) = true → exec (.tdone h) s = .next
        (((s.modCur fun x => { x with tdone := x.tdone ||| streamBit st }).modOwn fun t => { t with ending := true }).retire
          s.curCore st s.own.pc false)) ∧
      (s.ready (.yieldCore h) = true → exec (.yieldCore h) s = .next (s.after (s.modCur fun x =>
        { x with yielded := true, yielding := x.yielding || (s.form (formOf s.curCore)).nextValid }))) ∧
      (∀ en : BitVec 5, let t := s.own
        (s.issues (.sleep h en) = true → (t.asleep = true ∨ t.wake = 0) →
          exec (.sleep h en) s = .next ((s.modOwn fun t => if (s.old.event en.toNat).count = 0 then { t with asleep := true }
            else { t with asleep := false, wake := 12 }).block s.curCore st)) ∧
        (s.issues (.sleep h en) = true → t.asleep = false → 1 < t.wake →
          exec (.sleep h en) s = .next ((s.modOwn fun t => { t with wake := t.wake - 1 }).block s.curCore st)) ∧
        (s.issues (.sleep h en) = true → t.asleep = false → t.wake = 1 → (s.now.event en.toNat).count = 0 →
          exec (.sleep h en) s = .next ((s.modOwn fun t => { t with asleep := true, wake := 0 }).block s.curCore st)) ∧
        (s.ready (.sleep h en) = true → t.asleep = false → t.wake = 1 → (s.now.event en.toNat).count ≠ 0 →
          exec (.sleep h en) s = .next (s.after ((s.share fun y => y.consume en.toNat 1).modOwn fun t => { t with wake := 0 })))))

/-- Where SPAWN's descriptor goes (R52, R360): 0, the die's queue, where no descriptor of its lane waits in the overflow object and 257
entries are free, or any entry for a CRITICAL one; else 1, the overflow object, where it has room; else 2. SPAWN's checks in their order,
and its outcome code with latency 2; in a speculative task it waits (R411). That a context with an OVFOBJ of 0 has no overflow object (log
107), and that the die of each descriptor in it is kept beside it (log 13), are the model's choices. -/
def Obligations.SpawnWordAndPlacement : Prop :=
  (
    ∀ (s : State) (die ctx : Nat) (d : BitVec 256),
      let held := s.ovfHeld ctx
      let hasObj := (s.descr ctx (s.ovfObj ctx)).isSome && s.ovfObj ctx != 0
      let used := (s.die die).queue.length + (s.die die).freed
      let onChip := (hasObj = false ∨ ∀ x ∈ held, x.1 = die → sameLane d x.2 = false) ∧ (used + 256 < 4096 ∨ (chCrit d = true ∧ used < 4096))
      (s.placeCode die ctx d = 0 ↔ onChip) ∧
      (s.placeCode die ctx d = 1 ↔ ¬ onChip ∧ hasObj = true ∧ held.length + (s.ctx ctx).ovfFreed < s.ovfCap ctx) ∧
      (∀ c : Nat, ((s.placeChild c d 0).die (dieOf c)).queue.length = (s.die (dieOf c)).queue.length + 1 ∧
        ((s.placeChild c d 0).launch (chLid d)).remain = (s.launch (chLid d)).remain + 1 ∧
        ((s.placeChild c d 1).die (dieOf c)).queue = (s.die (dieOf c)).queue ∧
        ((s.placeChild c d 1).ctx (s.task c).ctx).ovfComing.length = (s.ctx (s.task c).ctx).ovfComing.length + 1)) ∧
  (
    ∀ (h : Hdr) (gd : BitVec 6) (src : Port) (s : State),
      let x := s.read src
      let l := s.launch (chLid x.1)
      let ctx := (s.task s.curCore).ctx
      let free := (s.task s.curCore).spec = false
      let denied := exec (.spawn h gd src) s = .next (x.2.takeFault s.curCore (some s.curStream) 3 (capInfo .rights) false)
      (s.issues (.spawn h gd src) = true → free → childLegal x.1 = false → exec (.spawn h gd src) s =
        .next (x.2.takeFault s.curCore (some s.curStream) 1 (illegalInfo 0xCE) false)) ∧
      (s.issues (.spawn h gd src) = true → free → childLegal x.1 = true → (l.active = false ∨ l.ctx ≠ ctx) → denied) ∧
      (s.issues (.spawn h gd src) = true → free → childLegal x.1 = true → l.active = true → l.ctx = ctx → chPrio x.1 = 0 →
        (s.ctx ctx).cfg.getLsbD 26 = false → denied) ∧
      (s.ready (.spawn h gd src) = true → free → childLegal x.1 = true → l.active = true → l.ctx = ctx →
        (chPrio x.1 ≠ 0 ∨ (s.ctx ctx).cfg.getLsbD 26 = true) →
        let u := x.2.endIdem s.curCore
        let code := u.placeCode (dieOf s.curCore) ctx x.1
        exec (.spawn h gd src) s = .next (s.after ((if code ≤ 1 then u.placeChild s.curCore x.1 code else u).deliverG 2 gd
          (BitVec.ofNat 64 code)))) ∧
      (s.issues (.spawn h gd src) = true → (s.task s.curCore).spec = true →
        exec (.spawn h gd src) s = .next (s.block s.curCore s.curStream)))

/-- A packet is refused with the code of its first failed check, waits for room without any change, or enters the lowest free entry with
the next generation (R344, R346, R410). LAUNCH and SPEC wait in a speculative task before anything else, check their handle, wait until
their stream's accesses are performed, and deliver what became of their packets; SPEC enters both successors or neither (R412, R413).
That both submit their packets and deliver their tickets in the step that issues them is the model's reading (log 12). -/
def Obligations.LaunchesAndTheRegistrar : Prop :=
  (
    ∀ (s : State) (fn : Nat) (own : Option Nat) (p : List Byte),
      (s.loaderCode fn own p ≠ 0 → (s.submit fn own p).1 = .refused (s.loaderCode fn own p)) ∧
      (s.loaderCode fn own p = 0 → s.roomFor p = false → s.submit fn own p = (.full, s)) ∧
      (s.loaderCode fn own p = 0 → s.roomFor p = true → taskCount (s.kLevels p) ≠ 0 →
        let lid := s.freeEntries.headD 0
        let l := (s.submit fn own p).2.launch lid
        (s.submit fn own p).1 = .entered lid ∧ l.active = true ∧ l.gen = ((s.launch lid).gen + 1) % 1024 ∧ l.ctx = pkCtx p ∧
          l.tasks = taskCount (s.kLevels p) ∧ l.remain = l.tasks ∧ l.retired = 0 ∧ l.faulted = false) ∧
      (packetLegal p = false → s.loaderCode fn own p = 1) ∧
      (packetLegal p = true → ((s.ctx (pkCtx p)).cfg.getLsbD 0 = false ∨ s.fnOfCtx (pkCtx p) ≠ fn) → s.loaderCode fn own p = 2) ∧
      (∀ c : Nat, packetLegal p = true → c ≠ pkCtx p → s.loaderCode fn (some c) p = 2)) ∧
  (
    ∀ (h : Hdr) (gd hn : BitVec 6) (s : State),
      let v := s.old.handle hn.toNat
      let ctx := (s.task s.curCore).ctx
      let free := (s.task s.curCore).spec = false
      (∀ cause, free → poolHandleFault v.desc 64 = some cause → s.issues (.launch h gd hn) = true → exec (.launch h gd hn) s =
        .next (s.takeFault s.curCore (some s.curStream) 3 (handleInfo cause hn.toNat) false)) ∧
      (∀ cause, free → poolHandleFault v.desc 128 = some cause → s.issues (.spec h gd hn) = true → exec (.spec h gd hn) s =
        .next (s.takeFault s.curCore (some s.curStream) 3 (handleInfo cause hn.toNat) false)) ∧
      (((s.task s.curCore).spec = true ∨ (poolHandleFault v.desc 64 = none ∧ s.unperformed = true)) → s.issues (.launch h gd hn) = true →
        exec (.launch h gd hn) s = .next (s.block s.curCore s.curStream)) ∧
      (((s.task s.curCore).spec = true ∨ (poolHandleFault v.desc 128 = none ∧ s.unperformed = true)) → s.issues (.spec h gd hn) = true →
        exec (.spec h gd hn) s = .next (s.block s.curCore s.curStream)) ∧
      ((s.task s.curCore).spec = false → s.unperformed = false →
        let u := s.launchRelease
        (poolHandleFault v.desc 64 = none → s.ready (.launch h gd hn) = true →
          let r := u.submit (u.fnOfCtx ctx) (some ctx) (u.elemRead s.curCore v 64)
          exec (.launch h gd hn) s = .next (s.after (r.2.deliverG 1 gd (BitVec.ofNat 64 (match r.1 with
            | .entered lid => (lid + 64 * (r.2.launch lid).gen) * 2 ^ 16 | .full => 1 | .refused code => 2 + code * 256))))) ∧
        (poolHandleFault v.desc 128 = none → s.ready (.spec h gd hn) = true →
          let r := u.enterBoth ctx ((u.elemRead s.curCore v 128).take 64) ((u.elemRead s.curCore v 128).drop 64)
          exec (.spec h gd hn) s = .next (s.after (r.2.deliverG 1 gd (BitVec.ofNat 64 r.1))))) ∧
      (∀ p q : List Byte,
        ((s.ctx ctx).specs = 3 → s.enterBoth ctx p q = (3, s)) ∧
        ((s.ctx ctx).specs ≠ 3 → s.freeEntries.length < 2 → s.enterBoth ctx p q = (1, s)) ∧
        ((s.ctx ctx).specs ≠ 3 → 2 ≤ s.freeEntries.length → s.loaderCode (s.fnOfCtx ctx) (some ctx) p ≠ 0 →
          (s.enterBoth ctx p q).1 = 2 + s.loaderCode (s.fnOfCtx ctx) (some ctx) p * 256)))

/-- DECIDE in a task of its own speculation is an illegal instruction, delivers NONE where none is pending, and else DONE or RERUN; the
slot is then free (R414). TWAIT.launch waits while its ticket's launch is active, and then delivers its state, or 7 where the entry has
been used again (R415). That it acquires at DEVICE scope where the entry has been used again too is the model's reading (log 46). -/
def Obligations.DecideAndTicketWaits : Prop :=
  ∀ (h : Hdr) (gd : BitVec 6) (s : State), let t := s.task s.curCore
    (∀ slot succ : BitVec 1,
      (s.issues (.decide h gd slot succ) = true → t.spec = true → t.slot = slot.toNat → exec (.decide h gd slot succ) s =
        .next (s.takeFault s.curCore (some s.curStream) 1 (illegalInfo 0xD1) false)) ∧
      (s.ready (.decide h gd slot succ) = true → (t.spec = false ∨ t.slot ≠ slot.toNat) →
        (s.ctx t.ctx).specs.getLsbD slot.toNat = false →
        exec (.decide h gd slot succ) s = .next (s.after (s.deliverG 1 gd 1))) ∧
      (s.ready (.decide h gd slot succ) = true → (t.spec = false ∨ t.slot ≠ slot.toNat) →
        (s.ctx t.ctx).specs.getLsbD slot.toNat = true →
        let r := s.decide t.ctx slot.toNat succ.toNat
        exec (.decide h gd slot succ) s = .next (s.after (r.2.deliverG 1 gd (if r.1 then 2 else 0))) ∧
          (r.2.ctx t.ctx).specs.getLsbD slot.toNat = false)) ∧
    (∀ src : Port, let v := (s.readInt src).1.toNat
      let u := (s.readInt src).2
      let l := s.launch (slice v 0 6)
      (s.issues (.twaitLaunch h gd src) = true → slice v 16 48 ≠ 0 → exec (.twaitLaunch h gd src) s =
        .next (u.takeFault s.curCore (some s.curStream) 1 (illegalInfo 0xD2) false)) ∧
      (s.issues (.twaitLaunch h gd src) = true → slice v 16 48 = 0 → l.active = true → l.gen = slice v 6 10 →
        exec (.twaitLaunch h gd src) s = .next (s.block s.curCore s.curStream)) ∧
      (s.ready (.twaitLaunch h gd src) = true → slice v 16 48 = 0 → l.active = false → l.gen = slice v 6 10 →
        exec (.twaitLaunch h gd src) s =
          .next (s.after ((u.acquireCache s.curCore 4 0).deliverG 1 gd (BitVec.ofNat 64 l.lastState)))) ∧
      (s.ready (.twaitLaunch h gd src) = true → slice v 16 48 = 0 → l.gen ≠ slice v 6 10 →
        exec (.twaitLaunch h gd src) s = .next (s.after ((u.acquireCache s.curCore 4 0).deliverG 1 gd 7))))

/-- TRAP and BRK issue, and raise their faults after issue: class 10 with CODE, class 11 with 0 (R490, R491). With BRKHALT, BRK halts its
stream, or the whole of its join group, and raises nothing. -/
def Obligations.TrapAndBrkTakeTheirFaults : Prop :=
  ∀ (h : Hdr) (s : State), s.hasNext = true →
    (∀ code : BitVec 16, s.issues (.trap h code) = true → isLbp s.curCore = false →
      exec (.trap h code) s = .next (s.after (s.modCore s.curCore fun x =>
        x.takeFault (some s.curStream) 10 (code.setWidth 64) true))) ∧
    (s.issues (.brk h) = true → (s.core s.curCore).dbg.getLsbD 0 = false → isLbp s.curCore = false →
      exec (.brk h) s = .next (s.after (s.modCore s.curCore fun x => x.takeFault (some s.curStream) 11 0 true))) ∧
    (s.issues (.brk h) = true → (s.core s.curCore).dbg.getLsbD 0 = true →
      exec (.brk h) s = .next (s.after (s.modCur fun x => { x with halting := x.halting |||
        (if h.join = 1 then s.own.group.setWidth 10 ||| streamBit s.curStream else streamBit s.curStream) })))

/-- CSRR delivers the register as it stands at the start of the cycle; CSRW delivers the old STATUS and writes it by R493: RW fields take
the operand, set or clear by it; flags clear by a one under `.w` alone; an RM above 4 changes nothing (R107). Which bank a CACHE line
stands in, and so what CACHE_DIRTY of POOL_OCC counts, is the model's free value (log 5). -/
def Obligations.ControlAndStatusWords : Prop :=
  ∀ (h : Hdr) (d : Port) (s : State),
    (∀ csr : BitVec 9, s.ready (.csrr h d csr) = true →
      exec (.csrr h d csr) s = .next (s.after (s.deliverTo 15 1 d ((s.csrValue s.curCore s.curStream csr.toNat).setWidth 1024)))) ∧
    (∀ (csr : BitVec 9) (b : Port) (opn : BitVec 2), s.ready (.csrw h d csr b opn) = true →
      exec (.csrw h d csr b opn) s = .next (s.after (((s.readInt b).2.modOwn fun t =>
        { t with status := csrwStatus s.own.status ((s.readInt b).1.setWidth 32) opn.toNat }).deliverTo 15 1 d
          (s.own.status.setWidth 1024)))) ∧
    (∀ (old v : BitVec 32) (k : Nat), k < 32 →
      ((csrwStatus old v 0).getLsbD k = if k < 6 then old.getLsbD k && !v.getLsbD k
        else if 16 ≤ k ∧ k < 22 then v.getLsbD k
        else if 8 ≤ k ∧ k < 11 then (if slice v.toNat 8 3 < 5 then v.getLsbD k else old.getLsbD k) else false) ∧
      ((csrwStatus old v 1).getLsbD k = if k < 6 then old.getLsbD k
        else if 16 ≤ k ∧ k < 22 then old.getLsbD k || v.getLsbD k
        else if 8 ≤ k ∧ k < 11 then
          (if slice (old ||| v).toNat 8 3 < 5 then old.getLsbD k || v.getLsbD k else old.getLsbD k) else false) ∧
      ((csrwStatus old v 2).getLsbD k = if k < 6 then old.getLsbD k
        else if 16 ≤ k ∧ k < 22 then old.getLsbD k && !v.getLsbD k
        else if 8 ≤ k ∧ k < 11 then
          (if slice (old &&& ~~~v).toNat 8 3 < 5 then old.getLsbD k && !v.getLsbD k else old.getLsbD k) else false))

/-- IDGET, CLKGET and PERFR deliver their values; PERFR with CLR zeroes its counter, a core's at the end of the cycle; IFENCE empties its
stream's instruction buffer, which is filled again after the stream's earlier accesses (R495 to R498). Which cycles CLKGET leaves out is the
model's reading (log 129). A snapshot word sends its request, and its result lands after 64 cycles, or after 128 for a target on the other
die (R500). In the cycle in which it lands its access is made: a read gives bytes of the target's snapshot, or 0 with the status that SNAPR.st
gives; a write of status DONE takes effect at the end of the cycle, in its target alone (R499, R500). -/
def Obligations.IdentityClockAndSnapshotWords : Prop :=
  (
    ∀ (h : Hdr) (d : Port) (s : State),
      (∀ sel : BitVec 3, s.ready (.idget h d sel) = true →
        exec (.idget h d sel) s = .next (s.after (s.deliverTo 15 1 d (BitVec.ofNat 1024 (match sel.toNat with
          | 0 => 0x0504 + 2 ^ 16 * s.boot.stepping.toNat + 2 ^ 24
          | 1 => s.boot.deviceNumber.toNat
          | 2 => if isLbp s.curCore then (s.curCore - 128) % 4 + 4 * ((s.curCore - 128) / 4) + 2 ^ 15
              else s.curCore + 2 ^ 8 * formOf s.curCore + 2 ^ 16 * dieOf s.curCore
          | 3 => s.vfid s.curCore
          | _ => s.boot.forms.toNat))))) ∧
      (s.ready (.clkget h d 0) = true →
        exec (.clkget h d 0) s = .next (s.after (s.deliverTo 15 1 d
          ((if isLbp s.curCore then s.clock else s.clock - (s.form (formOf s.curCore)).stopped -
            (if s.curStream < 4 then s.own.stopped else 0)).setWidth 1024)))) ∧
      (s.ready (.clkget h d 1) = true → exec (.clkget h d 1) s = .next (s.after (s.deliverTo 15 1 d (s.tick.setWidth 1024)))) ∧
      (s.ready (.clkget h d 2) = true → exec (.clkget h d 2) s = .next (s.after (s.deliverTo 15 1 d ((BitVec.ofNat 64
        (s.freq s.curCore s.curStream + 2 ^ 8 * (s.form (formOf s.curCore)).thr + 2 ^ 16 * s.ceil (formOf s.curCore))).setWidth 1024)))) ∧
      (∀ n : BitVec 9, n.toNat < 8 → let v := (tabGet 0 s.own.perf n.toNat : Word).setWidth 1024
        (s.ready (.perfr h d n 0) = true → exec (.perfr h d n 0) s = .next (s.after (s.deliverTo 15 1 d v))) ∧
        (s.ready (.perfr h d n 1) = true → exec (.perfr h d n 1) s = .next (s.after
          ((s.modOwn fun t => { t with perf := tabSet 0 t.perf n.toNat 0 }).deliverTo 15 1 d v)))) ∧
      (∀ n : BitVec 9, 8 ≤ n.toNat → let v := (tabGet 0 (s.core s.curCore).perf n.toNat : Word).setWidth 1024
        (s.ready (.perfr h d n 0) = true → exec (.perfr h d n 0) s = .next (s.after (s.deliverTo 15 1 d v))) ∧
        (s.ready (.perfr h d n 1) = true → exec (.perfr h d n 1) s = .next (s.after
          ((s.modCur fun x => { x with perfClr := n.toNat :: x.perfClr }).deliverTo 15 1 d v)))) ∧
      (∀ (x : Core) (k : Nat), x.perfNow = [] → tabGet 0 (Core.addCounts { x with perfClr := [k] }).perf k = 0 ∧
        ∀ j, j ≠ k → tabGet 0 (Core.addCounts { x with perfClr := [k] }).perf j = tabGet 0 x.perf j) ∧
      (s.ready (.ifence h) = true → exec (.ifence h) s = .next (s.after (s.modOwn fun t =>
        { t with ibuf := [], blocks := 0, fillAfter := s.seq })))) ∧
  (
    ∀ (h : Hdr) (d a b : Port) (s : State),
      let asks (u : State) (kind : Nat) (sel : Word) (data : Vec) : State :=
        (u.reserveTo 15 (if dieOf (slice sel.toNat 24 7) = dieOf s.curCore then 64 else 128) d 0).modCur fun x =>
          { x with flight := x.flight.map fun f =>
            if f.id = s.seq then { f with snap := kind, snapSel := sel, snapData := data } else f }
      let x := s.readInt a
      (s.ready (.snaprD h d a) = true → exec (.snaprD h d a) s = .next (s.after (asks x.2 1 x.1 0))) ∧
      (s.ready (.snaprV h d a) = true → exec (.snaprV h d a) s = .next (s.after (asks x.2 2 x.1 0))) ∧
      (s.ready (.snaprSt h d a) = true → exec (.snaprSt h d a) s = .next (s.after (asks x.2 3 x.1 0))) ∧
      (s.ready (.snapwD h d a b) = true → exec (.snapwD h d a b) s = .next (s.after
        (asks (x.2.readInt b).2 4 x.1 ((x.2.readInt b).1.setWidth 256)))) ∧
      (s.ready (.snapwV h d a b) = true → exec (.snapwV h d a b) s = .next (s.after
        (asks (x.2.read b).2 5 x.1 (x.2.read b).1)))) ∧
  (
    ∀ (c : Nat) (f : Flight) (s : State),
      let off := slice f.snapSel.toNat 0 23
      let t := slice f.snapSel.toNat 24 7
      let size := if f.snap = 2 ∨ f.snap = 5 then 32 else 8
      let status := s.snapStatus c t
      (t = c → status = 2) ∧ ((s.core t).task = none → status = 2) ∧
      (∀ k m, t ≠ c → (s.core t).task = some k → (s.core c).task = some m → s.fnOfCtx k.ctx = s.fnOfCtx m.ctx →
        status = if (s.core t).tt = .faulted ∨ (s.core t).allHalted = true then 0 else 1) ∧
      ((f.snap = 1 ∨ f.snap = 2) →
        (s.snapRange f.snapSel size false = false → status = 0 → s.snapAccess c f = (imgAt (s.image t) off size, s)) ∧
        ((s.snapRange f.snapSel size false = true ∨ status ≠ 0) → s.snapAccess c f = (0, s))) ∧
      (f.snap = 3 → s.snapAccess c f = (status + 4 * b2n ((s.core t).tt == .faulted) + 8 * b2n (s.core t).allHalted +
        16 * b2n (!(s.core t).snapBad.isEmpty), s)) ∧
      ((f.snap = 4 ∨ f.snap = 5) →
        (s.snapRange f.snapSel size true = true → s.snapAccess c f = (3, s)) ∧
        (s.snapRange f.snapSel size true = false → status ≠ 0 → s.snapAccess c f = (status, s)) ∧
        (s.snapRange f.snapSel size true = false → status = 0 → s.snapAccess c f =
          (0, { s with snapDue := s.snapDue ++ [(t, off, leBytes size f.snapData.toNat)] }))) ∧
      ((s.core c).flight = [f] → f.snap ≠ 0 → f.left = 1 →
        ((s.snapAll c).core c).flight = [{ f with snap := 0, val := BitVec.ofNat 1024 (s.snapAccess c f).1 }]) ∧
      (∀ bs, s.snapDue = [(t, off, bs)] → (s.core t).task.isSome = true → let u := s.snapEnd
        u = State.snapWrite { s with snapDue := [] } t off bs ∧ u.dev = s.dev ∧ u.host = s.host ∧ ∀ d, d ≠ t → u.core d = s.core d))

/-- The oldest command of a free engine starts: DECKSEL sets the deck base and completes at once, and an RPOP with no ring is an illegal
instruction of EP in the stream that sent it. RPOP and RDISCARD move the ring, EPCFG sets its field of EP's configuration, and GO makes its
table live, all at once (R141, R199, R210, R212). MMA draws its iteration; CELLW is checked at its start and writes its cell at its finish,
as PATCH does its cells; STEPDOM of a running domain is illegal; a COPY that has moved its bytes finishes its tag (R206, R233 to R235,
R294). A K-step takes one row quad of its command where its stage slot is FULL and, where it opens a tile, the ring has room; the finish of
an MMA closes the tile and empties the slot as LAST and CLOSE say, and posts (R195, R200, R206). A unit of ASTAGE puts the bytes that it
reads into its stage slot, FULL after the last (R203), a unit of DECKLD into every slice of the deck (R204); a row of EPRUN writes its 64
elements to its tile (R143, R144, R211); a sector of a COPY and an element of a COPYP move from end to end (R293, R295); DASAVE writes the
field's image to its tile and DALOAD takes the field from it (R235, R236). The cycles of CELLW (log 94), that PATCH writes at its finish
whatever RUN is then (log 128), and that HD counts on without bound (log 112), are the model's choices. -/
def Obligations.EngineCommandsStartStepAndFinish : Prop :=
  ∀ (c : Nat) (s : State), s.broken = none →
    let x := s.core c
    let posted (r : Comp) : Comp := if r.skip = 0 then { r with done := r.done + 1 } else { r with skip := r.skip - 1 }
    (∀ e, x.mayStart e = false → exec (.engineCommandStart c e) s = .next s) ∧
    (∀ k rest h units, x.mayStart 2 = true → (x.sh.engine 2).queue = k :: rest → k.ins = .decksel h units →
      ∃ t, exec (.engineCommandStart c 2) s = .next t ∧ (t.sh c).ring.deckBase = 32 * units.toNat ∧
        ((t.sh c).engine 2).queue = rest ∧ ((t.sh c).engine 2).run = none ∧ (t.sh c).compRec 2 = posted (x.sh.compRec 2)) ∧
    (∀ k rest h, x.mayStart 3 = true → (x.sh.engine 3).queue = k :: rest → k.ins = .rpop h → x.soc.ring.d = 0 →
      exec (.engineCommandStart c 3) s = .next (s.takeFault c (some k.stream) 1 (illegalInfo 0x6A (some 3)) true)) ∧
    (∀ k rest, x.mayStart 3 = true → (x.sh.engine 3).queue = k :: rest →
      let atOnce (p : Shared → Prop) : Prop := ∃ t, exec (.engineCommandStart c 3) s = .next t ∧ ((t.sh c).engine 3).queue = rest ∧
        ((t.sh c).engine 3).run = none ∧ (t.sh c).compRec 3 = posted (x.sh.compRec 3) ∧ p (t.sh c)
      (∀ h, k.ins = .rpop h → x.soc.ring.d ≠ 0 → x.soc.ring.hd ≤ x.soc.ring.tl → exec (.engineCommandStart c 3) s = .next s) ∧
      (∀ h, k.ins = .rpop h → x.soc.ring.d ≠ 0 → x.soc.ring.tl < x.soc.ring.hd →
        atOnce fun y => y.ring = { x.sh.ring with current := true }) ∧
      (∀ h, k.ins = .rdiscard h → x.soc.ring.d ≠ 0 → x.sh.ring.current = true →
        atOnce fun y => y.ring = { x.sh.ring with tl := x.sh.ring.tl + 1, current := false }) ∧
      (∀ h act, k.ins = .epcfgAct h act → atOnce fun y => y.epcfg = epPut x.sh.epcfg 0 3 act.toNat) ∧
      (∀ h hn, k.ins = .epcfgBias h hn 1 → atOnce fun y => y.epcfg = epPut (epPut x.sh.epcfg 8 1 1) 9 6 hn.toNat) ∧
      (∀ h hn, k.ins = .epcfgScale h hn 1 → atOnce fun y => y.epcfg = epPut (epPut x.sh.epcfg 15 1 1) 16 6 hn.toNat) ∧
      (∀ h p, k.ins = .epcfgLo h p → atOnce fun y => y.epcfg = epPut x.sh.epcfg 32 32 (slice k.src.toNat 0 32)) ∧
      (∀ h p, k.ins = .epcfgHi h p → atOnce fun y => y.epcfg = epPut x.sh.epcfg 64 32 (slice k.src.toNat 0 32))) ∧
    (∀ e k rest h mask src, e < 4 → x.mayStart e = true → (x.sh.engine e).queue = k :: rest → k.ins = .go h mask src →
      ∃ t, exec (.engineCommandStart c e) s = .next t ∧ ((t.sh c).engine e).run = none ∧ (t.sh c).compRec e = posted (x.sh.compRec e) ∧
        (t.sh c).nestRunOf e = { live := true, base := [(goBase src k.src e).toNat] } ∧
        ∀ l, l < 6 → (t.sh c).nestRec e 1 l = k.nest.getD l 0) ∧
    (∀ k rest h close last gang kc i y, x.mayStart 2 = true → (x.sh.engine 2).queue = k :: rest → k.ins = .mma h close last gang kc →
      x.soc.matHeld = false → s.marks = [] → x.sh.draw 2 = some (i, y) →
      let f := x.soc.fmtEntry (x.soc.entryFor i)
      let len := 16 * (kc.toNat + 1)
      let span := kSpan gang.toNat (fEdge f)
      x.soc.ring.d ≠ 0 → x.sh.ring.openTile = false → 0 ≤ i.op2 → i.op2 + len ≤ 128 → len % span = 0 →
      (fA f ≤ 2 → i.op2 % fEdge f = 0 ∧ i.op1 % fEdge f = 0) → gangOf (fA f) (fB f) = some gang.toNat →
      ∃ t q, exec (.engineCommandStart c 2) s = .next t ∧ ((t.sh c).engine 2).run = some q ∧ ((t.sh c).engine 2).queue = rest ∧
        q.iter = [i.op0, i.op1, i.op2] ∧ q.steps = 16 * (len / span) ∧ q.progress = 0 ∧ q.entry = x.soc.entryFor i ∧
        (t.sh c).nestRunOf 2 = y.nestRunOf 2) ∧
    (∀ k rest, x.mayStart 5 = true → (x.sh.engine 5).queue = k :: rest →
      (∀ h p item cell, k.ins = .cellw h p item cell → let v := slice k.src.toNat 0 64
        ((item = 2 ∧ (v < 8 ∨ 31 < v)) ∨ (item = 4 ∧ v % 4 = 2) →
          exec (.engineCommandStart c 5) s = .next (s.takeFault c (some k.stream) 1 (illegalInfo 0x81 (some 5)) true)) ∧
        (¬((item = 2 ∧ (v < 8 ∨ 31 < v)) ∨ (item = 4 ∧ v % 4 = 2)) →
          exec (.engineCommandStart c 5) s = .next (s.modSh c fun y => y.begin 5 { cmd := k, left := some 1 }))) ∧
      (∀ h dom p kind, k.ins = .stepdom h dom p kind → (x.sh.dda.dom dom.toNat).run = true →
        exec (.engineCommandStart c 5) s = .next (s.takeFault c (some k.stream) 1 (illegalInfo 0x83 (some 5)) true))) ∧
    (∀ r, (x.sh.engine 5).run = some r → r.left = some 0 →
      (∀ h p item cell, r.cmd.ins = .cellw h p item cell → exec (.engineCommandFinish c 5) s = .next ((s.modSh c fun y =>
        { y with dda := y.dda.cellWrite cell.toNat item.toNat (slice r.cmd.src.toNat 0 64) }).finishCommand c 5)) ∧
      (∀ h hn p keep, r.cmd.ins = .patch h hn p keep → s.marks = [] → let w := r.cmd.src.toNat
        exec (.engineCommandFinish c 5) s = .next ((s.modSh c fun y =>
          { y with dda := y.dda.patched (slice w 0 8) (slice w 8 9) (keep == 1) r.data }).finishCommand c 5)) ∧
      (∀ h hn, r.cmd.ins = .dasave h hn → exec (.engineCommandFinish c 5) s =
        .next ((s.elemWrite c (r.cmd.handle x.sh hn.toNat) r.data).finishCommand c 5)) ∧
      (∀ h hn, r.cmd.ins = .daload h hn → s.marks = [] → exec (.engineCommandFinish c 5) s = .next ((s.modSh c fun y =>
        { y with dda := s.catchUp ((Dda.ofImage r.data).1.withTaps y.dda) }).finishCommand c 5))) ∧
    (∀ k rest h hn, x.mayStart 5 = true → (x.sh.engine 5).queue = k :: rest → s.marks = [] → x.sentBefore k = false →
      let g := k.handle x.sh hn.toNat
      daHandle g hn.toNat 8448 = none →
      (k.ins = .dasave h hn → exec (.engineCommandStart c 5) s =
        .next (s.modSh c fun y => y.begin 5 { cmd := k, data := x.soc.dda.image, left := some 263 })) ∧
      (k.ins = .daload h hn → (∀ d, d < 4 → (x.sh.dda.dom d).run = false) → (Dda.ofImage (s.elemRead c g 8448)).2 = true →
        exec (.engineCommandStart c 5) s =
          .next (s.modSh c fun y => y.begin 5 { cmd := k, data := s.elemRead c g 8448, left := some 263 }))) ∧
    (∀ r h cn kn p, r.cmd.ins = .astage h cn kn p → let slot := x.sh.ring.slot (r.iter.getD 1 0)
      let ms := stageUnitOf (r.caps.headD {}) r.fmt (r.cmd.src.setWidth 64)
        { idx := r.idx, op0 := r.iter.getD 0 0, op1 := r.iter.getD 1 0, op2 := r.iter.getD 2 0 } (16 * (kn.toNat + 1)) (r.progress / 32)
      (r.waiting = true → tabGet 0 x.soc.ring.stage slot ≠ 0 → s.advanceCmd c 0 r = .wait) ∧
      (∀ bs u, r.waiting = false → s.engRead c 0 cn.toNat (r.caps.headD {}) (ms.map Prod.snd) = .ok (bs, u) → ∃ t, s.advanceCmd c 0 r = .go t ∧
        let base := (u.sh c).ring.stageAt slot
        (∀ (i : Nat) (m : Nat × Int) (b : Byte), ms[i]? = some m → bs[i]? = some b →
          (∀ (j : Nat) (n : Nat × Int), i < j → ms[j]? = some n → n.1 ≠ m.1) → rdByte (t.sh c).mat (base + m.1) = b) ∧
        (∀ a, (∀ m ∈ ms, a ≠ base + m.1) → rdByte (t.sh c).mat a = rdByte (u.sh c).mat a) ∧
        tabGet 0 (t.sh c).ring.stage slot = (if 32 * stageUnits r.fmt ≤ r.progress + 32 then 2 else 1) ∧
        ((t.sh c).engine 0).run =
          (if 32 * stageUnits r.fmt ≤ r.progress + 32 then none else some { r with progress := r.progress + 32, waiting := false }))) ∧
    (∀ r h cn p units bs u, r.cmd.ins = .deckld h cn p units → let w := r.cmd.src.toNat
      let at_ := slice w 32 16 + 32 * r.progress
      at_ + 32 ≤ 49152 → s.engRead c 0 cn.toNat (r.caps.headD {}) (((List.range 64).flatMap fun n => (List.range 32).map fun i => (n, i)).map
        fun k => (((r.caps.headD {}).cur + slice w 0 32 + k.1 * 32 * units.toNat + 32 * r.progress + k.2 : Nat) : Int)) = .ok (bs, u) →
      ∃ t, s.advanceCmd c 0 r = .go t ∧
        (∀ n i b, n < 64 → i < 32 → bs[32 * n + i]? = some b → rdByte (t.sh c).deck (49152 * n + at_ + i) = b) ∧
        (∀ a, (∀ n i, n < 64 → i < 32 → a ≠ 49152 * n + at_ + i) → rdByte (t.sh c).deck a = rdByte (u.sh c).deck a) ∧
        ((t.sh c).engine 0).run = (if r.progress + 1 = units.toNat then none else some { r with progress := r.progress + 1 })) ∧
    (∀ r h hn, r.cmd.ins = .eprun h hn → let g := r.cmd.handle x.sh hn.toNat
      let place := ((r.iter.getD 0 0).toNat + r.progress) * dPitch g.desc + 4 * (r.iter.getD 2 0).toNat
      fOut r.fmt = 8 → g.bound = none → r.progress < 64 → ∃ t, s.advanceCmd c 3 r = .go t ∧
        (∀ n, n < 64 → leNat (t.tileRead c g (place + 4 * n) 4) = (s.epElem c r.cmd (r.iter.getD 1 0).toNat r.progress n).1 % 2 ^ 32) ∧
        (epBias x.sh.epcfg = none → epScale x.sh.epcfg = none → epAct x.sh.epcfg = 0 →
          t.tileRead c g place 256 = rdBytes x.sh.mat (16384 * (x.sh.ring.tl % max 1 x.sh.ring.d) + 256 * r.progress) 256) ∧
        (r.progress = 63 → ((t.sh c).engine 3).run = none ∧ (t.sh c).ring.tl = x.sh.ring.tl + 1 ∧ (t.sh c).ring.current = false) ∧
        (r.progress < 63 → ∃ q, ((t.sh c).engine 3).run = some q ∧ q.progress = r.progress + 1)) ∧
    (∀ r h tg dk dst p sk sn, r.cmd.ins = .copy h tg dk dst p sk sn → let w := r.cmd.src.toNat
      let e := s.copyEnds c r.cmd (dk == 1) (sk == 1) dst.toNat sn.toNat
      let a := e.1.withCap (r.caps.getD 0 {})
      let b := e.2.1.withCap (r.caps.getD 1 {})
      let from_ := a.start + (32 * slice w 32 16 + r.progress : Nat)
      let into := b.start + (32 * slice w 48 16 + r.progress : Nat)
      let n := min (32 - b.phase into) (slice w 0 32 - r.progress)
      r.progress < slice w 0 32 → ∀ bs u, s.endRead c a from_ n = .ok (bs, u) →
      (∀ v, u.endWrite c b into bs = .ok v → s.advanceCmd c 4 r = .go (if r.progress + n = slice w 0 32 then v.finishTag c r.cmd
        else v.modSh c fun y => y.setRun 4 { r with progress := r.progress + n })) ∧
      (∀ m g, b = .tile m g → g.bound = none → 0 ≤ into → ∃ t, s.advanceCmd c 4 r = .go t ∧ t.tileRead c g into.toNat n = bs)) ∧
    (∀ r h tg hn, r.cmd.ins = .copyp h tg hn → r.waiting = false → let p := Pattern.ofBytes r.data
      let a := (s.copyEnd c r.cmd p.srcKind p.src).withCap (r.caps.getD 0 {})
      let b := (s.copyEnd c r.cmd p.dstKind p.dst).withCap (r.caps.getD 1 {})
      let from_ := a.start + p.offset r.progress false
      let into := b.start + p.offset r.progress true
      (p.count ≤ r.progress → s.advanceCmd c 4 r = .go (s.patternDone c r p.marker.isSome)) ∧
      (r.progress + 1 < p.count → a.check s c from_ p.width false = none → b.check s c into p.width true = none →
        ∀ bs u v, s.endRead c a from_ p.width = .ok (bs, u) → u.endWrite c b into bs = .ok v →
        s.advanceCmd c 4 r = .go (v.modSh c fun y => y.setRun 4 { r with progress := r.progress + 1 }))) ∧
    (∀ r h tg dk dst p sk sn, (x.sh.engine 4).run = some r → r.cmd.ins = .copy h tg dk dst p sk sn → r.left = some 0 →
      slice r.cmd.src.toNat 0 32 ≤ r.progress →
      exec (.engineCommandFinish c 4) s = .next ((s.modSh c fun y => y.tagFinish tg.toNat).finishCommand c 4)) ∧
    (∀ r h close last gang kc, (x.sh.engine 2).run = some r → r.cmd.ins = .mma h close last gang kc →
      let slot := x.sh.ring.slot (r.iter.getD 0 0)
      (r.left = some 0 → r.steps ≤ r.progress →
        ∃ t, exec (.engineCommandFinish c 2) s = .next t ∧ ((t.sh c).engine 2).run = none ∧
          (t.sh c).compRec 2 = posted (x.sh.compRec 2) ∧ (t.sh c).ring.hd = x.sh.ring.hd + close.toNat ∧
          (last = 1 → tabGet 0 (t.sh c).ring.stage slot = 0)) ∧
      (r.kDue = true →
        let e := x.soc.fmtEntry r.entry
        let p : KPlan := { e, stage := x.sh.ring.stageAt slot, stageK := (r.iter.getD 2 0).toNat + r.progress / 16 * r.span,
                           deckBase := x.sh.ring.deckBase, deckK := r.iter.getD 1 0 + (r.progress / 16 * r.span : Nat),
                           span := r.span }
        let tile := 16384 * (x.sh.ring.hd % max 1 x.sh.ring.d)
        let mat := if r.progress = 0 then zeroBytes x.sh.mat tile 16384 else x.sh.mat
        (tabGet 0 x.soc.ring.stage slot ≠ 2 → exec (.kStep c) s = .next s) ∧
        (tabGet 0 x.soc.ring.stage slot = 2 → x.soc.ring.hd - x.soc.ring.tl < x.soc.ring.d → fEdge e = r.edge →
          gangOf (fA e) (fB e) = some gang.toNat → p.inDeck = true →
          ∃ t q, exec (.kStep c) s = .next t ∧ ((t.sh c).engine 2).run = some q ∧ q.progress = r.progress + 1 ∧
            (t.sh c).ring.openTile = true ∧ (t.sh c).mat = (p.run mat x.sh.deck tile (r.progress % 16)).1)))

/-- An engine without work for 64 cycles enters AUTUMN (R385). A stepping domain's new increments land, or it keeps its cells and raises
the increment overrun in DA (R218, R225); a tick or an engine cycle counts PHASE of a running domain of its kind (R224). The end of a COPYP
pushes its marker once its queue has room (R296). A pool request takes effect at the end of the cycle of its last step, and its own ticket
is DONE (R241). -/
def Obligations.SeasonFieldMarkerAndPoolHappenings : Prop :=
  ∀ (c : Nat) (s : State), s.broken = none →
    let x := s.core c
    (∀ e, let g := x.sh.engine e
      g.season = .summer → g.queue = [] → g.run = none → 64 ≤ g.idleFor → g.wake = 0 → (e = 5 → x.sh.dda.restless = false) →
      exec (.engineAutumnEntry c e) s = .next (s.modSh c fun y => y.setEngine e { g with season := .autumn })) ∧
    (∀ d, let old : Dda := { x.soc.dda with fresh := 0 }
      x.stepping = [d] → s.cellBad c d = none →
      (∀ new, old.stepDomain d = .ok new →
        exec (.domainStep c) s = .next (s.modSh c fun y => { y with dda := y.dda.land old new d })) ∧
      (∀ cell, old.stepDomain d = .error cell →
        exec (.domainStep c) s = .next (s.takeFault c (some 9) 6 (BitVec.ofNat 64 (cell + 256 * d)) true))) ∧
    (∀ d, let r := x.sh.dda.dom d
      let counted : State := s.modSh c fun y => { y with dda :=
        if r.divm ≤ r.phase then (y.dda.setDom d { r with phase := 0 }).trigger d 1 else y.dda.setDom d { r with phase := r.phase + 1 } }
      r.run = true →
      (r.kind = 1 → x.counts = true → exec (.domainReferenceTrigger c d) s = .next counted) ∧
      (r.kind = 1 → x.counts = false → exec (.domainReferenceTrigger c d) s = .next s) ∧
      (r.kind = 2 → exec (.domainEngineTrigger c d) s = .next counted)) ∧
    (∀ r h tg hn q, (x.sh.engine 4).run = some r → r.cmd.ins = .copyp h tg hn → r.waiting = true →
      (Pattern.ofBytes r.data).marker = some q →
      (((x.sh.queue q).full = true → exec (.copypEndMarker c) s = .next s) ∧
       ((x.sh.queue q).full = false →
        exec (.copypEndMarker c) s = .next ((s.modSh c fun y => y.setQueue q ((y.queue q).push
          { val := BitVec.ofNat 256 ((Pattern.ofBytes r.data).count + 2 ^ 64 * tg.toNat) })).finishCommand c 4)))) ∧
    (let r := x.sh.poolReq
     (r.pending = false → exec (.poolRequestStep c) s = .next s) ∧
     (r.pending = true → 4 ≤ r.step → exec (.poolRequestStep c) s =
       .next (s.modSh c fun y => { y with poolReq := { y.poolReq with ending := true } })) ∧
     (r.ending = false → x.sh.finishPool = x.sh) ∧
     (r.ending = true → x.sh.finishPool.pool = r.want ∧ x.sh.finishPool.poolReq.pending = false ∧
       (∀ k ∈ x.sh.finishPool.poolReq.tickets, k.ticket = r.ticket → k.pending = false ∧ k.code = 0) ∧
       ∀ k ∈ r.tickets, k.ticket ≠ r.ticket → k ∈ x.sh.finishPool.poolReq.tickets) ∧
     (r.pending = true → r.step = 3 → r.want.reg < x.sh.pool.reg → x.regReady = false → exec (.poolRequestStep c) s = .next s))

/-- A part of a NEAR source is worked through: a histogram counts its elements (R301). A Taloth port trains with a peer, or loses it; a
message of the peer that a port has trained with is noted by the lowest core whose card awaits it, and the last one finishes a card that
writes nothing (R300, R442). That a peer's part of a card is one message, noted by the lowest core whose card awaits the peer, and that a
card waits for a message of each of its peers, are the model's choices (log 41). -/
def Obligations.FabricAndPeerHappenings : Prop :=
  ∀ (s : State), s.broken = none →
    (∀ c r h tg hn bs u, ((s.sh c).engine 4).run = some r → r.cmd.ins = .near h tg hn → r.failed = false → nrOp (r.data.take 64) = 3 →
      let b := r.data.take 64
      let a := r.caps.getD 0 {}
      let n := nearPart a b r.progress
      r.progress < nrCnt b → s.nearRead c (bytesNat b 1 1) a (a.cur + bytesNat b 8 8 + r.progress : Nat) n = .ok (bs, u) →
      u.broken = none →
      let counts := (List.range 256).map fun v => leNat (((r.data.drop 64).drop (4 * v)).take 4) +
        ((chunk 1 n bs).filter fun x => x / 2 ^ nrParam b == v).length
      exec (.nearPartDone c) s = .next (u.modSh c fun y => y.setRun 4
        { r with progress := r.progress + n, data := b ++ counts.flatMap fun v => leBytes 4 v })) ∧
    (∀ port p : Nat, port ≤ 1 → p < 4 →
      exec (.talothPortTraining port (some p)) s = .next { s with peers := tabPut s.peers port p }) ∧
    (∀ port : Nat, exec (.talothPortTraining port none) s = .next { s with peers := tabDel s.peers port }) ∧
    (∀ (port p : Nat) (data : List Byte), tabGet 8 s.peers port ≠ p → exec (.talothJobPeerMessage port p data) s = .next s) ∧
    (∀ (port p c : Nat) (data : List Byte) (r : Run), tabGet 8 s.peers port = p → s.awaitingCard p = some (c, r) →
      let card := r.data.take 64
      let all := (s.cardPeers card).all fun q => (r.idx ++ [p]).contains q
      (all = false → ∃ t q, exec (.talothJobPeerMessage port p data) s = .next t ∧ ((t.sh c).engine 4).run = some q ∧
        q.idx = r.idx ++ [p]) ∧
      (all = true → jbOpk card ≤ 1 → exec (.talothJobPeerMessage port p data) s = .next (s.finishJob c r.cmd 0)))

/-- An access finds its addresses and goes on; it stalls at a migrating page, behind what stalls already (R430); a page that is not present, or a fault of the walk, holds it
at the memory port and is raised in its stream after issue (R423, R450). An access that a restore has given back makes its checks again
first (R472); a load of a core in SAVE stays where it is (R470). -/
def Obligations.AccessesTranslateStallOrFault : Prop :=
  ∀ (c id : Nat) (a : Access) (s u : State), s.broken = none → u.broken = none → (s.core c).access id = some a →
    a.translated = false → a.held = false → a.kind.translates = true → a.lag = 0 →
    let found := s.placePieces c (s.task c).ctx a.cap.obj a.pieces
    let held (cls : Nat) (info : Word) : Host.Outcome State Fault Refusal :=
      .next ((u.setAcc c { a with held := true }).takeFault c (some a.stream) cls info true)
    ((s.core c).leaves a = true → exec (.addressTranslation c id) s = .next s) ∧
    (∀ cause, (s.core c).leaves a = false → a.checked = some cause → u = s →
      exec (.addressTranslation c id) s = held 3 (capInfo cause a.reg)) ∧
    ((s.core c).leaves a = false → a.checked = none →
      (∀ ps, found = .ok (ps, u) → (∀ q ∈ ps.flatMap Piece.at_, q.1 = true ∨ q.2 < Config.deviceBytes) →
        exec (.addressTranslation c id) s =
          .next (u.setAcc c { a with pieces := ps, translated := true, recheck := false })) ∧
      (found = .error (.migrating, u) → ∃ t, exec (.addressTranslation c id) s = .next t ∧ t.cores = u.cores ∧
        t.stalls = (if .access c id ∈ u.stalls then u.stalls else u.stalls ++ [.access c id])) ∧
      (∀ page, found = .error (.absent page, u) →
        exec (.addressTranslation c id) s = held 4 (absentInfo a.cap.obj page (!a.kind.loads))) ∧
      (∀ cause, found = .error (.fault cause, u) → exec (.addressTranslation c id) s = held 3 (capInfo cause a.reg)))

/-- A load that may be performed returns the bytes of its places, the lowest first, to its destination and MU.o, at the end of this cycle
or of the first in which its data may land, or consumes poison (R263, R275, R466); a capability load delivers the tag of its granule besides
(R277), a gather the bytes of each piece in its lane, 0 in the others (R279), and an LDT the bytes of its tile (R292). An acquire then
carries out its part on CACHE (R249, R262); a load that may not be performed changes nothing. The number of the sector in a soft error's
FF_INFO (log 28), that the four registers of a line land together, with a free value in MU.o (log 95), that a load at FORM scope or wider
has its sectors written back and dropped from CACHE first (log 16), that a load is performed in one step (log 139), and what counts as a
miss of CACHE (log 134), are the model's choices. -/
def Obligations.LoadsReturnTheirBytes : Prop :=
  ∀ (c id : Nat) (a : Access) (s : State), s.broken = none → (s.core c).access id = some a → a.kind.loads = true →
    (∀ token, a.kind ≠ .prefetch token) →
    let lands (unit : Nat) (dest : Dest) (val : BitVec 1024) (tag : Bool) : Flight :=
      { stream := a.stream, unit, dest, val, tag, left := 1 + (a.soonest - a.age), id := a.id, load := true,
        acc := if a.inFlight then none else some a }
    (s.mayPerform c a = false → exec (.loadDataReturn c id) s = .next s) ∧
    (a.kind ≠ .tileLoad → a.translated = true → s.mayPerform c a = true →
      let m := s.countMiss c a
      let u := if 2 ≤ a.agent then m.passCache c a.places else m
      let r := u.coreRead c a.agent a.places
      let bytes := leNat r.1
      (∀ q, u.poisoned c a.agent a.places = some q →
        exec (.loadDataReturn c id) s = .next ((u.setAcc c { a with held := true }).takeFault c (some a.stream) 9 (poisonInfo q) true)) ∧
      (u.poisoned c a.agent a.places = none → (∀ w x y z, a.dest ≠ .line w x y z) →
        let returns (val : BitVec 1024) (tag : Bool) : Prop :=
          let t := (r.2.dropAcc c id).modCore c fun x => { x with flight := x.flight ++ [lands 7 a.dest val tag] }
          (a.acquires = false → exec (.loadDataReturn c id) s = .next t) ∧
          (a.acquires = true → exec (.loadDataReturn c id) s = .next (t.acquireCache c a.agent a.stor)) ∧
          (a.agent ≤ 1 → u = m ∧ t.acquireCache c a.agent a.stor = t)
        (a.kind = .load → returns (BitVec.ofNat 1024 bytes) false) ∧
        (a.kind = .capLoad → ∀ q rest, a.places = q :: rest → returns (BitVec.ofNat 1024 bytes) (r.2.coreTag c a.agent q.1 q.2)) ∧
        (a.kind = .gather → a.w ≤ 3 → (a.pieces.map Piece.lane).Nodup → (∀ k ∈ a.pieces, k.lane < 8) →
          let size := [1, 2, 4, 8].getD a.w 8
          let bits := if a.w = 3 then 64 else 32
          ∃ val, returns val false ∧
            (∀ k (p : Piece), a.pieces[k]? = some p → slice val.toNat (bits * p.lane) bits = leNat ((r.1.drop (size * k)).take size)) ∧
            ∀ l, l < 8 → l ∉ a.pieces.map Piece.lane → slice val.toNat (bits * l) bits = 0)) ∧
      (∀ w x y z, u.poisoned c a.agent a.places = none → a.kind = .load → a.acquires = false → a.dest = .line w x y z →
        ∃ t mu, exec (.loadDataReturn c id) s = .next t ∧
          (t.core c).flight = ((r.2.dropAcc c id).core c).flight ++
            [lands 15 a.dest (BitVec.ofNat 1024 bytes) false, lands 7 .none mu false])) ∧
    (∀ p rest, a.kind = .tileLoad → a.translated = false → s.mayPerform c a = true → a.pieces = p :: rest →
      (∀ w x y z, a.dest ≠ .line w x y z) →
      (∀ info, s.tileBad c a.handle p.pos p.size = some info → exec (.loadDataReturn c id) s =
        .next ((s.setAcc c { a with held := true }).takeFault c (some a.stream) 9 info true)) ∧
      (s.tileBad c a.handle p.pos p.size = none → exec (.loadDataReturn c id) s = .next ((s.dropAcc c id).modCore c fun x => { x with
        flight := x.flight ++ [lands 7 a.dest (BitVec.ofNat 1024 (leNat (s.tileRead c a.handle p.pos p.size))) false] })))

/-- A store, a scatter or a capability store without CACHE and provisional data writes the bytes of its data to its places in device memory,
each lane's to the place of its lane, and leaves every other byte as it was (R263, R276, R279); a capability store gives the granule the
capability's tag (R277), and an STT writes its tile (R292). A release at FORM scope or wider first writes back the dirty sectors of its
spaces (R249). CFLUSH writes back the sectors of its range and CINV drops them (R285); the write-back of a CACHE sector writes its dirty
bytes and no other (R249). -/
def Obligations.StoresWriteTheirBytesAndNoOthers : Prop :=
  ∀ (c id : Nat) (s : State), s.broken = none → s.identOf c = none →
    (∀ a : Access, (s.core c).access id = some a → a.translated = true → s.mayPerform c a = true →
      a.isRelease = false → (s.core c).cache = [] → (s.sh c).pool.cache = 0 → (∀ q ∈ a.places, q.1 = false) → a.places.Nodup →
      let wrote (p : State → Prop) : Prop :=
        ∃ t, exec (.storePerformed c false id) s = .next t ∧ (t.core c).acc = (s.core c).acc.filter (fun b => b.id != id) ∧
          (∀ m, (false, m) ∉ a.places → rdByte t.dev m = rdByte s.dev m) ∧ t.host = s.host ∧ p t
      (a.kind = .store → wrote fun t => ∀ k q, a.places[k]? = some q → rdByte t.dev q.2 = BitVec.ofNat 8 (a.data.toNat / 2 ^ (8 * k))) ∧
      (a.kind = .scatter → wrote fun t => ∀ p ∈ a.pieces, ∀ k q, k < p.size → p.at_[k]? = some q → p.size ≤ (if a.w = 3 then 8 else 4) →
        rdByte t.dev q.2 = BitVec.ofNat 8 (a.data.toNat / 2 ^ ((if a.w = 3 then 64 else 32) * p.lane + 8 * k))) ∧
      (∀ q rest, a.kind = .capStore → a.places.length = 16 → a.places = q :: rest → (∀ y ∈ a.places, y.2 / 16 = q.2 / 16) →
        wrote fun t => (∀ k y, a.places[k]? = some y → rdByte t.dev y.2 = BitVec.ofNat 8 (a.data.toNat / 2 ^ (8 * k))) ∧
          tabGet false t.devTags (q.2 / 16) = a.data.getLsbD 128)) ∧
    (∀ a : Access, (s.core c).access id = some a → a.kind = .store → a.translated = true → s.mayPerform c a = true → a.isRelease = true →
      let m := (s.countMiss c a).beforeRelease c a
      exec (.storePerformed c false id) s =
        .next (((if 2 ≤ a.agent then m.passCache c a.places else m).coreWrite c a.agent a.writes false).dropAcc c id) ∧
      (a.agent ≤ 1 → m = s.countMiss c a)) ∧
    (∀ a p rest, (s.core c).access id = some a → a.kind = .tileStore → a.translated = false → s.mayPerform c a = true → a.pieces = p :: rest →
      exec (.storePerformed c false id) s = .next ((s.tileWrite c a.handle p.pos (leBytes p.size a.data.toNat)).dropAcc c id)) ∧
    (∀ agent stor, let t := s.releaseCache c agent stor
      (agent ≤ 1 → t = s) ∧
      (2 ≤ agent → ((s.core c).cache.map Prod.fst).Pairwise (· < ·) → ∀ e ∈ (s.core c).cache, storHas stor (keySpace e.1) = true →
        (∀ f ∈ (t.core c).cache, f.1 = e.1 → f.2.dirty = 0) ∧
        (keyHost e.1 = false → ∀ j, j < 32 → e.2.dirty.getLsbD j = true → rdByte t.dev (keyAddr e.1 + j) = (e.2.data >>> (8 * j)).setWidth 8))) ∧
    (∀ a p rest l, (s.core c).access id = some a → a.held = false → (s.core c).tt = .run → s.accFree c a = true → a.pieces = p :: rest →
      s.flushRanges (s.task c).ctx a.cap.obj p.pos p.size = .ok l →
      (a.kind = .flush → ((s.core c).cache.map Prod.fst).Pairwise (· < ·) → let t := s.autoAccess c id
        (∀ f ∈ (t.core c).cache, keyIn l f.1 = true → f.2.dirty = 0) ∧ (t.core c).acc = (s.core c).acc.filter (fun b => b.id != id) ∧
        ∀ e ∈ (s.core c).cache, keyIn l e.1 = true → keyHost e.1 = false → ∀ j, j < 32 → e.2.dirty.getLsbD j = true →
          rdByte t.dev (keyAddr e.1 + j) = (e.2.data >>> (8 * j)).setWidth 8) ∧
      (a.kind = .inval → s.autoAccess c id =
        (s.modCore c fun x => { x with cache := x.cache.filter fun e => !keyIn l e.1 }).dropAcc c id)) ∧
    (∀ e : CacheSector, (s.core c).cache.find? (·.1 == id) = some (id, e) → e.dirty ≠ 0 → keyHost id = false →
      ∃ t, exec (.storePerformed c true id) s = .next t ∧
        (∀ j, j < 32 → e.dirty.getLsbD j = true → rdByte t.dev (keyAddr id + j) = (e.data >>> (8 * j)).setWidth 8) ∧
        (∀ m, (∀ j, j < 32 → e.dirty.getLsbD j = true → m ≠ keyAddr id + j) → rdByte t.dev m = rdByte s.dev m) ∧
        t.host = s.host ∧ ∃ e', tabGet {} (t.core c).cache id = e' ∧ e'.dirty = 0 ∧ e'.data = e.data)

/-- An AMO, AMOF or CAS performed at its coherence point, with no sector of its bytes in CACHE, writes its new value, where it has one, to
its bytes and no other, and returns the old value (R265, R280 to R283); AMOF adds and compares floating-point numbers, rounded to nearest
even, and its flags land with the result. -/
def Obligations.AtomicsReturnTheOldValue : Prop :=
  ∀ (c id : Nat) (a : Access) (s : State), s.broken = none → s.identOf c = none →
    (s.core c).access id = some a → a.translated = true → s.mayPerform c a = true → a.isRelease = false →
    a.acquires = false → (∀ q ∈ a.places, ∀ e ∈ (s.core c).cache, e.1 ≠ sectorKey q.1 q.2) → (∀ q ∈ a.places, q.1 = false) →
    a.places.Nodup → s.poisoned c 2 a.places = none → (∀ w x y z, a.dest ≠ .line w x y z) →
    let n := a.places.length
    let old := leNat (a.places.map fun q => rdByte s.dev q.2)
    let answers (new : Option Nat) (flags : Flags) : Prop :=
      ∃ t, exec (.atomicReturn c id) s = .next t ∧
        (t.core c).flight = (s.core c).flight ++
          [{ stream := a.stream, unit := 7, dest := a.dest, val := BitVec.ofNat 1024 old, flags, left := 1 + (a.soonest - a.age),
             id := a.id, load := true, acc := some a }] ∧
        (∀ x, new = some x → ∀ k q, a.places[k]? = some q → rdByte t.dev q.2 = BitVec.ofNat 8 (x / 2 ^ (8 * k))) ∧
        (new = none → t.dev = s.dev) ∧ (∀ m, (false, m) ∉ a.places → rdByte t.dev m = rdByte s.dev m) ∧ t.host = s.host
    (∀ (op : Nat) (v cmp : Word), a.kind = .atomic op v cmp →
      answers (amoValue op (8 * n) old (v.toNat % 2 ^ (8 * n)) (cmp.toNat % 2 ^ (8 * n))) 0) ∧
    (∀ (op : Nat) (v : Word), a.kind = .atomicF op v → let y := v.toNat % 2 ^ (8 * n)
      (op = 0 → answers (some (addF fp32 .rne (fp32.val old) (fp32.val y)).1) (addF fp32 .rne (fp32.val old) (fp32.val y)).2) ∧
      (op = 1 → answers (some (minMaxF fp32 false old y).1) (minMaxF fp32 false old y).2) ∧
      (op = 2 → answers (some (minMaxF fp32 true old y).1) (minMaxF fp32 true old y).2) ∧
      (op = 3 → answers (some (addF bf16 .rne (bf16.val old) (bf16.val y)).1) (addF bf16 .rne (bf16.val old) (bf16.val y)).2) ∧
      (op = 4 → answers (some (addF fp16 .rne (fp16.val old) (fp16.val y)).1) (addF fp16 .rne (fp16.val old) (fp16.val y)).2))

/-- A release lands once every access that it orders has been performed, and not before: a PUSH entry becomes poppable, a POST adds, a
CCSET writes its bit (R322, R324, R405). A prefetch that may be performed completes its token (R252, R286). A block of the instruction
buffer arrives; its page is absent or migrates, or a sector of it is poisoned, and the word faults or the fill stalls; the first fill
after an IFENCE has CACHE written back first (R61, R430, R466, R498). The host's error holds an access and raises OBJECT (R438). That a
fill whose page is absent faults with class 4 before its word issues is the model's choice (log 26). -/
def Obligations.ReleasesTokensFillsAndHostErrors : Prop :=
  ∀ (c id : Nat) (s : State), s.broken = none →
    (∀ a, (s.core c).access id = some a → a.id = id → a.agent ≤ 1 →
      (∀ q, a.kind = .pushRel q → (s.releaseReady c a = false → exec (.pushEntryPoppable c id) s = .next s) ∧
        (s.releaseReady c a = true →
          exec (.pushEntryPoppable c id) s = .next ((s.dropAcc c id).modSh c fun x => x.setQueue q ((x.queue q).release id)))) ∧
      (∀ e n, a.kind = .postRel e n → (s.releaseReady c a = false → exec (.postAdditionLands c id) s = .next s) ∧
        (s.releaseReady c a = true → exec (.postAdditionLands c id) s = .next ((s.dropAcc c id).modSh c fun x =>
          x.setEvent e { x.event e with adds := (x.event e).adds + n }))) ∧
      (∀ b, a.kind = .ccRel b true → (s.releaseReady c a = false → exec (.ccsetValueLands c id) s = .next s) ∧
        (s.releaseReady c a = true →
          exec (.ccsetValueLands c id) s = .next ((s.dropAcc c id).modCore c fun x => x.landCc b true id))) ∧
      (a.kind.moves = true → a.held = false → a.lag = 0 → s.accSpace c a = 3 → s.accFree c a = true →
        exec (.hostLinkError c id) s =
          .next ((s.setAcc c { a with held := true }).takeFault c (some a.stream) 3 (capInfo .object a.reg) true))) ∧
    ((∀ a ∈ (s.core c).acc, a.kind ≠ .prefetch id) → exec (.prefetchComplete c id) s = .next s) ∧
    (∀ a b, (s.core c).acc.find? (fun a => a.kind == .prefetch id) = some a → (s.core c).access a.id = some b → b.kind = .prefetch id →
      (s.mayPerform c b = false → exec (.prefetchComplete c id) s = .next s) ∧
      (s.mayPerform c b = true → b.translated = true → ∃ t, exec (.prefetchComplete c id) s = .next t ∧ t.dev = s.dev ∧ t.host = s.host ∧
        (t.core c).prefs = (s.core c).prefs.filter (fun k => k.token != id) ∧
        (t.core c).acc = (s.core c).acc.filter (fun y => y.id != b.id))) ∧
    (∀ n block, c < 128 → let k := s.task c
      let p := s.blockSpan c n block
      let u := if (s.stream c n).fillAfter = 0 then s else s.writeBackAll c 3
      (s.mayFill c n block = false → exec (.instructionBufferFill c n block) s = .next s) ∧
      (s.mayFill c n block = true →
        (∀ e f, s.walk k.ctx k.kobj p.1 = .ok e → s.walk k.ctx k.kobj (p.1 + (p.2 - 1)) = .ok f →
          (u.poisoned c 4 (u.blockPlaces c n block) = none → exec (.instructionBufferFill c n block) s = .next (u.modStream c n fun t =>
            { t with ibuf := putWords t.ibuf (16 * block) (u.blockWords c n block), blocks := t.blocks ||| BitVec.ofNat 64 (2 ^ block),
                     fillAfter := 0 })) ∧
          (∀ q, u.poisoned c 4 (u.blockPlaces c n block) = some q →
            exec (.instructionBufferFill c n block) s = .next (u.takeFault c (some n) 9 (poisonInfo q) false))) ∧
        (s.walk k.ctx k.kobj p.1 = .error .migrating → ∃ t, exec (.instructionBufferFill c n block) s = .next t ∧ t.cores = s.cores ∧
          .fill c n block ∈ t.stalls) ∧
        (∀ page, s.walk k.ctx k.kobj p.1 = .error (.absent page) →
          exec (.instructionBufferFill c n block) s = .next (s.takeFault c (some n) 4 (absentInfo k.kobj page false) false))))

/-- TT_COMMIT sets its result, and NEXT where it is 0 (R351); a swap makes NEXT ACTIVE once every core of the form is spare (R352). A
waiting core takes the descriptor that R359 chooses. A restore binds its task, and a save leaves its core without one and its record behind
(R475, R484); each takes its turn at its die's context engine (R354), and stalls while a page of its image migrates (R430, log 132). That the saved task's record stands in `side`, beside the image in
the save area, is the model's choice (log 21), as is that a commit judges and writes its staged records as they stand (log 120). -/
def Obligations.TimetableSaveAndRestoreHappenings : Prop :=
  ∀ (s : State), s.broken = none →
    (s.commitCode ≠ 0 → exec .ttCommit s = .next { s with ttResult := BitVec.ofNat 3 s.commitCode }) ∧
    (s.commitCode = 0 → ∃ t, exec .ttCommit s = .next t ∧ t.ttResult = 0 ∧
      (t.form s.ttSel.toNat).next = [0, 1, 2, 3].map fun i => (i, s.staged i)) ∧
    (∀ f, let cores := [0, 1, 2, 3].map fun i => s.core (4 * f + i)
      ((∃ x ∈ cores, x.spare = false) → exec (.formSwap f) s = .next s) ∧
      ((s.form f).next ≠ [] → s.powered = true → (∀ x ∈ cores, x.spare = true) →
        ∃ t, exec (.formSwap f) s = .next t ∧ (t.form f).active = (s.form f).next ∧ (t.form f).next = [])) ∧
    (∀ c, ((s.core c).tt ≠ .popwait → exec (.dieQueuePop c) s = .next s) ∧
      (∀ d, (s.core c).tt = .popwait → s.popChoice c = some d →
        ∃ t, exec (.dieQueuePop c) s = .next t ∧ (t.core c).tt = .restore ∧
          (t.core c).task.map (fun k => (k.index, k.lid, k.spec)) = some (chIndex d.desc, chLid d.desc, d.spec) ∧
          (t.die (dieOf c)).queue = (s.die (dieOf c)).queue.erase d)) ∧
    (∀ c, (s.engineHead (dieOf c) ≠ some (c, false) → exec (.contextRestore c) s = .next s) ∧
      (∀ k, (s.core c).tt = .restore → s.engineHead (dieOf c) = some (c, false) → (s.form (formOf c)).season = .summer →
        (s.core c).task = some k → k.saved = none → s.imageMigrates k = false →
        ∃ t, exec (.contextRestore c) s = .next t ∧ (t.core c).tt = .run ∧ (t.core c).task = some k ∧
          (t.sh c).budget = s.wdbOf c k.lid ∧ (t.sh c).countK = 0) ∧
      (∀ k, (s.core c).tt = .restore → s.engineHead (dieOf c) = some (c, false) → (s.form (formOf c)).season = .summer →
        (s.core c).task = some k → s.imageMigrates k = true →
        ∃ t, exec (.contextRestore c) s = .next t ∧ t.cores = s.cores ∧ .image c ∈ t.stalls)) ∧
    (∀ c, let moves := (imageParts (s.core c)).any fun p =>
        s.migrates (s.task c).ctx (s.saveObj (s.task c).ctx) (slotAt (s.core c).saveSlot + p.1) p.2
      (s.engineHead (dieOf c) ≠ some (c, true) → exec (.contextSave c) s = .next s) ∧
      ((s.core c).tt = .save → s.drained c = true → s.engineHead (dieOf c) = some (c, true) → moves = true →
        ∃ t, exec (.contextSave c) s = .next t ∧ t.cores = s.cores ∧ .image c ∈ t.stalls) ∧
      ((s.core c).tt = .save → s.drained c = true → s.engineHead (dieOf c) = some (c, true) → ((s.clearCache c).core c).task ≠ none →
        moves = false → (s.saveTask c).broken = none →
        ∃ t, exec (.contextSave c) s = .next t ∧ (t.core c).task = none ∧
          t.side.any (fun r => r.isOf (s.task c).ctx (s.task c).lid (s.task c).gen (s.task c).index) = true))

/-- The registrar takes a function's next packet (R342, R346); a tail too far ahead is brought within SLOTS and marked. The oldest overflow
descriptor goes on chip above the reserve (R360). The watchdog's expiry is a fault of the core (R366); a missed deadline is marked and
notified once (R369). That a missed deadline is notified on vector 2 (log 51), and that the overflow of a context drains to the die
whose SPAWN put the descriptor there (log 13), are the model's choices. -/
def Obligations.InboxOverflowWatchdogAndDeadlineHappenings : Prop :=
  ∀ (s : State), s.broken = none →
    (∀ fn, let f := s.fn fn
      ((f.slots = 0 ∨ f.head = f.tail ∨ f.flrBusy = true) → exec (.launchPacketEntry fn) s = .next s) ∧
      (f.slots ≠ 0 → f.head ≠ f.tail → f.flrBusy = false →
        let p := rdBytes s.host (f.inboxBase.toNat / 64 * 64 + 64 * (f.head.toNat % f.slots)) 64
        s.loaderCode fn none p = 0 →
        (s.roomFor p = false → exec (.launchPacketEntry fn) s = .next s) ∧
        (s.roomFor p = true → taskCount (s.kLevels p) ≠ 0 →
          ∃ t, exec (.launchPacketEntry fn) s = .next t ∧ (t.fn fn).head = f.head + 1 ∧
            (t.launch (s.freeEntries.headD 0)).active = true ∧ (t.launch (s.freeEntries.headD 0)).packet = p)) ∧
      (∀ tail : BitVec 16, f.slots ≠ 0 → f.flrBusy = false → ∃ t, exec (.inboxTail fn tail) s = .next t ∧
        ((tail - f.head).toNat ≤ f.slots → (t.fn fn).tail = tail ∧ (t.fn fn).lnchErr = f.lnchErr) ∧
        (f.slots < (tail - f.head).toNat →
          (t.fn fn).tail = f.head + BitVec.ofNat 16 ((tail - f.head).toNat % f.slots) ∧ (t.fn fn).lnchErr = true))) ∧
    (∀ die ctx, let used := (s.die die).queue.length + (s.die die).freed
      (4096 ≤ used + 256 → exec (.overflowDrain die ctx) s = .next s) ∧
      (∀ d rest desc more, used + 256 < 4096 → (s.ctx ctx).ovfDies = d :: rest → s.ovfAll ctx = desc :: more →
        (d ≠ die → exec (.overflowDrain die ctx) s = .next s) ∧
        (d = die → (s.drainOverflow die ctx).broken = none → ∃ t, exec (.overflowDrain die ctx) s = .next t ∧
          (t.die die).queue = (s.die die).queue ++ [Child.ofDesc desc] ∧ (t.ctx ctx).ovfDies = rest))) ∧
    (∀ c, let x := s.sh c
      (x.budget ≠ 0 → x.budget = x.countK → x.subCount = 0 → (s.core c).tt = .run →
        exec (.watchdogExpiry c) s = .next (s.takeFault c none 8 (x.budget.setWidth 64) true)) ∧
      ((x.budget = 0 ∨ x.budget ≠ x.countK ∨ x.subCount ≠ 0) → exec (.watchdogExpiry c) s = .next s)) ∧
    (∀ lid, let l := s.launch lid
      (l.miss = true → exec (.deadlineMiss lid) s = .next s) ∧
      (l.active = true → l.dln ≠ 0 → l.elapsed = l.dln → 0 < l.remain → l.miss = false →
        ∃ t, exec (.deadlineMiss lid) s = .next t ∧ (t.launch lid).miss = true ∧ (t.fn l.fn).msix.getLsbD 2 = true))

/-- URG_FORMS bits read as written once their forms are awake (R389). A SEASON_REQ is ignored while one is pending, refused where it is
malformed or its form is urgent, and else pending until each of its units has reached its season once (R386, R387). Engines that are empty
and idle enter WINTER at a request; a ramp takes its unit through SPRING to SUMMER (R385, R388). That a pending request for WINTER or
MIDWINTER ends with code 2 once its form is urgent, and that each unit of a request need reach its season once, are the model's choices
(log 52). -/
def Obligations.SeasonHappenings : Prop :=
  ∀ (s : State), s.broken = none →
    (∀ mask : BitVec 32, ∃ t, exec (.urgForms mask) s = .next t ∧ ∀ f, f < 32 →
      t.urgForms.getLsbD f = (mask.getLsbD f && (s.urgForms.getLsbD f || s.formAwake f))) ∧
    (∀ (c : Nat) (v : Word), let x := s.core c
      let pending := s.modCore c fun x => { x with seasonReq := v, seasonRes := 8, seasonLeft := srUnits v }
      c < 128 →
      (x.seasonRes.getLsbD 3 = true → exec (.seasonReqSummer c v) s = .next s ∧ exec (.seasonReqWinter c v) s = .next s ∧
        exec (.seasonReqMidwinter c v) s = .next s) ∧
      (x.seasonRes.getLsbD 3 = false → srBad v = true → exec (.seasonReqSummer c v) s = .next (s.modCore c fun x => { x with seasonRes := 1 }) ∧
        exec (.seasonReqWinter c v) s = .next (s.modCore c fun x => { x with seasonRes := 1 }) ∧
        exec (.seasonReqMidwinter c v) s = .next (s.modCore c fun x => { x with seasonRes := 1 })) ∧
      (x.seasonRes.getLsbD 3 = false → srBad v = false → srTarget v ≠ 0 → s.urgForms.getLsbD (formOf c) = true →
        exec (.seasonReqWinter c v) s = .next (s.modCore c fun x => { x with seasonRes := 2 })) ∧
      (x.seasonRes.getLsbD 3 = false → srBad v = false → s.urgForms.getLsbD (formOf c) = false →
        (srTarget v = 2 → exec (.seasonReqWinter c v) s = .next (pending.seasonSettle c)) ∧
        (srTarget v = 3 → exec (.seasonReqMidwinter c v) s = .next (([0, 1, 2, 3].foldl
          (fun (u : State) i => u.modCore (4 * formOf c + i) Core.request) pending).seasonSettle c)) ∧
        (srTarget v = 0 → srForm v = true → (s.form (formOf c)).season ≠ .summer →
          exec (.seasonReqSummer c v) s = .next ((pending.askRamp
            { core := 4 * formOf c, form := true, units := 8 }).seasonSettle c))) ∧
      (let left := s.seasonLack c x.seasonReq x.seasonLeft;
        (x.seasonRes.getLsbD 3 = true → left = 0 → ((s.seasonSettle c).core c).seasonRes = 0) ∧
        (x.seasonRes.getLsbD 3 = true → left ≠ 0 → ((s.seasonSettle c).core c).seasonRes = x.seasonRes ∧
          ((s.seasonSettle c).core c).seasonLeft = left) ∧
        ∀ n, n < 7 → left.getLsbD n = true → x.seasonLeft.getLsbD n = true)) ∧
    (∀ c, let x := s.core c
      (x.seasonRes.getLsbD 3 = false → exec (.seasonEntry c) s = .next s) ∧
      let urgent := s.urgForms.getLsbD (formOf c) || s.urgWanted.getLsbD (formOf c)
      (x.seasonRes.getLsbD 3 = true → srTarget x.seasonReq ≠ 0 → urgent = true →
        exec (.seasonEntry c) s = .next (s.modCore c fun x => { x with seasonRes := 2 })) ∧
      (x.seasonRes.getLsbD 3 = true → srTarget x.seasonReq = 2 → srForm x.seasonReq = false → urgent = false →
        ∃ t, exec (.seasonEntry c) s = .next t ∧ ∀ e ∈ srEngines x.seasonReq, let g := x.sh.engine e
          (g.season = .summer ∨ g.season = .autumn) → g.queue = [] → g.run = none → g.wake = 0 →
          ((t.sh c).engine e).season = .winter)) ∧
    (∀ die, ((s.die die).nextRamp = none → exec (.springRampStart die) s = .next s) ∧
      (∀ r, (s.die die).nextRamp = some r → ∃ t, exec (.springRampStart die) s = .next t ∧
        (r.form = true → (t.form (formOf r.core)).season = .spring) ∧
        (r.form = false → ((t.sh r.core).engine r.eng).season = .spring)) ∧
      ((∀ r ∈ (s.die die).ramps, r.running = false ∨ r.ticks ≠ 0) → exec (.springRampDone die) s = .next s) ∧
      (∀ r, (s.die die).ramps.find? (fun r => r.running && r.ticks == 0) = some r →
        ∃ t, exec (.springRampDone die) s = .next t ∧
          (r.form = true → (t.form (formOf r.core)).season = .summer) ∧
          (r.form = false → ((t.sh r.core).engine r.eng).season = .summer) ∧
          (t.die die).ramps = (s.die die).ramps.filter fun x => !(x.same r)))

/-- A tick's currents give FORM_IMB, and THR rises by one as ACTION says and where the greatest deviation reaches 1 A (R377 to R380); after
sixteen calm ticks with no thermal step owed THR falls by one (R383). A form's currents are a reading until the tick has ended, which is
the model's choice (log 50), as are truncated deviations (log 49), the most urgent class of a form's records as its class (log 91), the
power of a die (log 117), a release notice's byte 0 (log 20), and vector 3 as the keeper's (log 51). Where a die's power is over its
allowance, CEIL of a form of the least urgent class falls by one, once in a window; where the power has stayed below the allowance for 1,024 ticks,
CEIL of a form of the most urgent class that stands below 48 rises by one (R390); a trip holds THERM_ALLOW at 500 and notifies
every trained port until its release, and again every 2,500 ticks (R391). A peer's notice sets a ceiling until its release, or until 25,000
ticks have passed (R392). A memory temperature is kept in its channel's byte (R393). -/
def Obligations.ImbalanceHeatAndPeerCeilings : Prop :=
  ∀ (s : State), s.broken = none →
    (∀ (form : Nat) (work filler : List Nat) (full : BitVec 4), form < 32 → let f := s.form form
      let tot := (List.range 4).map fun i => work.getD i 0 + filler.getD i 0
      let mean : Nat := tot.foldl (· + ·) 0 / 4
      let devs : List Int := tot.map fun (x : Nat) => ((x : Int) - (mean : Int)).tdiv 10
      let step := 100 ≤ peakOf devs ∨ (f.lim ≤ peakOf devs ∧ (f.action = 1 ∨ (f.action = 2 ∧ f.hot = true ∧ f.full = true)))
      let calm := if 2 * peakOf devs < f.lim then f.calm + 1 else 0
      let relaxes := 16 ≤ calm ∧ (s.die (dieOf (4 * form))).excess = false
      (f.ticked = false → exec (.formImbalanceTick form work (filler, full)) s =
        .next (s.modForm form fun f => { f with reading := some (work, filler, full) })) ∧
      (f.ticked = true → ∃ t, exec (.formImbalanceTick form work (filler, full)) s = .next t ∧ (t.form form).imb = imbWord mean devs ∧
        (t.form form).calm = calm ∧ (t.form form).ticked = false ∧
        (t.form form).thr = min 48 (f.thr + (if step then 1 else 0)) - (if relaxes then 1 else 0))) ∧
    (∀ form, let f := s.form form
      f.relaxed = false → 16 ≤ f.calm → (s.die (dieOf (4 * form))).excess = false → exec (.throttleRelax form) s = .next (s.modForm form fun f =>
        { f with thr := f.thr - 1, relaxed := true })) ∧
    (∀ die f0, let d := s.die die
      ((d.moved = true ∨ d.excess = false) → exec (.thermalCeilingStep die false) s = .next s) ∧
      (die < 2 → d.moved = false → d.excess = true → 16 * die ≤ f0 → f0 < 16 * die + 16 → 0 < s.ceil f0 →
      ∃ f t, exec (.thermalCeilingStep die false) s = .next t ∧ (t.form f).ceil + 1 = s.ceil f ∧ (t.die die).moved = true ∧
        16 * die ≤ f ∧ f < 16 * die + 16 ∧ (∀ g, g ≠ f → t.form g = s.form g) ∧
        ∀ g, 16 * die ≤ g → g < 16 * die + 16 → 0 < s.ceil g → (s.form g).prio ≤ (s.form f).prio) ∧
      ((d.moved = true ∨ d.cool < 1024) → exec (.thermalCeilingStep die true) s = .next s) ∧
      (die < 2 → d.moved = false → 1024 ≤ d.cool → 16 * die ≤ f0 → f0 < 16 * die + 16 → (s.form f0).ceil < 48 →
      ∃ f t, exec (.thermalCeilingStep die true) s = .next t ∧ (t.form f).ceil = (s.form f).ceil + 1 ∧ (t.die die).moved = true ∧
        16 * die ≤ f ∧ f < 16 * die + 16 ∧ (s.form f).ceil < 48 ∧ (∀ g, g ≠ f → t.form g = s.form g) ∧
        ∀ g, 16 * die ≤ g → g < 16 * die + 16 → (s.form g).ceil < 48 → (s.form f).prio ≤ (s.form g).prio)) ∧
    (∀ die, let d := s.die die
      (die < 2 → d.trip = false → ∃ t, exec (.thermalTrip die) s = .next t ∧ (t.die die).thermAllow = 500 ∧ (t.die die).trip = true ∧
        (t.fn 0).msix.getLsbD 3 = true ∧ t.sent.length = s.sent.length + s.peers.length) ∧
      (d.trip = true → ∃ t, exec (.thermalTripRelease die) s = .next t ∧ (t.die die).trip = false ∧
        t.sent = s.sent ++ s.peers.map fun p => (p.1, [0])) ∧
      ((d.trip = false ∨ d.tripTicks < 2500) → exec (.slowDownNoticeRepeat die) s = .next s) ∧
      (d.trip = true → 2500 ≤ d.tripTicks → ∃ t, exec (.slowDownNoticeRepeat die) s = .next t ∧ (t.die die).tripTicks = 0 ∧
        t.sent.length = s.sent.length + s.peers.length)) ∧
    (∀ (port : Nat) (code : BitVec 6),
      (s.peers.any (fun p => p.1 == port) = true →
        exec (.slowDownNotice port code) s = .next { s with peerCeil := tabPut s.peerCeil port (code.toNat, 0) }) ∧
      (s.peers.any (fun p => p.1 == port) = false → exec (.slowDownNotice port code) s = .next s) ∧
      exec (.releaseNotice port) s = .next { s with peerCeil := tabDel s.peerCeil port } ∧
      (s.peerCeil.any (fun p => p.1 == port && 25000 ≤ p.2.2) = true →
        exec (.peerCeilingExpiry port) s = .next { s with peerCeil := tabDel s.peerCeil port }) ∧
      (s.peerCeil.any (fun p => p.1 == port && 25000 ≤ p.2.2) = false → exec (.peerCeilingExpiry port) s = .next s)) ∧
    (∀ ch temp, ch < 16 → ∃ t, exec (.memTempRead ch temp) s = .next t ∧ slice t.memTherm.toNat (8 * ch) 7 = min 127 temp ∧
      (85 < temp → t.memTherm.getLsbD (8 * ch + 7) = true) ∧
      (temp ≤ 85 → s.memTherm.getLsbD (8 * ch + 7) = false → t.memTherm.getLsbD (8 * ch + 7) = false) ∧
      ∀ k, k < 128 → (k < 8 * ch ∨ 8 * ch + 8 ≤ k) → t.memTherm.getLsbD k = s.memTherm.getLsbD k)

/-- A table command is ignored while one of its function runs, fails with the code of its check, or waits for the acknowledgements of all
130 receivers; DIRTY clears its bitmap at once (R427 to R429). An acknowledgement of a receiver that can give it purges what it holds of
the page, and after the last one a migration copies it and tries again what has stalled, in the order in which it stalled: an access is
performed as far as it may be (R430). What takes a place in that order beside accesses is the model's reading (log 132). -/
def Obligations.TableCommandsAndShootDowns : Prop :=
  ∀ (s : State), s.broken = none →
    (∀ (fn : Nat) (v : Word),
      let o : OtCmd := { fn, op := slice v.toNat 60 4, ctx := slice v.toNat 56 4, obj := slice v.toNat 32 24, page := slice v.toNat 0 20,
                         waits := none, arg := (s.fn fn).otArg }
      ((s.fn fn).otBusy = true → exec (.otCmdInval fn v) s = .next s ∧ exec (.otCmdMigrate fn v) s = .next s ∧
        exec (.otCmdDirty fn v) s = .next s) ∧
      ((s.fn fn).otBusy = false → fn < 5 → s.otQueue = [] →
        (s.otCheck o ≠ 0 → ∃ t, exec (.otCmdInval fn v) s = .next t ∧ t.otQueue = [] ∧ (t.fn fn).otBusy = false ∧
          (t.fn fn).otCode = BitVec.ofNat 2 (s.otCheck o)) ∧
        (s.otCheck o = 0 → s.patience = 0 → (∀ r, s.ackAtOnce r = false) →
          (o.op = 0 → ∃ t, exec (.otCmdInval fn v) s = .next t ∧ (t.fn fn).otBusy = true ∧
            t.otQueue = [{ o with waits := some (List.range 130) }]) ∧
          (o.op = 1 → ∃ t, exec (.otCmdMigrate fn v) s = .next t ∧ (t.fn fn).otBusy = true ∧
            t.otQueue = [{ o with waits := some (List.range 130) }])) ∧
        (s.otCheck o = 0 → o.op = 2 → ∀ d, s.descr o.ctx o.obj = some d → ∃ t, exec (.otCmdDirty fn v) s = .next t ∧
          (t.fn fn).otBusy = false ∧ (t.fn fn).otCode = 0 ∧ t.otQueue = [] ∧
          ∀ i, i < 512 → tabGet false t.dirtyUnits (s.pageEntry d o.page / 2 ^ 21 * 512 + i) = false))) ∧
    (∀ (r : Nat) (o : OtCmd) (rest : List OtCmd) (w : List Nat), s.otQueue = o :: rest → o.waits = some w →
      ((r ∉ w ∨ s.canAck o r = false) → exec (.shootDownAck r) s = .next s) ∧
      (r ∈ w → s.canAck o r = true → w.erase r ≠ [] →
        exec (.shootDownAck r) s = .next { s.purge o r with otQueue := { o with waits := some (w.erase r) } :: rest }) ∧
      (r ∈ w → s.canAck o r = true → w.erase r = [] → o.op = 1 → ∃ t, exec (.shootDownAck r) s = .next t ∧
        Instr.migrationCopy ∈ t.due)) ∧
    (∀ o : OtCmd, s.otQueue = [o] → o.op = 1 → o.waits = some [] → let moved := s.movePage o
      let tried := moved.stalls.foldl State.serveStall { moved with stalls := [] }
      tried.broken = none → ∃ t, exec .migrationCopy s = .next t ∧ t.otQueue = [] ∧ (t.fn o.fn).otBusy = false ∧ (t.fn o.fn).otCode = 0 ∧
        t.cores = tried.cores) ∧
    (∀ c id, s.serveStall (.access c id) = s.performAcc c id) ∧
    (∀ x, ∃ t, s.noteStall x = t ∧ t.cores = s.cores ∧ t.stalls = (if x ∈ s.stalls then s.stalls else s.stalls ++ [x])) ∧
    (∀ ctx obj off bs, s.migrates ctx obj off bs.length = true → s.objWrite ctx obj off bs = s.noteStall (.write ctx obj off bs)) ∧
    (∀ (c : Nat) (o : OtCmd) (a : Access), c < 128 → a ∈ ((s.purge o c).core c).acc → o.meets (s.task c).ctx (s.pgOf o.ctx o.obj) a = false)

/-- A function-level reset stops every task of the function and frees its launches, and FLR_DONE gives the window its reset values (R439);
a device reset, or one of function 0, leaves every register at reset, and powers the array only where its record and firmware are
verified (R443, R444). The attestation report holds the two hashes, that of the record XOR the nonce, and the signature over these 96
bytes (R446). The selected source asks for a step of TIME forward at the next tick, or for a slew back (R309). That a device reset clears
device memory and keeps the host's is log 69's choice, the split of a step of TIME into `timeAhead` and `slewOwed` log 70's, and the
contents of the boot record log 125's. -/
def Obligations.ResetsAttestationAndTime : Prop :=
  ∀ (s : State),
    (∀ (ok : Bool) (r : BootRecord), ∃ t, exec (.deviceReset ok r) s = .next t ∧ t.cores = State.reset.cores ∧
      t.launches = State.reset.launches ∧ t.ctxs = State.reset.ctxs ∧ t.dev = State.reset.dev ∧ t.time = State.reset.time ∧
      t.tick = 0 ∧ t.host = s.host ∧ let verified := ok && firmwareAccepted r
      t.powered = verified ∧ t.bootErr = !verified ∧ t.boot = (if verified then r else State.reset.boot)) ∧
    (exec (.functionLevelReset 0) s = exec (.deviceReset (!s.bootErr) s.boot) s) ∧
    (s.broken = none →
      (∀ fn, 5 ≤ fn → exec (.functionLevelReset fn) s = .next s) ∧
      (∀ fn, 0 < fn → fn < 5 → s.otQueue = [] → (∀ c ∈ s.ctxsOf fn, (s.ctx c).ovfDies = []) →
        ∃ t, exec (.functionLevelReset fn) s = .next t ∧ (t.fn fn).flrBusy = true ∧
          (∀ c, c < 128 → ∀ k, (t.core c).task = some k → k.ctx ∉ s.ctxsOf fn) ∧
          (∀ l, (t.launch l).active = true → (t.launch l).ctx ∉ s.ctxsOf fn) ∧
          (∀ d, ∀ k ∈ (t.die d).queue, k.ctx ∉ s.ctxsOf fn)) ∧
      (∀ fn, ((s.fn fn).flrBusy = false → exec (.flrDone fn) s = .next s) ∧
        ((s.fn fn).flrBusy = true → ∃ t, exec (.flrDone fn) s = .next t ∧ t.fn fn = {} ∧
          ∀ c ∈ s.ctxsOf fn, (t.ctx c).otRoot = 0 ∧ (t.ctx c).otLen = 0)) ∧
      (s.attBusy = true → exec .attCmd s = .next s) ∧
      (s.attBusy = false → exec .attCmd s = .next { s with attBusy := true, attDone := false }) ∧
      (∀ k g f r v : BitVec 256,
        (s.attBusy = false → exec (.attestationReportDone k g f r v) s = .next s) ∧
        (f ++ g ++ k ≠ s.boot.digests → exec (.attestationReportDone k g f r v) s = .next s) ∧
        (s.attBusy = true → f ++ g ++ k = s.boot.digests → let signed : BitVec 768 := (f ^^^ s.attNonce) ++ g ++ k
          v ++ r = Config.attSignature signed → exec (.attestationReportDone k g f r v) s = .next { s with
            attBusy := false, attDone := true, attReport := v ++ r ++ signed })) ∧
      (∀ (host synced : Bool) (time : Word),
        (host ≠ s.hostTime → exec (.timeSyncMessage host synced time) s = .next s) ∧
        (host = s.hostTime → s.time.toNat ≤ time.toNat → exec (.timeSyncMessage host synced time) s = .next { s with
          sync := synced, timeAhead := time.toNat - s.time.toNat, slewOwed := 0 }) ∧
        (host = s.hostTime → time.toNat < s.time.toNat → exec (.timeSyncMessage host synced time) s = .next { s with
          sync := synced, timeAhead := 0, slewOwed := s.time.toNat - time.toNat })))

/-- Writes to the windows of R356 and R437: the inbox base of a function, its OT_ARG, CLK_SET, FORM_CLK's floor and THERM_ALLOW take their
fields; an array without power has no registrar's window (R443); CTX_CFG of a context with a launch does not change (R432). That a FLOOR
above 48 acts as 48 is the model's choice (log 90). -/
def Obligations.RegisterWindowWrites : Prop :=
  ∀ (s : State) (val : BitVec 128), s.broken = none → let v : Word := val.setWidth 64
    (∀ fn, fn < 5 → exec (.registerWrite (.function fn) 0 val) s = .next (s.modFn fn fun f =>
        { f with inboxBase := BitVec.ofNat 64 (v.toNat / 64 * 64) }) ∧
      exec (.registerWrite (.function fn) 0x108 val) s = .next (s.modFn fn fun f => { f with otArg := v })) ∧
    (∀ off, s.powered = false → exec (.registerWrite .registrar off val) s = .next s) ∧
    (∀ c, c < 128 → s.powered = true →
      exec (.registerWrite .registrar (0x1400 + 8 * c) val) s = .next (s.modCore c fun x => { x with clkSet := clkSetOf v })) ∧
    (∀ f, f < 32 → s.powered = true → exec (.registerWrite .registrar (0x2200 + 8 * f) val) s = .next (s.modForm f fun x =>
      { x with floor := min 48 (slice v.toNat 24 6) })) ∧
    (∀ d, d < 2 → exec (.registerWrite .keeper (0x8000 + 8 * d) val) s = .next (s.modDie d fun x =>
      { x with thermAllow := v.toNat % 1024 })) ∧
    (∀ c, c < 16 → s.ctxBusy c = true → exec (.registerWrite (.function 0) (0x20000 + 8 * c) val) s = .next s)

/-- Packets of a running camera stream: a frame start opens a frame and closes an open one, a frame end closes it with its missing rows, a
line start in sequence announces its row and reveals MISSING ones, and a row's samples enter the input; packets out of sequence count in
DROP (R302, R303, R309 to R311). A packet of no running stream, or with an uncorrectable header, has no effect. That DROP counts each
discarded line start and passes over its packet (log 59), and that a row keeps its first 8,192 samples (log 63), are the model's choices.
-/
def Obligations.CameraPackets : Prop :=
  ∀ (s : State) (port vc n : Nat), s.broken = none → port < 16 →
    (∀ ecc, (ecc = true ∨ s.streamAt port vc = none) → exec (.csi2FrameStart port ⟨vc, ecc⟩) s = .next s ∧
      exec (.csi2FrameEnd port ⟨vc, ecc⟩) s = .next s ∧ (∀ line, exec (.csi2LineStart port ⟨vc, ecc⟩ line) s = .next s) ∧
      ∀ kind crc samples, exec (.csi2LongPacket port vc kind ecc crc samples) s = .next s) ∧
    (∀ crc samples, exec (.csi2LongPacket port vc .other false crc samples) s = .next s) ∧
    (s.streamAt port vc = some n → let x := s.sensor n
      (x.opened = none → ∃ t, exec (.csi2FrameStart port ⟨vc, false⟩) s = .next t ∧
        (t.sensor n).opened = some { frame := x.frames, lastStamp := x.stamp s.time } ∧
        (t.sensor n).frames = (x.frames + 1) % 2 ^ 32 ∧ (t.sensor n).closed = x.closed) ∧
      (∀ f, x.opened = some f →
        (∃ t, exec (.csi2FrameStart port ⟨vc, false⟩) s = .next t ∧
          (t.sensor n).opened = some { frame := x.frames, lastStamp := x.stamp s.time } ∧
          (t.sensor n).frames = (x.frames + 1) % 2 ^ 32 ∧ (t.sensor n).closed = x.closed + 1 ∧
          (t.sensor n).missing = min 65535 (x.missing + (x.rpf - f.nextRow))) ∧
        (∃ t, exec (.csi2FrameEnd port ⟨vc, false⟩) s = .next t ∧ (t.sensor n).opened = none ∧ (t.sensor n).closed = x.closed + 1 ∧
          (t.sensor n).missing = min 65535 (x.missing + (x.rpf - f.nextRow))) ∧
        (∀ line, (line ≤ f.lastLine ∨ x.rpf < line) → ∃ t, exec (.csi2LineStart port ⟨vc, false⟩ line) s = .next t ∧
          (t.sensor n).drop = min 65535 (x.drop + 1) ∧ (t.sensor n).input = x.input) ∧
        (∀ line, f.lastLine < line → line ≤ x.rpf → ∃ t g, exec (.csi2LineStart port ⟨vc, false⟩ line) s = .next t ∧
          (t.sensor n).opened = some g ∧ g.announced = some (line - 1) ∧ g.lastLine = line ∧
          (t.sensor n).missing = min 65535 (x.missing + (line - 1 - f.nextRow))) ∧
        (∀ j kind samples, kind ≠ .other → f.announced = some j → j + 1 ≠ x.rpf → s.buffered port < 64 →
          let given := (csiSamples kind samples).take 8192
          (∃ t g, exec (.csi2LongPacket port vc kind false false samples) s = .next t ∧
            (t.sensor n).input = x.input ++ [{ frame := f.frame, row := j, cls := 0, stamp := x.stamp s.time, samples := given }] ∧
            (t.sensor n).opened = some g ∧ g.nextRow = j + 1) ∧
          (∃ t, exec (.csi2LongPacket port vc kind false true samples) s = .next t ∧
            (t.sensor n).input = x.input ++ [{ frame := f.frame, row := j, cls := 2, stamp := x.stamp s.time }] ∧
            (t.sensor n).corrupt = min 65535 (x.corrupt + 1)))))

/-- A lidar frame with a bad FCS, of another EtherType or for another station has no effect, and the first row of a new frame opens it
(R304); an open frame whose deadline has come closes (R311). A processor takes its next row where it is idle (R308), and a published row
moves the position past it (R312, R314). That a row beyond RPF with a new LFRAME is dropped and opens no frame (log 77), and the station
addresses of the boot record (log 116), are the model's choices. -/
def Obligations.LidarDeadlinesRowsAndPublication : Prop :=
  ∀ (s : State), s.broken = none →
    (∀ port dst ty fcs p, (fcs = true ∨ ty ≠ 0x88B5 ∨ dst ≠ s.boot.stations.getD (port - 16) 0) →
      exec (.lidarFrame port ⟨dst, ty, fcs⟩ p) s = .next s) ∧
    (∀ port n (p : List Byte), let dst := s.boot.stations.getD (port - 16) 0
      16 ≤ port → port < 24 → 16 ≤ p.length → (Config.headerCrc (p.take 14)).toNat = bytesNat p 14 2 →
      s.streamAt port 0 = some n → let x := s.sensor n
      x.lframe ≠ some (bytesNat p 0 4) → x.opened = none →
      (x.rpf < bytesNat p 4 2 + 1 → ∃ t, exec (.lidarFrame port ⟨dst, 0x88B5, false⟩ p) s = .next t ∧ (t.sensor n).drop = min 65535 (x.drop + 1) ∧
        (t.sensor n).opened = none) ∧
      (bytesNat p 4 2 + 1 < x.rpf → ∃ t f, exec (.lidarFrame port ⟨dst, 0x88B5, false⟩ p) s = .next t ∧ (t.sensor n).opened = some f ∧
        f.frame = x.frames ∧ f.lastLine = bytesNat p 4 2 + 1 ∧ (t.sensor n).lframe = some (bytesNat p 0 4))) ∧
    (∀ n, let x := s.sensor n
      ((x.deadline = 0 ∨ x.opened = none) → exec (.frameDeadline n) s = .next s) ∧
      (∀ f, x.en = true → x.deadline ≠ 0 → x.opened = some f → x.deadline ≤ f.ticks →
        ∃ t, exec (.frameDeadline n) s = .next t ∧ (t.sensor n).opened = none ∧ (t.sensor n).closed = x.closed + 1)) ∧
    (∀ l, l < 96 → ((s.lbp l).running = true → exec (.lbpRowRun l) s = .next s) ∧
      (s.lbpNext l = none → exec (.lbpRowRun l) s = .next s) ∧
      (∀ n r x, (s.lbp l).running = false → s.lbpNext l = some (n, r, x) → (s.lbp l).len ≠ 0 →
        ∃ t, exec (.lbpRowRun l) s = .next t ∧ (t.lbp l).running = true ∧ (t.lbp l).stream = n ∧ (t.lbp l).row = r.row ∧
          (t.stream (128 + l) 0).pc = 0 ∧ (t.stream (128 + l) 0).started = true ∧ (t.stream (128 + l) 0).ended = false)) ∧
    (∀ n, ((s.sensor n).out = [] → exec (.rowPublish n) s = .next s) ∧
      (∀ o rest, (s.sensor n).out = o :: rest → ∃ t, exec (.rowPublish n) s = .next t ∧ (t.sensor n).out = rest ∧
        (t.sensor n).frame = BitVec.ofNat 32 o.frame ∧ (t.sensor n).row = BitVec.ofNat 16 (o.row + 1)))

/-- Setting EN with a legal configuration sets the position to (0, 0) and withdraws the stream's offers, an illegal one leaves EN 0;
clearing EN drops what is accepted and abandons the open frame (R305, R306). SERR_CTL clears the counts. Every group is evaluated at the
end of a tick (R317). That the held offers are made before the withdrawals and the evaluation of their tick is the model's choice (log 64).
-/
def Obligations.StreamsEnableDisableAndGroupsTick : Prop :=
  ∀ (s : State), s.broken = none →
    (∀ (n : Nat) (v : BitVec 128), n < 64 → let x := s.sensor n
      (x.en = false → v.getLsbD 0 = true → scfgLegal v = true → ∃ t, exec (.scfgEnable n v) s = .next t ∧
        (t.sensor n).scfg = v ∧ (t.sensor n).ran = v ∧ (t.sensor n).frame = 0 ∧ (t.sensor n).row = 0 ∧ (t.sensor n).opened = none ∧
        (∀ k ∈ (t.sensor n).tiles, k.2.live = false) ∧
        ∀ g m, ∀ o ∈ ((t.group g).member m).offers, o.tile.stream ≠ n) ∧
      (x.en = false → v.getLsbD 0 = true → scfgLegal v = false → ∃ t, exec (.scfgEnable n v) s = .next t ∧ (t.sensor n).en = false) ∧
      (x.en = true → v.getLsbD 0 = false → ∃ t, exec (.scfgDisable n v) s = .next t ∧ (t.sensor n).en = false ∧
        (t.sensor n).opened = none ∧ (t.sensor n).input = [] ∧ (t.sensor n).out = []) ∧
      (∀ w : Word, w.getLsbD 0 = true → ∃ t, exec (.serrCtlClr n w) s = .next t ∧ (t.sensor n).serr = 0)) ∧
    (let u := s.rollPoison;
      (s.marks = [] → u = s) ∧ ∃ t, exec .rollCallTick s = .next t ∧ ∀ n, t.group n = ((u.offerHeld (s.group n)).withdraw fun x =>
        match u.ringTile x with | some k => !k.2.live | none => true).tick s.time.toNat) ∧
    (∀ (g : RollGroup) (time : Int), (g.ref = none → g.tick time = g) ∧
      (∀ m r, g.ref = some m → g.opened = some r → ((List.range 8).all fun j => (g.member j).settled r.time time) = true →
        (g.tick time).opened = g.heldRef ∧ (g.tick time).heldRef = none ∧
        (g.tick time).queue = (if 4 ≤ g.queue.length then g.queue.drop 1 else g.queue) ++
          [{ tref := r.time, entries := (List.range 8).map fun j => (g.member j).entry r.time }]))

/-- A timing error repeats a stream's next cycle, the sixteenth in succession is a soft error (R461, R463); a soft error consumed stops the
core with class 9 (R462); scrubbing only counts, or marks the word of an uncorrectable error, which a word that reads it consumes (R465,
R466). RESUME, ABANDON and ABORT act only while FF_CTL is taken: a task resumes, ends unretired and FAULTED, or is aborted with its
provisional data and returned to the registrar; of the writes of one cycle the registrar's wins (R454 to R460). The debug port halts and
resumes streams (R373, R488). That a consumed soft error is always raised after issue is log 72's choice, the coding of a scrub's find and
of its numbers log 28's, the keeper's vector at such a find log 51's, what of an aborted task the registrar is left with log 92's, and
which of several writes of the owning function in one cycle counts log 124's. -/
def Obligations.ReplaysSoftErrorsFaultControlAndDebug : Prop :=
  ∀ (c : Nat) (s : State), s.broken = none → c < 128 →
    (∀ n, n < 10 → (s.core c).tt = .run → (s.stream c n).started = true → (s.stream c n).ended = false →
      ((s.stream c n).replays < 15 → exec (.timingErrorReplay c n none) s = .next (s.modStream c n fun t =>
        { t with replay := true, replays := t.replays + 1 })) ∧
      ((s.stream c n).replays = 15 → exec (.timingErrorReplay c n none) s = .next
        ((s.modStream c n fun t => { t with replay := true, replays := 0 }).takeFault c (some n) 9 (softInfo 7 0 false) true))) ∧
    (∀ st store number commit, (s.core c).tt = .run → exec (.softErrorConsumed c st store number commit) s =
      .next (s.takeFault c st 9 (softInfo store.toNat number.toNat commit) true)) ∧
    (∀ n, n < 2 ^ 32 → exec (.keeperScrub n) s = .next { s with corrected := s.corrected + n }) ∧
    (∀ p m, markOf p = some m → exec (.keeperScrub (2 ^ 32 * p)) s =
      .next (State.keeperVector { s with marks := s.marks.filter (· ≠ m) ++ [m] })) ∧
    (∀ (t : State) (n : Nat) (i : Instr), s.curCore = c →
      (s.wordPoison (n, i) = none → t.consumed s (n, i) = t) ∧
      (s.guardHolds (n, i) = false → t.consumed s (n, i) = t) ∧
      (∀ info, s.wordPoison (n, i) = some info → s.guardHolds (n, i) = true → (t.stream c n).verdict = .issued →
        t.consumed s (n, i) = t.takeFault c (some n) 9 info true) ∧
      (∀ d cell, s.marks = [.cell d cell] → takesFrom i = [] → (∃ h gd item cn, i = .cellr h gd item cn ∧ c = d ∧ cn.toNat = cell) →
        s.wordPoison (n, i) = some (softInfo 5 cell false))) ∧
    (∀ w, (s.ctlTaken c w = false → exec (.ffCtlResume c w) s = .next s ∧ exec (.ffCtlAbandon c w) s = .next s ∧
        exec (.ffCtlAbort c w) s = .next s) ∧
      (s.ctlTaken c w = true → let k := s.task c
        exec (.ffCtlResume c w) s = .next (s.modCore c fun x => { x.resume with ctl := [] }) ∧
        (2 ≤ (s.launch k.lid).remain → k.spec = false → (s.core c).lagging = false → (∀ a ∈ (s.core c).acc, a.kind.spawns = false) →
          ∃ t, exec (.ffCtlAbandon c w) s = .next t ∧ (t.core c).task = none ∧
          (t.launch k.lid).remain + 1 = (s.launch k.lid).remain ∧ (t.launch k.lid).faulted = true ∧
          (t.launch k.lid).retired = (s.launch k.lid).retired) ∧
        ((s.core c).frame.cause.getLsbD 14 = false → exec (.ffCtlAbort c w) s = .next s) ∧
        ((s.core c).frame.cause.getLsbD 14 = true → ∃ t, exec (.ffCtlAbort c w) s = .next t ∧ (t.core c).task = none ∧
          t.prov = (s.prov.filter fun p => !(p.ident == .idem k.ctx k.lid k.gen k.index)) ∧ t.launches = s.launches ∧
          t.returned = s.returned ++ [{ ctx := k.ctx, lid := k.lid, gen := k.gen, task := k.index, info := (s.core c).frame.info }]))) ∧
    (s.powered = true → s.ctlTaken c none = true → exec (.registerWrite .registrar (0x4018 + 0x80 * c) 1) s =
      .next (s.modCore c fun x => { x with ctl := x.ctl ++ [(none, 1)] })) ∧
    (∀ (x : Core) (f v : Nat), Core.ctlChoice { x with ctl := [(some f, v), (none, 1)] } = some (none, 1) ∧
      Core.ctlChoice { x with ctl := [(some f, v), (some f, 1)] } = some (some f, v)) ∧
    (∀ n, n < 10 →
      (((s.core c).tt = .run ∨ (s.core c).tt = .faulted) → exec (.debugHaltRequest c n) s = .next (s.modCore c fun x => x.halt n)) ∧
      (((s.core c).tt = .save ∨ (s.core c).tt = .restore) → exec (.debugHaltRequest c n) s = .next (s.modCore c fun x =>
        { x with haltAsked := x.haltAsked ||| streamBit n })) ∧
      ((s.core c).snapBad ≠ [] → exec (.debugResume c n) s = .next s) ∧
      ((s.core c).snapBad = [] → ∃ t, exec (.debugResume c n) s = .next t ∧ (t.stream c n).halted = false))

/-- The first fault of a running core: the frame takes class, VALID, AFTER and IDEM, the reporting stream and FF_INFO, and the core stops;
a fault of better rank in that cycle takes the frame, and an after-issue fault that is not reported sets its LOST bit (R451 to R453). At
the stop FF_PC takes the word of each stream and TT_STAT reads FAULTED; streams, records and accesses stay. RESUME clears the frame, FFL
keeps it, and each stream that has not ended continues at its recorded word (R449, R455, R494). -/
def Obligations.FaultFrameStopAndResume : Prop :=
  (∀ (x : Core) (st : Option Nat) (cls : Nat) (info : Word) (after : Bool),
    let y := x.takeFault st cls info after
    let cause : Nat := cls + 2 ^ 12 + (if after then 2 ^ 13 else 0) + (if (x.task.getD {}).idem then 2 ^ 14 else 0)
    let lostAt : Nat := match st with | some n => 22 + n | none => 21
    let trapped := x.trapped || !after || cls == 10 || cls == 11
    let lost := if after then x.frame.cause ||| BitVec.ofNat 64 (2 ^ lostAt) else x.frame.cause
    let kept : Core := { x with trapped, frame := { x.frame with cause := lost } }
    let framed (c : Word) : Core := { x with trapped, stopping := true, frame := { x.frame with
      cause := c, stream := (match st with | some n => BitVec.ofNat 64 n | none => 16), info, rank := faultRank cls st } }
    (x.stopping = false → x.frame.valid = false → y = framed (BitVec.ofNat 64 cause)) ∧
    (x.stopping = false → x.frame.valid = true → y = kept) ∧
    (x.stopping = true → x.frame.rank ≤ faultRank cls st → y = kept) ∧
    (x.stopping = true → faultRank cls st < x.frame.rank → x.frame.cause.getLsbD 13 = false →
      y = framed (BitVec.ofNat 64 (cause + slice x.frame.cause.toNat 21 11 * 2 ^ 21)))) ∧
  (∀ (n m cls : Nat), cls ≠ 9 → n < m → m < 10 → faultRank 9 (some m) < faultRank cls (some n) ∧
    faultRank cls (some n) < faultRank cls (some m) ∧ faultRank cls (some m) < faultRank 8 none) ∧
  (∀ (s : State) (c : Nat) (st : Option Nat) (cls : Nat) (info : Word), c < 128 →
    ((s.takeFault c st cls info true).core c = (s.core c).takeFault st cls info true) ∧
    (∀ n, ((s.takeFault c (some n) cls info false).stream c n) = { s.stream c n with verdict := .faulted })) ∧
  (∀ (s : State) (c : Nat), let x := s.core c; let y := (s.stopCore c).core c
    y.tt = .faulted ∧ y.stopping = false ∧ y.streams = x.streams ∧ y.sh = x.sh ∧ y.acc = x.acc ∧ y.flight = x.flight ∧
    y.frame.cause = x.frame.cause ∧ y.frame.stream = x.frame.stream ∧ y.frame.info = x.frame.info ∧
    ∀ p ∈ x.streams, p.2.pc ≠ 0 → (p.1, p.2.pc % 1024) ∈ y.frame.pcs) ∧
  (∀ (x : Core), let y := x.resume
    y.tt = .run ∧ y.frame = {} ∧ y.ffl = { x.frame with pcs := [] } ∧ y.flight = x.flight ∧
    y.sh = { x.sh with engines := x.sh.engines.map fun g => (g.1, { g.2 with run := g.2.run.map fun r => { r with failed := false } }) } ∧
    y.acc = x.acc.map (fun a => { a with held := false, translated := a.translated && !a.held }) ∧
    ∀ n, y.stream n = if n < 10 ∧ (x.stream n).ended = false
      then { x.stream n with pc := tabGet 0 x.frame.pcs n, idleLoaded := false, verdict := .none } else x.stream n)

/-- A destination names one register: a rotating name the register that its base selects, K63 and ZERO none; K63 and ONES read all ones,
ZERO reads 0. A result writes its register and no other, which is poisoned no longer (R466), its latch, and its flags into STATUS; an
enabled flag raises class 7 (R110), but for flags that land after their task has retired, which is the model's choice (log 146). -/
def Obligations.ResultsLandInTheirDestinations : Prop :=
  (∀ (t : Stream) (p : Port) (id : Nat),
    (∀ n, Encoding.view p = .v n → destOf t p id = .v (if 256 ≤ n then 256 + (n - 256 + t.rrbV) % 128 else n)) ∧
    (∀ n, Encoding.view p = .k n → n ≠ 63 → destOf t p id = .k (if 32 ≤ n ∧ n ≤ 62 then 32 + (n - 32 + t.rrbK) % 31 else n)) ∧
    (∀ n, Encoding.view p = .g n → destOf t p id = .g n) ∧ (∀ n, Encoding.view p = .c n → destOf t p id = .c n) ∧
    (∀ n, Encoding.view p = .q n → destOf t p id = .q n id) ∧
    (Encoding.view p = .k 63 → destOf t p id = .none ∧ t.readK 63 = BitVec.allOnes 32) ∧
    (∀ n, n < 4 → Encoding.view p = .special (0x2C4 + n) → destOf t p id = .lc n)) ∧
  (∀ (t : Stream) (s : State) (c st id : Nat), destOf t 0x2C0 id = .none ∧ portValue s c st 0x2C0 = 0 ∧
    portValue s c st 0x2C1 = (BitVec.allOnes 64).setWidth 256) ∧
  (∀ (t : Stream) (d : Dest) (val : BitVec 1024) (tag : Bool), let u := t.write d val tag
    let part (i : Nat) : Vec := (val >>> (256 * i)).setWidth 256
    (∀ n, tabGet 0 u.g n = if d = .g n then val.setWidth 64 else tabGet 0 t.g n) ∧
    (∀ n, tabGet 0 u.k n = if d = .k n then val.setWidth 32 else tabGet 0 t.k n) ∧
    (∀ n, tabGet 0 u.lc n = if d = .lc n then val.setWidth 32 else tabGet 0 t.lc n) ∧
    (∀ n, tabGet {} u.c n = if d = .c n then ⟨val.setWidth 128, tag⟩ else tabGet {} t.c n) ∧
    (u.link = if d = .link then val.setWidth 256 else t.link) ∧
    (∀ n, n < 384 → tabGet 0 u.v n = match d with
      | .v m => if n = m then val.setWidth 256 else tabGet 0 t.v n
      | .line a b e f => if n = f then part 3 else if n = e then part 2 else if n = b then part 1 else if n = a then part 0 else tabGet 0 t.v n
      | _ => tabGet 0 t.v n) ∧
    u = { t with g := u.g, k := u.k, lc := u.lc, c := u.c, link := u.link, v := u.v }) ∧
  (∀ (s : State) (c : Nat) (f : Flight), c < 128 → let t := s.stream c f.stream; let x := s.landFlight c f; let u := x.stream c f.stream
    (∀ n, f.dest = .g n → tabGet 0 u.g n = f.val.setWidth 64) ∧ (∀ n, f.dest = .v n → tabGet 0 u.v n = f.val.setWidth 256) ∧
    (∀ n, f.dest = .c n → tabGet {} u.c n = ⟨f.val.setWidth 128, f.tag⟩) ∧
    (∀ n, tabGet 0 u.latch n = if n = f.unit ∧ n < 9 then f.val.setWidth 256 else tabGet 0 t.latch n) ∧
    u.status = t.status ||| f.flags.setWidth 32 ∧ (∀ m, m ≠ f.stream → x.stream c m = s.stream c m) ∧
    (∀ n id, f.dest = .q n id → (x.sh c).queue n = ((s.sh c).queue n).fill id (f.val.setWidth 256)) ∧
    x.dev = s.dev ∧ x.host = s.host ∧ (∀ m ∈ x.marks, m ∈ s.marks) ∧ (∀ n, f.dest = .v n → Mark.vreg c f.stream n ∉ x.marks) ∧
    ((s.core c).stopping = false → (s.core c).frame.valid = false →
      (enabledFlags t.status f.flags = 0 ∨ (s.core c).task = none → (x.core c).stopping = false) ∧
      (enabledFlags t.status f.flags ≠ 0 → (s.core c).task.isSome = true → (x.core c).stopping = true ∧
        (x.core c).frame.info = f.flags.setWidth 64 ∧
        slice (x.core c).frame.cause.toNat 0 8 = 7))) ∧
  (∀ (s : State) (c : Nat), c < 128 → (s.core c).tt ≠ .save →
    ((∀ f ∈ (s.core c).flight, 2 ≤ f.left) → ((s.land c).core c).flight = (s.core c).flight.map (fun f => { f with left := f.left - 1 })) ∧
    (∀ f, (s.core c).flight = [f] → f.left = 1 →
      s.land c = (s.modCore c fun x => { x with flight := [] }).landFlight c { f with left := 0 }) ∧
    (∀ f g n, (s.core c).flight = [f, g] → f.left = 1 → g.left = 1 → f.id < g.id → f.stream = g.stream → f.dest = .g n → g.dest = .g n →
      tabGet 0 ((s.land c).stream c g.stream).g n = g.val.setWidth 64))

/-- A happening that is due runs first, then, between the cycles of two units, one from outside whose wait is over (the model's two lists,
log 3 and 4). At a stream that may issue alone, the word at its pc counts its IDLE down; once that is 0, the step is exec of the
instruction that the word decodes to, with a soft error where it has consumed poison, and the cursor goes on. -/
def Obligations.StepRunsTheDecodedWord : Prop :=
  (∀ (s : State) (i : Instr) (rest : List Instr), s.due = i :: rest → step s = exec i { s with due := rest }) ∧
  (∀ (s : State) (i : Instr) (rest : List (Nat × Instr)), s.due = [] → s.outside = (0, i) :: rest →
    (s.phase = .prepare → step s = exec i { s with outside := rest }) ∧ (s.phase ≠ .prepare → step s = s.cursorStep)) ∧
  (∀ (s : State) (i : Instr) (k : Nat) (rest : List (Nat × Instr)), s.due = [] → s.outside = (k + 1, i) :: rest →
    step s = State.cursorStep { s with outside := (k, i) :: rest }) ∧
  (∀ (s : State) (n : Nat) (w : Word), s.due = [] → s.outside = [] → s.phase = .stream n →
    let t := s.stream s.curCore n
    (n < 4 → (s.core s.curCore).pass.getLsbD n = false) → s.runs s.curCore n = true → t.verdict = .none → t.replay = false →
    (4 ≤ n ∨ t.group = 0) → s.nextWord s.curCore n = some w →
    let idle := if t.idleLoaded then t.idle else slice w.toNat 54 10
    (0 < idle → step s = answer (s.modStream s.curCore n fun u =>
      { u with idle := idle - 1, idleLoaded := true, verdict := .idle }).advance) ∧
    (∀ i, decode w = .ok i → t.idleLoaded = true → t.idle = 0 →
      step s = match exec i s with
        | .next u => answer ({ u.consumed s (n, i) with phase := s.phase } : State).advance
        | .fault f => .fault f
        | .refused r => .refused r) ∧
    (∀ i, decode w = .ok i → t.idleLoaded = false → slice w.toNat 54 10 = 0 →
      let v := s.modStream s.curCore n fun u => { u with idle := 0, idleLoaded := true }
      step s = match exec i v with
        | .next u => answer ({ u.consumed v (n, i) with phase := s.phase } : State).advance
        | .fault f => .fault f
        | .refused r => .refused r)) ∧
  (∀ (s : State) (n : Nat), s.due = [] → s.outside = [] → s.phase = .stream n →
    (n < 4 → (s.core s.curCore).pass.getLsbD n = false) → (s.runs s.curCore n = false ∨ s.verdictOf n ≠ .none) →
    step s = answer s.advance)

/-- Words written out from the encodings of the spec decode to the instructions they stand for. -/
def Obligations.WordsDecodeToTheirInstructions : Prop :=
  instrOf 0x00000FC000000000 = .nop ⟨0, 0, 0, 63⟩ ∧
  instrOf 0x00A4024028073071 = .vadd ⟨2, 1, 0, 9⟩ 5 7 0x183 0x11 ∧
  instrOf 0x00120FCC20CC2B5B = .ld ⟨0, 0, 0, 63⟩ 0x184 3 0x185 3 1 3 3 ∧
  instrOf 0x00034FCC18000004 = .ldi ⟨0, 0, 0, 63⟩ 0x183 4 ∧
  instrOf 0x00084FC018015827 = .vclmul ⟨0, 0, 0, 63⟩ 3 1 0x2C1 7 ∧
  instrOf 0x0006CFC01001810B = .vcvt ⟨0, 0, 0, 63⟩ 2 1 8 0x0B ∧
  instrOf 0x000CCFCF87000000 = .mma ⟨0, 0, 0, 63⟩ 1 1 7 7 ∧
  instrOf 0x00100FC200302000 = .patch ⟨0, 0, 0, 63⟩ 4 0x181 0 ∧
  instrOf 0x0012CFCC10600B1B = .amo ⟨0, 0, 0, 63⟩ 0x182 1 1 3 0 3 3 ∧
  instrOf 0x0013CFC1C5308002 = .copy ⟨0, 0, 0, 63⟩ 3 1 5 0x184 0 2 ∧
  instrOf 0x0017CFC385306004 = .stbind ⟨0, 0, 0, 63⟩ 7 5 0x183 4 ∧
  instrOf 0x001C00C00000012A = .trap ⟨0, 0, 0, 3⟩ 0x12A ∧
  instrOf 0x00190FD780000000 = .joinCc ⟨0, 0, 0, 63⟩ 2 15

/-- The decoder reads back every well-formed instruction from its word, with every operand at every value; a word that decodes is the word
of its instruction; and every instruction but a happening has a word. -/
def Obligations.DecodeAndEncodeAgree : Prop :=
  (∀ (i : Instr) (w : Word), wellFormed i = true → encode i = some w → decode w = .ok i) ∧
  (∀ (w : Word) (i : Instr), decode w = .ok i → encode i = some w) ∧
  (∀ (i : Instr) (h : Hdr), Encoding.hdr i = some h → ∃ w, encode i = some w)

/-- Device memory, host memory, the registrar's local memory and the tags of device memory keep their canonical form: what is listed rises
strictly in address, and lists nothing that an unlisted address reads as. -/
def Obligations.MemoryKeepsItsForm : Prop :=
  ∀ (s t : State), s.dev.wf = true → s.host.wf = true → s.regMem.wf = true → tabWf false s.devTags = true → step s = .next t →
    t.dev.wf = true ∧ t.host.wf = true ∧ t.regMem.wf = true ∧ tabWf false t.devTags = true

/-- What the register tables give for reset (Access and Reset columns): STATUS, RRB, the fault frame, DBG, SEASON and SCFG are 0, so every
engine and form is in SUMMER (the values of no table are log 1's); SLEW_RESV is 8, FORM_CLK has FLOOR 0, CEIL 48 and THR 0, FORM_IMB_LIM
has ACTION 2 and LIM 40, FORM_IMB is 0; no context is bound, no function's reset runs, no launch is active, no task is bound to a core;
memory lists nothing and keeps its form. -/
def Obligations.ResetLeavesTheGivenValues : Prop :=
  let s := State.reset
  (∀ c n, let t := s.stream c n
    t.status = 0 ∧ t.rrbV = 0 ∧ t.rrbK = 0 ∧ t.blocks = 0 ∧ t.started = false ∧ ∀ r, tabGet 0 t.perf r = 0) ∧
  (∀ c, let x := s.core c
    x.task = none ∧ x.tt = .idle ∧ x.frame = {} ∧ x.ffl = {} ∧ x.dbg = 0 ∧ x.sh.budget = 0 ∧ x.sh.countK = 0 ∧
      (∀ e, (x.sh.engine e).season = .summer ∧ (x.sh.engine e).queue = [] ∧ (x.sh.compRec e) = {}) ∧ ∀ n, (x.sh.handle n).desc = 0) ∧
  (∀ d, (s.die d).slewResv = 8 ∧ (s.die d).queue = []) ∧
  (∀ f, let x := s.form f
    x.floor = 0 ∧ x.ceil = 48 ∧ x.thr = 0 ∧ x.action = 2 ∧ x.lim = 40 ∧ x.imb = 0 ∧ x.season = .summer) ∧
  (∀ k, (s.ctx k).cfg = 0 ∧ (s.ctx k).save = 0) ∧ (∀ f, (s.fn f).flrBusy = false ∧ (s.fn f).tail = 0 ∧ (s.fn f).head = 0) ∧
  (∀ l, (s.launch l).active = false) ∧ (∀ n, (s.sensor n).scfg = 0 ∧ (s.sensor n).serr = 0) ∧
  s.nrHead = 0 ∧ s.nrTail = 0 ∧ s.otQueue = [] ∧ s.dev.wf = true ∧ s.host.wf = true ∧ s.regMem.wf = true ∧
  tabWf false s.devTags = true

/-- Every word but POP, SPAWN, LAUNCH, SPEC, DECIDE and TWAIT on a launch leaves every byte and every tag of memory as it was when it
issues; the stores it sends are performed by happenings. -/
def Obligations.WordsLeaveMemoryAtTheirIssue : Prop :=
  ∀ (i : Instr) (h : Hdr) (s t : State), Encoding.hdr i = some h → publishes i = false → exec i s = .next t →
    (∀ a, rdByte t.dev a = rdByte s.dev a) ∧ (∀ a, rdByte t.host a = rdByte s.host a) ∧ t.dev = s.dev ∧ t.host = s.host ∧
      t.devTags = s.devTags

/-- Every word but DECIDE leaves at its issue every register file, link and latch of every stream, and every word but CSRW leaves every
STATUS (R81, R107, R493); it leaves the FFL registers and DBG of every core. -/
def Obligations.WordsLeaveRegistersAtTheirIssue : Prop :=
  ∀ (i : Instr) (h : Hdr) (s t : State), Encoding.hdr i = some h → decides i = false → exec i s = .next t →
    ∀ c n, (t.stream c n).files = (s.stream c n).files ∧
      (writesStatus i = false ∨ c ≠ s.curCore ∨ n ≠ s.curStream → (t.stream c n).status = (s.stream c n).status) ∧
      (t.core c).ffl = (s.core c).ffl ∧ (t.core c).fflPc = (s.core c).fflPc ∧ (t.core c).dbg = (s.core c).dbg
end

