-- ==== Sys2Proof/Laws/Decode.lean ====
section
/-! SUPPORT. Fields of packed words: a field read at its own place of a word that the encoder packs is the field that was put there. -/

namespace Sys2Proof.Laws

/-- The bits of a list of fields. -/
def widthSum : List ((w : Nat) × BitVec w) → Nat
  | [] => 0
  | x :: t => x.1 + widthSum t
/-- The field of a list that stands at bit lo, n bits wide. -/
def fieldAt : List ((w : Nat) × BitVec w) → Nat → (n : Nat) → BitVec n
  | [], _, _ => 0
  | x :: t, lo, n => if widthSum t = lo then (if h : x.1 = n then h ▸ x.2 else 0) else fieldAt t lo n
/-- Whether a list has a field at bit lo, n bits wide. -/
def hasFieldAt : List ((w : Nat) × BitVec w) → Nat → Nat → Bool
  | [], _, _ => false
  | x :: t, lo, n => if widthSum t = lo then x.1 == n else hasFieldAt t lo n
/-- Fields packed below a number leave it above their bits. -/
theorem catBits_eq (l : List ((w : Nat) × BitVec w)) : ∀ a, ∃ r, r < 2 ^ widthSum l ∧ catBits l a = a * 2 ^ widthSum l + r := by
  induction l with
  | nil => intro a; exact ⟨0, by simp [widthSum, catBits]⟩
  | cons x t ih =>
    intro a
    obtain ⟨r, hr, e⟩ := ih (appBits a x.2)
    refine ⟨x.2.toNat * 2 ^ widthSum t + r, ?_, ?_⟩
    · have := x.2.isLt
      simp only [widthSum, pow_add]
      nlinarith [Nat.pow_pos (n := widthSum t) (show 0 < 2 by decide)]
    · simp only [catBits, e, widthSum, pow_add]; simp only [appBits]; ring
/-- Reading bits where a field of a packed list stands gives the field. -/
theorem bitsAt_catBits (l : List ((w : Nat) × BitVec w)) :
    ∀ a lo n, hasFieldAt l lo n = true → bitsAt lo n (catBits l a) = fieldAt l lo n := by
  induction l with
  | nil => intro a lo n h; simp [hasFieldAt] at h
  | cons x t ih =>
    intro a lo n h
    simp only [hasFieldAt, fieldAt] at *
    split at h
    · rename_i hw
      rw [if_pos hw]
      obtain ⟨w, v⟩ := x
      obtain rfl : w = n := by simpa using h
      subst hw
      simp only [dif_pos]
      obtain ⟨r, hr, e⟩ := catBits_eq t (appBits a v)
      simp only [catBits, e, bitsAt]
      apply BitVec.eq_of_toNat_eq
      have h2 : (appBits a v * 2 ^ widthSum t + r) / 2 ^ widthSum t = appBits a v := by
        rw [Nat.mul_comm, Nat.mul_add_div (by positivity), Nat.div_eq_of_lt hr]; simp
      simp only [BitVec.toNat_ofNat, h2]; simp [appBits, Nat.mod_eq_of_lt v.isLt]
    · rename_i hw
      rw [if_neg hw]
      exact ih _ _ _ h
/-- The fields of a word: its frame, its opcode, and those below GUARD. -/
def wordFields (h : Hdr) (op : BitVec 8) (fs : List ((w : Nat) × BitVec w)) : List ((w : Nat) × BitVec w) :=
  bits h.idle :: bits h.join :: bits op :: bits h.gn :: bits h.gk :: fs
/-- A field of a packed word read at its place. -/
theorem field_packWord (h : Hdr) (op : BitVec 8) (fs) (lo n : Nat) (hle : lo + n ≤ 64) (hf : hasFieldAt (wordFields h op fs) lo n = true) :
    field (packWord h op fs) lo n = fieldAt (wordFields h op fs) lo n := by
  rw [← bitsAt_catBits _ 0 lo n hf]
  unfold field packWord bitsAt wordFields
  apply BitVec.eq_of_toNat_eq
  generalize catBits _ 0 = X
  simp only [BitVec.toNat_ofNat]
  have : 2 ^ 64 = 2 ^ lo * 2 ^ (64 - lo) := by rw [← pow_add]; congr 1; omega
  rw [this, Nat.mod_mul_right_div_self, Nat.mod_mod_of_dvd]
  exact pow_dvd_pow 2 (by omega)
/-- The opcode of a packed word. -/
theorem opOf_packWord (h : Hdr) (op : BitVec 8) (fs) (hw : widthSum fs = 38) : opOf (packWord h op fs) = op := by
  unfold opOf
  rw [field_packWord _ _ _ 45 8 (by decide) (by simp [hasFieldAt, wordFields, widthSum, bits, hw])]
  simp [fieldAt, wordFields, widthSum, bits, hw]
/-- The frame of a packed word. -/
theorem hdrOf_packWord (h : Hdr) (op : BitVec 8) (fs) (hw : widthSum fs = 38) : hdrOf (packWord h op fs) = h := by
  unfold hdrOf
  rw [field_packWord _ _ _ 54 10 (by decide) (by simp [hasFieldAt, wordFields, widthSum, bits, hw]),
    field_packWord _ _ _ 53 1 (by decide) (by simp [hasFieldAt, wordFields, widthSum, bits, hw]),
    field_packWord _ _ _ 44 1 (by decide) (by simp [hasFieldAt, wordFields, widthSum, bits, hw]),
    field_packWord _ _ _ 38 6 (by decide) (by simp [hasFieldAt, wordFields, widthSum, bits, hw])]
  simp [fieldAt, wordFields, widthSum, bits, hw]
/-- A field below GUARD of a packed word. -/
theorem field_packWord_low (h : Hdr) (op : BitVec 8) (fs) (lo n : Nat) (hw : widthSum fs = 38) (hlo : lo < 38) (hle : lo + n ≤ 38)
    (hf : hasFieldAt fs lo n = true) : field (packWord h op fs) lo n = fieldAt fs lo n := by
  have e : ∀ k, 38 ≤ k → (k = lo) = False := fun k hk => by simp; omega
  rw [field_packWord _ _ _ lo n (by omega) (by simp [hasFieldAt, wordFields, widthSum, bits, hw, hf, e])]
  simp [fieldAt, wordFields, widthSum, bits, hw, e]
/-- A word of a listed opcode reads as what the reader of its opcode answers. -/
theorem readFields_of_row {w : BitVec 64} {op : Nat} {f} (ho : (opOf w).toNat = op) (hl : opcodeRows.lookup op = some f) :
    readFields w = f w := by simp only [readFields, ho, hl]

end Sys2Proof.Laws
end

