-- ==== Sys2Proof/Laws/Tab.lean ====
section
/-! SUPPORT. Sparse tables: what a read gives after a write, and that every operation on a memory keeps its canonical form. -/

namespace Sys2Proof.Machine

/-! ## Read after write -/

@[simp] theorem tabGet_nil {α : Type} (d : α) (k : Nat) : tabGet d [] k = d := rfl

theorem tabGet_del_same {α : Type} (d : α) (t : Tab α) (k : Nat) : tabGet d (tabDel t k) k = d := by
  induction t with
  | nil => rfl
  | cons p t ih =>
    obtain ⟨j, v⟩ := p
    by_cases h : j = k <;> simp [tabDel, tabGet, h, ih]

theorem tabGet_del_other {α : Type} (d : α) (t : Tab α) {k j : Nat} (h : j ≠ k) : tabGet d (tabDel t k) j = tabGet d t j := by
  induction t with
  | nil => rfl
  | cons p t ih =>
    obtain ⟨i, v⟩ := p
    by_cases hi : i = k
    · subst hi; simp [tabDel, tabGet, ih, Ne.symm h]
    · simp only [tabDel, hi, if_false, tabGet, ih]

@[simp] theorem tabGet_put_same {α : Type} (d : α) (t : Tab α) (k : Nat) (v : α) : tabGet d (tabPut t k v) k = v := by
  induction t with
  | nil => simp [tabPut, tabGet]
  | cons p t ih =>
    obtain ⟨i, w⟩ := p
    by_cases h1 : k < i
    · simp [tabPut, tabGet, h1]
    · by_cases h2 : k = i
      · simp [tabPut, tabGet, h2]
      · simp [tabPut, tabGet, h1, h2, ih, Ne.symm h2]

theorem tabGet_put_other {α : Type} (d : α) (t : Tab α) {k j : Nat} (v : α) (h : j ≠ k) :
    tabGet d (tabPut t k v) j = tabGet d t j := by
  induction t with
  | nil => simp [tabPut, tabGet, Ne.symm h]
  | cons p t ih =>
    obtain ⟨i, w⟩ := p
    by_cases h1 : k < i
    · simp [tabPut, tabGet, h1, Ne.symm h]
    · by_cases h2 : k = i
      · subst h2; simp [tabPut, tabGet, Ne.symm h]
      · simp only [tabPut, h1, h2, if_false, tabGet, ih]

@[simp] theorem tabGet_set_same {α : Type} [DecidableEq α] (d : α) (t : Tab α) (k : Nat) (v : α) :
    tabGet d (tabSet d t k v) k = v := by
  unfold tabSet
  split
  · rename_i h; rw [tabGet_del_same, h]
  · simp

theorem tabGet_set_other {α : Type} [DecidableEq α] (d : α) (t : Tab α) {k j : Nat} (v : α) (h : j ≠ k) :
    tabGet d (tabSet d t k v) j = tabGet d t j := by
  unfold tabSet
  split
  · exact tabGet_del_other d t h
  · exact tabGet_put_other d t v h

/-! ## Canonical form -/

/-- Keys strictly rising, as a relation on neighbours. -/
abbrev Rising {α : Type} (t : Tab α) : Prop := t.Pairwise fun x y => x.1 < y.1

theorem sorted_iff_rising {α : Type} (t : Tab α) : tabSorted t = true ↔ Rising t := by
  induction t with
  | nil => simp [tabSorted]
  | cons p t ih =>
    obtain ⟨j, v⟩ := p
    cases t with
    | nil => simp [tabSorted]
    | cons q t =>
      obtain ⟨k, w⟩ := q
      simp only [tabSorted, Bool.and_eq_true, decide_eq_true_eq, ih, List.pairwise_cons, List.mem_cons, forall_eq_or_imp]
      constructor
      · rintro ⟨h, h2, h3⟩
        exact ⟨⟨h, fun x hx => lt_trans h (h2 x hx)⟩, h2, h3⟩
      · rintro ⟨⟨h, -⟩, h2, h3⟩
        exact ⟨h, h2, h3⟩

theorem wf_iff {α : Type} [DecidableEq α] (d : α) (t : Tab α) :
    tabWf d t = true ↔ Rising t ∧ ∀ x ∈ t, x.2 ≠ d := by
  simp [tabWf, sorted_iff_rising, List.all_eq_true]

theorem mem_tabDel {α : Type} (t : Tab α) (k : Nat) {x : Nat × α} (h : x ∈ tabDel t k) : x ∈ t := by
  induction t with
  | nil => simp [tabDel] at h
  | cons p t ih =>
    obtain ⟨j, v⟩ := p
    by_cases hj : j = k
    · simp only [tabDel, hj, if_true] at h; exact List.mem_cons_of_mem _ (ih h)
    · simp only [tabDel, hj, if_false, List.mem_cons] at h
      rcases h with rfl | h
      · exact List.mem_cons_self
      · exact List.mem_cons_of_mem _ (ih h)

theorem rising_del {α : Type} (t : Tab α) (k : Nat) (h : Rising t) : Rising (tabDel t k) := by
  induction t with
  | nil => simp [tabDel]
  | cons p t ih =>
    obtain ⟨j, v⟩ := p
    have h1 := List.pairwise_cons.1 h
    by_cases hj : j = k
    · simpa [tabDel, hj] using ih h1.2
    · simp only [tabDel, hj, if_false]
      exact List.pairwise_cons.2 ⟨fun x hx => h1.1 x (mem_tabDel t k hx), ih h1.2⟩

theorem mem_tabPut {α : Type} (t : Tab α) (k : Nat) (v : α) {x : Nat × α} (h : x ∈ tabPut t k v) : x = (k, v) ∨ x ∈ t := by
  induction t with
  | nil => exact .inl (by simpa [tabPut] using h)
  | cons p t ih =>
    obtain ⟨j, w⟩ := p
    unfold tabPut at h
    split at h
    · simpa using h
    · split at h
      · rcases List.mem_cons.1 h with rfl | h
        · exact .inl rfl
        · exact .inr (List.mem_cons_of_mem _ h)
      · rcases List.mem_cons.1 h with rfl | h
        · exact .inr List.mem_cons_self
        · rcases ih h with rfl | h
          · exact .inl rfl
          · exact .inr (List.mem_cons_of_mem _ h)

theorem rising_put {α : Type} (t : Tab α) (k : Nat) (v : α) (h : Rising t) : Rising (tabPut t k v) := by
  induction t with
  | nil => simp [tabPut]
  | cons p t ih =>
    obtain ⟨j, w⟩ := p
    have h1 := List.pairwise_cons.1 h
    unfold tabPut
    split
    · rename_i hk
      refine List.pairwise_cons.2 ⟨?_, h⟩
      intro x hx
      rcases List.mem_cons.1 hx with rfl | hx
      · exact hk
      · exact lt_trans hk (h1.1 x hx)
    · split
      · rename_i hk; subst hk
        exact List.pairwise_cons.2 ⟨h1.1, h1.2⟩
      · rename_i hk hk'
        refine List.pairwise_cons.2 ⟨?_, ih h1.2⟩
        intro x hx
        rcases mem_tabPut t k v hx with rfl | hx
        · show j < k; omega
        · exact h1.1 x hx

theorem wf_put {α : Type} [DecidableEq α] (d : α) (t : Tab α) (k : Nat) (v : α) (hv : v ≠ d) (h : tabWf d t = true) :
    tabWf d (tabPut t k v) = true := by
  rw [wf_iff] at *
  refine ⟨rising_put t k v h.1, fun x hx => ?_⟩
  rcases mem_tabPut t k v hx with rfl | hx
  · exact hv
  · exact h.2 x hx

theorem wf_del {α : Type} [DecidableEq α] (d : α) (t : Tab α) (k : Nat) (h : tabWf d t = true) :
    tabWf d (tabDel t k) = true := by
  rw [wf_iff] at *
  exact ⟨rising_del t k h.1, fun x hx => h.2 x (mem_tabDel t k hx)⟩

theorem wf_set {α : Type} [DecidableEq α] (d : α) (t : Tab α) (k : Nat) (v : α) (h : tabWf d t = true) :
    tabWf d (tabSet d t k v) = true := by
  unfold tabSet
  split
  · exact wf_del d t k h
  · rename_i hv; exact wf_put d t k v hv h

theorem wf_filter {α : Type} [DecidableEq α] (d : α) (t : Tab α) (p : Nat × α → Bool) (h : tabWf d t = true) :
    tabWf d (t.filter p) = true := by
  rw [wf_iff] at *
  exact ⟨h.1.filter p, fun x hx => h.2 x (List.mem_of_mem_filter hx)⟩

/-! ## Memories -/

@[simp] theorem rdByte_wrByte_same (m : Memory) (a : Nat) (b : Byte) : rdByte (wrByte m a b) a = b := by simp [rdByte, wrByte]

theorem rdByte_wrByte_other (m : Memory) {a c : Nat} (b : Byte) (h : c ≠ a) : rdByte (wrByte m a b) c = rdByte m c := by
  simp [rdByte, wrByte, tabGet_set_other _ _ _ h]

theorem wf_wrByte (m : Memory) (a : Nat) (b : Byte) (h : m.wf = true) : (wrByte m a b).wf = true := wf_set _ m a b h

/-- A write of consecutive bytes changes no byte outside them. -/
theorem rdByte_wrBytes_outside (bs : List Byte) : ∀ (m : Memory) (a c : Nat), c < a ∨ a + bs.length ≤ c →
    rdByte (wrBytes m a bs) c = rdByte m c := by
  induction bs with
  | nil => intro m a c _; rfl
  | cons b t ih =>
    intro m a c h
    simp only [List.length_cons] at h
    rw [wrBytes, ih _ _ _ (by omega), rdByte_wrByte_other _ _ (by omega)]

/-- A write of consecutive bytes puts byte i at the i-th address. -/
theorem rdByte_wrBytes_inside (bs : List Byte) : ∀ (m : Memory) (a i : Nat), i < bs.length →
    rdByte (wrBytes m a bs) (a + i) = bs.getD i 0 := by
  induction bs with
  | nil => intro m a i h; simp at h
  | cons b t ih =>
    intro m a i h
    cases i with
    | zero => rw [wrBytes, rdByte_wrBytes_outside _ _ _ _ (by omega)]; simp
    | succ i =>
      rw [wrBytes, show a + (i + 1) = (a + 1) + i by omega, ih _ _ _ (by simpa using h)]
      simp

theorem wf_wrBytes (bs : List Byte) : ∀ (m : Memory) (a : Nat), m.wf = true → (wrBytes m a bs).wf = true := by
  induction bs with
  | nil => intro m a h; exact h
  | cons b t ih => intro m a h; exact ih _ _ (wf_wrByte m a b h)

theorem wf_zeroBytes (m : Memory) (a n : Nat) (h : m.wf = true) : (zeroBytes m a n).wf = true := wf_filter _ m _ h

theorem wf_window (m : Memory) (lo n dst : Nat) (h : m.wf = true) : (window m lo n dst).wf = true := by
  unfold Memory.wf at *
  rw [wf_iff] at *
  refine ⟨?_, ?_⟩
  · refine List.pairwise_filterMap.2 (h.1.imp ?_)
    rintro ⟨j, v⟩ ⟨k, w⟩ hjk x hx y hy
    simp only [Option.ite_none_right_eq_some, Option.some.injEq] at hx hy
    obtain ⟨hx1, rfl⟩ := hx
    obtain ⟨hy1, rfl⟩ := hy
    have hjk : j < k := hjk
    show j - lo + dst < k - lo + dst
    omega
  · intro x hx
    obtain ⟨y, hy, hxy⟩ := List.mem_filterMap.1 hx
    simp only [Option.ite_none_right_eq_some, Option.some.injEq] at hxy
    obtain ⟨-, rfl⟩ := hxy
    exact h.2 y hy

/-- Writing bytes one by one keeps the canonical form. -/
theorem wf_foldl_wrByte (l : List (Nat × Byte)) : ∀ m : Memory, m.wf = true →
    Memory.wf (l.foldl (fun d x => wrByte d x.1 x.2) m) = true := by
  induction l with
  | nil => intro m h; exact h
  | cons x l ih => intro m h; exact ih _ (wf_wrByte m _ _ h)

theorem wf_foldl_put {α : Type} [DecidableEq α] (d : α) (f : Nat → Nat) (l : Tab α) (hl : ∀ x ∈ l, x.2 ≠ d) :
    ∀ t : Tab α, tabWf d t = true → tabWf d (l.foldl (fun t x => tabPut t (f x.1) x.2) t) = true := by
  induction l with
  | nil => intro t h; exact h
  | cons x l ih =>
    intro t h
    exact ih (fun y hy => hl y (List.mem_cons_of_mem _ hy)) _ (wf_put d t _ _ (hl x List.mem_cons_self) h)

theorem wf_copyTab {α : Type} [DecidableEq α] (d : α) (t : Tab α) (lo n dst : Nat) (h : tabWf d t = true) :
    tabWf d (copyTab t lo n dst) = true := by
  unfold copyTab
  refine wf_foldl_put d (fun k => k - lo + dst) _ ?_ _ (wf_filter d t _ h)
  intro x hx
  exact ((wf_iff d t).1 h).2 x (List.mem_of_mem_filter hx)
theorem wf_moveTab {α : Type} [DecidableEq α] (d : α) (t : Tab α) (lo n dst : Nat) (h : tabWf d t = true) :
    tabWf d (moveTab t lo n dst) = true := by
  unfold moveTab
  refine wf_foldl_put d (fun k => k - lo + dst) _ ?_ _ (wf_filter d t _ h)
  intro x hx
  exact ((wf_iff d t).1 h).2 x (List.mem_of_mem_filter hx)

end Sys2Proof.Machine
end

