-- ==== Sys2Proof/Laws/State.lean ====
section
/-! SUPPORT. The fields of the state after each of its updates: one lemma per field and update, so that no proof unfolds a record
update; and what reading a core, a stream or a shared record gives after a write to it. -/

namespace Sys2Proof.Machine

/-! ## Fields of the state -/

@[simp] theorem State.setCore_dies (s : State) (c : Nat) (x : Core) : (s.setCore c x).dies = s.dies := rfl
@[simp] theorem State.setCore_forms (s : State) (c : Nat) (x : Core) : (s.setCore c x).forms = s.forms := rfl
@[simp] theorem State.setCore_launches (s : State) (c : Nat) (x : Core) : (s.setCore c x).launches = s.launches := rfl
@[simp] theorem State.setCore_ctxs (s : State) (c : Nat) (x : Core) : (s.setCore c x).ctxs = s.ctxs := rfl
@[simp] theorem State.setCore_fns (s : State) (c : Nat) (x : Core) : (s.setCore c x).fns = s.fns := rfl
@[simp] theorem State.setCore_regMem (s : State) (c : Nat) (x : Core) : (s.setCore c x).regMem = s.regMem := rfl
@[simp] theorem State.setCore_nrAt (s : State) (c : Nat) (x : Core) : (s.setCore c x).nrAt = s.nrAt := rfl
@[simp] theorem State.setCore_nrTail (s : State) (c : Nat) (x : Core) : (s.setCore c x).nrTail = s.nrTail := rfl
@[simp] theorem State.setCore_nrLost (s : State) (c : Nat) (x : Core) : (s.setCore c x).nrLost = s.nrLost := rfl
@[simp] theorem State.setCore_otQueue (s : State) (c : Nat) (x : Core) : (s.setCore c x).otQueue = s.otQueue := rfl
@[simp] theorem State.setCore_dev (s : State) (c : Nat) (x : Core) : (s.setCore c x).dev = s.dev := rfl
@[simp] theorem State.setCore_host (s : State) (c : Nat) (x : Core) : (s.setCore c x).host = s.host := rfl
@[simp] theorem State.setCore_devTags (s : State) (c : Nat) (x : Core) : (s.setCore c x).devTags = s.devTags := rfl
@[simp] theorem State.setCore_tagSums (s : State) (c : Nat) (x : Core) : (s.setCore c x).tagSums = s.tagSums := rfl
@[simp] theorem State.setCore_l2 (s : State) (c : Nat) (x : Core) : (s.setCore c x).l2 = s.l2 := rfl
@[simp] theorem State.setCore_l2Clock (s : State) (c : Nat) (x : Core) : (s.setCore c x).l2Clock = s.l2Clock := rfl
@[simp] theorem State.setCore_dirtyUnits (s : State) (c : Nat) (x : Core) : (s.setCore c x).dirtyUnits = s.dirtyUnits := rfl
@[simp] theorem State.setCore_poison (s : State) (c : Nat) (x : Core) : (s.setCore c x).poison = s.poison := rfl
@[simp] theorem State.setCore_prov (s : State) (c : Nat) (x : Core) : (s.setCore c x).prov = s.prov := rfl
@[simp] theorem State.setCore_provTags (s : State) (c : Nat) (x : Core) : (s.setCore c x).provTags = s.provTags := rfl
@[simp] theorem State.setCore_time (s : State) (c : Nat) (x : Core) : (s.setCore c x).time = s.time := rfl
@[simp] theorem State.setCore_timeAhead (s : State) (c : Nat) (x : Core) : (s.setCore c x).timeAhead = s.timeAhead := rfl
@[simp] theorem State.setCore_tick (s : State) (c : Nat) (x : Core) : (s.setCore c x).tick = s.tick := rfl
@[simp] theorem State.setCore_sensors (s : State) (c : Nat) (x : Core) : (s.setCore c x).sensors = s.sensors := rfl
@[simp] theorem State.setCore_lbps (s : State) (c : Nat) (x : Core) : (s.setCore c x).lbps = s.lbps := rfl
@[simp] theorem State.setCore_groups (s : State) (c : Nat) (x : Core) : (s.setCore c x).groups = s.groups := rfl
@[simp] theorem State.setCore_side (s : State) (c : Nat) (x : Core) : (s.setCore c x).side = s.side := rfl
@[simp] theorem State.setCore_seq (s : State) (c : Nat) (x : Core) : (s.setCore c x).seq = s.seq := rfl
@[simp] theorem State.setCore_free (s : State) (c : Nat) (x : Core) : (s.setCore c x).free = s.free := rfl
@[simp] theorem State.setCore_due (s : State) (c : Nat) (x : Core) : (s.setCore c x).due = s.due := rfl
@[simp] theorem State.setCore_outside (s : State) (c : Nat) (x : Core) : (s.setCore c x).outside = s.outside := rfl
@[simp] theorem State.setCore_curCore (s : State) (c : Nat) (x : Core) : (s.setCore c x).curCore = s.curCore := rfl
@[simp] theorem State.setCore_phase (s : State) (c : Nat) (x : Core) : (s.setCore c x).phase = s.phase := rfl
@[simp] theorem State.setCore_rounds (s : State) (c : Nat) (x : Core) : (s.setCore c x).rounds = s.rounds := rfl
@[simp] theorem State.setCore_patience (s : State) (c : Nat) (x : Core) : (s.setCore c x).patience = s.patience := rfl
@[simp] theorem State.setCore_broken (s : State) (c : Nat) (x : Core) : (s.setCore c x).broken = s.broken := rfl
@[simp] theorem State.setCore_stalls (s : State) (c : Nat) (x : Core) : (s.setCore c x).stalls = s.stalls := rfl
@[simp] theorem State.setCore_rest (s : State) (c : Nat) (x : Core) : (s.setCore c x).rest = s.rest := rfl
@[simp] theorem State.setCore_powered (s : State) (c : Nat) (x : Core) : (s.setCore c x).powered = s.powered := rfl
@[simp] theorem State.setCore_clock (s : State) (c : Nat) (x : Core) : (s.setCore c x).clock = s.clock := rfl
@[simp] theorem State.setCore_returned (s : State) (c : Nat) (x : Core) : (s.setCore c x).returned = s.returned := rfl
@[simp] theorem State.setCore_marks (s : State) (c : Nat) (x : Core) : (s.setCore c x).marks = s.marks := rfl
@[simp] theorem State.setCore_snapDue (s : State) (c : Nat) (x : Core) : (s.setCore c x).snapDue = s.snapDue := rfl

@[simp] theorem State.modCore_dies (s : State) (c : Nat) (f : Core → Core) : (s.modCore c f).dies = s.dies := rfl
@[simp] theorem State.modCore_forms (s : State) (c : Nat) (f : Core → Core) : (s.modCore c f).forms = s.forms := rfl
@[simp] theorem State.modCore_launches (s : State) (c : Nat) (f : Core → Core) : (s.modCore c f).launches = s.launches := rfl
@[simp] theorem State.modCore_ctxs (s : State) (c : Nat) (f : Core → Core) : (s.modCore c f).ctxs = s.ctxs := rfl
@[simp] theorem State.modCore_fns (s : State) (c : Nat) (f : Core → Core) : (s.modCore c f).fns = s.fns := rfl
@[simp] theorem State.modCore_regMem (s : State) (c : Nat) (f : Core → Core) : (s.modCore c f).regMem = s.regMem := rfl
@[simp] theorem State.modCore_nrAt (s : State) (c : Nat) (f : Core → Core) : (s.modCore c f).nrAt = s.nrAt := rfl
@[simp] theorem State.modCore_nrTail (s : State) (c : Nat) (f : Core → Core) : (s.modCore c f).nrTail = s.nrTail := rfl
@[simp] theorem State.modCore_nrLost (s : State) (c : Nat) (f : Core → Core) : (s.modCore c f).nrLost = s.nrLost := rfl
@[simp] theorem State.modCore_otQueue (s : State) (c : Nat) (f : Core → Core) : (s.modCore c f).otQueue = s.otQueue := rfl
@[simp] theorem State.modCore_dev (s : State) (c : Nat) (f : Core → Core) : (s.modCore c f).dev = s.dev := rfl
@[simp] theorem State.modCore_host (s : State) (c : Nat) (f : Core → Core) : (s.modCore c f).host = s.host := rfl
@[simp] theorem State.modCore_devTags (s : State) (c : Nat) (f : Core → Core) : (s.modCore c f).devTags = s.devTags := rfl
@[simp] theorem State.modCore_tagSums (s : State) (c : Nat) (f : Core → Core) : (s.modCore c f).tagSums = s.tagSums := rfl
@[simp] theorem State.modCore_l2 (s : State) (c : Nat) (f : Core → Core) : (s.modCore c f).l2 = s.l2 := rfl
@[simp] theorem State.modCore_l2Clock (s : State) (c : Nat) (f : Core → Core) : (s.modCore c f).l2Clock = s.l2Clock := rfl
@[simp] theorem State.modCore_dirtyUnits (s : State) (c : Nat) (f : Core → Core) : (s.modCore c f).dirtyUnits = s.dirtyUnits := rfl
@[simp] theorem State.modCore_poison (s : State) (c : Nat) (f : Core → Core) : (s.modCore c f).poison = s.poison := rfl
@[simp] theorem State.modCore_prov (s : State) (c : Nat) (f : Core → Core) : (s.modCore c f).prov = s.prov := rfl
@[simp] theorem State.modCore_provTags (s : State) (c : Nat) (f : Core → Core) : (s.modCore c f).provTags = s.provTags := rfl
@[simp] theorem State.modCore_time (s : State) (c : Nat) (f : Core → Core) : (s.modCore c f).time = s.time := rfl
@[simp] theorem State.modCore_timeAhead (s : State) (c : Nat) (f : Core → Core) : (s.modCore c f).timeAhead = s.timeAhead := rfl
@[simp] theorem State.modCore_tick (s : State) (c : Nat) (f : Core → Core) : (s.modCore c f).tick = s.tick := rfl
@[simp] theorem State.modCore_sensors (s : State) (c : Nat) (f : Core → Core) : (s.modCore c f).sensors = s.sensors := rfl
@[simp] theorem State.modCore_lbps (s : State) (c : Nat) (f : Core → Core) : (s.modCore c f).lbps = s.lbps := rfl
@[simp] theorem State.modCore_groups (s : State) (c : Nat) (f : Core → Core) : (s.modCore c f).groups = s.groups := rfl
@[simp] theorem State.modCore_side (s : State) (c : Nat) (f : Core → Core) : (s.modCore c f).side = s.side := rfl
@[simp] theorem State.modCore_seq (s : State) (c : Nat) (f : Core → Core) : (s.modCore c f).seq = s.seq := rfl
@[simp] theorem State.modCore_free (s : State) (c : Nat) (f : Core → Core) : (s.modCore c f).free = s.free := rfl
@[simp] theorem State.modCore_due (s : State) (c : Nat) (f : Core → Core) : (s.modCore c f).due = s.due := rfl
@[simp] theorem State.modCore_outside (s : State) (c : Nat) (f : Core → Core) : (s.modCore c f).outside = s.outside := rfl
@[simp] theorem State.modCore_curCore (s : State) (c : Nat) (f : Core → Core) : (s.modCore c f).curCore = s.curCore := rfl
@[simp] theorem State.modCore_phase (s : State) (c : Nat) (f : Core → Core) : (s.modCore c f).phase = s.phase := rfl
@[simp] theorem State.modCore_rounds (s : State) (c : Nat) (f : Core → Core) : (s.modCore c f).rounds = s.rounds := rfl
@[simp] theorem State.modCore_patience (s : State) (c : Nat) (f : Core → Core) : (s.modCore c f).patience = s.patience := rfl
@[simp] theorem State.modCore_broken (s : State) (c : Nat) (f : Core → Core) : (s.modCore c f).broken = s.broken := rfl
@[simp] theorem State.modCore_stalls (s : State) (c : Nat) (f : Core → Core) : (s.modCore c f).stalls = s.stalls := rfl
@[simp] theorem State.modCore_rest (s : State) (c : Nat) (f : Core → Core) : (s.modCore c f).rest = s.rest := rfl
@[simp] theorem State.modCore_powered (s : State) (c : Nat) (f : Core → Core) : (s.modCore c f).powered = s.powered := rfl
@[simp] theorem State.modCore_clock (s : State) (c : Nat) (f : Core → Core) : (s.modCore c f).clock = s.clock := rfl
@[simp] theorem State.modCore_returned (s : State) (c : Nat) (f : Core → Core) : (s.modCore c f).returned = s.returned := rfl
@[simp] theorem State.modCore_marks (s : State) (c : Nat) (f : Core → Core) : (s.modCore c f).marks = s.marks := rfl
@[simp] theorem State.modCore_snapDue (s : State) (c : Nat) (f : Core → Core) : (s.modCore c f).snapDue = s.snapDue := rfl

@[simp] theorem State.modSh_dies (s : State) (c : Nat) (f : Shared → Shared) : (s.modSh c f).dies = s.dies := rfl
@[simp] theorem State.modSh_forms (s : State) (c : Nat) (f : Shared → Shared) : (s.modSh c f).forms = s.forms := rfl
@[simp] theorem State.modSh_launches (s : State) (c : Nat) (f : Shared → Shared) : (s.modSh c f).launches = s.launches := rfl
@[simp] theorem State.modSh_ctxs (s : State) (c : Nat) (f : Shared → Shared) : (s.modSh c f).ctxs = s.ctxs := rfl
@[simp] theorem State.modSh_fns (s : State) (c : Nat) (f : Shared → Shared) : (s.modSh c f).fns = s.fns := rfl
@[simp] theorem State.modSh_regMem (s : State) (c : Nat) (f : Shared → Shared) : (s.modSh c f).regMem = s.regMem := rfl
@[simp] theorem State.modSh_nrAt (s : State) (c : Nat) (f : Shared → Shared) : (s.modSh c f).nrAt = s.nrAt := rfl
@[simp] theorem State.modSh_nrTail (s : State) (c : Nat) (f : Shared → Shared) : (s.modSh c f).nrTail = s.nrTail := rfl
@[simp] theorem State.modSh_nrLost (s : State) (c : Nat) (f : Shared → Shared) : (s.modSh c f).nrLost = s.nrLost := rfl
@[simp] theorem State.modSh_otQueue (s : State) (c : Nat) (f : Shared → Shared) : (s.modSh c f).otQueue = s.otQueue := rfl
@[simp] theorem State.modSh_dev (s : State) (c : Nat) (f : Shared → Shared) : (s.modSh c f).dev = s.dev := rfl
@[simp] theorem State.modSh_host (s : State) (c : Nat) (f : Shared → Shared) : (s.modSh c f).host = s.host := rfl
@[simp] theorem State.modSh_devTags (s : State) (c : Nat) (f : Shared → Shared) : (s.modSh c f).devTags = s.devTags := rfl
@[simp] theorem State.modSh_tagSums (s : State) (c : Nat) (f : Shared → Shared) : (s.modSh c f).tagSums = s.tagSums := rfl
@[simp] theorem State.modSh_l2 (s : State) (c : Nat) (f : Shared → Shared) : (s.modSh c f).l2 = s.l2 := rfl
@[simp] theorem State.modSh_l2Clock (s : State) (c : Nat) (f : Shared → Shared) : (s.modSh c f).l2Clock = s.l2Clock := rfl
@[simp] theorem State.modSh_dirtyUnits (s : State) (c : Nat) (f : Shared → Shared) : (s.modSh c f).dirtyUnits = s.dirtyUnits := rfl
@[simp] theorem State.modSh_poison (s : State) (c : Nat) (f : Shared → Shared) : (s.modSh c f).poison = s.poison := rfl
@[simp] theorem State.modSh_prov (s : State) (c : Nat) (f : Shared → Shared) : (s.modSh c f).prov = s.prov := rfl
@[simp] theorem State.modSh_provTags (s : State) (c : Nat) (f : Shared → Shared) : (s.modSh c f).provTags = s.provTags := rfl
@[simp] theorem State.modSh_time (s : State) (c : Nat) (f : Shared → Shared) : (s.modSh c f).time = s.time := rfl
@[simp] theorem State.modSh_timeAhead (s : State) (c : Nat) (f : Shared → Shared) : (s.modSh c f).timeAhead = s.timeAhead := rfl
@[simp] theorem State.modSh_tick (s : State) (c : Nat) (f : Shared → Shared) : (s.modSh c f).tick = s.tick := rfl
@[simp] theorem State.modSh_sensors (s : State) (c : Nat) (f : Shared → Shared) : (s.modSh c f).sensors = s.sensors := rfl
@[simp] theorem State.modSh_lbps (s : State) (c : Nat) (f : Shared → Shared) : (s.modSh c f).lbps = s.lbps := rfl
@[simp] theorem State.modSh_groups (s : State) (c : Nat) (f : Shared → Shared) : (s.modSh c f).groups = s.groups := rfl
@[simp] theorem State.modSh_side (s : State) (c : Nat) (f : Shared → Shared) : (s.modSh c f).side = s.side := rfl
@[simp] theorem State.modSh_seq (s : State) (c : Nat) (f : Shared → Shared) : (s.modSh c f).seq = s.seq := rfl
@[simp] theorem State.modSh_free (s : State) (c : Nat) (f : Shared → Shared) : (s.modSh c f).free = s.free := rfl
@[simp] theorem State.modSh_due (s : State) (c : Nat) (f : Shared → Shared) : (s.modSh c f).due = s.due := rfl
@[simp] theorem State.modSh_outside (s : State) (c : Nat) (f : Shared → Shared) : (s.modSh c f).outside = s.outside := rfl
@[simp] theorem State.modSh_curCore (s : State) (c : Nat) (f : Shared → Shared) : (s.modSh c f).curCore = s.curCore := rfl
@[simp] theorem State.modSh_phase (s : State) (c : Nat) (f : Shared → Shared) : (s.modSh c f).phase = s.phase := rfl
@[simp] theorem State.modSh_rounds (s : State) (c : Nat) (f : Shared → Shared) : (s.modSh c f).rounds = s.rounds := rfl
@[simp] theorem State.modSh_patience (s : State) (c : Nat) (f : Shared → Shared) : (s.modSh c f).patience = s.patience := rfl
@[simp] theorem State.modSh_broken (s : State) (c : Nat) (f : Shared → Shared) : (s.modSh c f).broken = s.broken := rfl
@[simp] theorem State.modSh_stalls (s : State) (c : Nat) (f : Shared → Shared) : (s.modSh c f).stalls = s.stalls := rfl
@[simp] theorem State.modSh_rest (s : State) (c : Nat) (f : Shared → Shared) : (s.modSh c f).rest = s.rest := rfl
@[simp] theorem State.modSh_powered (s : State) (c : Nat) (f : Shared → Shared) : (s.modSh c f).powered = s.powered := rfl
@[simp] theorem State.modSh_clock (s : State) (c : Nat) (f : Shared → Shared) : (s.modSh c f).clock = s.clock := rfl
@[simp] theorem State.modSh_returned (s : State) (c : Nat) (f : Shared → Shared) : (s.modSh c f).returned = s.returned := rfl
@[simp] theorem State.modSh_marks (s : State) (c : Nat) (f : Shared → Shared) : (s.modSh c f).marks = s.marks := rfl
@[simp] theorem State.modSh_snapDue (s : State) (c : Nat) (f : Shared → Shared) : (s.modSh c f).snapDue = s.snapDue := rfl

@[simp] theorem State.modStream_dies (s : State) (c n : Nat) (f : Stream → Stream) : (s.modStream c n f).dies = s.dies := rfl
@[simp] theorem State.modStream_forms (s : State) (c n : Nat) (f : Stream → Stream) : (s.modStream c n f).forms = s.forms := rfl
@[simp] theorem State.modStream_launches (s : State) (c n : Nat) (f : Stream → Stream) : (s.modStream c n f).launches = s.launches := rfl
@[simp] theorem State.modStream_ctxs (s : State) (c n : Nat) (f : Stream → Stream) : (s.modStream c n f).ctxs = s.ctxs := rfl
@[simp] theorem State.modStream_fns (s : State) (c n : Nat) (f : Stream → Stream) : (s.modStream c n f).fns = s.fns := rfl
@[simp] theorem State.modStream_regMem (s : State) (c n : Nat) (f : Stream → Stream) : (s.modStream c n f).regMem = s.regMem := rfl
@[simp] theorem State.modStream_nrAt (s : State) (c n : Nat) (f : Stream → Stream) : (s.modStream c n f).nrAt = s.nrAt := rfl
@[simp] theorem State.modStream_nrTail (s : State) (c n : Nat) (f : Stream → Stream) : (s.modStream c n f).nrTail = s.nrTail := rfl
@[simp] theorem State.modStream_nrLost (s : State) (c n : Nat) (f : Stream → Stream) : (s.modStream c n f).nrLost = s.nrLost := rfl
@[simp] theorem State.modStream_otQueue (s : State) (c n : Nat) (f : Stream → Stream) : (s.modStream c n f).otQueue = s.otQueue := rfl
@[simp] theorem State.modStream_dev (s : State) (c n : Nat) (f : Stream → Stream) : (s.modStream c n f).dev = s.dev := rfl
@[simp] theorem State.modStream_host (s : State) (c n : Nat) (f : Stream → Stream) : (s.modStream c n f).host = s.host := rfl
@[simp] theorem State.modStream_devTags (s : State) (c n : Nat) (f : Stream → Stream) : (s.modStream c n f).devTags = s.devTags := rfl
@[simp] theorem State.modStream_tagSums (s : State) (c n : Nat) (f : Stream → Stream) : (s.modStream c n f).tagSums = s.tagSums := rfl
@[simp] theorem State.modStream_l2 (s : State) (c n : Nat) (f : Stream → Stream) : (s.modStream c n f).l2 = s.l2 := rfl
@[simp] theorem State.modStream_l2Clock (s : State) (c n : Nat) (f : Stream → Stream) : (s.modStream c n f).l2Clock = s.l2Clock := rfl
@[simp] theorem State.modStream_dirtyUnits (s : State) (c n : Nat) (f : Stream → Stream) : (s.modStream c n f).dirtyUnits = s.dirtyUnits := rfl
@[simp] theorem State.modStream_poison (s : State) (c n : Nat) (f : Stream → Stream) : (s.modStream c n f).poison = s.poison := rfl
@[simp] theorem State.modStream_prov (s : State) (c n : Nat) (f : Stream → Stream) : (s.modStream c n f).prov = s.prov := rfl
@[simp] theorem State.modStream_provTags (s : State) (c n : Nat) (f : Stream → Stream) : (s.modStream c n f).provTags = s.provTags := rfl
@[simp] theorem State.modStream_time (s : State) (c n : Nat) (f : Stream → Stream) : (s.modStream c n f).time = s.time := rfl
@[simp] theorem State.modStream_timeAhead (s : State) (c n : Nat) (f : Stream → Stream) : (s.modStream c n f).timeAhead = s.timeAhead := rfl
@[simp] theorem State.modStream_tick (s : State) (c n : Nat) (f : Stream → Stream) : (s.modStream c n f).tick = s.tick := rfl
@[simp] theorem State.modStream_sensors (s : State) (c n : Nat) (f : Stream → Stream) : (s.modStream c n f).sensors = s.sensors := rfl
@[simp] theorem State.modStream_lbps (s : State) (c n : Nat) (f : Stream → Stream) : (s.modStream c n f).lbps = s.lbps := rfl
@[simp] theorem State.modStream_groups (s : State) (c n : Nat) (f : Stream → Stream) : (s.modStream c n f).groups = s.groups := rfl
@[simp] theorem State.modStream_side (s : State) (c n : Nat) (f : Stream → Stream) : (s.modStream c n f).side = s.side := rfl
@[simp] theorem State.modStream_seq (s : State) (c n : Nat) (f : Stream → Stream) : (s.modStream c n f).seq = s.seq := rfl
@[simp] theorem State.modStream_free (s : State) (c n : Nat) (f : Stream → Stream) : (s.modStream c n f).free = s.free := rfl
@[simp] theorem State.modStream_due (s : State) (c n : Nat) (f : Stream → Stream) : (s.modStream c n f).due = s.due := rfl
@[simp] theorem State.modStream_outside (s : State) (c n : Nat) (f : Stream → Stream) : (s.modStream c n f).outside = s.outside := rfl
@[simp] theorem State.modStream_curCore (s : State) (c n : Nat) (f : Stream → Stream) : (s.modStream c n f).curCore = s.curCore := rfl
@[simp] theorem State.modStream_phase (s : State) (c n : Nat) (f : Stream → Stream) : (s.modStream c n f).phase = s.phase := rfl
@[simp] theorem State.modStream_rounds (s : State) (c n : Nat) (f : Stream → Stream) : (s.modStream c n f).rounds = s.rounds := rfl
@[simp] theorem State.modStream_patience (s : State) (c n : Nat) (f : Stream → Stream) : (s.modStream c n f).patience = s.patience := rfl
@[simp] theorem State.modStream_broken (s : State) (c n : Nat) (f : Stream → Stream) : (s.modStream c n f).broken = s.broken := rfl
@[simp] theorem State.modStream_stalls (s : State) (c n : Nat) (f : Stream → Stream) : (s.modStream c n f).stalls = s.stalls := rfl
@[simp] theorem State.modStream_rest (s : State) (c n : Nat) (f : Stream → Stream) : (s.modStream c n f).rest = s.rest := rfl
@[simp] theorem State.modStream_powered (s : State) (c n : Nat) (f : Stream → Stream) : (s.modStream c n f).powered = s.powered := rfl
@[simp] theorem State.modStream_clock (s : State) (c n : Nat) (f : Stream → Stream) : (s.modStream c n f).clock = s.clock := rfl
@[simp] theorem State.modStream_returned (s : State) (c n : Nat) (f : Stream → Stream) : (s.modStream c n f).returned = s.returned := rfl
@[simp] theorem State.modStream_marks (s : State) (c n : Nat) (f : Stream → Stream) : (s.modStream c n f).marks = s.marks := rfl
@[simp] theorem State.modStream_snapDue (s : State) (c n : Nat) (f : Stream → Stream) : (s.modStream c n f).snapDue = s.snapDue := rfl

@[simp] theorem State.modDie_cores (s : State) (d : Nat) (f : Die → Die) : (s.modDie d f).cores = s.cores := rfl
@[simp] theorem State.modDie_forms (s : State) (d : Nat) (f : Die → Die) : (s.modDie d f).forms = s.forms := rfl
@[simp] theorem State.modDie_launches (s : State) (d : Nat) (f : Die → Die) : (s.modDie d f).launches = s.launches := rfl
@[simp] theorem State.modDie_ctxs (s : State) (d : Nat) (f : Die → Die) : (s.modDie d f).ctxs = s.ctxs := rfl
@[simp] theorem State.modDie_fns (s : State) (d : Nat) (f : Die → Die) : (s.modDie d f).fns = s.fns := rfl
@[simp] theorem State.modDie_regMem (s : State) (d : Nat) (f : Die → Die) : (s.modDie d f).regMem = s.regMem := rfl
@[simp] theorem State.modDie_nrAt (s : State) (d : Nat) (f : Die → Die) : (s.modDie d f).nrAt = s.nrAt := rfl
@[simp] theorem State.modDie_nrTail (s : State) (d : Nat) (f : Die → Die) : (s.modDie d f).nrTail = s.nrTail := rfl
@[simp] theorem State.modDie_nrLost (s : State) (d : Nat) (f : Die → Die) : (s.modDie d f).nrLost = s.nrLost := rfl
@[simp] theorem State.modDie_otQueue (s : State) (d : Nat) (f : Die → Die) : (s.modDie d f).otQueue = s.otQueue := rfl
@[simp] theorem State.modDie_dev (s : State) (d : Nat) (f : Die → Die) : (s.modDie d f).dev = s.dev := rfl
@[simp] theorem State.modDie_host (s : State) (d : Nat) (f : Die → Die) : (s.modDie d f).host = s.host := rfl
@[simp] theorem State.modDie_devTags (s : State) (d : Nat) (f : Die → Die) : (s.modDie d f).devTags = s.devTags := rfl
@[simp] theorem State.modDie_tagSums (s : State) (d : Nat) (f : Die → Die) : (s.modDie d f).tagSums = s.tagSums := rfl
@[simp] theorem State.modDie_l2 (s : State) (d : Nat) (f : Die → Die) : (s.modDie d f).l2 = s.l2 := rfl
@[simp] theorem State.modDie_l2Clock (s : State) (d : Nat) (f : Die → Die) : (s.modDie d f).l2Clock = s.l2Clock := rfl
@[simp] theorem State.modDie_dirtyUnits (s : State) (d : Nat) (f : Die → Die) : (s.modDie d f).dirtyUnits = s.dirtyUnits := rfl
@[simp] theorem State.modDie_poison (s : State) (d : Nat) (f : Die → Die) : (s.modDie d f).poison = s.poison := rfl
@[simp] theorem State.modDie_prov (s : State) (d : Nat) (f : Die → Die) : (s.modDie d f).prov = s.prov := rfl
@[simp] theorem State.modDie_provTags (s : State) (d : Nat) (f : Die → Die) : (s.modDie d f).provTags = s.provTags := rfl
@[simp] theorem State.modDie_time (s : State) (d : Nat) (f : Die → Die) : (s.modDie d f).time = s.time := rfl
@[simp] theorem State.modDie_timeAhead (s : State) (d : Nat) (f : Die → Die) : (s.modDie d f).timeAhead = s.timeAhead := rfl
@[simp] theorem State.modDie_tick (s : State) (d : Nat) (f : Die → Die) : (s.modDie d f).tick = s.tick := rfl
@[simp] theorem State.modDie_sensors (s : State) (d : Nat) (f : Die → Die) : (s.modDie d f).sensors = s.sensors := rfl
@[simp] theorem State.modDie_lbps (s : State) (d : Nat) (f : Die → Die) : (s.modDie d f).lbps = s.lbps := rfl
@[simp] theorem State.modDie_groups (s : State) (d : Nat) (f : Die → Die) : (s.modDie d f).groups = s.groups := rfl
@[simp] theorem State.modDie_side (s : State) (d : Nat) (f : Die → Die) : (s.modDie d f).side = s.side := rfl
@[simp] theorem State.modDie_seq (s : State) (d : Nat) (f : Die → Die) : (s.modDie d f).seq = s.seq := rfl
@[simp] theorem State.modDie_free (s : State) (d : Nat) (f : Die → Die) : (s.modDie d f).free = s.free := rfl
@[simp] theorem State.modDie_due (s : State) (d : Nat) (f : Die → Die) : (s.modDie d f).due = s.due := rfl
@[simp] theorem State.modDie_outside (s : State) (d : Nat) (f : Die → Die) : (s.modDie d f).outside = s.outside := rfl
@[simp] theorem State.modDie_curCore (s : State) (d : Nat) (f : Die → Die) : (s.modDie d f).curCore = s.curCore := rfl
@[simp] theorem State.modDie_phase (s : State) (d : Nat) (f : Die → Die) : (s.modDie d f).phase = s.phase := rfl
@[simp] theorem State.modDie_rounds (s : State) (d : Nat) (f : Die → Die) : (s.modDie d f).rounds = s.rounds := rfl
@[simp] theorem State.modDie_patience (s : State) (d : Nat) (f : Die → Die) : (s.modDie d f).patience = s.patience := rfl
@[simp] theorem State.modDie_broken (s : State) (d : Nat) (f : Die → Die) : (s.modDie d f).broken = s.broken := rfl
@[simp] theorem State.modDie_stalls (s : State) (d : Nat) (f : Die → Die) : (s.modDie d f).stalls = s.stalls := rfl
@[simp] theorem State.modDie_rest (s : State) (d : Nat) (f : Die → Die) : (s.modDie d f).rest = s.rest := rfl
@[simp] theorem State.modDie_powered (s : State) (d : Nat) (f : Die → Die) : (s.modDie d f).powered = s.powered := rfl
@[simp] theorem State.modDie_clock (s : State) (d : Nat) (f : Die → Die) : (s.modDie d f).clock = s.clock := rfl
@[simp] theorem State.modDie_returned (s : State) (d : Nat) (f : Die → Die) : (s.modDie d f).returned = s.returned := rfl
@[simp] theorem State.modDie_marks (s : State) (d : Nat) (f : Die → Die) : (s.modDie d f).marks = s.marks := rfl
@[simp] theorem State.modDie_snapDue (s : State) (d : Nat) (f : Die → Die) : (s.modDie d f).snapDue = s.snapDue := rfl

@[simp] theorem State.modForm_cores (s : State) (n : Nat) (f : Form → Form) : (s.modForm n f).cores = s.cores := rfl
@[simp] theorem State.modForm_dies (s : State) (n : Nat) (f : Form → Form) : (s.modForm n f).dies = s.dies := rfl
@[simp] theorem State.modForm_launches (s : State) (n : Nat) (f : Form → Form) : (s.modForm n f).launches = s.launches := rfl
@[simp] theorem State.modForm_ctxs (s : State) (n : Nat) (f : Form → Form) : (s.modForm n f).ctxs = s.ctxs := rfl
@[simp] theorem State.modForm_fns (s : State) (n : Nat) (f : Form → Form) : (s.modForm n f).fns = s.fns := rfl
@[simp] theorem State.modForm_regMem (s : State) (n : Nat) (f : Form → Form) : (s.modForm n f).regMem = s.regMem := rfl
@[simp] theorem State.modForm_nrAt (s : State) (n : Nat) (f : Form → Form) : (s.modForm n f).nrAt = s.nrAt := rfl
@[simp] theorem State.modForm_nrTail (s : State) (n : Nat) (f : Form → Form) : (s.modForm n f).nrTail = s.nrTail := rfl
@[simp] theorem State.modForm_nrLost (s : State) (n : Nat) (f : Form → Form) : (s.modForm n f).nrLost = s.nrLost := rfl
@[simp] theorem State.modForm_otQueue (s : State) (n : Nat) (f : Form → Form) : (s.modForm n f).otQueue = s.otQueue := rfl
@[simp] theorem State.modForm_dev (s : State) (n : Nat) (f : Form → Form) : (s.modForm n f).dev = s.dev := rfl
@[simp] theorem State.modForm_host (s : State) (n : Nat) (f : Form → Form) : (s.modForm n f).host = s.host := rfl
@[simp] theorem State.modForm_devTags (s : State) (n : Nat) (f : Form → Form) : (s.modForm n f).devTags = s.devTags := rfl
@[simp] theorem State.modForm_tagSums (s : State) (n : Nat) (f : Form → Form) : (s.modForm n f).tagSums = s.tagSums := rfl
@[simp] theorem State.modForm_l2 (s : State) (n : Nat) (f : Form → Form) : (s.modForm n f).l2 = s.l2 := rfl
@[simp] theorem State.modForm_l2Clock (s : State) (n : Nat) (f : Form → Form) : (s.modForm n f).l2Clock = s.l2Clock := rfl
@[simp] theorem State.modForm_dirtyUnits (s : State) (n : Nat) (f : Form → Form) : (s.modForm n f).dirtyUnits = s.dirtyUnits := rfl
@[simp] theorem State.modForm_poison (s : State) (n : Nat) (f : Form → Form) : (s.modForm n f).poison = s.poison := rfl
@[simp] theorem State.modForm_prov (s : State) (n : Nat) (f : Form → Form) : (s.modForm n f).prov = s.prov := rfl
@[simp] theorem State.modForm_provTags (s : State) (n : Nat) (f : Form → Form) : (s.modForm n f).provTags = s.provTags := rfl
@[simp] theorem State.modForm_time (s : State) (n : Nat) (f : Form → Form) : (s.modForm n f).time = s.time := rfl
@[simp] theorem State.modForm_timeAhead (s : State) (n : Nat) (f : Form → Form) : (s.modForm n f).timeAhead = s.timeAhead := rfl
@[simp] theorem State.modForm_tick (s : State) (n : Nat) (f : Form → Form) : (s.modForm n f).tick = s.tick := rfl
@[simp] theorem State.modForm_sensors (s : State) (n : Nat) (f : Form → Form) : (s.modForm n f).sensors = s.sensors := rfl
@[simp] theorem State.modForm_lbps (s : State) (n : Nat) (f : Form → Form) : (s.modForm n f).lbps = s.lbps := rfl
@[simp] theorem State.modForm_groups (s : State) (n : Nat) (f : Form → Form) : (s.modForm n f).groups = s.groups := rfl
@[simp] theorem State.modForm_side (s : State) (n : Nat) (f : Form → Form) : (s.modForm n f).side = s.side := rfl
@[simp] theorem State.modForm_seq (s : State) (n : Nat) (f : Form → Form) : (s.modForm n f).seq = s.seq := rfl
@[simp] theorem State.modForm_free (s : State) (n : Nat) (f : Form → Form) : (s.modForm n f).free = s.free := rfl
@[simp] theorem State.modForm_due (s : State) (n : Nat) (f : Form → Form) : (s.modForm n f).due = s.due := rfl
@[simp] theorem State.modForm_outside (s : State) (n : Nat) (f : Form → Form) : (s.modForm n f).outside = s.outside := rfl
@[simp] theorem State.modForm_curCore (s : State) (n : Nat) (f : Form → Form) : (s.modForm n f).curCore = s.curCore := rfl
@[simp] theorem State.modForm_phase (s : State) (n : Nat) (f : Form → Form) : (s.modForm n f).phase = s.phase := rfl
@[simp] theorem State.modForm_rounds (s : State) (n : Nat) (f : Form → Form) : (s.modForm n f).rounds = s.rounds := rfl
@[simp] theorem State.modForm_patience (s : State) (n : Nat) (f : Form → Form) : (s.modForm n f).patience = s.patience := rfl
@[simp] theorem State.modForm_broken (s : State) (n : Nat) (f : Form → Form) : (s.modForm n f).broken = s.broken := rfl
@[simp] theorem State.modForm_stalls (s : State) (n : Nat) (f : Form → Form) : (s.modForm n f).stalls = s.stalls := rfl
@[simp] theorem State.modForm_rest (s : State) (n : Nat) (f : Form → Form) : (s.modForm n f).rest = s.rest := rfl
@[simp] theorem State.modForm_powered (s : State) (n : Nat) (f : Form → Form) : (s.modForm n f).powered = s.powered := rfl
@[simp] theorem State.modForm_clock (s : State) (n : Nat) (f : Form → Form) : (s.modForm n f).clock = s.clock := rfl
@[simp] theorem State.modForm_returned (s : State) (n : Nat) (f : Form → Form) : (s.modForm n f).returned = s.returned := rfl
@[simp] theorem State.modForm_marks (s : State) (n : Nat) (f : Form → Form) : (s.modForm n f).marks = s.marks := rfl
@[simp] theorem State.modForm_snapDue (s : State) (n : Nat) (f : Form → Form) : (s.modForm n f).snapDue = s.snapDue := rfl

@[simp] theorem State.modLaunch_cores (s : State) (l : Nat) (f : Launch → Launch) : (s.modLaunch l f).cores = s.cores := rfl
@[simp] theorem State.modLaunch_dies (s : State) (l : Nat) (f : Launch → Launch) : (s.modLaunch l f).dies = s.dies := rfl
@[simp] theorem State.modLaunch_forms (s : State) (l : Nat) (f : Launch → Launch) : (s.modLaunch l f).forms = s.forms := rfl
@[simp] theorem State.modLaunch_ctxs (s : State) (l : Nat) (f : Launch → Launch) : (s.modLaunch l f).ctxs = s.ctxs := rfl
@[simp] theorem State.modLaunch_fns (s : State) (l : Nat) (f : Launch → Launch) : (s.modLaunch l f).fns = s.fns := rfl
@[simp] theorem State.modLaunch_regMem (s : State) (l : Nat) (f : Launch → Launch) : (s.modLaunch l f).regMem = s.regMem := rfl
@[simp] theorem State.modLaunch_nrAt (s : State) (l : Nat) (f : Launch → Launch) : (s.modLaunch l f).nrAt = s.nrAt := rfl
@[simp] theorem State.modLaunch_nrTail (s : State) (l : Nat) (f : Launch → Launch) : (s.modLaunch l f).nrTail = s.nrTail := rfl
@[simp] theorem State.modLaunch_nrLost (s : State) (l : Nat) (f : Launch → Launch) : (s.modLaunch l f).nrLost = s.nrLost := rfl
@[simp] theorem State.modLaunch_otQueue (s : State) (l : Nat) (f : Launch → Launch) : (s.modLaunch l f).otQueue = s.otQueue := rfl
@[simp] theorem State.modLaunch_dev (s : State) (l : Nat) (f : Launch → Launch) : (s.modLaunch l f).dev = s.dev := rfl
@[simp] theorem State.modLaunch_host (s : State) (l : Nat) (f : Launch → Launch) : (s.modLaunch l f).host = s.host := rfl
@[simp] theorem State.modLaunch_devTags (s : State) (l : Nat) (f : Launch → Launch) : (s.modLaunch l f).devTags = s.devTags := rfl
@[simp] theorem State.modLaunch_tagSums (s : State) (l : Nat) (f : Launch → Launch) : (s.modLaunch l f).tagSums = s.tagSums := rfl
@[simp] theorem State.modLaunch_l2 (s : State) (l : Nat) (f : Launch → Launch) : (s.modLaunch l f).l2 = s.l2 := rfl
@[simp] theorem State.modLaunch_l2Clock (s : State) (l : Nat) (f : Launch → Launch) : (s.modLaunch l f).l2Clock = s.l2Clock := rfl
@[simp] theorem State.modLaunch_dirtyUnits (s : State) (l : Nat) (f : Launch → Launch) : (s.modLaunch l f).dirtyUnits = s.dirtyUnits := rfl
@[simp] theorem State.modLaunch_poison (s : State) (l : Nat) (f : Launch → Launch) : (s.modLaunch l f).poison = s.poison := rfl
@[simp] theorem State.modLaunch_prov (s : State) (l : Nat) (f : Launch → Launch) : (s.modLaunch l f).prov = s.prov := rfl
@[simp] theorem State.modLaunch_provTags (s : State) (l : Nat) (f : Launch → Launch) : (s.modLaunch l f).provTags = s.provTags := rfl
@[simp] theorem State.modLaunch_time (s : State) (l : Nat) (f : Launch → Launch) : (s.modLaunch l f).time = s.time := rfl
@[simp] theorem State.modLaunch_timeAhead (s : State) (l : Nat) (f : Launch → Launch) : (s.modLaunch l f).timeAhead = s.timeAhead := rfl
@[simp] theorem State.modLaunch_tick (s : State) (l : Nat) (f : Launch → Launch) : (s.modLaunch l f).tick = s.tick := rfl
@[simp] theorem State.modLaunch_sensors (s : State) (l : Nat) (f : Launch → Launch) : (s.modLaunch l f).sensors = s.sensors := rfl
@[simp] theorem State.modLaunch_lbps (s : State) (l : Nat) (f : Launch → Launch) : (s.modLaunch l f).lbps = s.lbps := rfl
@[simp] theorem State.modLaunch_groups (s : State) (l : Nat) (f : Launch → Launch) : (s.modLaunch l f).groups = s.groups := rfl
@[simp] theorem State.modLaunch_side (s : State) (l : Nat) (f : Launch → Launch) : (s.modLaunch l f).side = s.side := rfl
@[simp] theorem State.modLaunch_seq (s : State) (l : Nat) (f : Launch → Launch) : (s.modLaunch l f).seq = s.seq := rfl
@[simp] theorem State.modLaunch_free (s : State) (l : Nat) (f : Launch → Launch) : (s.modLaunch l f).free = s.free := rfl
@[simp] theorem State.modLaunch_due (s : State) (l : Nat) (f : Launch → Launch) : (s.modLaunch l f).due = s.due := rfl
@[simp] theorem State.modLaunch_outside (s : State) (l : Nat) (f : Launch → Launch) : (s.modLaunch l f).outside = s.outside := rfl
@[simp] theorem State.modLaunch_curCore (s : State) (l : Nat) (f : Launch → Launch) : (s.modLaunch l f).curCore = s.curCore := rfl
@[simp] theorem State.modLaunch_phase (s : State) (l : Nat) (f : Launch → Launch) : (s.modLaunch l f).phase = s.phase := rfl
@[simp] theorem State.modLaunch_rounds (s : State) (l : Nat) (f : Launch → Launch) : (s.modLaunch l f).rounds = s.rounds := rfl
@[simp] theorem State.modLaunch_patience (s : State) (l : Nat) (f : Launch → Launch) : (s.modLaunch l f).patience = s.patience := rfl
@[simp] theorem State.modLaunch_broken (s : State) (l : Nat) (f : Launch → Launch) : (s.modLaunch l f).broken = s.broken := rfl
@[simp] theorem State.modLaunch_stalls (s : State) (l : Nat) (f : Launch → Launch) : (s.modLaunch l f).stalls = s.stalls := rfl
@[simp] theorem State.modLaunch_rest (s : State) (l : Nat) (f : Launch → Launch) : (s.modLaunch l f).rest = s.rest := rfl
@[simp] theorem State.modLaunch_powered (s : State) (l : Nat) (f : Launch → Launch) : (s.modLaunch l f).powered = s.powered := rfl
@[simp] theorem State.modLaunch_clock (s : State) (l : Nat) (f : Launch → Launch) : (s.modLaunch l f).clock = s.clock := rfl
@[simp] theorem State.modLaunch_returned (s : State) (l : Nat) (f : Launch → Launch) : (s.modLaunch l f).returned = s.returned := rfl
@[simp] theorem State.modLaunch_marks (s : State) (l : Nat) (f : Launch → Launch) : (s.modLaunch l f).marks = s.marks := rfl
@[simp] theorem State.modLaunch_snapDue (s : State) (l : Nat) (f : Launch → Launch) : (s.modLaunch l f).snapDue = s.snapDue := rfl

@[simp] theorem State.modCtx_cores (s : State) (k : Nat) (f : Context → Context) : (s.modCtx k f).cores = s.cores := rfl
@[simp] theorem State.modCtx_dies (s : State) (k : Nat) (f : Context → Context) : (s.modCtx k f).dies = s.dies := rfl
@[simp] theorem State.modCtx_forms (s : State) (k : Nat) (f : Context → Context) : (s.modCtx k f).forms = s.forms := rfl
@[simp] theorem State.modCtx_launches (s : State) (k : Nat) (f : Context → Context) : (s.modCtx k f).launches = s.launches := rfl
@[simp] theorem State.modCtx_fns (s : State) (k : Nat) (f : Context → Context) : (s.modCtx k f).fns = s.fns := rfl
@[simp] theorem State.modCtx_regMem (s : State) (k : Nat) (f : Context → Context) : (s.modCtx k f).regMem = s.regMem := rfl
@[simp] theorem State.modCtx_nrAt (s : State) (k : Nat) (f : Context → Context) : (s.modCtx k f).nrAt = s.nrAt := rfl
@[simp] theorem State.modCtx_nrTail (s : State) (k : Nat) (f : Context → Context) : (s.modCtx k f).nrTail = s.nrTail := rfl
@[simp] theorem State.modCtx_nrLost (s : State) (k : Nat) (f : Context → Context) : (s.modCtx k f).nrLost = s.nrLost := rfl
@[simp] theorem State.modCtx_otQueue (s : State) (k : Nat) (f : Context → Context) : (s.modCtx k f).otQueue = s.otQueue := rfl
@[simp] theorem State.modCtx_dev (s : State) (k : Nat) (f : Context → Context) : (s.modCtx k f).dev = s.dev := rfl
@[simp] theorem State.modCtx_host (s : State) (k : Nat) (f : Context → Context) : (s.modCtx k f).host = s.host := rfl
@[simp] theorem State.modCtx_devTags (s : State) (k : Nat) (f : Context → Context) : (s.modCtx k f).devTags = s.devTags := rfl
@[simp] theorem State.modCtx_tagSums (s : State) (k : Nat) (f : Context → Context) : (s.modCtx k f).tagSums = s.tagSums := rfl
@[simp] theorem State.modCtx_l2 (s : State) (k : Nat) (f : Context → Context) : (s.modCtx k f).l2 = s.l2 := rfl
@[simp] theorem State.modCtx_l2Clock (s : State) (k : Nat) (f : Context → Context) : (s.modCtx k f).l2Clock = s.l2Clock := rfl
@[simp] theorem State.modCtx_dirtyUnits (s : State) (k : Nat) (f : Context → Context) : (s.modCtx k f).dirtyUnits = s.dirtyUnits := rfl
@[simp] theorem State.modCtx_poison (s : State) (k : Nat) (f : Context → Context) : (s.modCtx k f).poison = s.poison := rfl
@[simp] theorem State.modCtx_prov (s : State) (k : Nat) (f : Context → Context) : (s.modCtx k f).prov = s.prov := rfl
@[simp] theorem State.modCtx_provTags (s : State) (k : Nat) (f : Context → Context) : (s.modCtx k f).provTags = s.provTags := rfl
@[simp] theorem State.modCtx_time (s : State) (k : Nat) (f : Context → Context) : (s.modCtx k f).time = s.time := rfl
@[simp] theorem State.modCtx_timeAhead (s : State) (k : Nat) (f : Context → Context) : (s.modCtx k f).timeAhead = s.timeAhead := rfl
@[simp] theorem State.modCtx_tick (s : State) (k : Nat) (f : Context → Context) : (s.modCtx k f).tick = s.tick := rfl
@[simp] theorem State.modCtx_sensors (s : State) (k : Nat) (f : Context → Context) : (s.modCtx k f).sensors = s.sensors := rfl
@[simp] theorem State.modCtx_lbps (s : State) (k : Nat) (f : Context → Context) : (s.modCtx k f).lbps = s.lbps := rfl
@[simp] theorem State.modCtx_groups (s : State) (k : Nat) (f : Context → Context) : (s.modCtx k f).groups = s.groups := rfl
@[simp] theorem State.modCtx_side (s : State) (k : Nat) (f : Context → Context) : (s.modCtx k f).side = s.side := rfl
@[simp] theorem State.modCtx_seq (s : State) (k : Nat) (f : Context → Context) : (s.modCtx k f).seq = s.seq := rfl
@[simp] theorem State.modCtx_free (s : State) (k : Nat) (f : Context → Context) : (s.modCtx k f).free = s.free := rfl
@[simp] theorem State.modCtx_due (s : State) (k : Nat) (f : Context → Context) : (s.modCtx k f).due = s.due := rfl
@[simp] theorem State.modCtx_outside (s : State) (k : Nat) (f : Context → Context) : (s.modCtx k f).outside = s.outside := rfl
@[simp] theorem State.modCtx_curCore (s : State) (k : Nat) (f : Context → Context) : (s.modCtx k f).curCore = s.curCore := rfl
@[simp] theorem State.modCtx_phase (s : State) (k : Nat) (f : Context → Context) : (s.modCtx k f).phase = s.phase := rfl
@[simp] theorem State.modCtx_rounds (s : State) (k : Nat) (f : Context → Context) : (s.modCtx k f).rounds = s.rounds := rfl
@[simp] theorem State.modCtx_patience (s : State) (k : Nat) (f : Context → Context) : (s.modCtx k f).patience = s.patience := rfl
@[simp] theorem State.modCtx_broken (s : State) (k : Nat) (f : Context → Context) : (s.modCtx k f).broken = s.broken := rfl
@[simp] theorem State.modCtx_stalls (s : State) (k : Nat) (f : Context → Context) : (s.modCtx k f).stalls = s.stalls := rfl
@[simp] theorem State.modCtx_rest (s : State) (k : Nat) (f : Context → Context) : (s.modCtx k f).rest = s.rest := rfl
@[simp] theorem State.modCtx_powered (s : State) (k : Nat) (f : Context → Context) : (s.modCtx k f).powered = s.powered := rfl
@[simp] theorem State.modCtx_clock (s : State) (k : Nat) (f : Context → Context) : (s.modCtx k f).clock = s.clock := rfl
@[simp] theorem State.modCtx_returned (s : State) (k : Nat) (f : Context → Context) : (s.modCtx k f).returned = s.returned := rfl
@[simp] theorem State.modCtx_marks (s : State) (k : Nat) (f : Context → Context) : (s.modCtx k f).marks = s.marks := rfl
@[simp] theorem State.modCtx_snapDue (s : State) (k : Nat) (f : Context → Context) : (s.modCtx k f).snapDue = s.snapDue := rfl

@[simp] theorem State.modFn_cores (s : State) (n : Nat) (f : HostFn → HostFn) : (s.modFn n f).cores = s.cores := rfl
@[simp] theorem State.modFn_dies (s : State) (n : Nat) (f : HostFn → HostFn) : (s.modFn n f).dies = s.dies := rfl
@[simp] theorem State.modFn_forms (s : State) (n : Nat) (f : HostFn → HostFn) : (s.modFn n f).forms = s.forms := rfl
@[simp] theorem State.modFn_launches (s : State) (n : Nat) (f : HostFn → HostFn) : (s.modFn n f).launches = s.launches := rfl
@[simp] theorem State.modFn_ctxs (s : State) (n : Nat) (f : HostFn → HostFn) : (s.modFn n f).ctxs = s.ctxs := rfl
@[simp] theorem State.modFn_regMem (s : State) (n : Nat) (f : HostFn → HostFn) : (s.modFn n f).regMem = s.regMem := rfl
@[simp] theorem State.modFn_nrAt (s : State) (n : Nat) (f : HostFn → HostFn) : (s.modFn n f).nrAt = s.nrAt := rfl
@[simp] theorem State.modFn_nrTail (s : State) (n : Nat) (f : HostFn → HostFn) : (s.modFn n f).nrTail = s.nrTail := rfl
@[simp] theorem State.modFn_nrLost (s : State) (n : Nat) (f : HostFn → HostFn) : (s.modFn n f).nrLost = s.nrLost := rfl
@[simp] theorem State.modFn_otQueue (s : State) (n : Nat) (f : HostFn → HostFn) : (s.modFn n f).otQueue = s.otQueue := rfl
@[simp] theorem State.modFn_dev (s : State) (n : Nat) (f : HostFn → HostFn) : (s.modFn n f).dev = s.dev := rfl
@[simp] theorem State.modFn_host (s : State) (n : Nat) (f : HostFn → HostFn) : (s.modFn n f).host = s.host := rfl
@[simp] theorem State.modFn_devTags (s : State) (n : Nat) (f : HostFn → HostFn) : (s.modFn n f).devTags = s.devTags := rfl
@[simp] theorem State.modFn_tagSums (s : State) (n : Nat) (f : HostFn → HostFn) : (s.modFn n f).tagSums = s.tagSums := rfl
@[simp] theorem State.modFn_l2 (s : State) (n : Nat) (f : HostFn → HostFn) : (s.modFn n f).l2 = s.l2 := rfl
@[simp] theorem State.modFn_l2Clock (s : State) (n : Nat) (f : HostFn → HostFn) : (s.modFn n f).l2Clock = s.l2Clock := rfl
@[simp] theorem State.modFn_dirtyUnits (s : State) (n : Nat) (f : HostFn → HostFn) : (s.modFn n f).dirtyUnits = s.dirtyUnits := rfl
@[simp] theorem State.modFn_poison (s : State) (n : Nat) (f : HostFn → HostFn) : (s.modFn n f).poison = s.poison := rfl
@[simp] theorem State.modFn_prov (s : State) (n : Nat) (f : HostFn → HostFn) : (s.modFn n f).prov = s.prov := rfl
@[simp] theorem State.modFn_provTags (s : State) (n : Nat) (f : HostFn → HostFn) : (s.modFn n f).provTags = s.provTags := rfl
@[simp] theorem State.modFn_time (s : State) (n : Nat) (f : HostFn → HostFn) : (s.modFn n f).time = s.time := rfl
@[simp] theorem State.modFn_timeAhead (s : State) (n : Nat) (f : HostFn → HostFn) : (s.modFn n f).timeAhead = s.timeAhead := rfl
@[simp] theorem State.modFn_tick (s : State) (n : Nat) (f : HostFn → HostFn) : (s.modFn n f).tick = s.tick := rfl
@[simp] theorem State.modFn_sensors (s : State) (n : Nat) (f : HostFn → HostFn) : (s.modFn n f).sensors = s.sensors := rfl
@[simp] theorem State.modFn_lbps (s : State) (n : Nat) (f : HostFn → HostFn) : (s.modFn n f).lbps = s.lbps := rfl
@[simp] theorem State.modFn_groups (s : State) (n : Nat) (f : HostFn → HostFn) : (s.modFn n f).groups = s.groups := rfl
@[simp] theorem State.modFn_side (s : State) (n : Nat) (f : HostFn → HostFn) : (s.modFn n f).side = s.side := rfl
@[simp] theorem State.modFn_seq (s : State) (n : Nat) (f : HostFn → HostFn) : (s.modFn n f).seq = s.seq := rfl
@[simp] theorem State.modFn_free (s : State) (n : Nat) (f : HostFn → HostFn) : (s.modFn n f).free = s.free := rfl
@[simp] theorem State.modFn_due (s : State) (n : Nat) (f : HostFn → HostFn) : (s.modFn n f).due = s.due := rfl
@[simp] theorem State.modFn_outside (s : State) (n : Nat) (f : HostFn → HostFn) : (s.modFn n f).outside = s.outside := rfl
@[simp] theorem State.modFn_curCore (s : State) (n : Nat) (f : HostFn → HostFn) : (s.modFn n f).curCore = s.curCore := rfl
@[simp] theorem State.modFn_phase (s : State) (n : Nat) (f : HostFn → HostFn) : (s.modFn n f).phase = s.phase := rfl
@[simp] theorem State.modFn_rounds (s : State) (n : Nat) (f : HostFn → HostFn) : (s.modFn n f).rounds = s.rounds := rfl
@[simp] theorem State.modFn_patience (s : State) (n : Nat) (f : HostFn → HostFn) : (s.modFn n f).patience = s.patience := rfl
@[simp] theorem State.modFn_broken (s : State) (n : Nat) (f : HostFn → HostFn) : (s.modFn n f).broken = s.broken := rfl
@[simp] theorem State.modFn_stalls (s : State) (n : Nat) (f : HostFn → HostFn) : (s.modFn n f).stalls = s.stalls := rfl
@[simp] theorem State.modFn_rest (s : State) (n : Nat) (f : HostFn → HostFn) : (s.modFn n f).rest = s.rest := rfl
@[simp] theorem State.modFn_powered (s : State) (n : Nat) (f : HostFn → HostFn) : (s.modFn n f).powered = s.powered := rfl
@[simp] theorem State.modFn_clock (s : State) (n : Nat) (f : HostFn → HostFn) : (s.modFn n f).clock = s.clock := rfl
@[simp] theorem State.modFn_returned (s : State) (n : Nat) (f : HostFn → HostFn) : (s.modFn n f).returned = s.returned := rfl
@[simp] theorem State.modFn_marks (s : State) (n : Nat) (f : HostFn → HostFn) : (s.modFn n f).marks = s.marks := rfl
@[simp] theorem State.modFn_snapDue (s : State) (n : Nat) (f : HostFn → HostFn) : (s.modFn n f).snapDue = s.snapDue := rfl

@[simp] theorem State.modSensor_cores (s : State) (n : Nat) (f : Sensor → Sensor) : (s.modSensor n f).cores = s.cores := rfl
@[simp] theorem State.modSensor_dies (s : State) (n : Nat) (f : Sensor → Sensor) : (s.modSensor n f).dies = s.dies := rfl
@[simp] theorem State.modSensor_forms (s : State) (n : Nat) (f : Sensor → Sensor) : (s.modSensor n f).forms = s.forms := rfl
@[simp] theorem State.modSensor_launches (s : State) (n : Nat) (f : Sensor → Sensor) : (s.modSensor n f).launches = s.launches := rfl
@[simp] theorem State.modSensor_ctxs (s : State) (n : Nat) (f : Sensor → Sensor) : (s.modSensor n f).ctxs = s.ctxs := rfl
@[simp] theorem State.modSensor_fns (s : State) (n : Nat) (f : Sensor → Sensor) : (s.modSensor n f).fns = s.fns := rfl
@[simp] theorem State.modSensor_regMem (s : State) (n : Nat) (f : Sensor → Sensor) : (s.modSensor n f).regMem = s.regMem := rfl
@[simp] theorem State.modSensor_nrAt (s : State) (n : Nat) (f : Sensor → Sensor) : (s.modSensor n f).nrAt = s.nrAt := rfl
@[simp] theorem State.modSensor_nrTail (s : State) (n : Nat) (f : Sensor → Sensor) : (s.modSensor n f).nrTail = s.nrTail := rfl
@[simp] theorem State.modSensor_nrLost (s : State) (n : Nat) (f : Sensor → Sensor) : (s.modSensor n f).nrLost = s.nrLost := rfl
@[simp] theorem State.modSensor_otQueue (s : State) (n : Nat) (f : Sensor → Sensor) : (s.modSensor n f).otQueue = s.otQueue := rfl
@[simp] theorem State.modSensor_dev (s : State) (n : Nat) (f : Sensor → Sensor) : (s.modSensor n f).dev = s.dev := rfl
@[simp] theorem State.modSensor_host (s : State) (n : Nat) (f : Sensor → Sensor) : (s.modSensor n f).host = s.host := rfl
@[simp] theorem State.modSensor_devTags (s : State) (n : Nat) (f : Sensor → Sensor) : (s.modSensor n f).devTags = s.devTags := rfl
@[simp] theorem State.modSensor_tagSums (s : State) (n : Nat) (f : Sensor → Sensor) : (s.modSensor n f).tagSums = s.tagSums := rfl
@[simp] theorem State.modSensor_l2 (s : State) (n : Nat) (f : Sensor → Sensor) : (s.modSensor n f).l2 = s.l2 := rfl
@[simp] theorem State.modSensor_l2Clock (s : State) (n : Nat) (f : Sensor → Sensor) : (s.modSensor n f).l2Clock = s.l2Clock := rfl
@[simp] theorem State.modSensor_dirtyUnits (s : State) (n : Nat) (f : Sensor → Sensor) : (s.modSensor n f).dirtyUnits = s.dirtyUnits := rfl
@[simp] theorem State.modSensor_poison (s : State) (n : Nat) (f : Sensor → Sensor) : (s.modSensor n f).poison = s.poison := rfl
@[simp] theorem State.modSensor_prov (s : State) (n : Nat) (f : Sensor → Sensor) : (s.modSensor n f).prov = s.prov := rfl
@[simp] theorem State.modSensor_provTags (s : State) (n : Nat) (f : Sensor → Sensor) : (s.modSensor n f).provTags = s.provTags := rfl
@[simp] theorem State.modSensor_time (s : State) (n : Nat) (f : Sensor → Sensor) : (s.modSensor n f).time = s.time := rfl
@[simp] theorem State.modSensor_timeAhead (s : State) (n : Nat) (f : Sensor → Sensor) : (s.modSensor n f).timeAhead = s.timeAhead := rfl
@[simp] theorem State.modSensor_tick (s : State) (n : Nat) (f : Sensor → Sensor) : (s.modSensor n f).tick = s.tick := rfl
@[simp] theorem State.modSensor_lbps (s : State) (n : Nat) (f : Sensor → Sensor) : (s.modSensor n f).lbps = s.lbps := rfl
@[simp] theorem State.modSensor_groups (s : State) (n : Nat) (f : Sensor → Sensor) : (s.modSensor n f).groups = s.groups := rfl
@[simp] theorem State.modSensor_side (s : State) (n : Nat) (f : Sensor → Sensor) : (s.modSensor n f).side = s.side := rfl
@[simp] theorem State.modSensor_seq (s : State) (n : Nat) (f : Sensor → Sensor) : (s.modSensor n f).seq = s.seq := rfl
@[simp] theorem State.modSensor_free (s : State) (n : Nat) (f : Sensor → Sensor) : (s.modSensor n f).free = s.free := rfl
@[simp] theorem State.modSensor_due (s : State) (n : Nat) (f : Sensor → Sensor) : (s.modSensor n f).due = s.due := rfl
@[simp] theorem State.modSensor_outside (s : State) (n : Nat) (f : Sensor → Sensor) : (s.modSensor n f).outside = s.outside := rfl
@[simp] theorem State.modSensor_curCore (s : State) (n : Nat) (f : Sensor → Sensor) : (s.modSensor n f).curCore = s.curCore := rfl
@[simp] theorem State.modSensor_phase (s : State) (n : Nat) (f : Sensor → Sensor) : (s.modSensor n f).phase = s.phase := rfl
@[simp] theorem State.modSensor_rounds (s : State) (n : Nat) (f : Sensor → Sensor) : (s.modSensor n f).rounds = s.rounds := rfl
@[simp] theorem State.modSensor_patience (s : State) (n : Nat) (f : Sensor → Sensor) : (s.modSensor n f).patience = s.patience := rfl
@[simp] theorem State.modSensor_broken (s : State) (n : Nat) (f : Sensor → Sensor) : (s.modSensor n f).broken = s.broken := rfl
@[simp] theorem State.modSensor_stalls (s : State) (n : Nat) (f : Sensor → Sensor) : (s.modSensor n f).stalls = s.stalls := rfl
@[simp] theorem State.modSensor_rest (s : State) (n : Nat) (f : Sensor → Sensor) : (s.modSensor n f).rest = s.rest := rfl
@[simp] theorem State.modSensor_powered (s : State) (n : Nat) (f : Sensor → Sensor) : (s.modSensor n f).powered = s.powered := rfl
@[simp] theorem State.modSensor_clock (s : State) (n : Nat) (f : Sensor → Sensor) : (s.modSensor n f).clock = s.clock := rfl
@[simp] theorem State.modSensor_returned (s : State) (n : Nat) (f : Sensor → Sensor) : (s.modSensor n f).returned = s.returned := rfl
@[simp] theorem State.modSensor_marks (s : State) (n : Nat) (f : Sensor → Sensor) : (s.modSensor n f).marks = s.marks := rfl
@[simp] theorem State.modSensor_snapDue (s : State) (n : Nat) (f : Sensor → Sensor) : (s.modSensor n f).snapDue = s.snapDue := rfl

@[simp] theorem State.modLbp_cores (s : State) (n : Nat) (f : Lbp → Lbp) : (s.modLbp n f).cores = s.cores := rfl
@[simp] theorem State.modLbp_dies (s : State) (n : Nat) (f : Lbp → Lbp) : (s.modLbp n f).dies = s.dies := rfl
@[simp] theorem State.modLbp_forms (s : State) (n : Nat) (f : Lbp → Lbp) : (s.modLbp n f).forms = s.forms := rfl
@[simp] theorem State.modLbp_launches (s : State) (n : Nat) (f : Lbp → Lbp) : (s.modLbp n f).launches = s.launches := rfl
@[simp] theorem State.modLbp_ctxs (s : State) (n : Nat) (f : Lbp → Lbp) : (s.modLbp n f).ctxs = s.ctxs := rfl
@[simp] theorem State.modLbp_fns (s : State) (n : Nat) (f : Lbp → Lbp) : (s.modLbp n f).fns = s.fns := rfl
@[simp] theorem State.modLbp_regMem (s : State) (n : Nat) (f : Lbp → Lbp) : (s.modLbp n f).regMem = s.regMem := rfl
@[simp] theorem State.modLbp_nrAt (s : State) (n : Nat) (f : Lbp → Lbp) : (s.modLbp n f).nrAt = s.nrAt := rfl
@[simp] theorem State.modLbp_nrTail (s : State) (n : Nat) (f : Lbp → Lbp) : (s.modLbp n f).nrTail = s.nrTail := rfl
@[simp] theorem State.modLbp_nrLost (s : State) (n : Nat) (f : Lbp → Lbp) : (s.modLbp n f).nrLost = s.nrLost := rfl
@[simp] theorem State.modLbp_otQueue (s : State) (n : Nat) (f : Lbp → Lbp) : (s.modLbp n f).otQueue = s.otQueue := rfl
@[simp] theorem State.modLbp_dev (s : State) (n : Nat) (f : Lbp → Lbp) : (s.modLbp n f).dev = s.dev := rfl
@[simp] theorem State.modLbp_host (s : State) (n : Nat) (f : Lbp → Lbp) : (s.modLbp n f).host = s.host := rfl
@[simp] theorem State.modLbp_devTags (s : State) (n : Nat) (f : Lbp → Lbp) : (s.modLbp n f).devTags = s.devTags := rfl
@[simp] theorem State.modLbp_tagSums (s : State) (n : Nat) (f : Lbp → Lbp) : (s.modLbp n f).tagSums = s.tagSums := rfl
@[simp] theorem State.modLbp_l2 (s : State) (n : Nat) (f : Lbp → Lbp) : (s.modLbp n f).l2 = s.l2 := rfl
@[simp] theorem State.modLbp_l2Clock (s : State) (n : Nat) (f : Lbp → Lbp) : (s.modLbp n f).l2Clock = s.l2Clock := rfl
@[simp] theorem State.modLbp_dirtyUnits (s : State) (n : Nat) (f : Lbp → Lbp) : (s.modLbp n f).dirtyUnits = s.dirtyUnits := rfl
@[simp] theorem State.modLbp_poison (s : State) (n : Nat) (f : Lbp → Lbp) : (s.modLbp n f).poison = s.poison := rfl
@[simp] theorem State.modLbp_prov (s : State) (n : Nat) (f : Lbp → Lbp) : (s.modLbp n f).prov = s.prov := rfl
@[simp] theorem State.modLbp_provTags (s : State) (n : Nat) (f : Lbp → Lbp) : (s.modLbp n f).provTags = s.provTags := rfl
@[simp] theorem State.modLbp_time (s : State) (n : Nat) (f : Lbp → Lbp) : (s.modLbp n f).time = s.time := rfl
@[simp] theorem State.modLbp_timeAhead (s : State) (n : Nat) (f : Lbp → Lbp) : (s.modLbp n f).timeAhead = s.timeAhead := rfl
@[simp] theorem State.modLbp_tick (s : State) (n : Nat) (f : Lbp → Lbp) : (s.modLbp n f).tick = s.tick := rfl
@[simp] theorem State.modLbp_sensors (s : State) (n : Nat) (f : Lbp → Lbp) : (s.modLbp n f).sensors = s.sensors := rfl
@[simp] theorem State.modLbp_groups (s : State) (n : Nat) (f : Lbp → Lbp) : (s.modLbp n f).groups = s.groups := rfl
@[simp] theorem State.modLbp_side (s : State) (n : Nat) (f : Lbp → Lbp) : (s.modLbp n f).side = s.side := rfl
@[simp] theorem State.modLbp_seq (s : State) (n : Nat) (f : Lbp → Lbp) : (s.modLbp n f).seq = s.seq := rfl
@[simp] theorem State.modLbp_free (s : State) (n : Nat) (f : Lbp → Lbp) : (s.modLbp n f).free = s.free := rfl
@[simp] theorem State.modLbp_due (s : State) (n : Nat) (f : Lbp → Lbp) : (s.modLbp n f).due = s.due := rfl
@[simp] theorem State.modLbp_outside (s : State) (n : Nat) (f : Lbp → Lbp) : (s.modLbp n f).outside = s.outside := rfl
@[simp] theorem State.modLbp_curCore (s : State) (n : Nat) (f : Lbp → Lbp) : (s.modLbp n f).curCore = s.curCore := rfl
@[simp] theorem State.modLbp_phase (s : State) (n : Nat) (f : Lbp → Lbp) : (s.modLbp n f).phase = s.phase := rfl
@[simp] theorem State.modLbp_rounds (s : State) (n : Nat) (f : Lbp → Lbp) : (s.modLbp n f).rounds = s.rounds := rfl
@[simp] theorem State.modLbp_patience (s : State) (n : Nat) (f : Lbp → Lbp) : (s.modLbp n f).patience = s.patience := rfl
@[simp] theorem State.modLbp_broken (s : State) (n : Nat) (f : Lbp → Lbp) : (s.modLbp n f).broken = s.broken := rfl
@[simp] theorem State.modLbp_stalls (s : State) (n : Nat) (f : Lbp → Lbp) : (s.modLbp n f).stalls = s.stalls := rfl
@[simp] theorem State.modLbp_rest (s : State) (n : Nat) (f : Lbp → Lbp) : (s.modLbp n f).rest = s.rest := rfl
@[simp] theorem State.modLbp_powered (s : State) (n : Nat) (f : Lbp → Lbp) : (s.modLbp n f).powered = s.powered := rfl
@[simp] theorem State.modLbp_clock (s : State) (n : Nat) (f : Lbp → Lbp) : (s.modLbp n f).clock = s.clock := rfl
@[simp] theorem State.modLbp_returned (s : State) (n : Nat) (f : Lbp → Lbp) : (s.modLbp n f).returned = s.returned := rfl
@[simp] theorem State.modLbp_marks (s : State) (n : Nat) (f : Lbp → Lbp) : (s.modLbp n f).marks = s.marks := rfl
@[simp] theorem State.modLbp_snapDue (s : State) (n : Nat) (f : Lbp → Lbp) : (s.modLbp n f).snapDue = s.snapDue := rfl

@[simp] theorem State.modGroup_cores (s : State) (n : Nat) (f : RollGroup → RollGroup) : (s.modGroup n f).cores = s.cores := rfl
@[simp] theorem State.modGroup_dies (s : State) (n : Nat) (f : RollGroup → RollGroup) : (s.modGroup n f).dies = s.dies := rfl
@[simp] theorem State.modGroup_forms (s : State) (n : Nat) (f : RollGroup → RollGroup) : (s.modGroup n f).forms = s.forms := rfl
@[simp] theorem State.modGroup_launches (s : State) (n : Nat) (f : RollGroup → RollGroup) : (s.modGroup n f).launches = s.launches := rfl
@[simp] theorem State.modGroup_ctxs (s : State) (n : Nat) (f : RollGroup → RollGroup) : (s.modGroup n f).ctxs = s.ctxs := rfl
@[simp] theorem State.modGroup_fns (s : State) (n : Nat) (f : RollGroup → RollGroup) : (s.modGroup n f).fns = s.fns := rfl
@[simp] theorem State.modGroup_regMem (s : State) (n : Nat) (f : RollGroup → RollGroup) : (s.modGroup n f).regMem = s.regMem := rfl
@[simp] theorem State.modGroup_nrAt (s : State) (n : Nat) (f : RollGroup → RollGroup) : (s.modGroup n f).nrAt = s.nrAt := rfl
@[simp] theorem State.modGroup_nrTail (s : State) (n : Nat) (f : RollGroup → RollGroup) : (s.modGroup n f).nrTail = s.nrTail := rfl
@[simp] theorem State.modGroup_nrLost (s : State) (n : Nat) (f : RollGroup → RollGroup) : (s.modGroup n f).nrLost = s.nrLost := rfl
@[simp] theorem State.modGroup_otQueue (s : State) (n : Nat) (f : RollGroup → RollGroup) : (s.modGroup n f).otQueue = s.otQueue := rfl
@[simp] theorem State.modGroup_dev (s : State) (n : Nat) (f : RollGroup → RollGroup) : (s.modGroup n f).dev = s.dev := rfl
@[simp] theorem State.modGroup_host (s : State) (n : Nat) (f : RollGroup → RollGroup) : (s.modGroup n f).host = s.host := rfl
@[simp] theorem State.modGroup_devTags (s : State) (n : Nat) (f : RollGroup → RollGroup) : (s.modGroup n f).devTags = s.devTags := rfl
@[simp] theorem State.modGroup_tagSums (s : State) (n : Nat) (f : RollGroup → RollGroup) : (s.modGroup n f).tagSums = s.tagSums := rfl
@[simp] theorem State.modGroup_l2 (s : State) (n : Nat) (f : RollGroup → RollGroup) : (s.modGroup n f).l2 = s.l2 := rfl
@[simp] theorem State.modGroup_l2Clock (s : State) (n : Nat) (f : RollGroup → RollGroup) : (s.modGroup n f).l2Clock = s.l2Clock := rfl
@[simp] theorem State.modGroup_dirtyUnits (s : State) (n : Nat) (f : RollGroup → RollGroup) : (s.modGroup n f).dirtyUnits = s.dirtyUnits := rfl
@[simp] theorem State.modGroup_poison (s : State) (n : Nat) (f : RollGroup → RollGroup) : (s.modGroup n f).poison = s.poison := rfl
@[simp] theorem State.modGroup_prov (s : State) (n : Nat) (f : RollGroup → RollGroup) : (s.modGroup n f).prov = s.prov := rfl
@[simp] theorem State.modGroup_provTags (s : State) (n : Nat) (f : RollGroup → RollGroup) : (s.modGroup n f).provTags = s.provTags := rfl
@[simp] theorem State.modGroup_time (s : State) (n : Nat) (f : RollGroup → RollGroup) : (s.modGroup n f).time = s.time := rfl
@[simp] theorem State.modGroup_timeAhead (s : State) (n : Nat) (f : RollGroup → RollGroup) : (s.modGroup n f).timeAhead = s.timeAhead := rfl
@[simp] theorem State.modGroup_tick (s : State) (n : Nat) (f : RollGroup → RollGroup) : (s.modGroup n f).tick = s.tick := rfl
@[simp] theorem State.modGroup_sensors (s : State) (n : Nat) (f : RollGroup → RollGroup) : (s.modGroup n f).sensors = s.sensors := rfl
@[simp] theorem State.modGroup_lbps (s : State) (n : Nat) (f : RollGroup → RollGroup) : (s.modGroup n f).lbps = s.lbps := rfl
@[simp] theorem State.modGroup_side (s : State) (n : Nat) (f : RollGroup → RollGroup) : (s.modGroup n f).side = s.side := rfl
@[simp] theorem State.modGroup_seq (s : State) (n : Nat) (f : RollGroup → RollGroup) : (s.modGroup n f).seq = s.seq := rfl
@[simp] theorem State.modGroup_free (s : State) (n : Nat) (f : RollGroup → RollGroup) : (s.modGroup n f).free = s.free := rfl
@[simp] theorem State.modGroup_due (s : State) (n : Nat) (f : RollGroup → RollGroup) : (s.modGroup n f).due = s.due := rfl
@[simp] theorem State.modGroup_outside (s : State) (n : Nat) (f : RollGroup → RollGroup) : (s.modGroup n f).outside = s.outside := rfl
@[simp] theorem State.modGroup_curCore (s : State) (n : Nat) (f : RollGroup → RollGroup) : (s.modGroup n f).curCore = s.curCore := rfl
@[simp] theorem State.modGroup_phase (s : State) (n : Nat) (f : RollGroup → RollGroup) : (s.modGroup n f).phase = s.phase := rfl
@[simp] theorem State.modGroup_rounds (s : State) (n : Nat) (f : RollGroup → RollGroup) : (s.modGroup n f).rounds = s.rounds := rfl
@[simp] theorem State.modGroup_patience (s : State) (n : Nat) (f : RollGroup → RollGroup) : (s.modGroup n f).patience = s.patience := rfl
@[simp] theorem State.modGroup_broken (s : State) (n : Nat) (f : RollGroup → RollGroup) : (s.modGroup n f).broken = s.broken := rfl
@[simp] theorem State.modGroup_stalls (s : State) (n : Nat) (f : RollGroup → RollGroup) : (s.modGroup n f).stalls = s.stalls := rfl
@[simp] theorem State.modGroup_rest (s : State) (n : Nat) (f : RollGroup → RollGroup) : (s.modGroup n f).rest = s.rest := rfl
@[simp] theorem State.modGroup_powered (s : State) (n : Nat) (f : RollGroup → RollGroup) : (s.modGroup n f).powered = s.powered := rfl
@[simp] theorem State.modGroup_clock (s : State) (n : Nat) (f : RollGroup → RollGroup) : (s.modGroup n f).clock = s.clock := rfl
@[simp] theorem State.modGroup_returned (s : State) (n : Nat) (f : RollGroup → RollGroup) : (s.modGroup n f).returned = s.returned := rfl
@[simp] theorem State.modGroup_marks (s : State) (n : Nat) (f : RollGroup → RollGroup) : (s.modGroup n f).marks = s.marks := rfl
@[simp] theorem State.modGroup_snapDue (s : State) (n : Nat) (f : RollGroup → RollGroup) : (s.modGroup n f).snapDue = s.snapDue := rfl

@[simp] theorem State.tickSeq_cores (s : State) : (s.tickSeq).cores = s.cores := rfl
@[simp] theorem State.tickSeq_dies (s : State) : (s.tickSeq).dies = s.dies := rfl
@[simp] theorem State.tickSeq_forms (s : State) : (s.tickSeq).forms = s.forms := rfl
@[simp] theorem State.tickSeq_launches (s : State) : (s.tickSeq).launches = s.launches := rfl
@[simp] theorem State.tickSeq_ctxs (s : State) : (s.tickSeq).ctxs = s.ctxs := rfl
@[simp] theorem State.tickSeq_fns (s : State) : (s.tickSeq).fns = s.fns := rfl
@[simp] theorem State.tickSeq_regMem (s : State) : (s.tickSeq).regMem = s.regMem := rfl
@[simp] theorem State.tickSeq_nrAt (s : State) : (s.tickSeq).nrAt = s.nrAt := rfl
@[simp] theorem State.tickSeq_nrTail (s : State) : (s.tickSeq).nrTail = s.nrTail := rfl
@[simp] theorem State.tickSeq_nrLost (s : State) : (s.tickSeq).nrLost = s.nrLost := rfl
@[simp] theorem State.tickSeq_otQueue (s : State) : (s.tickSeq).otQueue = s.otQueue := rfl
@[simp] theorem State.tickSeq_dev (s : State) : (s.tickSeq).dev = s.dev := rfl
@[simp] theorem State.tickSeq_host (s : State) : (s.tickSeq).host = s.host := rfl
@[simp] theorem State.tickSeq_devTags (s : State) : (s.tickSeq).devTags = s.devTags := rfl
@[simp] theorem State.tickSeq_tagSums (s : State) : (s.tickSeq).tagSums = s.tagSums := rfl
@[simp] theorem State.tickSeq_l2 (s : State) : (s.tickSeq).l2 = s.l2 := rfl
@[simp] theorem State.tickSeq_l2Clock (s : State) : (s.tickSeq).l2Clock = s.l2Clock := rfl
@[simp] theorem State.tickSeq_dirtyUnits (s : State) : (s.tickSeq).dirtyUnits = s.dirtyUnits := rfl
@[simp] theorem State.tickSeq_poison (s : State) : (s.tickSeq).poison = s.poison := rfl
@[simp] theorem State.tickSeq_prov (s : State) : (s.tickSeq).prov = s.prov := rfl
@[simp] theorem State.tickSeq_provTags (s : State) : (s.tickSeq).provTags = s.provTags := rfl
@[simp] theorem State.tickSeq_time (s : State) : (s.tickSeq).time = s.time := rfl
@[simp] theorem State.tickSeq_timeAhead (s : State) : (s.tickSeq).timeAhead = s.timeAhead := rfl
@[simp] theorem State.tickSeq_tick (s : State) : (s.tickSeq).tick = s.tick := rfl
@[simp] theorem State.tickSeq_sensors (s : State) : (s.tickSeq).sensors = s.sensors := rfl
@[simp] theorem State.tickSeq_lbps (s : State) : (s.tickSeq).lbps = s.lbps := rfl
@[simp] theorem State.tickSeq_groups (s : State) : (s.tickSeq).groups = s.groups := rfl
@[simp] theorem State.tickSeq_side (s : State) : (s.tickSeq).side = s.side := rfl
@[simp] theorem State.tickSeq_free (s : State) : (s.tickSeq).free = s.free := rfl
@[simp] theorem State.tickSeq_due (s : State) : (s.tickSeq).due = s.due := rfl
@[simp] theorem State.tickSeq_outside (s : State) : (s.tickSeq).outside = s.outside := rfl
@[simp] theorem State.tickSeq_curCore (s : State) : (s.tickSeq).curCore = s.curCore := rfl
@[simp] theorem State.tickSeq_phase (s : State) : (s.tickSeq).phase = s.phase := rfl
@[simp] theorem State.tickSeq_rounds (s : State) : (s.tickSeq).rounds = s.rounds := rfl
@[simp] theorem State.tickSeq_patience (s : State) : (s.tickSeq).patience = s.patience := rfl
@[simp] theorem State.tickSeq_broken (s : State) : (s.tickSeq).broken = s.broken := rfl
@[simp] theorem State.tickSeq_stalls (s : State) : (s.tickSeq).stalls = s.stalls := rfl
@[simp] theorem State.tickSeq_rest (s : State) : (s.tickSeq).rest = s.rest := rfl
@[simp] theorem State.tickSeq_powered (s : State) : (s.tickSeq).powered = s.powered := rfl
@[simp] theorem State.tickSeq_clock (s : State) : (s.tickSeq).clock = s.clock := rfl
@[simp] theorem State.tickSeq_returned (s : State) : (s.tickSeq).returned = s.returned := rfl
@[simp] theorem State.tickSeq_marks (s : State) : (s.tickSeq).marks = s.marks := rfl
@[simp] theorem State.tickSeq_snapDue (s : State) : (s.tickSeq).snapDue = s.snapDue := rfl

/-! ## Fields of a core after an update of one of its streams -/

@[simp] theorem Core.setStream_sh (x : Core) (n : Nat) (t : Stream) : (x.setStream n t).sh = x.sh := rfl
@[simp] theorem Core.modStream_sh (x : Core) (n : Nat) (f : Stream → Stream) : (x.modStream n f).sh = x.sh := rfl
@[simp] theorem Core.setStream_soc (x : Core) (n : Nat) (t : Stream) : (x.setStream n t).soc = x.soc := rfl
@[simp] theorem Core.modStream_soc (x : Core) (n : Nat) (f : Stream → Stream) : (x.modStream n f).soc = x.soc := rfl
@[simp] theorem Core.setStream_frame (x : Core) (n : Nat) (t : Stream) : (x.setStream n t).frame = x.frame := rfl
@[simp] theorem Core.modStream_frame (x : Core) (n : Nat) (f : Stream → Stream) : (x.modStream n f).frame = x.frame := rfl
@[simp] theorem Core.setStream_tt (x : Core) (n : Nat) (t : Stream) : (x.setStream n t).tt = x.tt := rfl
@[simp] theorem Core.modStream_tt (x : Core) (n : Nat) (f : Stream → Stream) : (x.modStream n f).tt = x.tt := rfl
@[simp] theorem Core.setStream_acc (x : Core) (n : Nat) (t : Stream) : (x.setStream n t).acc = x.acc := rfl
@[simp] theorem Core.modStream_acc (x : Core) (n : Nat) (f : Stream → Stream) : (x.modStream n f).acc = x.acc := rfl
@[simp] theorem Core.setStream_cache (x : Core) (n : Nat) (t : Stream) : (x.setStream n t).cache = x.cache := rfl
@[simp] theorem Core.modStream_cache (x : Core) (n : Nat) (f : Stream → Stream) : (x.modStream n f).cache = x.cache := rfl
@[simp] theorem Core.setStream_otc (x : Core) (n : Nat) (t : Stream) : (x.setStream n t).otc = x.otc := rfl
@[simp] theorem Core.modStream_otc (x : Core) (n : Nat) (f : Stream → Stream) : (x.modStream n f).otc = x.otc := rfl
@[simp] theorem Core.setStream_task (x : Core) (n : Nat) (t : Stream) : (x.setStream n t).task = x.task := rfl
@[simp] theorem Core.modStream_task (x : Core) (n : Nat) (f : Stream → Stream) : (x.modStream n f).task = x.task := rfl
@[simp] theorem Core.setStream_flight (x : Core) (n : Nat) (t : Stream) : (x.setStream n t).flight = x.flight := rfl
@[simp] theorem Core.modStream_flight (x : Core) (n : Nat) (f : Stream → Stream) : (x.modStream n f).flight = x.flight := rfl
@[simp] theorem Core.setStream_perf (x : Core) (n : Nat) (t : Stream) : (x.setStream n t).perf = x.perf := rfl
@[simp] theorem Core.modStream_perf (x : Core) (n : Nat) (f : Stream → Stream) : (x.modStream n f).perf = x.perf := rfl
@[simp] theorem Core.setStream_stopping (x : Core) (n : Nat) (t : Stream) : (x.setStream n t).stopping = x.stopping := rfl
@[simp] theorem Core.modStream_stopping (x : Core) (n : Nat) (f : Stream → Stream) : (x.modStream n f).stopping = x.stopping := rfl
@[simp] theorem Core.setStream_preempt (x : Core) (n : Nat) (t : Stream) : (x.setStream n t).preempt = x.preempt := rfl
@[simp] theorem Core.modStream_preempt (x : Core) (n : Nat) (f : Stream → Stream) : (x.modStream n f).preempt = x.preempt := rfl
@[simp] theorem Core.setStream_yielding (x : Core) (n : Nat) (t : Stream) : (x.setStream n t).yielding = x.yielding := rfl
@[simp] theorem Core.modStream_yielding (x : Core) (n : Nat) (f : Stream → Stream) : (x.modStream n f).yielding = x.yielding := rfl
@[simp] theorem Core.setStream_forking (x : Core) (n : Nat) (t : Stream) : (x.setStream n t).forking = x.forking := rfl
@[simp] theorem Core.modStream_forking (x : Core) (n : Nat) (f : Stream → Stream) : (x.modStream n f).forking = x.forking := rfl
@[simp] theorem Core.setStream_startLeft (x : Core) (n : Nat) (t : Stream) : (x.setStream n t).startLeft = x.startLeft := rfl
@[simp] theorem Core.modStream_startLeft (x : Core) (n : Nat) (f : Stream → Stream) : (x.modStream n f).startLeft = x.startLeft := rfl
@[simp] theorem Core.setStream_startGo (x : Core) (n : Nat) (t : Stream) : (x.setStream n t).startGo = x.startGo := rfl
@[simp] theorem Core.modStream_startGo (x : Core) (n : Nat) (f : Stream → Stream) : (x.modStream n f).startGo = x.startGo := rfl
@[simp] theorem Core.setStream_joinGo (x : Core) (n : Nat) (t : Stream) : (x.setStream n t).joinGo = x.joinGo := rfl
@[simp] theorem Core.modStream_joinGo (x : Core) (n : Nat) (f : Stream → Stream) : (x.modStream n f).joinGo = x.joinGo := rfl
@[simp] theorem Core.setStream_tdone (x : Core) (n : Nat) (t : Stream) : (x.setStream n t).tdone = x.tdone := rfl
@[simp] theorem Core.modStream_tdone (x : Core) (n : Nat) (f : Stream → Stream) : (x.modStream n f).tdone = x.tdone := rfl
@[simp] theorem Core.setStream_halting (x : Core) (n : Nat) (t : Stream) : (x.setStream n t).halting = x.halting := rfl
@[simp] theorem Core.setStream_dirtyAt (x : Core) (n : Nat) (t : Stream) : (x.setStream n t).dirtyAt = x.dirtyAt := rfl
@[simp] theorem Core.modStream_halting (x : Core) (n : Nat) (f : Stream → Stream) : (x.modStream n f).halting = x.halting := rfl
@[simp] theorem Core.modStream_dirtyAt (x : Core) (n : Nat) (f : Stream → Stream) : (x.modStream n f).dirtyAt = x.dirtyAt := rfl

/-! ## Reading after writing -/

@[simp] theorem State.core_setCore_same (s : State) (c : Nat) (x : Core) : (s.setCore c x).core c = x := by
  simp [State.core, State.setCore]
theorem State.core_setCore_other (s : State) {c d : Nat} (x : Core) (h : d ≠ c) : (s.setCore c x).core d = s.core d := by
  simp [State.core, State.setCore, tabGet_put_other _ _ _ h]
@[simp] theorem State.core_modCore_same (s : State) (c : Nat) (f : Core → Core) : (s.modCore c f).core c = f (s.core c) := by
  simp [State.modCore]
theorem State.core_modCore_other (s : State) {c d : Nat} (f : Core → Core) (h : d ≠ c) : (s.modCore c f).core d = s.core d :=
  State.core_setCore_other s _ h
@[simp] theorem Core.stream_setStream_same (x : Core) (n : Nat) (t : Stream) : (x.setStream n t).stream n = t := by
  simp [Core.stream, Core.setStream]
theorem Core.stream_setStream_other (x : Core) {n m : Nat} (t : Stream) (h : m ≠ n) : (x.setStream n t).stream m = x.stream m := by
  simp [Core.stream, Core.setStream, tabGet_put_other _ _ _ h]
@[simp] theorem Core.stream_modStream_same (x : Core) (n : Nat) (f : Stream → Stream) : (x.modStream n f).stream n = f (x.stream n) := by
  simp [Core.modStream]
theorem Core.stream_modStream_other (x : Core) {n m : Nat} (f : Stream → Stream) (h : m ≠ n) :
    (x.modStream n f).stream m = x.stream m := Core.stream_setStream_other x _ h
@[simp] theorem State.core_modStream_same (s : State) (c n : Nat) (f : Stream → Stream) :
    (s.modStream c n f).core c = (s.core c).modStream n f := by simp [State.modStream]
theorem State.core_modStream_other (s : State) {c d : Nat} (n : Nat) (f : Stream → Stream) (h : d ≠ c) :
    (s.modStream c n f).core d = s.core d := State.core_modCore_other s _ h
@[simp] theorem State.core_modSh_same (s : State) (c : Nat) (f : Shared → Shared) :
    (s.modSh c f).core c = { s.core c with sh := f (s.core c).sh } := by simp [State.modSh]
theorem State.core_modSh_other (s : State) {c d : Nat} (f : Shared → Shared) (h : d ≠ c) : (s.modSh c f).core d = s.core d :=
  State.core_modCore_other s _ h
@[simp] theorem State.core_tickSeq (s : State) (c : Nat) : s.tickSeq.core c = s.core c := rfl
@[simp] theorem State.stream_modStream_same (s : State) (c n : Nat) (f : Stream → Stream) :
    (s.modStream c n f).stream c n = f (s.stream c n) := by simp [State.stream]
@[simp] theorem State.stream_modSh (s : State) (c d n : Nat) (f : Shared → Shared) : (s.modSh c f).stream d n = s.stream d n := by
  by_cases h : d = c
  · subst h; simp [State.stream, Core.stream]
  · simp [State.stream, State.core_modSh_other s f h]
@[simp] theorem State.sh_modSh_same (s : State) (c : Nat) (f : Shared → Shared) : (s.modSh c f).sh c = f (s.sh c) := by
  simp [State.sh]
@[simp] theorem State.sh_modStream (s : State) (c d n : Nat) (f : Stream → Stream) : (s.modStream c n f).sh d = s.sh d := by
  by_cases h : d = c
  · subst h; simp [State.sh]
  · simp [State.sh, State.core_modStream_other s n f h]
@[simp] theorem Shared.queue_setQueue_same (x : Shared) (n : Nat) (q : Queue) : (x.setQueue n q).queue n = q := by
  simp [Shared.queue, Shared.setQueue]
theorem Shared.queue_setQueue_other (x : Shared) {n m : Nat} (q : Queue) (h : m ≠ n) : (x.setQueue n q).queue m = x.queue m := by
  simp [Shared.queue, Shared.setQueue, tabGet_set_other _ _ _ h]
@[simp] theorem State.curStream_modCore (s : State) (c : Nat) (f : Core → Core) : (s.modCore c f).curStream = s.curStream := rfl
@[simp] theorem State.curStream_modSh (s : State) (c : Nat) (f : Shared → Shared) : (s.modSh c f).curStream = s.curStream := rfl
@[simp] theorem State.curStream_modStream (s : State) (c n : Nat) (f : Stream → Stream) :
    (s.modStream c n f).curStream = s.curStream := rfl
@[simp] theorem State.curStream_tickSeq (s : State) : s.tickSeq.curStream = s.curStream := rfl

/-- What comes to stall takes the last place in the order, once, and nothing else changes. -/
theorem State.noteStall_stalls (s : State) (x : StallAt) :
    (s.noteStall x).stalls = if s.stalls.contains x then s.stalls else s.stalls ++ [x] := by
  unfold State.noteStall
  split <;> rfl
@[simp] theorem State.noteStall_cores (s : State) (x : StallAt) : (s.noteStall x).cores = s.cores := by
  unfold State.noteStall
  split <;> rfl
@[simp] theorem State.noteStall_dev (s : State) (x : StallAt) : (s.noteStall x).dev = s.dev := by
  unfold State.noteStall
  split <;> rfl
@[simp] theorem State.noteStall_host (s : State) (x : StallAt) : (s.noteStall x).host = s.host := by
  unfold State.noteStall
  split <;> rfl
@[simp] theorem State.noteStall_fns (s : State) (x : StallAt) : (s.noteStall x).fns = s.fns := by
  unfold State.noteStall
  split <;> rfl
@[simp] theorem State.noteStall_otQueue (s : State) (x : StallAt) : (s.noteStall x).otQueue = s.otQueue := by
  unfold State.noteStall
  split <;> rfl
@[simp] theorem State.noteStall_broken (s : State) (x : StallAt) : (s.noteStall x).broken = s.broken := by
  unfold State.noteStall
  split <;> rfl

/-- The memories right after reset are in canonical form. -/
theorem reset_dev_wf : State.reset.dev.wf = true := rfl
theorem reset_host_wf : State.reset.host.wf = true := rfl

end Sys2Proof.Machine
end

