-- ==== Sys2Proof/Laws/Mem.lean ====
section
/-! SUPPORT. Every operation that writes memory keeps the canonical form of device memory, host memory and the tags: one lemma for
each operation. -/

namespace Sys2Proof.Laws

open Sys2Proof.Machine

/-- The canonical form of the memories of a state. -/
def MemOk (s : State) : Prop := s.dev.wf = true ∧ s.host.wf = true ∧ s.regMem.wf = true ∧ tabWf false s.devTags = true

/-- An update that leaves the memories keeps the form. -/
theorem MemOk.same {s t : State} (h : MemOk s) (h1 : t.dev = s.dev) (h2 : t.host = s.host) (h3 : t.devTags = s.devTags)
    (h4 : t.regMem = s.regMem := by rfl) : MemOk t := by
  unfold MemOk; rw [h1, h2, h3, h4]; exact h
/-- A fold of steps that keep the form keeps it. -/
theorem MemOk.foldl {α : Type} {f : State → α → State} (hf : ∀ s x, MemOk s → MemOk (f s x)) (l : List α) {s : State} (h : MemOk s) :
    MemOk (l.foldl f s) := by
  induction l generalizing s with
  | nil => exact h
  | cons x l ih => exact ih (hf s x h)

theorem memOk_reset : MemOk State.reset := ⟨rfl, rfl, rfl, rfl⟩
theorem memOk_modCore {s : State} (c : Nat) (f : Core → Core) (h : MemOk s) : MemOk (s.modCore c f) := h.same rfl rfl rfl
theorem memOk_putTag {s : State} (id : Option Ident) (host : Bool) (g : Nat) (v : Bool) (h : MemOk s) : MemOk (s.putTag id host g v) := by
  unfold State.putTag
  split
  · exact h
  · split
    · exact ⟨h.1, h.2.1, h.2.2.1, wf_set false s.devTags g v h.2.2.2⟩
    · exact h.same rfl rfl rfl
theorem memOk_markUnit {s : State} (a : Nat) (h : MemOk s) : MemOk (s.markUnit a) := h.same rfl rfl rfl
theorem memOk_makeRoom {s : State} (a : Nat) (h : MemOk s) : MemOk (s.makeRoom a) := by
  unfold State.makeRoom
  split
  · exact h
  · split
    · exact h
    · split
      · unfold State.evict
        dsimp only
        split
        · exact h.same rfl rfl rfl
        · exact h.same rfl rfl rfl
      · exact h
/-- A sector that becomes resident moves no byte. -/
theorem memOk_touchL2 {s : State} (a : Nat) (st : SectorState) (h : MemOk s) : MemOk (s.touchL2 a st) := by
  have h1 := memOk_makeRoom a h
  unfold State.touchL2
  dsimp only
  generalize s.makeRoom a = u at h1 ⊢
  split
  · exact h1.same rfl rfl rfl
  · exact h1.same rfl rfl rfl
  · exact h1.same rfl rfl rfl
theorem memOk_fillL2 {s : State} (host : Bool) (a : Nat) (h : MemOk s) : MemOk (s.fillL2 host a) := by
  unfold State.fillL2
  split
  · exact h
  · exact memOk_touchL2 _ _ h
theorem memOk_cohPut {s : State} (id : Option Ident) (host : Bool) (a : Nat) (b : Byte) (h : MemOk s) : MemOk (s.cohPut id host a b) := by
  unfold State.cohPut
  split
  · exact ⟨h.1, wf_wrByte s.host a b h.2.1, h.2.2⟩
  · split
    · have h1 := memOk_touchL2 a .dirty h
      exact ⟨wf_wrByte _ a b h1.1, h1.2.1, h1.2.2.1, wf_set false _ (a / 16) false h1.2.2.2⟩
    · exact memOk_putTag _ _ _ _ ((memOk_touchL2 a .provisional h).same rfl rfl rfl)
theorem memOk_clearPoison {s : State} (l : List (Bool × Nat × Byte)) (h : MemOk s) : MemOk (s.clearPoison l) := by
  unfold State.clearPoison
  split <;> exact h.same rfl rfl rfl
theorem memOk_cohWrite {s : State} (id : Option Ident) (l : List (Bool × Nat × Byte)) (h : MemOk s) : MemOk (s.cohWrite id l) := by
  have h1 := MemOk.foldl (fun _ x h => memOk_cohPut id x.1 x.2.1 x.2.2 h) l h
  unfold State.cohWrite
  dsimp only
  split
  · exact h1
  · exact memOk_clearPoison _ h1
theorem memOk_commit {s : State} (i : Ident) (h : MemOk s) : MemOk (s.commit i) :=
  MemOk.foldl (fun _ _ h => memOk_putTag _ _ _ _ h) _ (memOk_cohWrite _ _ (h.same rfl rfl rfl))
theorem memOk_writeBack {s : State} (c k : Nat) (h : MemOk s) : MemOk (s.writeBack c k) := by
  unfold State.writeBack
  split
  · exact h
  · dsimp only
    split
    · exact h
    · refine memOk_modCore _ _ (MemOk.foldl (fun s g h => ?_) _ (memOk_cohWrite _ _ h))
      split
      · exact h
      · exact memOk_putTag _ _ _ _ h
theorem memOk_writeBackAll {s : State} (c stor : Nat) (h : MemOk s) : MemOk (s.writeBackAll c stor) :=
  MemOk.foldl (fun _ _ h => memOk_writeBack _ _ h) _ h
theorem memOk_releaseCache {s : State} (c agent stor : Nat) (h : MemOk s) : MemOk (s.releaseCache c agent stor) := by
  unfold State.releaseCache
  split
  · exact memOk_writeBackAll _ _ h
  · exact h
theorem memOk_acquireCache {s : State} (c agent stor : Nat) (h : MemOk s) : MemOk (s.acquireCache c agent stor) := by
  unfold State.acquireCache
  split
  · exact memOk_modCore _ _ (memOk_writeBackAll _ _ h)
  · exact h
theorem memOk_flushCache {s : State} (c : Nat) (h : MemOk s) : MemOk (s.flushCache c) := memOk_modCore _ _ (memOk_writeBackAll _ _ h)
theorem memOk_dropLine {s : State} (c n : Nat) (h : MemOk s) : MemOk (s.dropLine c n) :=
  memOk_modCore _ _ (MemOk.foldl (fun _ _ h => memOk_writeBack _ _ h) _ h)
theorem memOk_allocate {s : State} (c k : Nat) (h : MemOk s) : MemOk (s.allocate c k) := by
  unfold State.allocate
  dsimp only
  split
  · exact h
  · split
    · exact h
    · refine memOk_modCore _ _ (memOk_fillL2 _ _ ?_)
      split
      · exact h
      · split
        · exact h
        · exact memOk_dropLine _ _ h
theorem memOk_coreByte {s : State} (c agent : Nat) (host : Bool) (a : Nat) (h : MemOk s) : MemOk (s.coreByte c agent host a).2 := by
  have hu : MemOk (if agent ≤ 1 then s.allocate c (sectorKey host a) else s) := by
    split
    · exact memOk_allocate _ _ h
    · exact h
  unfold State.coreByte
  dsimp only
  generalize (if agent ≤ 1 then s.allocate c (sectorKey host a) else s) = u at hu ⊢
  split
  · exact hu
  · exact memOk_fillL2 _ _ hu
theorem memOk_coreRead (c agent : Nat) (l : List (Bool × Nat)) : ∀ {s : State}, MemOk s → MemOk (s.coreRead c agent l).2 := by
  induction l with
  | nil => exact fun h => h
  | cons x t ih => exact fun h => ih (memOk_coreByte _ _ _ _ h)
theorem memOk_corePut {s : State} (c agent : Nat) (host : Bool) (a : Nat) (b : Byte) (h : MemOk s) : MemOk (s.corePut c agent host a b) := by
  have hu : MemOk (if agent ≤ 1 then s.allocate c (sectorKey host a) else s) := by
    split
    · exact memOk_allocate _ _ h
    · exact h
  unfold State.corePut
  dsimp only
  generalize (if agent ≤ 1 then s.allocate c (sectorKey host a) else s) = u at hu ⊢
  split
  · refine memOk_modCore _ _ ?_
    split
    · exact hu
    · exact memOk_cohPut _ _ _ _ hu
  · exact memOk_cohPut _ _ _ _ hu
theorem memOk_endIdem {s : State} (c : Nat) (h : MemOk s) : MemOk (s.endIdem c) := by
  unfold State.endIdem
  split
  · split
    · exact memOk_modCore _ _ (memOk_commit _ (memOk_writeBackAll _ _ h))
    · exact h
  · exact h
theorem memOk_coreWrite {s : State} (c agent : Nat) (l : List (Bool × Nat × Byte)) (tag : Bool) (h : MemOk s) :
    MemOk (s.coreWrite c agent l tag) := by
  have h1 : MemOk (if l.any (·.1) then s.endIdem c else s) := by
    split
    · exact memOk_endIdem _ h
    · exact h
  have h2 : MemOk (l.foldl (fun s x => s.corePut c agent x.1 x.2.1 x.2.2) (if l.any (·.1) then s.endIdem c else s)) :=
    MemOk.foldl (fun _ _ h => memOk_corePut _ _ _ _ _ h) l h1
  unfold State.coreWrite
  dsimp only
  generalize (l.foldl (fun s x => s.corePut c agent x.1 x.2.1 x.2.2) (if l.any (·.1) then s.endIdem c else s)) = u at h2 ⊢
  have h3 : MemOk (if (u.identOf c).isSome then u
      else u.clearPoison (l.filter fun x => !(decide (agent ≤ 1) && (u.core c).cache.any (·.1 == sectorKey x.1 x.2.1)))) := by
    split
    · exact h2
    · exact memOk_clearPoison _ h2
  generalize (if (u.identOf c).isSome then u
      else u.clearPoison (l.filter fun x => !(decide (agent ≤ 1) && (u.core c).cache.any (·.1 == sectorKey x.1 x.2.1)))) = v at h3 ⊢
  split
  · exact h3
  · cases l with
    | nil => exact h3
    | cons x t =>
      refine memOk_modCore _ _ ?_
      split
      · exact h3
      · exact memOk_putTag _ _ _ _ h3
theorem memOk_noteStall {s : State} (x : StallAt) (h : MemOk s) : MemOk (s.noteStall x) := by
  unfold State.noteStall
  split
  · exact h
  · exact h.same rfl rfl rfl
theorem memOk_checkPlace {s : State} (l : List (Bool × Nat)) (h : MemOk s) : MemOk (s.checkPlace l) := by
  unfold State.checkPlace
  split <;> exact h.same rfl rfl rfl
theorem memOk_objWrite {s : State} (ctx obj off : Nat) (bs : List Byte) (h : MemOk s) : MemOk (s.objWrite ctx obj off bs) := by
  unfold State.objWrite
  split
  · exact memOk_noteStall _ h
  · exact memOk_checkPlace _ (memOk_cohWrite _ _ h)
/-- Sectors that become dirty in their slice move no byte. -/
theorem memOk_touchLines {s : State} (pa n : Nat) (h : MemOk s) :
    MemOk ((List.range n).foldl (fun (s : State) i => s.touchL2 (pa + 32 * i) .dirty) s) :=
  MemOk.foldl (fun _ _ h => memOk_touchL2 _ _ h) _ h
theorem memOk_objPutImage {s : State} (ctx obj off len : Nat) (m : Memory) (h : MemOk s) : MemOk (s.objPutImage ctx obj off len m) := by
  unfold State.objPutImage
  split
  · exact h
  · dsimp only
    split
    · exact h
    · refine MemOk.foldl (fun s i h => ?_) _ h
      split
      · have ht := fun pa n => memOk_touchLines pa n h
        exact ⟨wf_foldl_wrByte _ _ (wf_zeroBytes _ _ _ h.1), (ht _ _).2.1, (ht _ _).2.2.1, wf_filter _ _ _ (ht _ _).2.2.2⟩
      · exact h
theorem memOk_putEntry {s : State} (o : OtCmd) (f : Nat → Nat) (h : MemOk s) : MemOk (s.putEntry o f) := by
  unfold State.putEntry
  split
  · exact h
  · exact memOk_cohWrite _ _ h
theorem memOk_moveLines {s : State} (old size new : Nat) (h : MemOk s) : MemOk (s.moveLines old size new) :=
  MemOk.foldl (fun _ _ h => MemOk.foldl (fun _ _ h => memOk_touchL2 _ _ h) _ h) _ (h.same rfl rfl rfl)
theorem memOk_movePage {s : State} (o : OtCmd) (h : MemOk s) : MemOk (s.movePage o) := by
  unfold State.movePage
  split
  · exact h
  · refine memOk_putEntry _ _ ?_
    split
    · exact h
    · exact memOk_moveLines _ _ _ ⟨wf_copyTab _ _ _ _ _ h.1, h.2.1, h.2.2.1, wf_moveTab _ _ _ _ _ h.2.2.2⟩
theorem memOk_notice {s : State} (n : Notice) (h : MemOk s) : MemOk (s.notice n) := by
  unfold State.notice; split
  · exact h.same rfl rfl rfl
  · exact ⟨h.1, h.2.1, wf_wrBytes _ _ _ h.2.2.1, h.2.2.2⟩
theorem memOk_deviceReset {s : State} (ok : Bool) (r : BootRecord) (h : MemOk s) : MemOk (s.deviceReset ok r) := ⟨rfl, h.2.1, rfl, rfl⟩

end Sys2Proof.Laws
end

