-- ==== Sys2Proof/Laws/Ops.lean ====
section
/-! SUPPORT. What the shared operations of a word can do: one lemma for each, for callers to cite. -/

namespace Sys2Proof.Laws

open Sys2Proof.Machine

/-! ## Reading sources -/

/-- A read changes at most the queue register that it pops. -/
theorem read_state (s : State) (p : Port) :
    (s.read p).2 = s ∨ ∃ n, Encoding.view p = .q n ∧
      (s.read p).2 = s.modSh s.curCore fun x => x.setQueue n ((x.queue n).pop).2 := by
  unfold State.read
  cases h : Encoding.view p with
  | q n => exact .inr ⟨n, rfl, by simp⟩
  | _ => exact .inl (by simp)

/-- The value that a read gives is the port's value. -/
theorem read_value (s : State) (p : Port) : (s.read p).1 = portValue s s.curCore s.curStream p := by
  unfold State.read
  cases Encoding.view p <;> rfl

/-! ## The life of a word -/

/-- A word that is ready answers what its body leaves, and its next word. -/
theorem issueWord_ready {i : Instr} {s u : State} {body : State → Out} (h : s.ready i = true) (hb : body s = .done u) :
    issueWord i s body = .next (s.after u) := by
  simp only [State.ready, State.issues, State.encodes, State.guarded, State.hasNext, Bool.and_eq_true, decide_eq_true_eq] at h
  obtain ⟨⟨⟨⟨he, hg⟩, hp⟩, hl⟩, hn⟩ := h
  rw [Option.isNone_iff_eq_none] at hl
  cases hh : Encoding.hdr i with
  | none => simp [hh] at he
  | some x =>
    simp only [hh] at he hg
    have he' : encodingFault (portFile s s.curCore s.curStream) s.curStream i x = none := by simpa using he
    have hb' : ¬(((s.stream s.curCore s.curStream).codeLen : Int) ≤ ((s.stream s.curCore s.curStream).pc : Int) + 1) := by
      simp only [State.own] at hn; omega
    simp only [State.own] at hg
    simp only [State.now] at hp
    have hneg : ¬(((s.stream s.curCore s.curStream).pc : Int) + 1 < 0) := by omega
    simp only [issueWord, hh, he', hg, hl, hb, finishWord, State.after, State.own, hb', hneg]
    simp at hp ⊢
    simp only [hp]
    split
    · simp_all
    · simp_all
      split <;> rfl
end Sys2Proof.Laws
end

