-- ==== Sys2Proof/Laws/Shared.lean ====
section
/-! SUPPORT. What the operations that instructions share can do, one lemma each: delivering a result, entering an access, retiring,
blocking, faulting, resuming and landing change one core's record and the number in issue order, and no memory. -/

namespace Sys2Proof.Laws

open Sys2Proof.Machine

/-! ## Two updates of one core are one -/

theorem tabPut_put {α : Type} (t : Tab α) (k : Nat) (v w : α) : tabPut (tabPut t k v) k w = tabPut t k w := by
  induction t with
  | nil => simp [tabPut]
  | cons p t ih =>
    obtain ⟨j, u⟩ := p
    by_cases h1 : k < j
    · simp [tabPut, h1]
    · by_cases h2 : k = j
      · subst h2; simp [tabPut]
      · simp [tabPut, h1, h2, ih]
theorem modCore_modCore (s : State) (c : Nat) (f g : Core → Core) : (s.modCore c f).modCore c g = s.modCore c fun x => g (f x) := by
  have h : (s.modCore c f).core c = f (s.core c) := State.core_modCore_same s c f
  show State.setCore _ c (g ((s.modCore c f).core c)) = _
  rw [h]
  show ({ s with cores := tabPut (tabPut s.cores c _) c _ } : State) = { s with cores := tabPut s.cores c _ }
  rw [tabPut_put]

/-! ## The operations -/

/-- A result that leaves a word: one number is taken, a queue register may reserve or take an entry, and at most one result more is in
flight. -/
theorem deliverTo_core (s : State) (unit lat : Nat) (p : Port) (val : BitVec 1024) (flags : BitVec 6) (tag : Bool) :
    ∃ f : Core → Core, s.deliverTo unit lat p val flags tag = s.tickSeq.modCore s.curCore f ∧ ∀ x, ∃ l q,
      f x = { x with sh := { x.sh with q := q }, flight := x.flight ++ l } ∧ l.length ≤ 1 := by
  unfold State.deliverTo
  dsimp only
  split
  · split
    · exact ⟨_, rfl, fun x => ⟨[], _, by simp [Shared.setQueue]; rfl, by simp⟩⟩
    · exact ⟨_, modCore_modCore _ _ _ _, fun x => ⟨[_], _, rfl, by simp⟩⟩
  · exact ⟨_, rfl, fun x => ⟨[_], x.sh.q, rfl, by simp⟩⟩
/-- An access that enters: one number is taken, a queue register may reserve an entry, and the access is the youngest of its core. -/
theorem enter_core (s : State) (a : Access) (w : BitVec 3) (p : Option Port) :
    ∃ f : Core → Core, s.enter a w p = s.tickSeq.modCore s.curCore f ∧ ∀ x, ∃ b q,
      f x = { x with sh := { x.sh with q := q }, acc := x.acc ++ [b] } ∧ b.id = s.seq ∧ b.stream = s.curStream ∧ b.kind = a.kind := by
  unfold State.enter
  dsimp only
  split
  · exact ⟨_, modCore_modCore _ _ _ _, fun x => ⟨_, _, rfl, rfl, rfl, rfl⟩⟩
  · exact ⟨_, rfl, fun x => ⟨_, x.sh.q, rfl, rfl, rfl, rfl⟩⟩
/-- A word that issues: its stream's next word and counters. -/
theorem retire_core (s : State) (c st next : Nat) (taken : Bool) : ∃ f : Stream → Stream, s.retire c st next taken = s.modStream c st f ∧
    ∀ t, ∃ perf, f t = { t with pc := next, idleLoaded := false, replays := 0, verdict := if taken then .taken else .issued, perf := perf } := by
  refine ⟨_, rfl, fun t => ?_⟩
  cases taken <;> exact ⟨_, rfl⟩
/-- A word that blocks changes the verdict of its stream alone. -/
theorem block_core (s : State) (c st : Nat) : s.block c st = s.modStream c st fun t => { t with verdict := .blocked } := rfl
/-- The pops of a word change queue registers alone. -/
theorem popAll_core (s : State) (c : Nat) (i : Instr) : ∃ f : Shared → Shared, s.popAll c i = s.modSh c f ∧
    ∀ x, ∃ q, f x = { x with q := q } := by
  refine ⟨_, rfl, fun x => ?_⟩
  induction popsOf i generalizing x with
  | nil => exact ⟨x.q, rfl⟩
  | cons n l ih =>
    obtain ⟨q, h⟩ := ih (x.setQueue n ((x.queue n).pop).2)
    exact ⟨q, by rw [List.foldl_cons, h]; rfl⟩
/-- A core's fault writes its frame, STOPPING and the mark that a synchronous trap was taken in this cycle alone. -/
theorem core_takeFault (x : Core) (st : Option Nat) (cls : Nat) (info : Word) (after : Bool) :
    ∃ frame stop trap, x.takeFault st cls info after = { x with frame := frame, stopping := stop, trapped := trap } := by
  unfold Core.takeFault
  dsimp only
  split
  · exact ⟨_, _, _, rfl⟩
  · split
    · exact ⟨_, _, _, rfl⟩
    · split <;> exact ⟨_, _, _, rfl⟩
/-- The shared entry of exceptions, in a core: its frame, STOPPING, and the verdict of a stream that faulted before its word issued. -/
theorem takeFault_core (s : State) (c : Nat) (st : Option Nat) (cls : Nat) (info : Word) (after : Bool) (hc : c < 128) :
    s.takeFault c st cls info after = s.modCore c fun x => match st with
      | some n => if after then x.takeFault st cls info after
          else (x.takeFault st cls info after).modStream n fun t => { t with verdict := .faulted }
      | none => x.takeFault st cls info after := by
  unfold State.takeFault
  have hl : ¬(isLbp c = true) := by simp [isLbp]; omega
  cases st <;> exact (if_neg hl).trans rfl
/-- A fault writes no memory. -/
theorem memOk_takeFault {s : State} (c : Nat) (st : Option Nat) (cls : Nat) (info : Word) (after : Bool) (h : MemOk s) :
    MemOk (s.takeFault c st cls info after) := by
  unfold State.takeFault
  split <;> exact h.same rfl rfl rfl
theorem resume_streams (x : Core) (l : List Nat) (f : Nat → Stream → Stream) :
    ∃ streams, l.foldl (fun (y : Core) n => y.modStream n (f n)) x = { x with streams := streams } := by
  induction l generalizing x with
  | nil => exact ⟨x.streams, rfl⟩
  | cons n l ih =>
    obtain ⟨q, h⟩ := ih (x.modStream n (f n))
    exact ⟨q, by rw [List.foldl_cons, h]; rfl⟩
/-- The return from a fault: the core runs, its frame is clear, its held accesses and its engines go on, and else its streams alone
change. -/
theorem resume_core (x : Core) : ∃ streams pc engines, x.resume = { x with
    tt := .run, frame := {}, ffl := { x.frame with pcs := [] }, fflPc := pc, streams := streams, sh := { x.sh with engines := engines },
    acc := x.acc.map fun a => { a with held := false, translated := a.translated && !a.held } } := by
  unfold Core.resume
  obtain ⟨q, h⟩ := resume_streams x (List.range 10) fun n t =>
    if t.ended then t else { t with pc := x.frame.pcOf n, idleLoaded := false, verdict := .none }
  exact ⟨q, _, _, by dsimp only; rw [h]⟩

end Sys2Proof.Laws
end

