-- ==== Sys2Proof/Laws/Words.lean ====
section
/-! SUPPORT. What every word does as a word: its ways through the life of a word, and that its meaning is that life. -/

namespace Sys2Proof.Laws

open Sys2Proof.Machine

/-- A word whose encoding faults answers the fault, whatever its body. -/
theorem issueWord_fault {i : Instr} {s : State} {body : State → Out} {h : Hdr} {f} (hh : Encoding.hdr i = some h)
   (hf : encodingFault (portFile s s.curCore s.curStream) s.curStream i h = some f) :
   issueWord i s body = .next (s.takeFault s.curCore (some s.curStream) f.1 f.2 false) := by
  simp [issueWord, hh, hf]
/-- What it means that a word raises no encoding fault. -/
theorem encodes_iff {s : State} {i : Instr} : s.encodes i = true ↔ ∃ h, Encoding.hdr i = some h ∧
   encodingFault (portFile s s.curCore s.curStream) s.curStream i h = none := by
  unfold State.encodes; cases Encoding.hdr i <;> simp
/-- A word whose guard is false answers the advance of its stream, whatever its body. -/
theorem issueWord_unguarded {i : Instr} {s : State} {body : State → Out} (he : s.encodes i = true) (hg : s.guarded i = false)
   (hn : s.hasNext = true) : issueWord i s body = .next (s.retire s.curCore s.curStream (s.own.pc + 1) false) := by
  obtain ⟨h, hh, hf⟩ := encodes_iff.mp he
  simp [State.guarded, hh, State.own] at hg
  have hn' : ¬ (s.stream s.curCore s.curStream).codeLen ≤ (s.stream s.curCore s.curStream).pc + 1 := by
    have hn2 : s.own.pc + 1 < s.own.codeLen := of_decide_eq_true hn
    simp only [State.own] at hn2; omega
  simp [issueWord, hh, hf, hg, guardedOff, State.own, hn']
/-- A word that a queue register stands in the way of blocks, whatever its body. -/
theorem issueWord_blocked {i : Instr} {s : State} {body : State → Out} (he : s.encodes i = true) (hg : s.guarded i = true)
   (hp : portsBlocked s.now i = true) : issueWord i s body = .next (s.block s.curCore s.curStream) := by
  obtain ⟨h, hh, hf⟩ := encodes_iff.mp he
  simp [State.guarded, hh, State.own] at hg
  simp [State.now] at hp
  simp [issueWord, hh, hf, hg, hp]

/-- A word that issues and whose body traps answers the fault that the body names. -/
theorem issueWord_trap {i : Instr} {s u : State} {body : State → Out} {cls info} (h : s.issues i = true) (hb : body s = .trap u cls info) :
   issueWord i s body = .next (u.takeFault s.curCore (some s.curStream) cls info false) := by
  simp only [State.issues, State.encodes, State.guarded, Bool.and_eq_true] at h
  obtain ⟨⟨⟨he, hg⟩, hp⟩, hl⟩ := h
  rw [Option.isNone_iff_eq_none] at hl
  cases hh : Encoding.hdr i with
  | none => simp [hh] at he
  | some x =>
    simp only [hh] at he hg
    have he' : encodingFault (portFile s s.curCore s.curStream) s.curStream i x = none := by simpa using he
    simp only [State.own] at hg
    simp only [State.now] at hp
    simp only [issueWord, hh, he', hg, hl, hb, finishWord]
    simp at hp ⊢
    simp [hp]
/-- A word that issues and whose body transfers to a word of its code object answers the transfer. -/
theorem issueWord_goto {i : Instr} {s u : State} {body : State → Out} {n : Int} (h : s.issues i = true) (hb : body s = .goto u n)
    (hn : s.inCode n = true) : issueWord i s body = .next (s.jump u n) := by
  simp only [State.issues, State.encodes, State.guarded, Bool.and_eq_true] at h
  obtain ⟨⟨⟨he, hg⟩, hp⟩, hl⟩ := h
  rw [Option.isNone_iff_eq_none] at hl
  cases hh : Encoding.hdr i with
  | none => simp [hh] at he
  | some x =>
    simp only [hh] at he hg
    have he' : encodingFault (portFile s s.curCore s.curStream) s.curStream i x = none := by simpa using he
    simp only [State.own] at hg
    simp only [State.inCode, Bool.and_eq_true, decide_eq_true_eq] at hn
    simp only [State.own] at hn
    have h1 : ¬ n < 0 := by omega
    have h2 : ¬ ((s.stream s.curCore s.curStream).codeLen : Int) ≤ n := by omega
    simp only [State.now] at hp
    simp only [issueWord, hh, he', hg, hl, hb, finishWord, h1, h2, State.jump]
    simp at hp ⊢
    simp [hp]
/-- A transfer outside the code object is the illegal instruction at the word, which writes nothing but its pops. -/
theorem issueWord_astray {i : Instr} {s u : State} {body : State → Out} {n : Int} (h : s.issues i = true) (hb : body s = .goto u n)
    (hn : s.inCode n = false) : issueWord i s body =
      .next ((s.popAll s.curCore i).takeFault s.curCore (some s.curStream) 1 (illegalInfo (Encoding.opcode i)) false) := by
  simp only [State.issues, State.encodes, State.guarded, Bool.and_eq_true] at h
  obtain ⟨⟨⟨he, hg⟩, hp⟩, hl⟩ := h
  rw [Option.isNone_iff_eq_none] at hl
  cases hh : Encoding.hdr i with
  | none => simp [hh] at he
  | some x =>
    simp only [hh] at he hg
    have he' : encodingFault (portFile s s.curCore s.curStream) s.curStream i x = none := by simpa using he
    have h1 : (decide (n < 0) || decide (((s.stream s.curCore s.curStream).codeLen : Int) ≤ n)) = true := by
      simp only [State.inCode, Bool.and_eq_false_iff, decide_eq_false_iff_not] at hn
      simp only [State.own] at hn
      simp only [Bool.or_eq_true, decide_eq_true_eq]; omega
    simp only [State.own] at hg
    simp only [State.now] at hp
    simp only [issueWord, hh, he', hg, hl, hb, finishWord]
    simp at hp h1 ⊢
    simp [hp, h1]
/-- A word that issues and whose body waits blocks in the state that the body leaves. -/
theorem issueWord_wait {i : Instr} {s u : State} {body : State → Out} (h : s.issues i = true) (hb : body s = .wait u) :
   issueWord i s body = .next (u.block s.curCore s.curStream) := by
  simp only [State.issues, State.encodes, State.guarded, Bool.and_eq_true] at h
  obtain ⟨⟨⟨he, hg⟩, hp⟩, hl⟩ := h
  rw [Option.isNone_iff_eq_none] at hl
  cases hh : Encoding.hdr i with
  | none => simp [hh] at he
  | some x =>
    simp only [hh] at he hg
    have he' : encodingFault (portFile s s.curCore s.curStream) s.curStream i x = none := by simpa using he
    simp only [State.own] at hg
    simp only [State.now] at hp
    simp only [issueWord, hh, he', hg, hl, hb, finishWord]
    simp at hp ⊢
    simp [hp]
/-- A read changes no completion record. -/
theorem read_comp (s : State) (p e) : ((s.read p).2.sh s.curCore).compRec e = (s.sh s.curCore).compRec e := by
  rcases read_state s p with h | ⟨n, -, h⟩ <;> rw [h]
  simp [Shared.setQueue, Shared.compRec]
/-- A read does not move the cursor. -/
theorem read_cc (s : State) (p) : (s.read p).2.curCore = s.curCore ∧ (s.read p).2.curStream = s.curStream := by
  rcases read_state s p with h | ⟨n, -, h⟩ <;> rw [h] <;> simp
/-- A ready integer word of two sources answers its result. -/
theorem binaryWord_ready {i : Instr} {s : State} {u l d a b f} (h : s.ready i = true) : binaryWord i u l d a b f s = .next (s.after (s.gives2 u l d a b f)) := issueWord_ready h rfl
/-- A ready integer word of one source answers its result. -/
theorem unaryWord_ready {i : Instr} {s : State} {u l d a f} (h : s.ready i = true) : unaryWord i u l d a f s = .next (s.after (s.gives1 u l d a f)) := issueWord_ready h rfl
/-- A ready vector word of two sources answers its result. -/
theorem vec2_ready {i : Instr} {s : State} {u l d a b f} (h : s.ready i = true) : vec2 i u l d a b f s = .next (s.after (s.givesV2 u l d a b f)) := issueWord_ready h rfl
/-- A ready vector word of one source answers its result. -/
theorem vec1_ready {i : Instr} {s : State} {u l d a f} (h : s.ready i = true) : vec1 i u l d a f s = .next (s.after (s.givesV1 u l d a f)) := issueWord_ready h rfl
/-- The meaning of every word is the life of a word around a body of its own. -/
theorem exec_issues (i : Instr) (s : State) (hi : (Encoding.hdr i).isSome = true) : ∃ body, exec i s = issueWord i s body := by
  cases i with
  | nop h =>
    show ∃ body, execNop h s = issueWord _ s body
    unfold execNop
    exact ⟨_, rfl⟩
  | add h d a b ty =>
    show ∃ body, execAdd h d a b ty s = issueWord _ s body
    unfold execAdd binaryWord
    exact ⟨_, rfl⟩
  | sub h d a b ty =>
    show ∃ body, execSub h d a b ty s = issueWord _ s body
    unfold execSub binaryWord
    exact ⟨_, rfl⟩
  | mul h d a b ty =>
    show ∃ body, execMul h d a b ty s = issueWord _ s body
    unfold execMul binaryWord
    exact ⟨_, rfl⟩
  | mulh h d a b ty =>
    show ∃ body, execMulh h d a b ty s = issueWord _ s body
    unfold execMulh binaryWord
    exact ⟨_, rfl⟩
  | mulhn h d a b ty =>
    show ∃ body, execMulhn h d a b ty s = issueWord _ s body
    unfold execMulhn binaryWord
    exact ⟨_, rfl⟩
  | div h d a b ty =>
    show ∃ body, execDiv h d a b ty s = issueWord _ s body
    unfold execDiv binaryWord
    exact ⟨_, rfl⟩
  | divn h d a b ty =>
    show ∃ body, execDivn h d a b ty s = issueWord _ s body
    unfold execDivn binaryWord
    exact ⟨_, rfl⟩
  | rem h d a b ty =>
    show ∃ body, execRem h d a b ty s = issueWord _ s body
    unfold execRem binaryWord
    exact ⟨_, rfl⟩
  | remn h d a b ty =>
    show ∃ body, execRemn h d a b ty s = issueWord _ s body
    unfold execRemn binaryWord
    exact ⟨_, rfl⟩
  | and h d a b ty =>
    show ∃ body, execAnd h d a b ty s = issueWord _ s body
    unfold execAnd binaryWord
    exact ⟨_, rfl⟩
  | or h d a b ty =>
    show ∃ body, execOr h d a b ty s = issueWord _ s body
    unfold execOr binaryWord
    exact ⟨_, rfl⟩
  | xor h d a b ty =>
    show ∃ body, execXor h d a b ty s = issueWord _ s body
    unfold execXor binaryWord
    exact ⟨_, rfl⟩
  | andn h d a b ty =>
    show ∃ body, execAndn h d a b ty s = issueWord _ s body
    unfold execAndn binaryWord
    exact ⟨_, rfl⟩
  | shl h d a b ty =>
    show ∃ body, execShl h d a b ty s = issueWord _ s body
    unfold execShl binaryWord
    exact ⟨_, rfl⟩
  | shr h d a b ty =>
    show ∃ body, execShr h d a b ty s = issueWord _ s body
    unfold execShr binaryWord
    exact ⟨_, rfl⟩
  | sar h d a b ty =>
    show ∃ body, execSar h d a b ty s = issueWord _ s body
    unfold execSar binaryWord
    exact ⟨_, rfl⟩
  | rot h d a b ty =>
    show ∃ body, execRot h d a b ty s = issueWord _ s body
    unfold execRot binaryWord
    exact ⟨_, rfl⟩
  | cmp h d a b cond wd =>
    show ∃ body, execCmp h d a b cond wd s = issueWord _ s body
    unfold execCmp binaryWord
    exact ⟨_, rfl⟩
  | min h d a b ty =>
    show ∃ body, execMin h d a b ty s = issueWord _ s body
    unfold execMin binaryWord
    exact ⟨_, rfl⟩
  | max h d a b ty =>
    show ∃ body, execMax h d a b ty s = issueWord _ s body
    unfold execMax binaryWord
    exact ⟨_, rfl⟩
  | minn h d a b ty =>
    show ∃ body, execMinn h d a b ty s = issueWord _ s body
    unfold execMinn binaryWord
    exact ⟨_, rfl⟩
  | maxn h d a b ty =>
    show ∃ body, execMaxn h d a b ty s = issueWord _ s body
    unfold execMaxn binaryWord
    exact ⟨_, rfl⟩
  | clz h d a ty =>
    show ∃ body, execClz h d a ty s = issueWord _ s body
    unfold execClz unaryWord
    exact ⟨_, rfl⟩
  | popc h d a ty =>
    show ∃ body, execPopc h d a ty s = issueWord _ s body
    unfold execPopc unaryWord
    exact ⟨_, rfl⟩
  | sel h d a b k =>
    show ∃ body, execSel h d a b k s = issueWord _ s body
    unfold execSel binaryWord
    exact ⟨_, rfl⟩
  | ldi h d imm =>
    show ∃ body, execLdi h d imm s = issueWord _ s body
    unfold execLdi
    exact ⟨_, rfl⟩
  | ldih h d imm =>
    show ∃ body, execLdih h d imm s = issueWord _ s body
    unfold execLdih
    exact ⟨_, rfl⟩
  | mov h d a =>
    show ∃ body, execMov h d a s = issueWord _ s body
    unfold execMov
    exact ⟨_, rfl⟩
  | capadd h d a b n =>
    show ∃ body, execCapadd h d a b n s = issueWord _ s body
    unfold execCapadd capWord
    exact ⟨_, rfl⟩
  | capsetWin h d a b =>
    show ∃ body, execCapsetWin h d a b s = issueWord _ s body
    unfold execCapsetWin capWord
    exact ⟨_, rfl⟩
  | capsetRights h d a b =>
    show ∃ body, execCapsetRights h d a b s = issueWord _ s body
    unfold execCapsetRights capWord
    exact ⟨_, rfl⟩
  | capsetCur h d a b =>
    show ∃ body, execCapsetCur h d a b s = issueWord _ s body
    unfold execCapsetCur capWord
    exact ⟨_, rfl⟩
  | capsetUntag h d a b =>
    show ∃ body, execCapsetUntag h d a b s = issueWord _ s body
    unfold execCapsetUntag capWord
    exact ⟨_, rfl⟩
  | capget h d a fld =>
    show ∃ body, execCapget h d a fld s = issueWord _ s body
    unfold execCapget
    exact ⟨_, rfl⟩
  | vadd h d a b ty =>
    show ∃ body, execVadd h d a b ty s = issueWord _ s body
    unfold execVadd laneWord2 vec2
    exact ⟨_, rfl⟩
  | vsub h d a b ty =>
    show ∃ body, execVsub h d a b ty s = issueWord _ s body
    unfold execVsub laneWord2 vec2
    exact ⟨_, rfl⟩
  | vmul h d a b ty =>
    show ∃ body, execVmul h d a b ty s = issueWord _ s body
    unfold execVmul laneWord2 vec2
    exact ⟨_, rfl⟩
  | vmulh h d a b ty =>
    show ∃ body, execVmulh h d a b ty s = issueWord _ s body
    unfold execVmulh laneWord2 vec2
    exact ⟨_, rfl⟩
  | vmulw h d a b ty =>
    show ∃ body, execVmulw h d a b ty s = issueWord _ s body
    unfold execVmulw vec2
    exact ⟨_, rfl⟩
  | vfma h d a b ty =>
    show ∃ body, execVfma h d a b ty s = issueWord _ s body
    unfold execVfma laneWord3 vec2
    exact ⟨_, rfl⟩
  | vfms h d a b ty =>
    show ∃ body, execVfms h d a b ty s = issueWord _ s body
    unfold execVfms laneWord3 vec2
    exact ⟨_, rfl⟩
  | vfnma h d a b ty =>
    show ∃ body, execVfnma h d a b ty s = issueWord _ s body
    unfold execVfnma laneWord3 vec2
    exact ⟨_, rfl⟩
  | vdiv h d a b ty =>
    show ∃ body, execVdiv h d a b ty s = issueWord _ s body
    unfold execVdiv laneWord2 vec2
    exact ⟨_, rfl⟩
  | vsqrt h d a ty =>
    show ∃ body, execVsqrt h d a ty s = issueWord _ s body
    unfold execVsqrt floatWord laneWord1 vec1
    exact ⟨_, rfl⟩
  | vrcp h d a ty =>
    show ∃ body, execVrcp h d a ty s = issueWord _ s body
    unfold execVrcp floatWord laneWord1 vec1
    exact ⟨_, rfl⟩
  | vrsq h d a ty =>
    show ∃ body, execVrsq h d a ty s = issueWord _ s body
    unfold execVrsq floatWord laneWord1 vec1
    exact ⟨_, rfl⟩
  | vexp2 h d a ty =>
    show ∃ body, execVexp2 h d a ty s = issueWord _ s body
    unfold execVexp2 laneWord1 vec1
    exact ⟨_, rfl⟩
  | vlog2 h d a ty =>
    show ∃ body, execVlog2 h d a ty s = issueWord _ s body
    unfold execVlog2 laneWord1 vec1
    exact ⟨_, rfl⟩
  | vmin h d a b ty =>
    show ∃ body, execVmin h d a b ty s = issueWord _ s body
    unfold execVmin laneWord2 vec2
    exact ⟨_, rfl⟩
  | vmax h d a b ty =>
    show ∃ body, execVmax h d a b ty s = issueWord _ s body
    unfold execVmax laneWord2 vec2
    exact ⟨_, rfl⟩
  | vabs h d a ty =>
    show ∃ body, execVabs h d a ty s = issueWord _ s body
    unfold execVabs laneWord1 vec1
    exact ⟨_, rfl⟩
  | vneg h d a ty =>
    show ∃ body, execVneg h d a ty s = issueWord _ s body
    unfold execVneg laneWord1 vec1
    exact ⟨_, rfl⟩
  | vand h d a b ty =>
    show ∃ body, execVand h d a b ty s = issueWord _ s body
    unfold execVand laneWord2 vec2
    exact ⟨_, rfl⟩
  | vor h d a b ty =>
    show ∃ body, execVor h d a b ty s = issueWord _ s body
    unfold execVor laneWord2 vec2
    exact ⟨_, rfl⟩
  | vxor h d a b ty =>
    show ∃ body, execVxor h d a b ty s = issueWord _ s body
    unfold execVxor laneWord2 vec2
    exact ⟨_, rfl⟩
  | vshl h d a b ty =>
    show ∃ body, execVshl h d a b ty s = issueWord _ s body
    unfold execVshl laneWord2 vec2
    exact ⟨_, rfl⟩
  | vshr h d a b ty =>
    show ∃ body, execVshr h d a b ty s = issueWord _ s body
    unfold execVshr laneWord2 vec2
    exact ⟨_, rfl⟩
  | vsar h d a b ty =>
    show ∃ body, execVsar h d a b ty s = issueWord _ s body
    unfold execVsar laneWord2 vec2
    exact ⟨_, rfl⟩
  | vpopc h d a ty =>
    show ∃ body, execVpopc h d a ty s = issueWord _ s body
    unfold execVpopc laneWord1 vec1
    exact ⟨_, rfl⟩
  | vclz h d a ty =>
    show ∃ body, execVclz h d a ty s = issueWord _ s body
    unfold execVclz laneWord1 vec1
    exact ⟨_, rfl⟩
  | vcmp h d a b md =>
    show ∃ body, execVcmp h d a b md s = issueWord _ s body
    unfold execVcmp vec2
    exact ⟨_, rfl⟩
  | vsel h d a b ty =>
    show ∃ body, execVsel h d a b ty s = issueWord _ s body
    unfold execVsel vec2
    exact ⟨_, rfl⟩
  | vmerge h d a b ty =>
    show ∃ body, execVmerge h d a b ty s = issueWord _ s body
    unfold execVmerge vec2
    exact ⟨_, rfl⟩
  | vdot4 h d a b ty =>
    show ∃ body, execVdot4 h d a b ty s = issueWord _ s body
    unfold execVdot4 dotWord vec2
    exact ⟨_, rfl⟩
  | vdot2 h d a b ty =>
    show ∃ body, execVdot2 h d a b ty s = issueWord _ s body
    unfold execVdot2 dotWord vec2
    exact ⟨_, rfl⟩
  | vreds h d a b ty =>
    show ∃ body, execVreds h d a b ty s = issueWord _ s body
    unfold execVreds vec2
    exact ⟨_, rfl⟩
  | vredx h d a b ty =>
    show ∃ body, execVredx h d a b ty s = issueWord _ s body
    unfold execVredx vec2
    exact ⟨_, rfl⟩
  | vscan h d a b ty =>
    show ∃ body, execVscan h d a b ty s = issueWord _ s body
    unfold execVscan vec2
    exact ⟨_, rfl⟩
  | vclmul h d a b ty =>
    show ∃ body, execVclmul h d a b ty s = issueWord _ s body
    unfold execVclmul laneWord2 vec2
    exact ⟨_, rfl⟩
  | vperm h d a b ty =>
    show ∃ body, execVperm h d a b ty s = issueWord _ s body
    unfold execVperm permWord vec2
    exact ⟨_, rfl⟩
  | vshuf h d a b ty =>
    show ∃ body, execVshuf h d a b ty s = issueWord _ s body
    unfold execVshuf permWord vec2
    exact ⟨_, rfl⟩
  | vbcast h d a b ty =>
    show ∃ body, execVbcast h d a b ty s = issueWord _ s body
    unfold execVbcast permWord vec2
    exact ⟨_, rfl⟩
  | vslide h d a b ty =>
    show ∃ body, execVslide h d a b ty s = issueWord _ s body
    unfold execVslide permWord vec2
    exact ⟨_, rfl⟩
  | vcompr h d a b ty =>
    show ∃ body, execVcompr h d a b ty s = issueWord _ s body
    unfold execVcompr permWord vec2
    exact ⟨_, rfl⟩
  | vexpnd h d a b ty =>
    show ∃ body, execVexpnd h d a b ty s = issueWord _ s body
    unfold execVexpnd permWord vec2
    exact ⟨_, rfl⟩
  | viota h d a ty =>
    show ∃ body, execViota h d a ty s = issueWord _ s body
    unfold execViota vec1
    exact ⟨_, rfl⟩
  | vcvt h d a st ty =>
    show ∃ body, execVcvt h d a st ty s = issueWord _ s body
    unfold execVcvt vec1
    exact ⟨_, rfl⟩
  | vpack h d a b ty =>
    show ∃ body, execVpack h d a b ty s = issueWord _ s body
    unfold execVpack vec2
    exact ⟨_, rfl⟩
  | vunpk h d a b ty =>
    show ∃ body, execVunpk h d a b ty s = issueWord _ s body
    unfold execVunpk vec2
    exact ⟨_, rfl⟩
  | vround h d a ty =>
    show ∃ body, execVround h d a ty s = issueWord _ s body
    unfold execVround laneWord1 vec1
    exact ⟨_, rfl⟩
  | vqnt h d a b ty =>
    show ∃ body, execVqnt h d a b ty s = issueWord _ s body
    unfold execVqnt vec2
    exact ⟨_, rfl⟩
  | vdqnt h d a b ty =>
    show ∃ body, execVdqnt h d a b ty s = issueWord _ s body
    unfold execVdqnt vec2
    exact ⟨_, rfl⟩
  | kand h d a b =>
    show ∃ body, execKand h d a b s = issueWord _ s body
    unfold execKand kWord2 binaryWord
    exact ⟨_, rfl⟩
  | kor h d a b =>
    show ∃ body, execKor h d a b s = issueWord _ s body
    unfold execKor kWord2 binaryWord
    exact ⟨_, rfl⟩
  | kxor h d a b =>
    show ∃ body, execKxor h d a b s = issueWord _ s body
    unfold execKxor kWord2 binaryWord
    exact ⟨_, rfl⟩
  | knot h d a =>
    show ∃ body, execKnot h d a s = issueWord _ s body
    unfold execKnot kWord1 unaryWord
    exact ⟨_, rfl⟩
  | kpopc h d a =>
    show ∃ body, execKpopc h d a s = issueWord _ s body
    unfold execKpopc kWord1 unaryWord
    exact ⟨_, rfl⟩
  | kfirst h d a =>
    show ∃ body, execKfirst h d a s = issueWord _ s body
    unfold execKfirst kWord1 unaryWord
    exact ⟨_, rfl⟩
  | kmov h d a =>
    show ∃ body, execKmov h d a s = issueWord _ s body
    unfold execKmov kWord1 unaryWord
    exact ⟨_, rfl⟩
  | kmovFirst h d a =>
    show ∃ body, execKmovFirst h d a s = issueWord _ s body
    unfold execKmovFirst kWord1 unaryWord
    exact ⟨_, rfl⟩
  | nestw h tbl lvl src =>
    show ∃ body, execNestw h tbl lvl src s = issueWord _ s body
    unfold execNestw
    exact ⟨_, rfl⟩
  | nestr h gd tbl lvl copy half =>
    show ∃ body, execNestr h gd tbl lvl copy half s = issueWord _ s body
    unfold execNestr
    exact ⟨_, rfl⟩
  | go h mask src =>
    show ∃ body, execGo h mask src s = issueWord _ s body
    unfold execGo commandWord
    exact ⟨_, rfl⟩
  | nstat h gd tbl sel =>
    show ∃ body, execNstat h gd tbl sel s = issueWord _ s body
    unfold execNstat
    exact ⟨_, rfl⟩
  | fmtw h idx src =>
    show ∃ body, execFmtw h idx src s = issueWord _ s body
    unfold execFmtw
    exact ⟨_, rfl⟩
  | fmtsel h en lvl =>
    show ∃ body, execFmtsel h en lvl s = issueWord _ s body
    unfold execFmtsel
    exact ⟨_, rfl⟩
  | mma h close last gang kc =>
    show ∃ body, execMma h close last gang kc s = issueWord _ s body
    unfold execMma plainCommand commandWord
    exact ⟨_, rfl⟩
  | mmac h close last gang kc =>
    show ∃ body, execMmac h close last gang kc s = issueWord _ s body
    unfold execMmac plainCommand commandWord
    exact ⟨_, rfl⟩
  | ringcfg h gd sn dn =>
    show ∃ body, execRingcfg h gd sn dn s = issueWord _ s body
    unfold execRingcfg
    exact ⟨_, rfl⟩
  | rhead h gd =>
    show ∃ body, execRhead h gd s = issueWord _ s body
    unfold execRhead
    exact ⟨_, rfl⟩
  | rpop h =>
    show ∃ body, execRpop h s = issueWord _ s body
    unfold execRpop plainCommand commandWord
    exact ⟨_, rfl⟩
  | rdiscard h =>
    show ∃ body, execRdiscard h s = issueWord _ s body
    unfold execRdiscard plainCommand commandWord
    exact ⟨_, rfl⟩
  | epcfgAct h act =>
    show ∃ body, execEpcfgAct h act s = issueWord _ s body
    unfold execEpcfgAct plainCommand commandWord
    exact ⟨_, rfl⟩
  | epcfgBias h hn en =>
    show ∃ body, execEpcfgBias h hn en s = issueWord _ s body
    unfold execEpcfgBias plainCommand commandWord
    exact ⟨_, rfl⟩
  | epcfgScale h hn en =>
    show ∃ body, execEpcfgScale h hn en s = issueWord _ s body
    unfold execEpcfgScale plainCommand commandWord
    exact ⟨_, rfl⟩
  | epcfgLo h src =>
    show ∃ body, execEpcfgLo h src s = issueWord _ s body
    unfold execEpcfgLo srcCommand commandWord
    exact ⟨_, rfl⟩
  | epcfgHi h src =>
    show ∃ body, execEpcfgHi h src s = issueWord _ s body
    unfold execEpcfgHi srcCommand commandWord
    exact ⟨_, rfl⟩
  | eprun h hn =>
    show ∃ body, execEprun h hn s = issueWord _ s body
    unfold execEprun plainCommand commandWord
    exact ⟨_, rfl⟩
  | deckld h cn src units =>
    show ∃ body, execDeckld h cn src units s = issueWord _ s body
    unfold execDeckld srcCommand commandWord
    exact ⟨_, rfl⟩
  | decksel h units =>
    show ∃ body, execDecksel h units s = issueWord _ s body
    unfold execDecksel plainCommand commandWord
    exact ⟨_, rfl⟩
  | ccnt h gd eng =>
    show ∃ body, execCcnt h gd eng s = issueWord _ s body
    unfold execCcnt
    exact ⟨_, rfl⟩
  | ccons h eng n =>
    show ∃ body, execCcons h eng n s = issueWord _ s body
    unfold execCcons
    exact ⟨_, rfl⟩
  | cdisc h eng n =>
    show ∃ body, execCdisc h eng n s = issueWord _ s body
    unfold execCdisc
    exact ⟨_, rfl⟩
  | cdiscAll h eng =>
    show ∃ body, execCdiscAll h eng s = issueWord _ s body
    unfold execCdiscAll
    exact ⟨_, rfl⟩
  | pace h eng gap =>
    show ∃ body, execPace h eng gap s = issueWord _ s body
    unfold execPace
    exact ⟨_, rfl⟩
  | astage h cn kn src =>
    show ∃ body, execAstage h cn kn src s = issueWord _ s body
    unfold execAstage srcCommand commandWord
    exact ⟨_, rfl⟩
  | patch h hn src keep =>
    show ∃ body, execPatch h hn src keep s = issueWord _ s body
    unfold execPatch srcCommand commandWord
    exact ⟨_, rfl⟩
  | cellw h src item cell =>
    show ∃ body, execCellw h src item cell s = issueWord _ s body
    unfold execCellw srcCommand commandWord
    exact ⟨_, rfl⟩
  | cellr h gd item cell =>
    show ∃ body, execCellr h gd item cell s = issueWord _ s body
    unfold execCellr
    exact ⟨_, rfl⟩
  | stepdom h dom src kind =>
    show ∃ body, execStepdom h dom src kind s = issueWord _ s body
    unfold execStepdom srcCommand commandWord
    exact ⟨_, rfl⟩
  | step h dom n =>
    show ∃ body, execStep h dom n s = issueWord _ s body
    unfold execStep
    exact ⟨_, rfl⟩
  | darun h stop run =>
    show ∃ body, execDarun h stop run s = issueWord _ s body
    unfold execDarun
    exact ⟨_, rfl⟩
  | dasave h hn =>
    show ∃ body, execDasave h hn s = issueWord _ s body
    unfold execDasave plainCommand commandWord
    exact ⟨_, rfl⟩
  | daload h hn =>
    show ∃ body, execDaload h hn s = issueWord _ s body
    unfold execDaload plainCommand commandWord
    exact ⟨_, rfl⟩
  | dainj h chan src =>
    show ∃ body, execDainj h chan src s = issueWord _ s body
    unfold execDainj
    exact ⟨_, rfl⟩
  | datap h gd clr cell =>
    show ∃ body, execDatap h gd clr cell s = issueWord _ s body
    unfold execDatap
    exact ⟨_, rfl⟩
  | dastat h gd clr sel =>
    show ∃ body, execDastat h gd clr sel s = issueWord _ s body
    unfold execDastat
    exact ⟨_, rfl⟩
  | ld h d cn off w ord ag stor =>
    show ∃ body, execLd h d cn off w ord ag stor s = issueWord _ s body
    unfold execLd
    exact ⟨_, rfl⟩
  | st h d cn off w ord ag stor =>
    show ∃ body, execSt h d cn off w ord ag stor s = issueWord _ s body
    unfold execSt
    exact ⟨_, rfl⟩
  | ldt h hn gc d w =>
    show ∃ body, execLdt h hn gc d w s = issueWord _ s body
    unfold execLdt
    exact ⟨_, rfl⟩
  | stt h hn gc d w =>
    show ∃ body, execStt h hn gc d w s = issueWord _ s body
    unfold execStt
    exact ⟨_, rfl⟩
  | gath h d cn off w ord ag stor =>
    show ∃ body, execGath h d cn off w ord ag stor s = issueWord _ s body
    unfold execGath
    exact ⟨_, rfl⟩
  | scat h d cn off w ord ag stor =>
    show ∃ body, execScat h d cn off w ord ag stor s = issueWord _ s body
    unfold execScat
    exact ⟨_, rfl⟩
  | amo h d cn opn w ord ag stor =>
    show ∃ body, execAmo h d cn opn w ord ag stor s = issueWord _ s body
    unfold execAmo
    exact ⟨_, rfl⟩
  | cas h d cn off w ord ag stor =>
    show ∃ body, execCas h d cn off w ord ag stor s = issueWord _ s body
    unfold execCas
    exact ⟨_, rfl⟩
  | amof h d cn opn w ord ag stor =>
    show ∃ body, execAmof h d cn opn w ord ag stor s = issueWord _ s body
    unfold execAmof
    exact ⟨_, rfl⟩
  | fence h ord ag stor =>
    show ∃ body, execFence h ord ag stor s = issueWord _ s body
    unfold execFence
    exact ⟨_, rfl⟩
  | mark h ag stor =>
    show ∃ body, execMark h ag stor s = issueWord _ s body
    unfold execMark
    exact ⟨_, rfl⟩
  | talloc h gd hn src =>
    show ∃ body, execTalloc h gd hn src s = issueWord _ s body
    unfold execTalloc
    exact ⟨_, rfl⟩
  | tfree h hn =>
    show ∃ body, execTfree h hn s = issueWord _ s body
    unfold execTfree
    exact ⟨_, rfl⟩
  | tinfo h gd hn =>
    show ∃ body, execTinfo h gd hn s = issueWord _ s body
    unfold execTinfo
    exact ⟨_, rfl⟩
  | copy h tag dk dst src sk sn =>
    show ∃ body, execCopy h tag dk dst src sk sn s = issueWord _ s body
    unfold execCopy tagCommand commandWord
    exact ⟨_, rfl⟩
  | copyp h tag hn =>
    show ∃ body, execCopyp h tag hn s = issueWord _ s body
    unfold execCopyp tagCommand commandWord
    exact ⟨_, rfl⟩
  | twaitany h gd src =>
    show ∃ body, execTwaitany h gd src s = issueWord _ s body
    unfold execTwaitany
    exact ⟨_, rfl⟩
  | twaitall h src =>
    show ∃ body, execTwaitall h src s = issueWord _ s body
    unfold execTwaitall
    exact ⟨_, rfl⟩
  | tffr h gd src =>
    show ∃ body, execTffr h gd src s = issueWord _ s body
    unfold execTffr
    exact ⟨_, rfl⟩
  | tclr h src =>
    show ∃ body, execTclr h src s = issueWord _ s body
    unfold execTclr
    exact ⟨_, rfl⟩
  | pref h d cn off =>
    show ∃ body, execPref h d cn off s = issueWord _ s body
    unfold execPref
    exact ⟨_, rfl⟩
  | prefw h d a =>
    show ∃ body, execPrefw h d a s = issueWord _ s body
    unfold execPrefw
    exact ⟨_, rfl⟩
  | poolset h gd src =>
    show ∃ body, execPoolset h gd src s = issueWord _ s body
    unfold execPoolset
    exact ⟨_, rfl⟩
  | poolqOcc h gd =>
    show ∃ body, execPoolqOcc h gd s = issueWord _ s body
    unfold execPoolqOcc
    exact ⟨_, rfl⟩
  | poolqTkt h gd src =>
    show ∃ body, execPoolqTkt h gd src s = issueWord _ s body
    unfold execPoolqTkt
    exact ⟨_, rfl⟩
  | cflush h cn off =>
    show ∃ body, execCflush h cn off s = issueWord _ s body
    unfold execCflush
    exact ⟨_, rfl⟩
  | cinv h cn off =>
    show ∃ body, execCinv h cn off s = issueWord _ s body
    unfold execCinv
    exact ⟨_, rfl⟩
  | foot h cn src acc =>
    show ∃ body, execFoot h cn src acc s = issueWord _ s body
    unfold execFoot
    exact ⟨_, rfl⟩
  | job h tag hn =>
    show ∃ body, execJob h tag hn s = issueWord _ s body
    unfold execJob tagCommand commandWord
    exact ⟨_, rfl⟩
  | near h tag hn =>
    show ∃ body, execNear h tag hn s = issueWord _ s body
    unfold execNear tagCommand commandWord
    exact ⟨_, rfl⟩
  | push h qn src ag stor =>
    show ∃ body, execPush h qn src ag stor s = issueWord _ s body
    unfold execPush
    exact ⟨_, rfl⟩
  | pop h qn d ag stor =>
    show ∃ body, execPop h qn d ag stor s = issueWord _ s body
    unfold execPop
    exact ⟨_, rfl⟩
  | post h en n =>
    show ∃ body, execPost h en n s = issueWord _ s body
    unfold execPost
    exact ⟨_, rfl⟩
  | await h en n =>
    show ∃ body, execAwait h en n s = issueWord _ s body
    unfold execAwait
    exact ⟨_, rfl⟩
  | awaitn h gd src =>
    show ∃ body, execAwaitn h gd src s = issueWord _ s body
    unfold execAwaitn
    exact ⟨_, rfl⟩
  | bar h bid mask =>
    show ∃ body, execBar h bid mask s = issueWord _ s body
    unfold execBar
    exact ⟨_, rfl⟩
  | rowwait h sn src =>
    show ∃ body, execRowwait h sn src s = issueWord _ s body
    unfold execRowwait
    exact ⟨_, rfl⟩
  | rowget h gd sn =>
    show ∃ body, execRowget h gd sn s = issueWord _ s body
    unfold execRowget
    exact ⟨_, rfl⟩
  | frmgetCnt h gd sn =>
    show ∃ body, execFrmgetCnt h gd sn s = issueWord _ s body
    unfold execFrmgetCnt
    exact ⟨_, rfl⟩
  | frmgetStamp h gd sn =>
    show ∃ body, execFrmgetStamp h gd sn s = issueWord _ s body
    unfold execFrmgetStamp
    exact ⟨_, rfl⟩
  | rcsub h hn grp m =>
    show ∃ body, execRcsub h hn grp m s = issueWord _ s body
    unfold execRcsub
    exact ⟨_, rfl⟩
  | rcget h gd hb hr grp =>
    show ∃ body, execRcget h gd hb hr grp s = issueWord _ s body
    unfold execRcget
    exact ⟨_, rfl⟩
  | rccfg h grp src m =>
    show ∃ body, execRccfg h grp src m s = issueWord _ s body
    unfold execRccfg
    exact ⟨_, rfl⟩
  | timeget h d =>
    show ∃ body, execTimeget h d s = issueWord _ s body
    unfold execTimeget
    exact ⟨_, rfl⟩
  | timegetSt h d =>
    show ∃ body, execTimegetSt h d s = issueWord _ s body
    unfold execTimegetSt
    exact ⟨_, rfl⟩
  | qstatQ h d n =>
    show ∃ body, execQstatQ h d n s = issueWord _ s body
    unfold execQstatQ
    exact ⟨_, rfl⟩
  | qstatE h d n =>
    show ∃ body, execQstatE h d n s = issueWord _ s body
    unfold execQstatE
    exact ⟨_, rfl⟩
  | stbind h hn sn src gd =>
    show ∃ body, execStbind h hn sn src gd s = issueWord _ s body
    unfold execStbind
    exact ⟨_, rfl⟩
  | qdrainQ h gd n =>
    show ∃ body, execQdrainQ h gd n s = issueWord _ s body
    unfold execQdrainQ
    exact ⟨_, rfl⟩
  | qdrainE h gd n =>
    show ∃ body, execQdrainE h gd n s = issueWord _ s body
    unfold execQdrainE
    exact ⟨_, rfl⟩
  | br h disp =>
    show ∃ body, execBr h disp s = issueWord _ s body
    unfold execBr
    exact ⟨_, rfl⟩
  | bri h a =>
    show ∃ body, execBri h a s = issueWord _ s body
    unfold execBri
    exact ⟨_, rfl⟩
  | briRel h a =>
    show ∃ body, execBriRel h a s = issueWord _ s body
    unfold execBriRel
    exact ⟨_, rfl⟩
  | call h gn disp =>
    show ∃ body, execCall h gn disp s = issueWord _ s body
    unfold execCall
    exact ⟨_, rfl⟩
  | ret h a =>
    show ∃ body, execRet h a s = issueWord _ s body
    unfold execRet
    exact ⟨_, rfl⟩
  | loop h n disp =>
    show ∃ body, execLoop h n disp s = issueWord _ s body
    unfold execLoop
    exact ⟨_, rfl⟩
  | lclose h n disp =>
    show ∃ body, execLclose h n disp s = issueWord _ s body
    unfold execLclose
    exact ⟨_, rfl⟩
  | rrbset h a b ek ev =>
    show ∃ body, execRrbset h a b ek ev s = issueWord _ s body
    unfold execRrbset
    exact ⟨_, rfl⟩
  | fork h =>
    show ∃ body, execFork h s = issueWord _ s body
    unfold execFork
    exact ⟨_, rfl⟩
  | joinCc h cc mask =>
    show ∃ body, execJoinCc h cc mask s = issueWord _ s body
    unfold execJoinCc
    exact ⟨_, rfl⟩
  | ccset h val cc =>
    show ∃ body, execCcset h val cc s = issueWord _ s body
    unfold execCcset
    exact ⟨_, rfl⟩
  | ccwait h val cc =>
    show ∃ body, execCcwait h val cc s = issueWord _ s body
    unfold execCcwait
    exact ⟨_, rfl⟩
  | start h =>
    show ∃ body, execStart h s = issueWord _ s body
    unfold execStart
    exact ⟨_, rfl⟩
  | endStream h =>
    show ∃ body, execEndStream h s = issueWord _ s body
    unfold execEndStream
    exact ⟨_, rfl⟩
  | yieldCore h =>
    show ∃ body, execYieldCore h s = issueWord _ s body
    unfold execYieldCore
    exact ⟨_, rfl⟩
  | sleep h en =>
    show ∃ body, execSleep h en s = issueWord _ s body
    unfold execSleep
    exact ⟨_, rfl⟩
  | spawn h gd src =>
    show ∃ body, execSpawn h gd src s = issueWord _ s body
    unfold execSpawn
    exact ⟨_, rfl⟩
  | launch h gd hn =>
    show ∃ body, execLaunch h gd hn s = issueWord _ s body
    unfold execLaunch
    exact ⟨_, rfl⟩
  | spec h gd hn =>
    show ∃ body, execSpec h gd hn s = issueWord _ s body
    unfold execSpec
    exact ⟨_, rfl⟩
  | decide h gd slot succ =>
    show ∃ body, execDecide h gd slot succ s = issueWord _ s body
    unfold execDecide
    exact ⟨_, rfl⟩
  | twaitLaunch h gd src =>
    show ∃ body, execTwaitLaunch h gd src s = issueWord _ s body
    unfold execTwaitLaunch
    exact ⟨_, rfl⟩
  | twaitIdle h eng =>
    show ∃ body, execTwaitIdle h eng s = issueWord _ s body
    unfold execTwaitIdle
    exact ⟨_, rfl⟩
  | tdone h =>
    show ∃ body, execTdone h s = issueWord _ s body
    unfold execTdone
    exact ⟨_, rfl⟩
  | trap h code =>
    show ∃ body, execTrap h code s = issueWord _ s body
    unfold execTrap
    exact ⟨_, rfl⟩
  | brk h =>
    show ∃ body, execBrk h s = issueWord _ s body
    unfold execBrk
    exact ⟨_, rfl⟩
  | snaprD h d a =>
    show ∃ body, execSnaprD h d a s = issueWord _ s body
    unfold execSnaprD
    exact ⟨_, rfl⟩
  | snaprV h d a =>
    show ∃ body, execSnaprV h d a s = issueWord _ s body
    unfold execSnaprV
    exact ⟨_, rfl⟩
  | snaprSt h d a =>
    show ∃ body, execSnaprSt h d a s = issueWord _ s body
    unfold execSnaprSt
    exact ⟨_, rfl⟩
  | snapwD h d a b =>
    show ∃ body, execSnapwD h d a b s = issueWord _ s body
    unfold execSnapwD
    exact ⟨_, rfl⟩
  | snapwV h d a b =>
    show ∃ body, execSnapwV h d a b s = issueWord _ s body
    unfold execSnapwV
    exact ⟨_, rfl⟩
  | csrr h d csr =>
    show ∃ body, execCsrr h d csr s = issueWord _ s body
    unfold execCsrr
    exact ⟨_, rfl⟩
  | csrw h d csr b opn =>
    show ∃ body, execCsrw h d csr b opn s = issueWord _ s body
    unfold execCsrw
    exact ⟨_, rfl⟩
  | idget h d sel =>
    show ∃ body, execIdget h d sel s = issueWord _ s body
    unfold execIdget
    exact ⟨_, rfl⟩
  | clkget h d sel =>
    show ∃ body, execClkget h d sel s = issueWord _ s body
    unfold execClkget
    exact ⟨_, rfl⟩
  | perfr h d n clr =>
    show ∃ body, execPerfr h d n clr s = issueWord _ s body
    unfold execPerfr
    exact ⟨_, rfl⟩
  | ifence h =>
    show ∃ body, execIfence h s = issueWord _ s body
    unfold execIfence
    exact ⟨_, rfl⟩
  | reservedOpcode _ => cases hi
  | engineCommandStart _ _ => cases hi
  | engineCommandFinish _ _ => cases hi
  | kStep _ => cases hi
  | engineAutumnEntry _ _ => cases hi
  | domainStep _ => cases hi
  | domainReferenceTrigger _ _ => cases hi
  | domainEngineTrigger _ _ => cases hi
  | copypEndMarker _ => cases hi
  | poolRequestStep _ => cases hi
  | loadDataReturn _ _ => cases hi
  | atomicReturn _ _ => cases hi
  | addressTranslation _ _ => cases hi
  | pushEntryPoppable _ _ => cases hi
  | postAdditionLands _ _ => cases hi
  | ccsetValueLands _ _ => cases hi
  | instructionBufferFill _ _ _ => cases hi
  | watchdogExpiry _ => cases hi
  | deadlineMiss _ => cases hi
  | formSwap _ => cases hi
  | contextSave _ => cases hi
  | contextRestore _ => cases hi
  | dieQueuePop _ => cases hi
  | frameDeadline _ => cases hi
  | lbpRowRun _ => cases hi
  | rowPublish _ => cases hi
  | storePerformed _ _ _ => cases hi
  | nearPartDone _ => cases hi
  | prefetchComplete _ _ => cases hi
  | timingErrorReplay _ _ _ => cases hi
  | softErrorConsumed _ _ _ _ _ => cases hi
  | keeperScrub _ => cases hi
  | ffCtlResume _ _ => cases hi
  | ffCtlAbandon _ _ => cases hi
  | ffCtlAbort _ _ => cases hi
  | debugHaltRequest _ _ => cases hi
  | debugResume _ _ => cases hi
  | inboxTail _ _ => cases hi
  | launchPacketEntry _ => cases hi
  | ttCommit  => cases hi
  | overflowDrain _ _ => cases hi
  | urgForms _ => cases hi
  | seasonReqSummer _ _ => cases hi
  | seasonReqWinter _ _ => cases hi
  | seasonReqMidwinter _ _ => cases hi
  | seasonEntry _ => cases hi
  | springRampStart _ => cases hi
  | springRampDone _ => cases hi
  | formImbalanceTick _ _ _ => cases hi
  | throttleRelax _ => cases hi
  | thermalCeilingStep _ _ => cases hi
  | thermalTrip _ => cases hi
  | thermalTripRelease _ => cases hi
  | slowDownNoticeRepeat _ => cases hi
  | slowDownNotice _ _ => cases hi
  | releaseNotice _ => cases hi
  | peerCeilingExpiry _ => cases hi
  | memTempRead _ _ => cases hi
  | otCmdInval _ _ => cases hi
  | otCmdMigrate _ _ => cases hi
  | otCmdDirty _ _ => cases hi
  | shootDownAck _ => cases hi
  | migrationCopy  => cases hi
  | functionLevelReset _ => cases hi
  | flrDone _ => cases hi
  | deviceReset _ _ => cases hi
  | attCmd  => cases hi
  | attestationReportDone _ _ _ _ _ => cases hi
  | hostLinkError _ _ => cases hi
  | scfgEnable _ _ => cases hi
  | scfgDisable _ _ => cases hi
  | serrCtlClr _ _ => cases hi
  | csi2FrameStart _ _ => cases hi
  | csi2FrameEnd _ _ => cases hi
  | csi2LineStart _ _ _ => cases hi
  | csi2LongPacket _ _ _ _ _ _ => cases hi
  | lidarFrame _ _ _ => cases hi
  | rollCallTick  => cases hi
  | timeSyncMessage _ _ _ => cases hi
  | registerWrite _ _ _ => cases hi
  | talothPortTraining _ _ => cases hi
  | talothJobPeerMessage _ _ _ => cases hi

end Sys2Proof.Laws
end

