-- ==== Sys2Proof/Tests/Witness.lean ====
section
/-! SUPPORT. Witnesses: for every statement with hypotheses, concrete states and operands that meet them, clause by clause. -/

namespace Sys2Proof.Tests

open Sys2Proof Sys2Proof.Machine

set_option maxRecDepth 200000

/-- A frame without idle cycles, join or condition. -/
def plain : Hdr := ⟨0, 0, 0, 63⟩
/-- A state in which an instruction's word stands next. -/
def placed (i : Instr) : State := State.reset.placeWord ((encode i).getD 0)
/-- With a shared record that also stood at the start of the cycle. -/
def State.both (s : State) (f : Shared → Shared) : State := s.modCur fun x => { x with sh := f x.sh, soc := f x.soc }
/-- With values of registers. -/
def withG (n : Nat) (v : Word) (s : State) : State := s.modOwn fun t => { t with g := tabPut t.g n v }
def withV (n : Nat) (v : Vec) (s : State) : State := s.modOwn fun t => { t with v := tabPut t.v n v }
def withC (n : Nat) (v : Cap) (s : State) : State := s.modOwn fun t => { t with c := tabPut t.c n v }
/-- A capability with rights, length, cursor and object. -/
def capOfs (rights len cur obj : Nat) : Cap := ⟨BitVec.ofNat 128 (cur + len * 2 ^ 32 + rights * 2 ^ 96 + obj * 2 ^ 104), true⟩
/-- With the engine's queue full. -/
def busy (e : Nat) (s : State) : State :=
  State.both s fun y => y.setEngine e { y.engine e with queue := List.replicate 16 { ins := .nop plain } }
/-- That an instruction stands ready, or may issue, in a state made from the one where it is placed. -/
def rdy (i : Instr) (f : State → State) : Bool := (f (placed i)).ready i
def iss (i : Instr) (f : State → State) : Bool := (f (placed i)).issues i

/-! ## Every word stands ready somewhere -/

theorem ready_words_1 : ([
    .nop plain, .add plain 0x181 0x182 0x183 0, .sub plain 0x181 0x182 0x183 0, .mul plain 0x181 0x182 0x183 0,
    .mulh plain 0x181 0x182 0x183 0, .mulhn plain 0x181 0x182 0x183 6, .div plain 0x181 0x182 0x183 0,
    .divn plain 0x181 0x182 0x183 6, .rem plain 0x181 0x182 0x183 0, .remn plain 0x181 0x182 0x183 6,
    .and plain 0x181 0x182 0x183 0, .or plain 0x181 0x182 0x183 0, .xor plain 0x181 0x182 0x183 0,
    .andn plain 0x181 0x182 0x183 0, .shl plain 0x181 0x182 0x183 0, .shr plain 0x181 0x182 0x183 6,
    .sar plain 0x181 0x182 0x183 0, .rot plain 0x181 0x182 0x183 0, .cmp plain 0x181 0x182 0x183 0 0,
    .min plain 0x181 0x182 0x183 0, .max plain 0x181 0x182 0x183 0, .minn plain 0x181 0x182 0x183 6,
    .maxn plain 0x181 0x182 0x183 6, .clz plain 0x181 0x182 0, .popc plain 0x181 0x182 0, .sel plain 0x181 0x182 0x183 0,
    .ldi plain 0x181 0, .ldih plain 0x181 0, .mov plain 0x181 0x182, .capadd plain 0x2a1 0x2a2 0x183 0,
    .capsetWin plain 0x2a1 0x2a2 0x183, .capsetRights plain 0x2a1 0x2a2 0x183, .capsetCur plain 0x2a1 0x2a2 0x183,
    .capsetUntag plain 0x2a1 0x2a2 0x183, .capget plain 0x181 0x2a2 0, .vadd plain 0x181 0x182 0x183 0] : List Instr).all (fun i => (placed i).ready i) = true := by decide
theorem ready_words_2 : ([
    .vsub plain 0x181 0x182 0x183 0, .vmul plain 0x181 0x182 0x183 0, .vmulh plain 0x181 0x182 0x183 0,
    .vmulw plain 0x181 0x182 0x183 0, .vfma plain 1 0x182 0x183 0, .vfms plain 1 0x182 0x183 0, .vfnma plain 1 0x182 0x183 0,
    .vdiv plain 0x181 0x182 0x183 0, .vsqrt plain 0x181 0x182 8, .vrcp plain 0x181 0x182 8, .vrsq plain 0x181 0x182 8,
    .vexp2 plain 0x181 0x182 8, .vlog2 plain 0x181 0x182 8, .vmin plain 0x181 0x182 0x183 0, .vmax plain 0x181 0x182 0x183 0,
    .vabs plain 0x181 0x182 0, .vneg plain 0x181 0x182 0, .vand plain 0x181 0x182 0x183 0, .vor plain 0x181 0x182 0x183 0,
    .vxor plain 0x181 0x182 0x183 0, .vshl plain 0x181 0x182 0x183 0, .vshr plain 0x181 0x182 0x183 6,
    .vsar plain 0x181 0x182 0x183 0, .vpopc plain 0x181 0x182 0, .vclz plain 0x181 0x182 0, .vcmp plain 0x181 0x182 0x183 0,
    .vsel plain 1 0x182 0x183 0, .vmerge plain 1 0x182 0x183 0, .vdot4 plain 1 0x182 0x183 0, .vdot2 plain 1 0x182 0x183 1,
    .vreds plain 0x181 0x182 0x183 0, .vredx plain 0x181 0x182 0x183 0, .vscan plain 0x181 0x182 0x183 0,
    .vclmul plain 0x181 0x182 0x183 6, .vperm plain 0x181 0x182 0x183 0, .vshuf plain 0x181 0x182 0x183 0] : List Instr).all (fun i => (placed i).ready i) = true := by decide
theorem ready_words_3 : ([
    .vbcast plain 0x181 0x182 0x183 0, .vslide plain 0x181 0x182 0x183 0, .vcompr plain 0x181 0x182 0x183 0,
    .vexpnd plain 0x181 0x182 0x183 0, .viota plain 0x181 0x182 0, .vcvt plain 0x181 0x182 0 0, .vpack plain 0x181 0x182 0x183 0,
    .vunpk plain 0x181 0x182 0x183 0, .vround plain 0x181 0x182 8, .kand plain 0x181 0x182 0x183, .kor plain 0x181 0x182 0x183,
    .kxor plain 0x181 0x182 0x183, .knot plain 0x181 0x182, .kpopc plain 0x181 0x182, .kfirst plain 0x181 0x182,
    .kmov plain 0x181 0x182, .kmovFirst plain 0x181 0x182, .nestw plain 0 0 3, .nestr plain 0 0 0 0 0, .go plain 1 0x183,
    .nstat plain 0 0 0, .fmtw plain 0 0x183, .fmtsel plain 0 0, .mma plain 0 0 0 0, .mmac plain 0 0 0 0, .ringcfg plain 0 3 3,
    .rhead plain 0, .rpop plain, .rdiscard plain, .epcfgAct plain 0, .epcfgBias plain 0 0, .epcfgScale plain 0 0,
    .epcfgLo plain 0x183, .epcfgHi plain 0x183, .eprun plain 0, .deckld plain 0 0x183 0] : List Instr).all (fun i => (placed i).ready i) = true := by decide
theorem ready_words_4 : ([
    .decksel plain 0, .ccnt plain 0 0, .ccons plain 0 1, .cdisc plain 0 1, .cdiscAll plain 0, .pace plain 0 0,
    .astage plain 0 0 0x183, .patch plain 0 0x183 0, .cellw plain 0x183 0 0, .cellr plain 0 0 0, .stepdom plain 0 0x183 0,
    .step plain 0 1, .darun plain 0 0, .dasave plain 0, .daload plain 0, .dainj plain 0 0x183, .datap plain 0 0 0,
    .dastat plain 0 0 0, .ld plain 0x181 0 0x183 0 0 0 0, .st plain 0x181 0 0x183 0 0 0 0, .ldt plain 0 0 0x181 0,
    .stt plain 0 0 0x181 0, .gath plain 1 0 3 0 0 0 0, .scat plain 1 0 3 0 0 0 0, .amo plain 0x181 0 0 3 0 0 0,
    .cas plain 0x181 0 0x183 3 0 0 0, .amof plain 0x181 0 3 1 0 0 0, .fence plain 0 0 0, .mark plain 0 0,
    .talloc plain 0 0 0x183, .tfree plain 0, .tinfo plain 0 0, .copy plain 0 0 0 0x183 0 0, .copyp plain 0 0,
    .twaitany plain 0 0x183, .twaitall plain 0x183] : List Instr).all (fun i => (placed i).ready i) = true := by decide
theorem ready_words_5 : ([
    .tffr plain 0 0x183, .tclr plain 0x183, .pref plain 0x181 0 0x183, .prefw plain 0x181 0x182, .poolset plain 0 0x183,
    .poolqOcc plain 0, .poolqTkt plain 0 0x183, .cflush plain 0 0x183, .cinv plain 0 0x183, .foot plain 0 0x183 1,
    .job plain 0 0, .near plain 0 0, .push plain 0 0x183 0 0, .pop plain 0 0x181 0 0, .post plain 0 1, .await plain 0 1,
    .awaitn plain 0 0x183, .bar plain 0 1, .rowwait plain 0 0x183, .rowget plain 0 0, .frmgetCnt plain 0 0,
    .frmgetStamp plain 0 0, .rcsub plain 0 0 0, .rcget plain 0 0 0 0, .rccfg plain 0 3 0, .timeget plain 0x181,
    .timegetSt plain 0x181, .qstatQ plain 0x181 0, .qstatE plain 0x181 0, .stbind plain 0 0 0x183 0, .qdrainQ plain 0 0,
    .qdrainE plain 0 0, .br plain 0, .bri plain 0x182, .briRel plain 0x182, .call plain 0 0] : List Instr).all (fun i => (placed i).ready i) = true := by decide
theorem ready_words_6 : ([
    .ret plain 0x182, .loop plain 0 0, .lclose plain 0 0, .rrbset plain 0x182 0x183 1 1, .fork plain, .joinCc plain 0 1,
    .ccset plain 0 0, .ccwait plain 0 0, .start plain, .endStream plain, .yieldCore plain, .sleep plain 0, .spawn plain 0 3,
    .launch plain 0 0, .spec plain 0 0, .decide plain 0 0 0, .twaitLaunch plain 0 0x183, .twaitIdle plain 0, .tdone plain,
    .trap plain 0, .brk plain, .snaprD plain 0x181 0x182, .snaprV plain 1 0x182, .snaprSt plain 0x181 0x182,
    .snapwD plain 0x181 0x182 0x183, .snapwV plain 0x181 0x182 3, .csrr plain 0x181 0, .csrw plain 0x181 0 0x183 0,
    .idget plain 0x181 0, .clkget plain 0x181 0, .perfr plain 0x181 0 0, .ifence plain, .vqnt plain 1 2 3 13,
    .vdqnt plain 1 2 3 13] : List Instr).all (fun i => (placed i).ready i) = true := by decide

/-! ## Words -/

theorem witness_WordsBeforeTheirEffects : ([
    (let i := Instr.add ⟨0, 0, 0, 0⟩ 0x181 0x182 0x183 0
     (placed i).encodes i && !(placed i).guarded i && (placed i).hasNext),
    (let i := Instr.add plain 0x181 0x182 0x183 31
     (encodingFault (portFile (placed i) 0 0) 0 i plain).isSome),
    (let i := Instr.add plain 0x181 0x280 0x183 0
     (placed i).encodes i && (placed i).guarded i && portsBlocked (placed i).now i),
    (let i := Instr.mov plain 0x280 0x182
     let s := State.both (placed i) fun y => y.setQueue 0 { ents := List.replicate 8 {}, held := 8 }
     s.encodes i && s.guarded i && portsBlocked s.now i)] : List Bool).all id = true := by decide
theorem witness_IllegalInstructionsAndReservedOpcodes : ([
    !Encoding.fieldsOk (.add plain 0x181 0x182 0x183 31),
    (Encoding.operands (.add plain 0x400 0x182 0x183 0)).any fun x => Encoding.illegalKind 0 x.1 x.2,
    encodingFault (portFile (placed (.nop plain)) 0 5) 5 (.mov plain 0x1BF 0x182) plain == some (2, 0x1BF),
    encodingFault (portFile (placed (.nop plain)) 0 5) 5 (.nop plain) ⟨0, 0, 0, 20⟩ == some (2, 0x1D4),
    [0x57, 0x5F, 0x75, 0x7F, 0x8B, 0x8F, 0xAD, 0xAF, 0xD5, 0xDF, 0xEA, 0xFF].all fun op =>
      instrOf (BitVec.ofNat 64 (op * 2 ^ 45)) == .reservedOpcode (BitVec.ofNat 64 (op * 2 ^ 45))] : List Bool).all id = true := by decide
theorem witness_ComparisonsConstantsAndMoves : ([
    rdy (.mov plain 0x181 0x182) id && !Encoding.isC 0x181, rdy (.mov plain 0x2A1 0x2A2) id && Encoding.isC 0x2A1,
    rdy (.cmp plain 0x181 0x182 0x183 6 3) id] : List Bool).all id = true := by decide
theorem witness_CapabilityWords :
    let c := withC 2 (capOfs 0xFF 0x1000 0x10 3)
    let low := withC 2 (capOfs 0 0x1000 0x10 3)
    let d : Port := 0x2A1
    let a : Port := 0x2A2
    let b : Port := 0x183
    ([
    rdy (.capadd plain d a b 6) (c ∘ withG 3 0x3F), rdy (.capadd plain d a b 0) (c ∘ withG 3 (-16)),
    rdy (.capsetWin plain d a b) (c ∘ withG 3 0x0000010000000F00), (capOfs 0xFF 0x1000 0x10 3).has 7,
    rdy (.capsetRights plain d a b) c, rdy (.capsetCur plain d a b) (c ∘ withG 3 0x1000), rdy (.capsetUntag plain d a b) c,
    rdy (.capget plain 0x181 a 7) c, decide ((capOfs 0xFF 0x1000 0x10 3).cur ≤ (capOfs 0xFF 0x1000 0x10 3).len),
    iss (.capadd plain d a b 0) id, !(capOf (placed (.capadd plain d a b 0)) 0 0 a).tag, iss (.capadd plain d a b 0) (c ∘ withG 3 (-17)),
    iss (.capadd plain d a b 0) (c ∘ withG 3 0xFF1), iss (.capsetWin plain d a b) id, iss (.capsetWin plain d a b) low,
    !(capOfs 0 0x1000 0x10 3).has 7, iss (.capsetWin plain d a b) (c ∘ withG 3 0x41), iss (.capsetWin plain d a b) (c ∘ withG 3 0x0000100100000000),
    iss (.capsetRights plain d a b) id, iss (.capsetCur plain d a b) id, iss (.capsetCur plain d a b) (c ∘ withG 3 0x1001)]
    : List Bool).all id = true := by decide
theorem witness_VectorComparisons : ([rdy (.vcmp plain 0x1C1 2 3 15) id, rdy (.vcmp plain 0x1C1 2 3 16) id] : List Bool).all id = true := by
  decide
theorem witness_NestFormatAndRingWords :
    let w (v : Vec) (s : State) := withV 3 v s
    ([
    rdy (.nestw plain 0 1 3) (w 0), recLegal 0 0, iss (.nestw plain 0 1 3) (w (15 * 2 ^ 90)), !recLegal 0 (15 * 2 ^ 90),
    rdy (.nestr plain 1 0 1 1 1) id, rdy (.nstat plain 1 0 5) id, !((placed (.nstat plain 1 0 5)).old.nestRunOf 0).live,
    (let s := State.both (placed (.nstat plain 1 0 5)) fun y => y.setNestRun 0 { y.nestRunOf 0 with live := true }
     s.ready (.nstat plain 1 0 5) && s.old.nestLeft 0),
    rdy (.nstat plain 1 0 6) id, rdy (.nstat plain 1 0 7) id,
    rdy (.fmtw plain 1 0x183) (withG 3 0x800), fmtLegal 0x800, iss (.fmtw plain 1 0x183) (withG 3 1), !fmtLegal 1,
    rdy (.fmtsel plain 1 3) id, rdy (.ringcfg plain 1 2 8) id, ringOutcome (placed (.ringcfg plain 1 2 8)).old false 8 2 == 3,
    (let s := State.both (placed (.ringcfg plain 1 2 8)) fun y => { y with pool := { y.pool with mat := 5 } }
     s.ready (.ringcfg plain 1 2 8) && ringOutcome s.old s.now.poolReq.pending 8 2 == 0), rdy (.rhead plain 1) id]
    : List Bool).all id = true := by decide
theorem witness_CommandsToEngines :
    let sends (e : Nat) (i : Instr) : Bool := (placed i).ready i && (placed i).takesCommand [e]
    let stopped (e : Nat) (i : Instr) : Bool := (busy e (placed i)).issues i && engineBusy (busy e (placed i)).now (busy e (placed i)).old e
    let go := Instr.go plain 3 0x183
    let ep := Instr.go plain 8 0x183
    ([
    [.mma plain 1 1 7 7, .mmac plain 0 0 0 0, .decksel plain 1].all (sends 2),
    [.rpop plain, .rdiscard plain, .epcfgAct plain 0, .epcfgBias plain 1 1, .epcfgScale plain 1 1, .epcfgLo plain 0x183, .epcfgHi plain 0x183,
      .eprun plain 1].all (sends 3),
    [.deckld plain 1 0x183 1, .astage plain 1 0 0x183].all (sends 0),
    [.patch plain 1 0x183 0, .cellw plain 0x183 1 1, .stepdom plain 0 0x183 0, .dasave plain 1, .daload plain 1].all (sends 5),
    (placed go).ready go && (placed go).takesCommand [0, 1] && [0, 1].all fun e => baseLegal e (goBase 0x183 0 e),
    (let s := withG 3 (-1) (placed ep); s.issues ep && s.takesCommand [3] && !baseLegal 3 (goBase 0x183 (s.read 0x183).1 3)),
    [.mma plain 1 1 7 7, .mmac plain 0 0 0 0, .decksel plain 1].all (stopped 2),
    [.rpop plain, .rdiscard plain, .epcfgAct plain 0, .epcfgBias plain 1 1, .epcfgScale plain 1 1, .epcfgLo plain 0x183, .epcfgHi plain 0x183,
      .eprun plain 1].all (stopped 3),
    [.deckld plain 1 0x183 1, .astage plain 1 0 0x183].all (stopped 0), stopped 1 go,
    [.copy plain 1 1 1 0x183 1 2, .copyp plain 1 1, .job plain 1 1, .near plain 1 1].all (stopped 4),
    [.patch plain 1 0x183 0, .cellw plain 0x183 1 1, .stepdom plain 0 0x183 0, .dasave plain 1, .daload plain 1].all (stopped 5)]
    : List Bool).all id = true := by decide
theorem witness_CompletionAndPacingWords :
    let rec_ (out done : Nat) (s : State) : State := State.both s fun y => y.setComp 2 { out, done }
    ([
    rdy (.ccnt plain 1 2) id, iss (.ccons plain 2 1) id, iss (.ccons plain 2 1) (rec_ 1 0), rdy (.ccons plain 2 1) (rec_ 1 1),
    outstanding (rec_ 1 0 (placed (.ccons plain 2 1))).now 2 == 1, iss (.cdisc plain 2 1) id,
    rdy (.cdisc plain 2 1) (rec_ 1 0), rdy (.cdiscAll plain 2) (rec_ 3 1), rdy (.pace plain 2 8191) id, rdy (.twaitIdle plain 2) id,
    iss (.twaitIdle plain 2) (busy 2)] : List Bool).all id = true := by decide
theorem witness_IntegratorWords :
    let kind (k : Nat) (s : State) : State := State.both s fun y => { y with dda := y.dda.setDom 1 { y.dda.dom 1 with kind := k } }
    ([
    rdy (.cellr plain 1 1 255) id, rdy (.step plain 1 8) (kind 0), iss (.step plain 1 8) (kind 1), rdy (.darun plain 3 12) id,
    rdy (.dainj plain 15 0x183) (withG 3 40000), rdy (.datap plain 1 0 3) id, rdy (.datap plain 1 1 3) id, rdy (.dastat plain 1 0 4) id,
    rdy (.dastat plain 1 1 4) id] : List Bool).all id = true := by decide

theorem witness_CheckedLoadsAndStores :
    let c := withC 2 (capOfs 0xFF 0x1000 0x10 3)
    let ro := withC 2 (capOfs 1 0x1000 0x10 3)
    let ld : Instr := .ld plain 0x181 2 0x183 3 0 1 0
    let ldc : Instr := .ld plain 0x2A1 2 0x183 4 0 1 0
    let st : Instr := .st plain 0x181 2 0x183 3 0 1 0
    let stc : Instr := .st plain 0x2A1 2 0x183 4 0 1 0
    let rel : Instr := .st plain 0x181 2 0x183 3 2 1 0
    let spec (s : State) : State := s.modCur fun x => { x with task := some { (x.task.getD {}) with spec := true } }
    let other := withC 1 (capOfs 0xFF 0x1000 0 4)
    -- descriptor 3 of context 0's object table is valid and not local
    let known (s : State) : State := { s with dev := [(48, 0x80)] }.modCtx 0 fun k => { k with otLen := 4 }
    let chk (l : List Nat) (p : Int) (n : Nat) (al : Bool) := capCheck (capOfs 0x6F 0x1000 0 3) l p n al
    ([
    capCheck { capOfs 0xFF 1 0 3 with tag := false } [0] 0 1 false == some .tag, chk [7] 0 1 false == some .rights,
    chk [0] (-1) 1 false == some .bounds, chk [0] 0xFF9 8 false == some .bounds, chk [0] 0xFF8 8 false == none, chk [0] 8 16 true == some .align,
    chk [0] 0xFF0 16 true == none,
    rdy ld c, ((c (placed ld)).capReg 2).tag, rdy ld (c ∘ withG 3 0xFE8), iss ld id, iss ld (c ∘ withG 3 0xFE9), rdy ldc c,
    rdy st c, !(c (placed st)).withheld 0, iss st ro, iss st id, rdy stc (c ∘ other), (known (c (other (placed stc)))).storeRefused (capOfs 0xFF 0x1000 0x10 3)
      (capOfs 0x3F 0x1000 0 4), iss stc (known ∘ c ∘ withC 1 (capOfs 0x3F 0x1000 0 4)), iss rel (spec ∘ c), (spec (c (placed rel))).withheld 2] : List Bool).all id = true := by decide
theorem witness_LaneAccessesAndAtomics :
    let c := withC 2 (capOfs 0xFF 0x1000 0x10 3)
    let off : Vec := 0x8000000080000000800000008000000080000000800000008000000080000000
    let far : Vec := 0x0000800000000000000000000000000000000000000000000000000000000000
    let ga : Instr := .gath plain 1 2 3 2 0 1 0
    let sc : Instr := .scat plain 1 2 3 2 0 1 0
    let amo : Instr := .amo plain 0x181 2 1 3 0 1 0
    let amof : Instr := .amof plain 0x181 2 0 2 0 1 0
    let cas : Instr := .cas plain 0x181 2 0x183 3 0 1 0
    let spec (s : State) : State := s.modCur fun x => { x with task := some { (x.task.getD {}) with spec := true } }
    ([
    iss (.scat plain 1 2 3 2 2 1 0) (spec ∘ c), (spec (c (placed sc))).withheld 2, iss (.amo plain 0x181 2 1 3 2 1 0) (spec ∘ c),
    iss (.amof plain 0x181 2 0 2 3 1 0) (spec ∘ c), iss (.cas plain 0x181 2 0x183 3 2 1 0) (spec ∘ c), (spec (c (placed amof))).withheld 3,
    rdy ga c, rdy ga (c ∘ withV 3 off), iss ga (c ∘ withV 3 far), iss ga id, rdy sc c, rdy sc (c ∘ withV 3 off), iss sc (c ∘ withV 3 far),
    !(c (placed sc)).withheld 0, rdy amo c, rdy amof c, rdy cas c, !(c (placed amo)).withheld 0,
    capCheck (capOfs 0xFF 0x1000 0x10 3) [1, 5] 0x10 8 true == none, capCheck (capOfs 0xFF 0x1000 0x10 3) [1, 5] 0x10 4 true == none,
    iss amo id, iss amof id, iss cas id] : List Bool).all id = true := by decide
theorem witness_OrderingCacheAndTileWords :
    let c := withC 2 (capOfs 0xFF 0x1000 0x10 3)
    let tile (d : Word) (s : State) := State.both s fun y => y.setHandle 1 { desc := d }
    -- 64 rows of 64 .n8 elements
    let d : Word := 0xA400000000000000 ||| BitVec.ofNat 64 (63 * 2 ^ 43 + 63 * 2 ^ 30 + 128)
    let ldt : Instr := .ldt plain 1 2 0x183 3
    let stt : Instr := .stt plain 1 2 0x183 3
    let lbp (i : Instr) : State := { (placed i) with curCore := 128 }.modStream 128 0 fun t =>
      { t with started := true, codeLen := 1024, idleLoaded := true }
    let spec (s : State) : State := s.modCur fun x => { x with task := some { (x.task.getD {}) with spec := true } }
    ([
    iss (.fence plain 2 1 0) spec, (spec (placed (.fence plain 2 1 0))).withheld 2, iss (.cflush plain 2 0x183) (c ∘ withG 3 0xFF1),
    iss (.cinv plain 2 0x183) id, capCheck (capOfs 0xFF 0x1000 0x10 3) [0] 0x10 0xFF1 false == some .bounds,
    iss (.foot plain 2 0x183 3) (c ∘ withG 3 0xFF100000000), (capCheck {} [1] 0 0 false).isSome,
    rdy (.fence plain 1 1 0) id, !(placed (.fence plain 1 1 0)).withheld 1, rdy (.fence plain 0 1 0) id, rdy (.mark plain 1 0) id,
    rdy (.cflush plain 2 0x183) c, rdy (.cflush plain 2 0x183) (c ∘ withG 3 0xFF0), rdy (.cinv plain 2 0x183) (c ∘ withG 3 0xFF0),
    capCheck (capOfs 0xFF 0x1000 0x10 3) [0] 0x10 0xFF0 false == none, rdy (.pref plain 0x181 2 0x183) (c ∘ withG 3 0xFF0), rdy (.pref plain 0x181 2 0x183) c,
    iss (.pref plain 0x181 2 0x183) (c ∘ withG 3 0xFF1),
    rdy (.prefw plain 0x181 0x183) id,
    (let s := (withG 3 5 (placed (.prefw plain 0x181 0x183))).modCur fun x => { x with prefs := [{ token := 5, ctx := 0, obj := 0, first := 0, len := 1 }] }
     s.issues (.prefw plain 0x181 0x183)),
    rdy (.foot plain 2 0x183 3) (c ∘ withG 3 (0xFF000000000)), (placed (.foot plain 2 0x183 3)).own.foot.length == 0,
    (let s := (placed (.foot plain 2 0x183 3)).modOwn fun t => { t with foot := List.replicate 8 { cap := {}, access := 0, off := 0, len := 0 } }
     s.issues (.foot plain 2 0x183 3)),
    rdy ldt (tile d), !isLbp (placed ldt).curCore, iss ldt id, rdy stt (tile d), iss stt id,
    isLbp (lbp (.ldt plain 1 2 0x183 1)).curCore, (lbp (.ldt plain 1 2 0x183 1)).ready (.ldt plain 1 2 0x183 1),
    (lbp (.stt plain 1 2 0x183 1)).ready (.stt plain 1 2 0x183 1), (lbpDesc (lbp ldt) 0 1).isSome,
    (withG 2 0x10000 (lbp (.ldt plain 1 2 0x183 1))).issues (.ldt plain 1 2 0x183 1),
    (withG 2 0x10000 (lbp (.stt plain 1 2 0x183 1))).issues (.stt plain 1 2 0x183 1)] : List Bool).all id = true := by decide
theorem witness_TilePlaces :
    let d : Word := 0xA400000000000000 ||| BitVec.ofNat 64 (63 * 2 ^ 43 + 63 * 2 ^ 30 + 128)
    let e : Word := d &&& ~~~0x2000000000000000#64
    let h1 : Word := BitVec.ofNat 64 (2 ^ 63)
    let ok (x : Except CapCause Nat) : Bool := match x with | .ok _ => true | .error _ => false
    ([ok (tilePlace d 0 8 false), ok (tilePlace d 0x3F0038 8 false), !ok (tilePlace e 0x400000 8 false), !ok (tilePlace 0 0 8 false),
      ok (tilePlace e 0 8 true), !ok (tilePlace d 0 8 true), !ok (tilePlace 0 0 8 true), ok (tilePlace h1 0 1 false),
      !ok (tilePlace h1 0x10000 1 false)] : List Bool).all id = true := by decide
theorem witness_HandleAndPoolWords :
    ([rdy (.talloc plain 1 1 0x183) id, shapeLegal 0, iss (.talloc plain 1 1 0x183) (withG 3 1), !shapeLegal 1, rdy (.tfree plain 1) id,
      rdy (.tinfo plain 1 1) id, rdy (.poolset plain 1 0x183) (withG 3 0xFFFFFFFF), iss (.poolset plain 1 0x183) (withG 3 0x100000000),
      rdy (.poolqOcc plain 1) id, ((placed (.poolqOcc plain 1)).core 0).dirtyAt == 0, rdy (.poolqTkt plain 1 0x183) id]
      : List Bool).all id = true := by decide
theorem witness_TagCommandsAndTagWaits :
    let full (s : State) : State := State.both s fun y => { y with tagOut := [(1, 255)] }
    let tags (v : Word) (s : State) : State := State.both s fun y => { y with tags := v }
    let i : Instr := .copy plain 1 1 1 0x183 1 2
    ([(placed i).ready i && (placed i).takesCommand [4] && decide ((placed i).now.tagCount 1 < 255),
      (full (placed i)).issues i && (full (placed i)).takesCommand [4] && decide (¬ (full (placed i)).now.tagCount 1 < 255),
      [.copyp plain 1 1, .job plain 1 1, .near plain 1 1].all fun i =>
        (placed i).ready i && (placed i).takesCommand [4] && decide ((placed i).now.tagCount 1 < 255) &&
          (full (placed i)).issues i && (full (placed i)).takesCommand [4] && decide (¬ (full (placed i)).now.tagCount 1 < 255),
      rdy (.twaitany plain 1 0x183) (tags 2 ∘ withG 3 3), iss (.twaitany plain 1 0x183) (withG 3 3), iss (.twaitany plain 1 0x183) id,
      rdy (.twaitall plain 0x183) (tags 7 ∘ withG 3 3), iss (.twaitall plain 0x183) (tags 1 ∘ withG 3 3), rdy (.tffr plain 1 0x183) id,
      rdy (.tclr plain 0x183) id] : List Bool).all id = true := by decide
theorem witness_QueueEventAndBarrierWords :
    let q (n held : Nat) (s : State) : State := State.both s fun y => y.setQueue 1 { ents := List.replicate n {}, held }
    let ev (n : Nat) (s : State) : State := State.both s fun y => y.setEvent 1 { count := n }
    let bar (b : Barrier) (s : State) : State := State.both s fun y => y.setBarrier 1 b
    let spec (s : State) : State := s.modCur fun x => { x with task := some { (x.task.getD {}) with spec := true } }
    let b : Instr := .bar plain 1 3
    ([rdy (.push plain 1 0x183 0 0) id, rdy (.push plain 1 0x183 1 0) id, !((placed (.push plain 1 0x183 1 0)).task 0).spec,
      !((placed (.push plain 1 0x183 1 0)).now.queue 1).full, iss (.push plain 1 0x183 1 0) (q 8 8), ((q 8 8 (placed b)).now.queue 1).full,
      iss (.push plain 1 0x183 1 0) spec, rdy (.pop plain 1 0x181 0 0) (q 1 1), ((q 1 1 (placed b)).now.queue 1).ripe == 1,
      iss (.pop plain 1 0x181 0 0) id, rdy (.qstatQ plain 0x181 1) id, rdy (.qstatE plain 0x181 1) id, rdy (.qdrainQ plain 1 1) id,
      rdy (.qdrainE plain 1 1) id, rdy (.post plain 1 255) id, rdy (.await plain 1 255) (ev 255), iss (.await plain 1 255) (ev 254),
      rdy (.awaitn plain 1 0x183) (ev 1 ∘ withG 3 7), ((ev 1 (placed b)).now.event 1).count == 1, ((ev 1 (placed b)).now.event 0).count == 0,
      iss (.awaitn plain 1 0x183) (withG 3 7), iss (.awaitn plain 1 0x183) (withG 3 0x100000000),
      rdy b (bar { mask := 3, arrived := 0, leaving := 3 }), iss b id, iss b (bar { mask := 3, arrived := 2 }),
      iss b (bar { mask := 3, arrived := 1 }), iss (.bar plain 1 6) id, iss b (bar { mask := 7, arrived := 2 }), (placed b).ownBit == 1]
      : List Bool).all id = true := by decide
/-- Context 0 may read every sensor stream. -/
def reads (s : State) : State := s.modCtx 0 fun k => { k with sread := 0xFFFFFFFFFFFFFFFF }
/-- Stream 5: 8 rows a frame, tiles of 4 rows and 1 column, 4 slots; it stands in frame 2 at a row. -/
def camera (row : Nat) (live : Nat) (s : State) : State := s.modSensor 5 fun x =>
  { x with scfg := BitVec.ofNat 128 (1 + 7 * 2 ^ 35 + 3 * 2 ^ 68 + 3 * 2 ^ 74), ran := BitVec.ofNat 128 (1 + 7 * 2 ^ 35 + 3 * 2 ^ 68 + 3 * 2 ^ 74), frame := 2, row := BitVec.ofNat 16 row,
           tiles := [(live % 4, { frame := 2, tile := live - 4, live := true, first := 10, last := 20 })] }
theorem witness_SensorAndTimeWords :
    let rowwait : Instr := .rowwait plain 5 0x183
    let bind : Instr := .stbind plain 1 5 0x183 7
    let t : Word := 0x0000000200000000
    ([rdy (.rowget plain 7 5) reads, (reads (placed rowwait)).mayRead 5, rdy (.frmgetCnt plain 7 5) reads, rdy (.frmgetStamp plain 7 5) reads,
      !(placed rowwait).mayRead 5, iss (.rowget plain 7 5) id, iss (.frmgetCnt plain 7 5) id, iss (.frmgetStamp plain 7 5) id,
      slice t.toNat 16 16 == 0, rdy rowwait (reads ∘ camera 4 4 ∘ withG 3 t), (camera 4 4 (placed rowwait)).sensor 5 |>.passed 2 4,
      iss rowwait (reads ∘ withG 3 t), !((placed rowwait).sensor 5).passed 2 4, iss rowwait id,
      rdy bind (reads ∘ camera 4 4 ∘ withG 3 t), ((camera 4 4 (placed bind)).sensor 5).tileState 2 0 == 0,
      ((camera 3 4 (placed bind)).sensor 5).tileState 2 0 == 1, ((camera 3 5 (placed bind)).sensor 5).tileState 2 0 == 2,
      ((camera 0 4 (placed bind)).sensor 5).tileState 2 0 == 4, ((camera 8 5 (placed bind)).sensor 5).tileState 2 2 == 4, iss bind id,
      rdy (.timeget plain 0x181) id, rdy (.timegetSt plain 0x181) id] : List Bool).all id = true := by decide
theorem witness_RollCallWords :
    let cfg : Instr := .rccfg plain 2 0x1 3
    let sub : Instr := .rcsub plain 1 2 3
    let get : Instr := .rcget plain 7 8 4 2
    let mine (g : RollGroup) (s : State) : State := s.modGroup 2 fun _ => { g with assigned := true }
    let rec5 : BitVec 128 := BitVec.ofNat 128 (1 + 256 + 5 * 2 ^ 10)
    let armed (held : List SensorTile) (offers : List Offer) : RollGroup := { members := [(3, { record := rec5, held, offers })] }
    let t : SensorTile := { stream := 5, frame := 2, tile := 0, slot := 0 }
    let bound (s : State) := State.both s fun y => y.setHandle 1 { desc := 0x8000000000000001, bound := some t }
    let store (s : State) := State.both s fun y => y.setHandle 4 { desc := 0x8000000000000008 }
    let set : RollSet := { tref := 7, entries := [(some { tile := t, time := 7 }, 0)] }
    let landing : RollGroup := { assigned := true, coming := [(3, rec5)] }
    ([landing.coming == [(3, rec5)], ({} : RollGroup).coming == [], rdy cfg (mine {} ∘ reads ∘ withV 1 (rec5.setWidth 256)), memberLegal rec5, mEn rec5, mStream rec5 == 5, (mine {} (placed cfg)).groupMine 2,
      (reads (placed cfg)).mayRead 5, iss cfg id, !(placed cfg).groupMine 2, rdy sub (bound ∘ mine (armed [] []) ∘ camera 4 4),
      ((bound (placed sub)).old.handle 1).bound == some t, (armed [] []).ref.isSome, mStream ((armed [] []).member 3).record == t.stream,
      ((camera 4 4 (placed sub)).sensor 5).tileState 2 0 == 0, ((camera 3 4 (placed sub)).sensor 5).tileState 2 0 == 1,
      rdy get (store ∘ mine {}), rdy get (store ∘ mine { queue := [set] }), dFoot 0x8000000000000008 == 256,
      set.held == [(0, t)], !dValid ((placed get).now.handle 8).desc,
      (let s := State.both (store (placed get)) fun y => y.setHandle 8 { desc := 0x8000000000000001 }
       s.ready get && dValid (s.now.handle 8).desc)] : List Bool).all id = true := by decide
theorem witness_BranchesCallsAndReturns :
    let far (i : Instr) (s : State) : Bool := iss i (fun _ => s)
    let at_ (i : Instr) : State := (placed i)
    let off : Hdr := ⟨0, 0, 0, 0⟩
    ([iss (.br plain 3) id, (placed (.br plain 3)).inCode 3, iss (.br plain (-1)) id, !(placed (.br plain (-1))).inCode (-1), iss (.call plain 7 3) id,
      (placed (.br off 3)).encodes (.br off 3), !(placed (.br off 3)).guarded (.br off 3), (placed (.br off 3)).hasNext,
      (placed (.call plain 7 3)).inCode 3, iss (.call plain 7 (-1)) id, !(placed (.call plain 7 (-1))).inCode (-1),
      iss (.briRel plain 0x183) (withG 3 0xFFFFFFFFFFFFFFFF), iss (.ret plain 0x183) (withG 3 0xFFFFFFFFFFFFFFFF),
      iss (.bri plain 0x183) (withG 3 5), iss (.briRel plain 0x183) (withG 3 5), iss (.ret plain 0x183) (withG 3 5),
      (placed (.bri plain 0x183)).inCode 5, iss (.bri plain 0x183) (withG 3 0xFFFFFFFFFFFFFFFF),
      !(placed (.bri plain 0x183)).inCode 0xFFFFFFFFFFFFFFFF, far (.br plain 0) (at_ (.br plain 0))] : List Bool).all id = true := by decide
theorem witness_LoopsAndRotation :
    let lc (v : BitVec 32) (s : State) : State := s.modOwn fun t => { t with lc := tabPut t.lc 1 v }
    ([rdy (.loop plain 1 3) (lc 4), iss (.loop plain 1 3) id, (placed (.loop plain 1 3)).inCode 3, rdy (.lclose plain 1 0) (lc 1),
      rdy (.lclose plain 1 0) id, iss (.lclose plain 1 0) (lc 2), (placed (.lclose plain 1 0)).inCode 0,
      iss (.loop plain 1 (-1)) id, !(placed (.loop plain 1 (-1))).inCode (-1), iss (.lclose plain 1 (-1)) (lc 2),
      iss (.rrbset plain 0x181 0x182 1 1) (withG 2 31),
      rdy (.rrbset plain 0x181 0x182 1 1) (withG 1 127 ∘ withG 2 30), rdy (.rrbset plain 0x181 0 0 1) (withG 1 127),
      rdy (.rrbset plain 0 0x182 1 0) (withG 2 30), iss (.rrbset plain 0x181 0 0 1) (withG 1 128)]
      : List Bool).all id = true := by decide
theorem witness_ForkJoinStartAndEndWords :
    let j : Instr := .joinCc plain 2 1
    let j3 : Instr := .joinCc plain 2 3
    let cc (r : CcRec) (s : State) : State := State.both s fun y => y.setCc 2 r
    let set (s : State) : State := cc { value := true } s
    let second (s : State) : State := s.modStream 0 1 fun t => { t with started := true, codeLen := 8 }
    ([rdy (.fork plain) id, rdy (.fork { plain with join := 1 }) id, rdy j id, (placed j).ownBit == 1, rdy j3 (cc { mask := 3, arrived := 2 }),
      !((placed j).stream 0 1).halted, iss j3 id, rdy j3 (cc { mask := 3, arrived := 0, leaving := 1 }),
      rdy j3 (fun s => (cc { mask := 3, arrived := 3 } s).modCur fun x => { x with joinGo := 4 }), ccBit 2 == 4, iss j3 (cc { mask := 3, arrived := 1 }),
      (let s := (placed j).modStream 0 0 fun t => { t with halted := true }
       s.issues j && (s.stream 0 0).halted),
      iss (.joinCc plain 2 2) id, iss j3 (cc { mask := 7, arrived := 2 }), rdy (.ccset plain 0 2) id,
      rdy (.ccset plain 1 2) id, rdy (.ccwait plain 0 2) id, rdy (.ccwait plain 1 2) set, iss (.ccwait plain 0 2) set, iss (.ccwait plain 1 2) id,
      iss (.start plain) id, (placed (.start plain)).hasNext, !(placed (.start plain)).own.atStart,
      ((placed (.start plain)).core 0).startLeft == 0, ((placed (.start plain)).core 0).othersAtStart 0,
      !((second (placed (.start plain))).core 0).othersAtStart 0, iss (.start plain) second, iss (.endStream plain) id, iss (.tdone plain) id,
      rdy (.yieldCore plain) id, rdy (.start plain) (fun s => s.modCur fun x => { x with startLeft := 1 }),
      rdy (.start plain) (fun s => (s.modOwn fun t => { t with atStart := true }).modCur fun x => { x with startGo := true }),
      iss (.start plain) (fun s => s.modOwn fun t => { t with atStart := true }), !((placed (.start plain)).core 0).startGo,
      iss (.sleep plain 3) (fun s => s.modOwn fun t => { t with wake := 12 }), iss (.sleep plain 3) (fun s => s.modOwn fun t => { t with wake := 1 }),
      ((placed (.sleep plain 3)).now.event 3).count == 0, iss (.sleep plain 3) (fun s => s.modOwn fun t => { t with asleep := true }),
      (let s := State.both (placed (.sleep plain 3)) fun y => y.setEvent 3 { count := 1 }
       let w := s.modOwn fun t => { t with wake := 1 }
       s.issues (.sleep plain 3) && s.own.wake == 0 && (s.old.event 3).count != 0 &&
         w.ready (.sleep plain 3) && !w.own.asleep && w.own.wake == 1 && (w.now.event 3).count != 0)] : List Bool).all id = true := by decide
/-- Bytes at their addresses. -/
def at_ (a : Nat) (l : List Byte) : Memory := l.zipIdx.map fun x => (a + x.2, x.1)
/-- Context 0 is enabled and its object 3 is one page with a kernel of two tasks at its start. -/
def kernelIn (s : State) : State :=
  { s with dev := [(48, 0x88), (55, 1), (57, 0x10), (4096, 1), (4098, 2), (0x20000, 1), (0x2000A, 1), (0x20010, 2), (0x20014, 1), (0x20091, 1),
                   (0x20094, 4), (0x20100, 1)] }.modCtx 0 fun k => { k with cfg := 1, otLen := 4 }
/-- A launch packet of that kernel. -/
def packetOf : List Byte := leBytes 8 3 ++ [0, 1, 0, 0, 3, 0, 0, 0] ++ leBytes 8 0x1000 ++ List.replicate 40 0
theorem witness_SpawnWordAndPlacement :
    let i : Instr := .spawn plain 7 1
    let d : BitVec 256 := BitVec.ofNat 256 (5 * 2 ^ 32 + 2 ^ 40)
    let l (s : State) : State := s.modLaunch 5 fun l => { l with active := true }
    let spec (s : State) : State := s.modCur fun x => { x with task := some { (x.task.getD {}) with spec := true } }
    let urgent : BitVec 256 := BitVec.ofNat 256 (5 * 2 ^ 32)
    ([childLegal d, chLid d == 5, chPrio d == 1, rdy i (l ∘ withV 1 d), ((l (placed i)).launch 5).active, ((l (placed i)).launch 5).ctx == 0,
      iss i (withV 1 (d + 0x1000000)), !childLegal (d + 0x1000000), iss i (withV 1 d), !((placed i).launch 5).active, chPrio urgent == 0,
      childLegal urgent, iss i (l ∘ withV 1 urgent), !((placed i).ctx 0).cfg.getLsbD 26, iss i spec, !((placed i).task 0).spec]
      : List Bool).all id = true := by decide
theorem witness_Packets :
    let s := kernelIn State.reset
    ([s.loaderCode 0 none packetOf == 0, s.roomFor packetOf, taskCount (s.kLevels packetOf) == 2, s.loaderCode 0 none (0 :: packetOf) != 0,
      !packetLegal (0 :: packetOf), packetLegal packetOf, s.loaderCode 1 none packetOf == 2, !(State.reset.ctx 0).cfg.getLsbD 0,
      pkCtx packetOf == 0,
      !({ s with launches := (List.range 64).map fun n => (n, { active := true }) } : State).roomFor packetOf,
      ({ s with launches := (List.range 64).map fun n => (n, { active := true }) } : State).loaderCode 0 none packetOf == 0] : List Bool).all id = true := by decide
theorem witness_LaunchWords :
    let d (s : State) : State := State.both s fun y => y.setHandle 1 { desc := BitVec.ofNat 64 (2 ^ 63 + 127 * 2 ^ 30 + 4) }
    let d64 (s : State) : State := State.both s fun y => y.setHandle 1 { desc := BitVec.ofNat 64 (2 ^ 63 + 63 * 2 ^ 30 + 2) }
    let la : Instr := .launch plain 7 1
    let sp : Instr := .spec plain 7 1
    let spec (s : State) : State := s.modCur fun x => { x with task := some { (x.task.getD {}) with spec := true } }
    let full (n : Nat) (s : State) : State := { s with launches := (List.range n).map fun n => (n, { active := true }) }
    ([iss la id, poolHandleFault 0 64 == some .tag, iss sp d64, poolHandleFault ((d64 (placed la)).old.handle 1).desc 128 == some .bounds,
      poolHandleFault ((d (placed la)).old.handle 1).desc 128 == none, iss la (spec ∘ d), iss sp (spec ∘ d), rdy la d, rdy sp d,
      (let busy := (d (placed sp)).modCur fun x => { x with acc := [{ id := 1, stream := 0, kind := .load }] }
       busy.issues sp && busy.unperformed), !(placed la).unperformed,
      !((placed la).task 0).spec, (full 63 (placed la)).freeEntries.length == 1, (placed la).freeEntries.length == 64,
      ((placed la).ctx 0).specs != 3, (((placed la).modCtx 0 fun k => { k with specs := 3 }).ctx 0).specs == 3,
      (placed la).loaderCode ((placed la).fnOfCtx 0) (some 0) [] != 0] : List Bool).all id = true := by decide
theorem witness_DecideAndTicketWaits :
    let i : Instr := .decide plain 7 1 0
    let w : Instr := .twaitLaunch plain 7 0x183
    let spec (s : State) : State := s.modCur fun x => { x with task := some { (x.task.getD {}) with spec := true, slot := 1 } }
    let l (a : Bool) (s : State) : State := s.modLaunch 5 fun l => { l with active := a, gen := 3 }
    ([iss i spec, rdy i id, ((placed i).ctx 0).specs == 0, rdy i (fun s => s.modCtx 0 fun k => { k with specs := 2 }),
      iss w (withG 3 0x10000), iss w (l true ∘ withG 3 (5 + 192)), rdy w (l false ∘ withG 3 (5 + 192)), rdy w (l false ∘ withG 3 5),
      slice 197 0 6 == 5, slice 197 6 10 == 3] : List Bool).all id = true := by decide
theorem witness_TrapAndBrk :
    let t : Instr := .trap plain 0x12A
    let b : Instr := .brk plain
    let dbg (s : State) : State := s.modCur fun x => { x with dbg := 1 }
    ([rdy t id, rdy b id, rdy b dbg, !isLbp (placed t).curCore, !((placed b).core 0).dbg.getLsbD 0, ((dbg (placed b)).core 0).dbg.getLsbD 0]
      : List Bool).all id = true := by decide
theorem witness_ControlAndStatusWords : ([
    rdy (.csrr plain 0x181 4) id, rdy (.csrr plain 0x181 0x10) id, ((placed (.csrr plain 0x181 0x10)).core 0).dirtyAt == 0,
    rdy (.csrw plain 0x181 0 0x183 0) id, rdy (.csrw plain 0x181 0 0x183 2) id, slice 0x300 8 3 < 5, ¬ slice 0x500 8 3 < 5]
    : List Bool).all id = true := by decide
theorem witness_IdentityClockAndSnapshotWords :
    let g : Port := 0x181
    let es (i : Instr) : Bool := ({ (placed i) with phase := .stream 8 }.modStream 0 8 fun t =>
      { t with started := true, codeLen := 1024, idleLoaded := true }).ready i
    ([rdy (.idget plain g 0) id, rdy (.idget plain g 4) id, rdy (.clkget plain g 0) id, rdy (.clkget plain g 1) id, rdy (.clkget plain g 2) id,
      rdy (.perfr plain g 3 0) id, rdy (.perfr plain g 3 1) id, rdy (.perfr plain g 9 0) id, rdy (.perfr plain g 9 1) id, rdy (.ifence plain) id,
      es (.perfr plain g 9 0), ({} : Core).perfNow == [], rdy (.snaprD plain g 0x183) id, rdy (.snaprV plain 1 0x183) id, rdy (.snaprSt plain g 0x183) id,
      rdy (.snapwD plain g 0x183 0x184) id, rdy (.snapwV plain g 0x183 1) id] : List Bool).all id = true := by decide
/-- Core 0 runs a task, with a changed shared record. -/
def running (s : State) : State := s.modCore 0 fun x => { x with tt := .run, task := some {} }
theorem witness_SnapshotWordsLand :
    -- cores 0 and 1 run tasks of the same context; core 1 is faulted
    let two : State := (running State.reset).modCore 1 fun x => { x with tt := .faulted, task := some {} }
    let sel (off : Nat) : Word := BitVec.ofNat 64 (off + 2 ^ 24)
    let f (n off : Nat) : Flight := { stream := 0, dest := .g 3, snap := n, snapSel := sel off, left := 1, id := 4 }
    let flies : State := two.modCore 0 fun x => { x with flight := [f 1 64] }
    let due : State := { two with snapDue := [(1, 64, leBytes 8 5)] }
    ([slice (sel 64).toNat 24 7 == 1, slice (sel 64).toNat 0 23 == 64, two.snapStatus 0 1 == 0, two.snapStatus 0 0 == 2, (two.core 2).task == none,
      two.snapStatus 0 2 == 2, (two.modCore 1 fun x => { x with tt := .run }).snapStatus 0 1 == 1, (two.core 1).tt == .faulted,
      (two.core 0).task == some {}, (two.core 1).task == some {}, two.fnOfCtx 0 == two.fnOfCtx 0,
      !two.snapRange (sel 64) 8 false, two.snapRange (sel 0x520000) 8 false, two.snapRange (sel 65) 8 false, !two.snapRange (sel 64) 32 true,
      two.snapRange (sel 8) 8 true, (flies.core 0).flight == [f 1 64], due.snapDue == [(1, 64, leBytes 8 5)], (due.core 1).task.isSome]
      : List Bool).all id = true := by decide
def withEngine (e : Nat) (f : Engine → Engine) (s : State) : State := State.both s fun y => y.setEngine e (f (y.engine e))
def commandOf (i : Instr) (s : State) : State := running (withEngine (match i with | .decksel .. => 2 | _ => 3) (fun g =>
  { g with queue := [{ ins := i }] }) s)
theorem witness_EngineCommandsStartStepAndFinish :
    let s := State.reset
    let mma : Instr := .mma plain 1 1 0 1
    let r (left : Nat) : Run := { cmd := { ins := mma }, left := some left, steps := 4, progress := 0 }
    let starts (e : Nat) (i : Instr) (s : State) : State := running (withEngine e (fun g => { g with queue := [{ ins := i, nest := [1, 2, 3, 4, 5, 6] }] }) s)
    let ready (e : Nat) (i : Instr) (s : State) : Bool := ((starts e i s).core 0).mayStart e && (((starts e i s).sh 0).engine e).queue != []
    let ring (current : Bool) (hd : Nat) : State := State.both s fun y => { y with ring := { y.ring with d := 2, s := 2, hd, current } }
    let nest : State := State.both s fun y => { y with ring := { y.ring with d := 2, s := 2 }, fmt := [(0, 0x2200000000000000)],
                                                       nestRun := [(2, { live := true, base := [0] })] }
    let runs : State := State.both s fun y => { y with dda := y.dda.setDom 0 { run := true } }
    let ends (i : Instr) (e : Nat) : Bool :=
      (((running (withEngine e (fun g => { g with run := some { cmd := { ins := i }, left := some 0 } }) s)).sh 0).engine e).run.isSome
    let full (stage : Nat) : State := running (State.both s fun y =>
      { y with ring := { y.ring with d := 2, s := 2, stage := [(0, stage)] }, fmt := [(0, 0x2200000000000000)] })
    let p (s : State) : KPlan := { e := (s.soc 0).fmtEntry 0, stage := (s.sh 0).ring.stageAt 0, stageK := 0, deckBase := 0, deckK := 0, span := 16 }
    ([ready 3 (.rpop plain) (ring false 0), ready 3 (.rpop plain) (ring false 1), ready 3 (.rdiscard plain) (ring true 1),
      ((ring true 1).sh 0).ring.current, ready 3 (.epcfgAct plain 3) s, ready 3 (.epcfgBias plain 5 1) s, ready 3 (.epcfgScale plain 5 1) s,
      ready 3 (.epcfgLo plain 0x183) s, ready 3 (.epcfgHi plain 0x183) s, ready 1 (.go plain 2 0x183) s, ready 2 mma nest,
      ready 5 (.cellw plain 0x183 2 7) s, ready 5 (.cellw plain 0x183 3 7) s, ready 5 (.stepdom plain 0 0x183 0) runs,
      ((runs.sh 0).dda.dom 0).run, !(nest.soc 0).matHeld, nest.marks == [],
      (match (nest.sh 0).draw 2 with
        | some (i, _) => let f := (nest.soc 0).fmtEntry ((nest.soc 0).entryFor i)
          decide (0 ≤ i.op2 ∧ i.op2 + 32 ≤ 128 ∧ 32 % kSpan 0 (fEdge f) = 0 ∧ i.op2 % fEdge f = 0 ∧ i.op1 % fEdge f = 0) &&
            gangOf (fA f) (fB f) == some 0
        | none => false), !(nest.sh 0).ring.openTile,
      ends (.cellw plain 0x183 3 7) 5, ends (.patch plain 1 0x183 0) 5, ends (.dasave plain 5) 5, ends (.copy plain 3 1 5 0x184 0 2) 4,
      !((s.core 0).mayStart 2), ((commandOf (.decksel plain 3) s).core 0).mayStart 2, ((commandOf (.rpop plain) s).core 0).mayStart 3,
      ((commandOf (.rpop plain) s).soc 0).ring.d == 0, decide ((r 0).steps ≤ (r 0).progress) == false, ({ r 0 with progress := 4 } : Run).left == some 0,
      (r 0).kDue, tabGet 0 ((full 1).soc 0).ring.stage ((full 1).sh 0 |>.ring.slot 0) == 1,
      tabGet 0 ((full 2).soc 0).ring.stage ((full 2).sh 0 |>.ring.slot 0) == 2, ((full 2).soc 0).ring.hd - ((full 2).soc 0).ring.tl < ((full 2).soc 0).ring.d,
      fEdge ((full 2).soc 0 |>.fmtEntry 0) == (r 0).edge, gangOf (fA (((full 2).soc 0).fmtEntry 0)) (fB (((full 2).soc 0).fmtEntry 0)) == some 0,
      (p (full 2)).inDeck] : List Bool).all id = true := by decide
/-- Core 0's queue of an engine holds one command. -/
def queued (e : Nat) (i : Instr) (s : State) : State := running (withEngine e (fun g => { g with queue := [{ ins := i }] }) s)
/-- A POOL handle of 64 rows of 128 32-bit integers. -/
def poolTile : Handle := { desc := BitVec.ofNat 64 (2 ^ 63 + 63 * 2 ^ 43 + 127 * 2 ^ 30 + 1024) }
theorem witness_DataOfEngineCommands :
    let s := running (kernelIn State.reset)
    let cap := capOfs 0xFF 0x10000 0 3
    let go (x : Eng) : Bool := match x with | .go t => t.broken.isNone | _ => false
    let reads (x : Except EngStop (List Byte × State)) (n : Nat) : Bool := match x with | .ok r => r.1.length == n | .error _ => false
    -- the field of DASAVE and DALOAD: handle 5 is a TSTORE-free pool tile large enough
    let big : Handle := { desc := BitVec.ofNat 64 (2 ^ 63 + 65 * 2 ^ 43 + 127 * 2 ^ 30 + 1056) }
    let da (i : Instr) : State := State.both (queued 5 i s) fun y => y.setHandle 5 big
    -- staging
    let ast : Run := { cmd := { ins := .astage plain 5 0 0x183 }, caps := [cap], fmt := 0x2200000000000000, iter := [0, 0, 0] }
    let full : State := State.both s fun y => { y with ring := { y.ring with d := 2, s := 2, stage := [(0, 2)] } }
    let dl : Run := { cmd := { ins := .deckld plain 5 0x183 4 }, caps := [cap] }
    -- the epilogue writes handle 6
    let ep : Run := { cmd := { ins := .eprun plain 6 }, fmt := BitVec.ofNat 64 (8 * 2 ^ 27), iter := [0, 0, 0] }
    let eps : State := State.both s fun y => { y.setHandle 6 poolTile with ring := { y.ring with d := 2, s := 2, current := true } }
    -- a copy of 64 bytes from memory into handle 6, and a pattern of two elements of 4 bytes
    let cp : Run := { cmd := { ins := .copy plain 3 1 6 0x184 0 2, src := 64 }, caps := [cap, {}] }
    let pat : List Byte := leBytes 8 2 ++ leBytes 8 (64 + 6) ++ [2, 0, 0, 0, 0, 0, 0, 0] ++
      [2, 0, 4, 0, 0, 0, 4, 0, 0, 0] ++ [1, 0, 0, 0, 0, 0, 0, 0, 0, 0] ++ [1, 0, 0, 0, 0, 0, 0, 0, 0, 0] ++ [1, 0, 0, 0, 0, 0, 0, 0, 0, 0]
    let cpp : Run := { cmd := { ins := .copyp plain 3 1 }, data := pat, caps := [cap, {}] }
    let q := Pattern.ofBytes pat
    let a := (eps.copyEnd 0 cpp.cmd q.srcKind q.src).withCap cap
    let b := (eps.copyEnd 0 cpp.cmd q.dstKind q.dst).withCap {}
    ([((da (.dasave plain 5)).core 0).mayStart 5, (((da (.dasave plain 5)).sh 0).engine 5).queue != [], (da (.dasave plain 5)).marks == [],
      !((da (.dasave plain 5)).core 0).sentBefore { ins := .dasave plain 5 }, (daHandle big 5 8448).isNone,
      [0, 1, 2, 3].all (fun d => !((((da (.daload plain 5)).core 0).sh.dda.dom d).run)), ((da (.daload plain 5)).core 0).mayStart 5,
      (match full.advanceCmd 0 0 { ast with waiting := true } with | .wait => true | _ => false), tabGet 0 (full.soc 0).ring.stage ((full.sh 0).ring.slot 0) == 2, !ast.waiting,
      (let ms := stageUnitOf cap ast.fmt 0 { idx := [], op0 := 0, op1 := 0, op2 := 0 } 16 0
       ms != [] && reads (s.engRead 0 0 0 cap (ms.map Prod.snd)) ms.length),
      go (s.advanceCmd 0 0 ast), 32 * 1 + 32 ≤ 49152, fOut ep.fmt == 8, poolTile.bound.isNone, decide (ep.progress < 64),
      epBias (eps.sh 0).epcfg == none, epScale (eps.sh 0).epcfg == none, epAct (eps.sh 0).epcfg == 0,
      slice cp.cmd.src.toNat 0 32 == 64, go (eps.advanceCmd 0 4 cp), reads (eps.endRead 0 (.cap 2 cap) 0 32) 32,
      ((eps.copyEnds 0 cp.cmd true false 6 2).2.1.withCap {}) == .tile 6 poolTile,
      q.count == 2, decide (cpp.progress + 1 < q.count), (a.check eps 0 (a.start + q.offset 0 false) q.width false).isNone,
      (b.check eps 0 (b.start + q.offset 0 true) q.width true).isNone, reads (eps.endRead 0 a (a.start + q.offset 0 false) q.width) 4,
      (match eps.endWrite 0 b (b.start + q.offset 0 true) [1, 2, 3, 4] with | .ok _ => true | .error _ => false),
      !cpp.waiting, go (eps.advanceCmd 0 4 { cpp with progress := 2 }), dl.progress == 0] : List Bool).all id = true := by decide
theorem witness_SeasonFieldMarkerAndPoolHappenings :
    let s := running State.reset
    let idle := withEngine 2 (fun g => { g with idleFor := 64 }) s
    let field (cell : Vec) (r : Domain) : State := State.both s fun y => { y with dda := { cells := [(3, cell)], doms := [(1, r)] } }
    -- domain 1, n = 10, one unit input to dx
    let cell (y : Nat) : Vec := BitVec.ofNat 256 (y + 2 * 2 ^ 64 + 2 ^ 69 + 0x9000 * 2 ^ 128)
    let go : Domain := { run := true, pend := 1 }
    let old (f : State) : Dda := { (f.soc 0).dda with fresh := 0 }
    let isOk (x : Except Nat Dda) : Bool := match x with | .ok _ => true | .error _ => false
    let marker : List Byte := List.replicate 16 0 ++ [8] ++ List.replicate 47 0
    let ended : PoolReq := { pending := true, ending := true, ticket := 1, counter := 2, want := { reg := 3 },
                             tickets := [{ ticket := 1, pending := true }, { ticket := 2, code := 2 }] }
    let pool (step : Nat) (want : PoolRoles) : State := State.both s fun y => { y with poolReq := { pending := true, step, want } }
    let shrink : State := (State.both (pool 3 {}) fun y => { y with pool := { reg := 1, cache := 63 } }).modStream 0 0 fun t =>
      { t with started := true }
    ([idle.broken.isNone, ((idle.sh 0).engine 2).idleFor == 64, ((idle.sh 0).engine 2).season == .summer, ((idle.sh 0).engine 2).queue == [],
      ((field (cell 100) go).core 0).stepping == [1], ((field (cell 100) go).cellBad 0 1).isNone, isOk ((old (field (cell 100) go)).stepDomain 1),
      ((field (cell 1600) go).core 0).stepping == [1], !isOk ((old (field (cell 1600) go)).stepDomain 1),
      ((field 0 { go with kind := 1 }).sh 0).dda.dom 1 |>.run, ((field 0 { go with kind := 1 }).core 0).counts,
      !((s.modCore 0 fun x => { x with tt := .save }).core 0).counts, (((field 0 { go with kind := 2 }).sh 0).dda.dom 1).kind == 2,
      (Pattern.ofBytes marker).marker == some 0, !((s.sh 0).queue 0).full,
      (((State.both s fun y => y.setQueue 0 { ents := List.replicate 8 {}, held := 8 }).sh 0).queue 0).full, !(s.sh 0).poolReq.pending,
      ((pool 4 {}).sh 0).poolReq.pending, ((pool 3 {}).sh 0).poolReq.step == 3, decide (((shrink).sh 0).poolReq.want.reg < ((shrink).sh 0).pool.reg),
      !(shrink.core 0).regReady, ended.ending, ended.tickets.any (fun k => k.ticket == ended.ticket && k.pending),
      ended.tickets.any (fun k => k.ticket != ended.ticket)] : List Bool).all id = true := by decide
theorem witness_FabricAndPeerHappenings :
    let card (l : List Byte) : List Byte := l ++ List.replicate (64 - l.length) 0
    let hist : List Byte := card ([3] ++ List.replicate 15 0 ++ [4])
    let near : Run := { cmd := { ins := .near plain 1 1 }, data := hist, caps := [capOfs 0xFF 0x1000 0 3] }
    let s := running (kernelIn State.reset)
    let a := near.caps.getD 0 {}
    let job (opk : Byte) (s : State) : State := { s with peers := [(0, 3)], cores := [(0, { (s.core 0) with sh := { (s.sh 0) with engines := [(4,
      { (((s.sh 0).engine 4)) with run := some { cmd := { ins := .job plain 1 1 }, waiting := true, data := card [opk, 0, 3] } })] } })] }
    ([!near.failed, nrOp (near.data.take 64) == 3, near.progress < nrCnt hist,
      (match s.nearRead 0 (bytesNat hist 1 1) a (a.cur + bytesNat hist 8 8 + near.progress : Nat) (nearPart a hist 0) with
        | .ok r => r.2.broken.isNone && r.1.length == 4 | .error _ => false),
      s.broken.isNone, tabGet 8 s.peers 0 != 3, ((job 1 s).awaitingCard 3).isSome,
      (match (job 1 s).awaitingCard 3 with
        | some (_, r) => ((job 1 s).cardPeers (r.data.take 64)).all (fun q => (r.idx ++ [3]).contains q) && jbOpk (r.data.take 64) == 1
        | none => false)] : List Bool).all id = true := by decide
theorem witness_TwoPeersAwaited :
    let card : List Byte := [3, 0, 0, 7] ++ List.replicate 60 0
    let s : State := { running State.reset with peers := [(0, 1), (1, 2)], boot := { State.reset.boot with deviceNumber := 0 } }
    let s := State.both s fun y => y.setEngine 4 { y.engine 4 with run := some { cmd := { ins := .job plain 1 1 }, waiting := true, data := card } }
    ([(match s.awaitingCard 1 with
      | some (_, r) => !((s.cardPeers (r.data.take 64)).all fun q => (r.idx ++ [1]).contains q)
      | none => false)] : List Bool).all id = true := by decide
/-- Core 0 holds one access; the object is that of `kernelIn`. -/
def accessing (a : Access) (s : State) : State := (running (kernelIn s)).modCore 0 fun x => { x with acc := [a] }
def anAccess (kind : AccKind) (n : Nat) : Access :=
  { id := 9, stream := 0, kind, cap := capOfs 0xFF 0x1000 0 3, pieces := [{ pos := 0x40, size := n }], agent := 1, age := 20 }
def placedAccess (kind : AccKind) (n : Nat) : Access :=
  { anAccess kind n with translated := true,
                         pieces := [{ pos := 0x40, size := n, at_ := (List.range n).map fun i => (false, 0x20040 + i) }] }
theorem witness_AccessesTranslateStallOrFault :
    let s (a : Access) (page : Byte) : State := { accessing a State.reset with dev := (accessing a State.reset).dev.map fun x =>
      if x.1 = 4096 then (4096, page) else x }
    let a := anAccess .load 8
    let kindOf (x : Except (Xlat × State) (List Piece × State)) : Nat := match x with
      | .ok (ps, u) => if u.broken.isNone && ps.flatMap Piece.at_ == (List.range 8).map (fun i => (false, 0x20040 + i)) then 0 else 9
      | .error (.migrating, _) => 1 | .error (.absent _, _) => 2 | .error (.fault _, _) => 3 | .error _ => 4
    let again : Access := { a with recheck := true }
    let short : Access := { again with cap := capOfs 0xFF 0x40 0 3 }
    let saving : State := (s a 1).modCore 0 fun x => { x with tt := .save }
    ([!((s a 1).core 0).leaves a, (saving.core 0).leaves a, a.checked.isNone, again.checked.isNone, short.checked == some .bounds,
      ((s a 1).core 0).access 9 == some a, a.kind.translates, kindOf ((s a 1).placePieces 0 0 3 a.pieces) == 0,
      kindOf ((s a 3).placePieces 0 0 3 a.pieces) == 1, kindOf ((s a 2).placePieces 0 0 3 a.pieces) == 2,
      kindOf ((s a 5).placePieces 0 0 3 a.pieces) == 3, kindOf ((s a 1).placePieces 0 0 2 a.pieces) == 3, decide (0x20048 < Config.deviceBytes),
      a.lag == 0, (s a 1).broken.isNone] : List Bool).all id = true := by decide
theorem witness_LoadsReturnTheirBytes :
    let a := placedAccess .load 8
    let line : Access := { placedAccess .load 128 with dest := .line 0 1 2 3, w := 5 }
    let late : Access := { a with lag := 2 }
    let s (a : Access) := accessing a State.reset
    let acq : Access := { a with ord := 1, agent := 1 }
    let far : Access := { acq with agent := 3, stor := 0 }
    ([((s acq).core 0).access 9 == some acq, acq.acquires, (s acq).mayPerform 0 acq, far.acquires, (s far).mayPerform 0 far, decide (2 ≤ far.agent),
      ((s a).core 0).access 9 == some a, (s a).mayPerform 0 a, !(s late).mayPerform 0 late, ((s a).poisoned 0 a.agent a.places).isNone, !a.acquires,
      ({ s a with poison := [(4, 0x20040 / 32)] } : State).poisoned 0 a.agent a.places |>.isSome, ((s line).core 0).access 9 == some line,
      (s line).mayPerform 0 line, ((s line).poisoned 0 line.agent line.places).isNone, !line.acquires] : List Bool).all id = true := by decide
theorem witness_CapabilitiesGathersAndTilesLoad :
    let s (a : Access) := accessing a State.reset
    let may (a : Access) : Bool := ((s a).core 0).access 9 == some a && (s a).mayPerform 0 a && ((s a).poisoned 0 a.agent a.places).isNone
    let cap := placedAccess .capLoad 16
    let lane (l : Nat) : Piece := { pos := 0x40 + 4 * l, size := 4, lane := l, at_ := (List.range 4).map fun i => (false, 0x20040 + 4 * l + i) }
    let gath : Access := { placedAccess .gather 4 with pieces := [lane 0, lane 7], w := 2 }
    let tile : Access := { anAccess .tileLoad 8 with handle := { tile := 2, desc := BitVec.ofNat 64 (2 ^ 63 + 4) }, pieces := [{ pos := 0, size := 8 }] }
    ([may cap, cap.places != [], may gath, decide (gath.w ≤ 3), decide (gath.pieces.map Piece.lane).Nodup, gath.pieces.all fun k => decide (k.lane < 8),
      ((s tile).core 0).access 9 == some tile, (s tile).mayPerform 0 tile, !tile.translated, tile.pieces != [],
      ((s tile).tileBad 0 tile.handle 0 8).isNone, ({ s tile with marks := [.tile 0 2 0] } : State).tileBad 0 tile.handle 0 8 |>.isSome]
      : List Bool).all id = true := by decide
theorem witness_StoresWriteTheirBytesAndNoOthers :
    let a := placedAccess .store 8
    let s := State.both (accessing a State.reset) fun y => { y with pool := { y.pool with cache := 0 } }
    let sector : CacheSector := { data := 0x55, dirty := 1 }
    let key := sectorKey false 0x20040
    let d := s.modCore 0 fun x => { x with cache := [(key, sector)] }
    ([s.broken.isNone, (s.identOf 0).isNone, (s.core 0).access 9 == some a, s.mayPerform 0 a, !a.isRelease, (s.core 0).cache == [],
      (s.sh 0).pool.cache == 0, a.places.all fun q => !q.1, decide a.places.Nodup, (d.identOf 0).isNone,
      (d.core 0).cache.find? (·.1 == key) == some (key, sector), !keyHost key, d.broken.isNone] : List Bool).all id = true := by decide
theorem witness_OtherStoresReleasesAndFlushes :
    let s (a : Access) := State.both (accessing a State.reset) fun y => { y with pool := { y.pool with cache := 0 } }
    let may (a : Access) : Bool := ((s a).core 0).access 9 == some a && (s a).mayPerform 0 a
    let scat := placedAccess .scatter 4
    let cap := placedAccess .capStore 16
    let rel : Access := { placedAccess .store 8 with ord := 2, agent := 3 }
    let tile : Access := { anAccess .tileStore 8 with handle := { tile := 2, desc := BitVec.ofNat 64 (2 ^ 63 + 4) }, pieces := [{ pos := 0, size := 8 }] }
    let flush (k : AccKind) : Access := anAccess k 64
    let two (a : Access) : State := (s a).modCore 0 fun x => { x with cache := [(sectorKey false 0x20040, { dirty := 3 }), (sectorKey false 0x20080, {})] }
    let keys := ((two rel).core 0).cache.map Prod.fst
    let range (a : Access) : Bool := match (s a).flushRanges 0 3 0x40 64 with | .ok l => l != [] && keyIn l (sectorKey false 0x20040) | .error _ => false
    ([may scat, !scat.isRelease, scat.pieces.all (fun p => decide (p.size ≤ 4)), scat.places.all (fun q => !q.1), decide scat.places.Nodup,
      may cap, cap.places.length == 16, cap.places.all (fun y => y.2 / 16 == 0x20040 / 16), may rel, rel.isRelease, decide (2 ≤ rel.agent),
      ({ rel with agent := 1 } : Access).isRelease, may tile, !tile.translated, tile.pieces != [], decide (keys.Pairwise (· < ·)),
      keys.any (fun k => storHas 3 (keySpace k) && !keyHost k), range (flush .flush), (s (flush .flush)).accFree 0 (flush .flush), !(flush .flush).held,
      ((s (flush .inval)).core 0).access 9 == some (flush .inval), ((s (flush .inval)).core 0).tt == .run, (s (flush .inval)).accFree 0 (flush .inval)]
      : List Bool).all id = true := by decide
theorem witness_AtomicsReturnTheOldValue :
    let a := placedAccess (.atomic 0 5 0) 8
    let c := placedAccess (.atomic 9 5 1) 8
    let f (op : Nat) : Access := placedAccess (.atomicF op 0x3F800000) (if op < 3 then 4 else 2)
    let s (a : Access) := accessing a State.reset
    let cached (a : Access) : State := (s a).modCore 0 fun x => { x with cache := [(sectorKey false 0x20000, {})] }
    ([(List.range 5).all fun op => ((s (f op)).core 0).access 9 == some (f op) && (s (f op)).mayPerform 0 (f op) && decide (f op).places.Nodup &&
        !(f op).acquires && !(f op).isRelease && ((s (f op)).poisoned 0 2 (f op).places).isNone,
      a.places.all fun q => ((cached a).core 0).cache.all fun e => e.1 != sectorKey q.1 q.2, (cached a).mayPerform 0 a,
      ((s a).core 0).access 9 == some a, ((s a).identOf 0).isNone, (s a).mayPerform 0 a, !a.isRelease, !a.acquires, ((s a).core 0).cache == [],
      a.places.all fun q => !q.1, decide a.places.Nodup, ((s a).poisoned 0 2 a.places).isNone, (amoValue 0 64 0 5 0).isSome,
      ((s c).core 0).access 9 == some c, (s c).mayPerform 0 c, (amoValue 9 64 0 5 1).isNone] : List Bool).all id = true := by decide
theorem witness_ReleasesTokensFillsAndHostErrors :
    let s (a : Access) := accessing a State.reset
    let rel (k : AccKind) : Bool :=
      let a : Access := { anAccess k 0 with pieces := [] }
      let b : Access := { a with lag := 1 }
      ((s a).core 0).access 9 == some a && (s a).releaseReady 0 a && !(s b).releaseReady 0 b
    let pref : Access := placedAccess (.prefetch 5) 8
    let a := anAccess .load 8
    let host : State := { s a with dev := (s a).dev.map fun x => if x.1 = 48 then (48, 0xA8) else x }
    let fetching (obj : Nat) : State := (kernelIn State.reset).modCore 0 fun x => { x with tt := .run, task := some { kobj := obj } }
    let fetching (obj : Nat) : State := (fetching obj).modStream 0 0 fun t => { t with started := true, codeLen := 8 }
    let gone : State := { fetching 3 with dev := (fetching 3).dev.filter fun x => x.1 != 4096 }
    let moving : State := { fetching 3 with dev := (fetching 3).dev.map fun x => if x.1 = 4096 then (4096, 3) else x }
    let bad : State := { fetching 3 with poison := [(4, 0x20000 / 32)] }
    let fenced : State := (fetching 3).modStream 0 0 fun t => { t with fillAfter := 1 }
    let last := (fetching 3).blockSpan 0 0 0
    ([(s a).core 0 |>.acc.all fun b => b.kind != .prefetch 9, ((s pref).core 0).access 9 == some pref, pref.translated,
      ((s pref).core 0).acc.find? (fun b => b.kind == .prefetch 5) == some pref, (s pref).mayPerform 0 pref,
      !(s { pref with lag := 2 }).mayPerform 0 { pref with lag := 2 }, rel (.pushRel 1), rel (.postRel 1 3), rel (.ccRel 2 true), a.kind.moves, host.accSpace 0 a == 3, host.accFree 0 a, host.broken.isNone,
      !(fetching 3).mayFill 0 0 1, (fetching 3).mayFill 0 0 0, (match (fetching 3).walk 0 3 0 with | .ok _ => true | _ => false), gone.mayFill 0 0 0,
      (match gone.walk 0 3 0 with | .error (.absent _) => true | _ => false), last == (0, 64),
      (match (fetching 3).walk 0 3 63 with | .ok _ => true | _ => false), ((fetching 3).poisoned 0 4 ((fetching 3).blockPlaces 0 0 0)).isNone,
      (bad.poisoned 0 4 (bad.blockPlaces 0 0 0)).isSome, moving.mayFill 0 0 0, (match moving.walk 0 3 0 with | .error .migrating => true | _ => false),
      fenced.mayFill 0 0 0, (fenced.stream 0 0).fillAfter == 1] : List Bool).all id = true := by decide
theorem witness_TimetableSaveAndRestoreHappenings :
    let s := State.reset
    -- a valid bind record of SRC 1 (children), context 0
    let r : BitVec 128 := BitVec.ofNat 128 (1 + 2 ^ 42 + 2 ^ 52)
    let staged (n : Nat) (s : State) : State := { s with ttRec := (List.range n).map fun i => (i, r) }
    let next : State := s.modForm 0 fun f => { f with next := [0, 1, 2, 3].map fun i => (i, r) }
    let child : Child := { desc := BitVec.ofNat 256 (2 ^ 40 + 7) }
    let waiting : State := { s.modForm 0 fun f => { f with active := [0, 1, 2, 3].map fun i => (i, r) } with dies := [(0, { queue := [child] })] }
    let waiting : State := waiting.modCore 0 fun x => { x with tt := .popwait }
    let engine (save : Bool) (t : TtState) : State := { s.modCore 0 fun x => { x with tt := t, task := some {} } with dies := [(0, { order := [(0, save)] })] }
    -- the kernel's object, and the save area, lie on a page that migrates
    let moving (save : Bool) (t : TtState) : State :=
      let u := kernelIn (engine save t)
      let u : State := { u with dev := tabSet 0 u.dev 4160 3 }
      (({ u with dev := u.dev.map fun x => if x.1 = 55 then (55, 9) else if x.1 = 4096 then (4096, 3) else x } : State).modCtx 0 fun k => { k with save := 3 }).modCore 0 fun x =>
        { x with task := some { kobj := 3 } }
    ([(moving false .restore).imageMigrates { kobj := 3 }, ((moving false .restore).core 0).task == some { kobj := 3 },
      !(engine false .restore).imageMigrates {}, (moving true .save).engineHead 0 == some (0, true), (moving true .save).drained 0,
      (imageParts ((moving true .save).core 0)).any fun p => (moving true .save).migrates 0 ((moving true .save).saveObj 0)
        (slotAt ((moving true .save).core 0).saveSlot + p.1) p.2,
      (staged 1 s).commitCode != 0, s.commitCode == 0, (staged 4 s).commitCode == 0, s.broken.isNone,
      (s.modCore 0 fun x => { x with tt := .run }).core 0 |>.spare |> not, (next.form 0).next != [], next.powered,
      [0, 1, 2, 3].all fun i => (next.core i).spare, (s.core 0).tt != .popwait, (waiting.core 0).tt == .popwait,
      waiting.popChoice 0 == some child, s.engineHead 0 != some (0, false), (engine false .restore).engineHead 0 == some (0, false),
      ((engine false .restore).form 0).season == .summer, ((engine false .restore).core 0).task == some {},
      (((engine false .restore).task 0).saved).isNone, s.engineHead 0 != some (0, true), (engine true .save).drained 0,
      (engine true .save).engineHead 0 == some (0, true), ((engine true .save).saveTask 0).broken.isNone,
      (((engine true .save).clearCache 0).core 0).task.isSome] : List Bool).all id = true := by decide
theorem witness_InboxOverflowWatchdogAndDeadlineHappenings :
    let s := State.reset
    let inbox : State := { kernelIn s with host := packetOf.zipIdx.filterMap fun x => if x.1 = 0 then none else some (0x1000 + x.2, x.1),
                                           fns := [(0, { inboxBase := 0x1000, slots := 4, tail := 1 })] }
    let full : State := { inbox with launches := (List.range 64).map fun n => (n, { active := true }) }
    let p := rdBytes inbox.host 0x1000 64
    let overflow : State := { kernelIn s with dev := [(48, 0x80), (55, 1), (57, 0x10), (4096, 1), (4098, 2), (0x20008, 1), (0x20010, 2), (0x20040, 7)] }
    let overflow := overflow.modCtx 0 fun k => { k with cfg := BitVec.ofNat 64 (1 + 3 * 2 ^ 40), ovfDies := [1] }
    let many : State := { s with dies := [(0, { queue := List.replicate 3840 { desc := 0 } })] }
    let dog (n : Nat) : State := State.both (running s) fun y => { y with budget := 5, countK := n }
    let late (miss : Bool) : State := s.modLaunch 3 fun l => { l with active := true, dln := 7, elapsed := 7, remain := 1, miss }
    ([({ (inbox.fn 0) with flrBusy := true } : HostFn).flrBusy, !(inbox.fn 0).flrBusy, (s.fn 0).slots == 0, p == packetOf, inbox.loaderCode 0 none p == 0, inbox.roomFor p, !full.roomFor p, full.loaderCode 0 none p == 0,
      taskCount (inbox.kLevels p) == 2, decide ((3 - (inbox.fn 0).head : BitVec 16).toNat ≤ 4), decide (4 < (9 - (inbox.fn 0).head : BitVec 16).toNat),
      4096 ≤ (many.die 0).queue.length + (many.die 0).freed + 256, (overflow.die 1).queue.length + (overflow.die 1).freed + 256 < 4096, (overflow.ctx 0).ovfDies == [1], overflow.ovfAll 0 == [7], (overflow.drainOverflow 1 0).broken.isNone,
      (dog 5).broken.isNone, ((dog 5).sh 0).budget = ((dog 5).sh 0).countK, ((dog 5).sh 0).subCount = 0, ((dog 4).sh 0).budget ≠ ((dog 4).sh 0).countK, (s.sh 0).budget == 0,
      ((late true).launch 3).miss, ((late false).launch 3).active] : List Bool).all id = true := by decide
theorem witness_SeasonHappenings :
    let s := State.reset
    let req (v : Word) : State := s.modCore 0 fun x => { x with seasonReq := v, seasonRes := 8 }
    let winter : Word := 0x20001
    let ramp (running : Bool) (form : Bool) : State := { s with dies := [(0, { ramps := [{ core := 0, form, eng := 2, units := 1, running }] })] }
    ([s.formAwake 0, ((req 0).core 0).seasonRes.getLsbD 3, !(s.core 0).seasonRes.getLsbD 3, srBad 0x100001, !srBad winter, srTarget winter == 2,
      ({ s with urgForms := 1 } : State).urgForms.getLsbD (formOf 0), !s.urgForms.getLsbD 0, !s.seasonReached 0 winter, !srBad 0x30100,
      srTarget 0x30100 == 3, !s.seasonReached 0 0x30100, !srBad 0x100, srForm 0x100, srTarget 0x100 == 0,
      !(s.modForm 0 fun f => { f with season := .winter }).seasonReached 0 0x100, srEngines winter == [0], !srForm winter, !((req winter).urgForms.getLsbD 0 || (req winter).urgWanted.getLsbD 0),
      (({ req winter with urgForms := 1 } : State).core 0).seasonRes.getLsbD 3, srTarget ((req winter).core 0).seasonReq == 2,
      ((req winter).sh 0 |>.engine 0).season == .summer, ((req winter).sh 0 |>.engine 0).wake == 0, (s.die 0).nextRamp.isNone,
      ((ramp false true).die 0).nextRamp.isSome, ((ramp false false).die 0).nextRamp.isSome,
      ((ramp true true).die 0).ramps.find? (fun r => r.running && r.ticks == 0) == some { core := 0, form := true, eng := 2, units := 1, running := true },
      ((ramp true false).die 0).ramps.any fun r => r.running && r.ticks == 0 && !r.form,
      ((req 0).seasonLack 0 0 (srUnits 0x100)) == 0, ((req winter).seasonLack 0 winter (srUnits winter)) != 0,
      ((s.modForm 0 fun f => { f with season := .winter }).form 0).season != .summer] : List Bool).all id = true := by decide
theorem witness_ImbalanceHeatAndPeerCeilings :
    let s := State.reset
    let peer (t : Nat) : State := { s with peers := [(1, 3)], peerCeil := [(1, (20, t))] }
    let hot : State := s.modDie 0 fun d => { d with trip := true, tripTicks := 2500 }
    let timed : State := s.modForm 0 fun f => { f with ticked := true, hot := true, full := true }
    let heat : State := s.modDie 0 fun d => { d with excess := true }
    ([s.broken.isNone, !(s.form 0).ticked, (timed.form 0).ticked, 100 ≤ peakOf (imbalance [4000, 0, 0, 0]).2,
      peakOf (imbalance [1000, 300, 300, 300]).2 < 100, (timed.form 0).lim ≤ peakOf (imbalance [1000, 300, 300, 300]).2, (timed.form 0).action == 2,
      2 * peakOf (imbalance [100, 100, 100, 100]).2 < (s.form 0).lim,
      ((s.modForm 0 fun f => { f with calm := 16 }).form 0).calm == 16, !(s.form 0).relaxed, !(s.die 0).excess, !(heat.die 0).moved, (heat.die 0).excess,
      0 < heat.ceil 3, 1024 ≤ ((s.modDie 0 fun d => { d with cool := 1024 }).die 0).cool, (s.die 0).cool < 1024,
      ((s.modForm 3 fun f => { f with ceil := 47 }).form 3).ceil < 48, !(s.die 0).trip,
      (hot.die 0).trip, 2500 ≤ (hot.die 0).tripTicks, (peer 0).peers.any (fun p => p.1 == 1), !s.peers.any (fun p => p.1 == 1),
      (peer 25000).peerCeil.any (fun p => p.1 == 1 && 25000 ≤ p.2.2), !(peer 0).peerCeil.any (fun p => p.1 == 1 && 25000 ≤ p.2.2),
      !s.memTherm.getLsbD 15] : List Bool).all id = true := by decide
theorem witness_TableCommandsAndShootDowns :
    let s : State := { kernelIn State.reset with fns := [(0, { otArg := 0x40000 })] }
    let cmd (op : Nat) : OtCmd := { fn := 0, op, ctx := 0, obj := 3, page := 0, arg := 0x40000 }
    let word (op : Nat) : Word := BitVec.ofNat 64 (op * 2 ^ 60 + 3 * 2 ^ 32)
    let waits (op : Nat) (w : List Nat) : State := { s with otQueue := [{ cmd op with waits := some w }] }
    ([(s.modFn 0 fun f => { f with otBusy := true }).fn 0 |>.otBusy, !(s.fn 0).otBusy, (s.fn 0).otArg == 0x40000, slice (word 1).toNat 60 4 == 1,
      slice (word 1).toNat 32 24 == 3, s.otCheck (cmd 0) == 0, s.otCheck (cmd 1) == 0, s.otCheck (cmd 2) == 0, s.otCheck { cmd 0 with obj := 2 } == 1,
      (s.descr 0 3).isSome, ({ s with patience := 0 } : State).otCheck (cmd 1) == 0, s.forms.all (fun f => f.2.season == .summer), (s.form 9).season == .summer, (waits 1 [5]).canAck (cmd 1) 5, (waits 1 [5, 6]).canAck (cmd 1) 5, !((waits 1 [5]).modCore 5 fun x => { x with acc := [placedAccess .store 8] }).canAck (cmd 1) 5,
      ([5].erase 5 : List Nat) == [],
      ({ s with dev := s.dev.map fun x => if x.1 = 4096 then (4096, 3) else x } : State).migrates 0 3 0x40 8,
      ((((accessing (placedAccess .store 8) s).purge (cmd 1) 5).core 0).acc).length == 1, (waits 1 []).broken.isNone,
      ((waits 1 []).movePage (cmd 1)).broken.isNone, ((waits 1 []).movePage (cmd 1)).stalls == [],
      ({ s with stalls := [.access 0 9] } : State).stalls == [.access 0 9]] : List Bool).all id = true := by decide
theorem witness_ResetsAttestationAndTime :
    let s := State.reset
    let flr : State := s.modFn 2 fun f => { f with flrBusy := true }
    ([s.otQueue == [], (s.ctxsOf 2).all fun c => (s.ctx c).ovfDies == [], !(s.fn 2).flrBusy, (flr.fn 2).flrBusy, !s.attBusy,
      ({ s with attBusy := true } : State).broken.isNone, !s.hostTime, decide (s.time.toNat ≤ (5 : Word).toNat),
      decide ((5 : Word).toNat < ({ s with time := 9 } : State).time.toNat), !s.boot.digests.getLsbD 0] : List Bool).all id = true := by decide
/-- Whatever the signature over a report is, its two halves are operands of the happening. -/
theorem witness_signatureHalves (x : BitVec 512) : ∃ v r : BitVec 256, v ++ r = x :=
  ⟨x.extractLsb' 256 256, x.extractLsb' 0 256, by
    apply BitVec.eq_of_toNat_eq
    simp only [BitVec.toNat_append, BitVec.extractLsb'_toNat, Nat.shiftRight_eq_div_pow]
    have h : x.toNat / 2 ^ 256 < 2 ^ 256 := Nat.div_lt_of_lt_mul (by rw [← Nat.pow_add]; exact x.isLt)
    rw [← Nat.shiftLeft_add_eq_or_of_lt (Nat.mod_lt _ (Nat.two_pow_pos 256)), Nat.shiftLeft_eq, Nat.mod_eq_of_lt h, Nat.pow_zero, Nat.div_one,
      Nat.div_add_mod']⟩
theorem witness_RegisterWindowWrites :
    let s := State.reset
    let bound : State := s.modCore 0 fun x => { x with task := some {} }
    ([s.broken.isNone, s.powered, !({ s with powered := false } : State).powered, bound.ctxBusy 0] : List Bool).all id = true := by decide
/-- Stream 5 runs on a port and virtual channel 0, with 8 rows a frame. -/
def streaming (port : Nat) (f : Option OpenFrame) : State :=
  let cfg : BitVec 128 := BitVec.ofNat 128 (1 + port * 2 ^ 11 + 7 * 2 ^ 35 + 3 * 2 ^ 68 + 3 * 2 ^ 74 + 9 * 2 ^ 104)
  State.reset.modSensor 5 fun x => { x with scfg := cfg, ran := cfg, opened := f }
theorem witness_CameraPackets :
    let s := streaming 3 none
    let o : OpenFrame := { frame := 0, lastLine := 2, nextRow := 2, announced := some 2 }
    let t := streaming 3 (some o)
    ([s.broken.isNone, s.streamAt 3 1 == none, CsiData.raw10 != .other, s.streamAt 3 0 == some 5, (s.sensor 5).opened.isNone, (t.sensor 5).opened == some o,
      t.streamAt 3 0 == some 5, (t.sensor 5).rpf == 8, t.buffered 3 == 0] : List Bool).all id = true := by decide
theorem leNat_two (x : Nat) (h : x < 65536) : leNat (leBytes 2 x) = x := by
  simp only [leNat, leBytes, BitVec.toNat_ofNat]
  omega
/-- A lidar row's header with its own check, whatever the check is. -/
theorem witness_lidarHeader (l : List Byte) (h : l.length = 14) :
    let p := l ++ leBytes 2 (Config.headerCrc l).toNat
    p.length = 16 ∧ (Config.headerCrc (p.take 14)).toNat = bytesNat p 14 2 ∧ ∀ a n, a + n ≤ 14 → bytesNat p a n = bytesNat l a n := by
  refine ⟨by simp [h, leBytes], ?_, fun a n hn => ?_⟩
  · rw [List.take_left' h, bytesNat, List.drop_left' h, List.take_of_length_le (by simp [leBytes]), leNat_two _ (Config.headerCrc l).isLt]
  · rw [bytesNat, bytesNat, List.drop_append_of_le_length (by omega), List.take_append_of_le_length (by simp; omega)]
theorem witness_LidarDeadlinesRowsAndPublication :
    let s := streaming 16 none
    let row (n : Byte) : List Byte := [7, 0, 0, 0, n] ++ List.replicate 9 0
    let late : State := streaming 3 (some { frame := 0, ticks := 9 })
    let fed (r : Nat) : State := { (streaming 3 none).modSensor 5 fun x => { x with input := [{ frame := 0, row := r }] } with
      lbps := [(12, { len := 4 })] }
    let out : State := s.modSensor 5 fun x => { x with out := [{ frame := 0, row := 3 }] }
    ([s.streamAt 16 0 == some 5, s.boot.stations.getD 0 0 != 1, (s.sensor 5).lframe != some (bytesNat (row 2) 0 4), (s.sensor 5).opened.isNone,
      decide ((s.sensor 5).rpf < bytesNat (row 9) 4 2 + 1), decide (bytesNat (row 2) 4 2 + 1 < (s.sensor 5).rpf), (s.sensor 0).deadline == 0,
      (late.sensor 5).en, (late.sensor 5).deadline == 9, (late.sensor 5).opened.isSome, (s.lbpNext 12).isNone, ((fed 0).lbpNext 12).isSome,
      !((fed 0).lbp 12).running, ((fed 0).lbp 12).len == 4, (({ s with lbps := [(12, { running := true })] } : State).lbp 12).running,
      (s.sensor 5).out == [], (out.sensor 5).out == [{ frame := 0, row := 3 }]] : List Bool).all id = true := by decide
theorem witness_StreamsEnableDisableAndGroupsTick :
    let s := State.reset
    let good : BitVec 128 := BitVec.ofNat 128 (1 + 7 * 2 ^ 35 + 5 * 2 ^ 61 + 3 * 2 ^ 68 + 3 * 2 ^ 74)
    let t : SensorTile := { stream := 5, frame := 2, tile := 0, slot := 0 }
    let o : Offer := { tile := t, time := 7 }
    let g : RollGroup := { members := [(3, { record := BitVec.ofNat 128 (1 + 256 + 5 * 2 ^ 10), offers := [o] })], opened := some o }
    ([s.marks == [], !(s.sensor 5).en, good.getLsbD 0, scfgLegal good, !scfgLegal 1, ((streaming 3 none).sensor 5).en, ({} : RollGroup).ref.isNone,
      g.ref == some 3, g.opened == some o, (List.range 8).all fun j => (g.member j).settled 7 7] : List Bool).all id = true := by decide
theorem witness_ReplaysSoftErrorsFaultControlAndDebug :
    let s := (running State.reset).modStream 0 0 fun t => { t with started := true }
    let down (idem : Bool) : State := (State.reset.modLaunch 0 fun l => { l with active := true, remain := 2 }).modCore 0 fun x =>
      { x with tt := .faulted, task := some {}, frame := { x.frame with cause := if idem then 0x5001 else 0x1001 } }
    ([(s.core 0).tt == .run, (s.stream 0 0).started, !(s.stream 0 0).ended, decide ((s.stream 0 0).replays < 15),
      ((s.modStream 0 0 fun t => { t with replays := 15 }).stream 0 0).replays == 15, !s.ctlTaken 0 none, (down false).ctlTaken 0 none,
      (down true).ctlTaken 0 none, !(down true).ctlTaken 0 (some 3), ((down true).core 0).frame.cause.getLsbD 14,
      !((down false).core 0).frame.cause.getLsbD 14, 2 ≤ ((down false).launch 0).remain, !((down false).task 0).spec, ((down false).core 0).tt == .faulted,
      ((s.modCore 0 fun x => { x with tt := .save }).core 0).tt == .save, markOf (6 + 2 ^ 27 * 7) == some (.cell 0 7), s.marks == [],
      (s.wordPoison (0, .nop plain)).isNone, s.guardHolds (0, .nop plain), !s.guardHolds (0, .nop ⟨0, 0, 0, 1⟩), takesFrom (.cellr plain 3 1 7) == [], ({ s with marks := [.cell 0 7] } : State).wordPoison (0, .cellr plain 3 1 7) == some (softInfo 5 7 false),
      ((s.modStream 0 0 fun t => { t with verdict := .issued }).stream 0 0).verdict == .issued, popsOf (.cellr plain 3 1 7) == [],
      !((down false).core 0).lagging, ((down false).core 0).acc == [], s.powered, (s.core 0).snapBad == [],
      ((s.modCore 0 fun x => { x with snapBad := [(0, 0)] }).core 0).snapBad != []] : List Bool).all id = true := by decide
theorem witness_FaultFrameStopAndResume :
    let x : Core := {}
    let f (stopping : Bool) (cause : Word) (rank : Nat) : Core := { x with stopping, frame := { x.frame with cause, rank } }
    let s : State := State.reset.modStream 0 0 fun t => { t with pc := 5 }
    ([!x.stopping, !x.frame.valid, (f false 0x1001 0).frame.valid, decide ((f true 0x3004 1).frame.rank ≤ faultRank 1 (some 3)),
      decide (faultRank 1 (some 0) < (f true 0x1001 (faultRank 1 (some 3))).frame.rank), !(f true 0x1001 0).frame.cause.getLsbD 13,
      (s.core 0).streams.any fun p => p.2.pc == 5] : List Bool).all id = true := by decide
theorem witness_ResultsLandInTheirDestinations :
    let s := State.reset
    let te : State := s.modStream 0 0 fun t => { t with status := 0x10000 }
    let f : Flight := { stream := 0, dest := .g 3, val := 7, id := 1 }
    let land (l : List Flight) : State := s.modCore 0 fun x => { x with flight := l }
    ([Encoding.view 256 == .v 256, Encoding.view 0x1C0 == .k 0, Encoding.view 0x1FF == .k 63, Encoding.view 0x1BF == .g 63,
      Encoding.view 0x2BF == .c 31, Encoding.view 0x29F == .q 31, Encoding.view 0x2C7 == .special 0x2C7, !(s.core 0).stopping, !(s.core 0).frame.valid,
      (s.core 0).task.isNone, ((running s).core 0).task.isSome, f.dest == .g 3, enabledFlags (te.stream 0 0).status 1 != 0, enabledFlags (s.stream 0 0).status 1 == 0, (s.core 0).tt != .save,
      (((land [{ f with left := 3 }]).core 0).flight).all fun f => 2 ≤ f.left, ((land [f]).core 0).flight == [f],
      ((land [f, { f with id := 2 }]).core 0).flight == [f, { f with id := 2 }]] : List Bool).all id = true := by decide
theorem witness_StepRunsTheDecodedWord :
    let i : Instr := .add plain 0x181 0x182 0x183 0
    let s := placed i
    let n := (encode i).getD 0
    ([!(s.core 0).pass.getLsbD 0, s.due == [], s.outside == [], s.phase == .stream 0, ({ s with phase := .prepare, outside := [(0, i)] } : State).phase == .prepare, s.runs 0 0, (s.stream 0 0).verdict == .none, !(s.stream 0 0).replay,
      (s.stream 0 0).group == 0, s.nextWord 0 0 == some n, (match decode n with | .ok j => j == i | _ => false),
      slice n.toNat 54 10 == 0, !((s.modStream 0 0 fun t => { t with idleLoaded := false }).stream 0 0).idleLoaded,
      ((s.modStream 0 0 fun t => { t with idleLoaded := true }).stream 0 0).idle == 0,
      slice (BitVec.ofNat 64 (3 * 2 ^ 54) : Word).toNat 54 10 == 3, !(s.modStream 0 0 fun t => { t with started := false }).runs 0 0]
      : List Bool).all id = true := by decide
theorem witness_SettledIdle : (let s := (placed (.nop plain)).modStream 0 0 fun t => { t with idleLoaded := true }
    s.runs 0 0 && (s.stream 0 0).idleLoaded && (s.stream 0 0).idle == 0 && s.phase == .stream 0) = true := by decide
theorem witness_DecodeAndEncodeAgree :
    ([wellFormed (.vadd ⟨2, 1, 0, 9⟩ 5 7 0x183 0x11), encode (.vadd ⟨2, 1, 0, 9⟩ 5 7 0x183 0x11) == some 0x00A4024028073071,
      (match decode 0x00000FC000000000 with | .ok i => i == .nop plain | _ => false)] : List Bool).all id = true := by decide
theorem witness_MemoryKeepsItsForm :
    (let s := State.reset
     s.dev.wf && s.host.wf && s.regMem.wf && tabWf false s.devTags && (match step s with | .next _ => true | _ => false)) = true := by decide
theorem witness_WordsLeaveMemoryAndRegisters :
    let i : Instr := .add plain 0x181 0x182 0x183 0
    let w : Instr := .csrw plain 0x181 0 0x183 0
    let nextOf (i : Instr) : Bool := match exec i (placed i) with | .next _ => true | _ => false
    ([(Encoding.hdr i).isSome, !publishes i, !decides i, !writesStatus i, nextOf i, writesStatus w, !decides w, nextOf w,
      publishes (.pop plain 1 0x181 0 0)] : List Bool).all id = true := by decide

end Sys2Proof.Tests
end

