-- ==== Sys2Proof/Tests/Slice0.lean ====
section
/-! SUPPORT. Tests: ill-formed terms that WellFormed refuses, words written out from the spec's encodings, and single steps of the
spec's worked examples. Expected values are the spec's; each test names where they stand. -/

namespace Sys2Proof.Tests

open Sys2Proof Sys2Proof.Machine

set_option maxRecDepth 200000

/-! ## WellFormed refuses an ill-formed term for each of its checks -/

theorem test_ill_formed_fields : illFormed (.add plain 0x181 0x182 0x183 31) = some .fields := by decide
theorem test_ill_formed_port : illFormed (.add plain 0x401 0x182 0x183 0) = some .port := by decide
theorem test_well_formed : illFormed (.add plain 0x181 0x182 0x183 0) = none := by decide

/-! ## Decoding: words written out bit by bit from the encodings -/

/-- A word from its fields: OP in bits 52:45, GUARD 0b0111111 in 44:38, JOIN 45 and IDLE 63:54 zero, and the low 38 bits. -/
def word (op low : Nat) : Word := BitVec.ofNat 64 (op * 2 ^ 45 + 63 * 2 ^ 38 + low)
/-- R61, files 3, 6 and 7: DST 37:27, SRCA 26:16, SRCB 15:5, MOD 4:0. -/
def wordR (op dst a b mod : Nat) : Word := word op (dst * 2 ^ 27 + a * 2 ^ 16 + b * 2 ^ 5 + mod)
theorem test_decode_scalar : instrOf (wordR 0x01 0x181 0x182 0x183 2) = .add plain 0x181 0x182 0x183 2 := by decide
theorem test_decode_constant : instrOf (word 0x1B (0x183 * 2 ^ 27 + 0x468ACF1)) = .ldih plain 0x183 0x468ACF1 := by decide
theorem test_decode_vector : instrOf (wordR 0x42 3 1 0x2C1 7) = .vclmul plain 3 1 0x2C1 7 := by decide
/-- The worked encodings of files 5 and 8. -/
theorem test_decode_matrix : instrOf 0x000CCFCF87000000 = .mma plain 1 1 7 7 ∧ instrOf 0x000E2FC003000002 = .ccons plain 3 2 := by decide
/-- File 9's worked example. -/
theorem test_decode_integrator : instrOf 0x00108FC001000008 = .step plain 1 8 ∧ instrOf 0x0010AFC000000002 = .darun plain 0 2 := by decide
/-- Files 12 and 14. -/
theorem test_decode_memory : instrOf 0x0012CFCC10600B1B = .amo plain 0x182 1 1 3 0 3 3 ∧
    instrOf 0x0013CFC1C5308002 = .copy plain 3 1 5 0x184 0 2 := by decide
theorem test_decode_sync : instrOf 0x0017CFC385306004 = .stbind plain 7 5 0x183 4 ∧ instrOf 0x0016CFC005304000 = .rowwait plain 5 0x182 := by
  decide
/-- File 18. -/
theorem test_decode_control : instrOf 0x0018AFC07FFFFFFF = .lclose plain 0 (-1) ∧ instrOf 0x00190FD780000000 = .joinCc plain 2 15 := by decide
/-- File 23. -/
theorem test_decode_system : instrOf 0x001C00C00000012A = .trap ⟨0, 0, 0, 3⟩ 0x12A := by decide
/-- R85. -/
theorem test_decode_reserved : instrOf (word 0x57 0) = .reservedOpcode (word 0x57 0) := by decide

/-! ## One step of a word -/

/-- What the last result in flight holds after a word: its latency and its value. -/
def resultOf (i : Instr) (f : State → State) : Option (Nat × Nat) :=
  match exec i (f (placed i)) with
  | .next t => (t.core 0).flight.getLast?.map fun x => (x.left, x.val.toNat)
  | _ => none
/-- The flags that it will set. -/
def flagsOf (i : Instr) (f : State → State) : Option Nat :=
  match exec i (f (placed i)) with
  | .next t => (t.core 0).flight.getLast?.map fun x => x.flags.toNat
  | _ => none
/-- The class of the fault frame and FF_INFO after a word, the core stopping. -/
def faultOf (i : Instr) (f : State → State) : Option (Nat × Nat) :=
  match exec i (f (placed i)) with
  | .next t => if (t.core 0).stopping then some (slice (t.core 0).frame.cause.toNat 0 8, (t.core 0).frame.info.toNat) else none
  | _ => none

/-! File 6: division edges. -/
theorem test_div_wraps : resultOf (.div plain 0x185 0x181 0x182 2) (withG 1 0xFFFFFFFF80000000 ∘ withG 2 0xFFFFFFFFFFFFFFFF) =
    some (18, 0xFFFFFFFF80000000) := by decide
theorem test_rem_of_wrap : resultOf (.rem plain 0x185 0x181 0x182 2) (withG 1 0xFFFFFFFF80000000 ∘ withG 2 0xFFFFFFFFFFFFFFFF) =
    some (18, 0) := by decide
theorem test_divn_by_zero : resultOf (.divn plain 0x185 0x181 0x182 6) (withG 1 0xFFFFFFFF80000000) = some (18, 0xFFFFFFFF) := by decide
theorem test_remn_by_zero : resultOf (.remn plain 0x185 0x181 0x182 6) (withG 1 0xFFFFFFFF80000000) = some (18, 0x80000000) := by decide
theorem test_div_i8_by_zero : resultOf (.div plain 0x185 0x181 0x182 0) (withG 1 0xFFFFFFFF80000000) = some (6, 0xFFFFFFFFFFFFFFFF) := by decide
/-! File 6: a 64-bit constant, built 27 bits at a time. -/
theorem test_ldi_negative : (resultOf (.ldi plain 0x183 0x7FFFFFB) id).map Prod.snd = some 0xFFFFFFFFFFFFFFFB := by decide
theorem test_ldih_shifts_in : (resultOf (.ldih plain 0x183 0x1ABCDEF) (withG 3 0x2468ACF1)).map Prod.snd = some 0x0123456789ABCDEF := by decide
/-! R150: a shift takes its amount modulo the width. -/
theorem test_shift_by_33 : (resultOf (.shl plain 0x185 0x181 0x182 2) (withG 1 3 ∘ withG 2 33)).map Prod.snd = some 6 := by decide
/-! File 6: narrowing and stepping a capability. -/
def c2 : Cap := ⟨0x00004183000000100000100000000000, true⟩
def c3 : Cap := ⟨0x00004103000000110000010000000000, true⟩
theorem test_capset_win : resultOf (.capsetWin plain 0x2A3 0x2A2 0x181) (withC 2 c2 ∘ withG 1 0x0000010000000040) =
    some (2, 0x00004183000000110000010000000000) := by decide
theorem test_capset_rights : resultOf (.capsetRights plain 0x2A3 0x2A2 0x181)
    (withC 2 ⟨0x00004183000000110000010000000000, true⟩ ∘ withG 1 3) = some (2, 0x00004103000000110000010000000000) := by decide
theorem test_capadd_to_the_end : resultOf (.capadd plain 0x2A3 0x2A2 0x181 0) (withC 2 c3 ∘ withG 1 0x100) =
    some (2, 0x00004103000000110000010000000100) := by decide
theorem test_capget_pos : resultOf (.capget plain 0x189 0x2A3 6) (withC 3 ⟨0x00004103000000110000010000000100, true⟩) = some (2, 0x540) := by
  decide
theorem test_capadd_past_the_end : (match exec (.capadd plain 0x2A4 0x2A3 0x181 0) (withG 1 1 (withC 3 ⟨0x00004103000000110000010000000100, true⟩
    (placed (.capadd plain 0x2A4 0x2A3 0x181 0)))) with
    | .next t => (t.core 0).stopping && slice (t.core 0).frame.cause.toNat 0 8 == 3 && (t.stream 0 0).verdict == .faulted
    | _ => false) = true := by decide
/-! File 7: a reduction in the order of the tree, a carry-less product, and conversions. -/
theorem test_vreds_order : resultOf (.vreds plain 0x184 6 0x2C1 8) (withV 6 0x3F8000003F8000003F8000003F8000003F8000003F8000003F8000004B800000) =
    some (6, 0x4B800003) := by decide
theorem test_vclmul_by_ones : ((resultOf (.vclmul plain 3 1 0x2C1 7) (withV 1 0x412)).map fun x => x.2 % 2 ^ 64) = some 0xFFFFFFFFFFFFFC0E := by
  decide
theorem test_vcvt_e4m3 : (resultOf (.vcvt plain 2 1 8 11) (withV 1 0xBF33333340400000447A000043960000)).map Prod.snd = some 0xB3447E79 := by decide
theorem test_vcvt_flags : flagsOf (.vcvt plain 2 1 8 11) (withV 1 0xBF33333340400000447A000043960000) = some 0x34 := by decide
theorem test_kmov_first : (resultOf (.kmovFirst plain 0x1C3 0x181) (withG 1 5)).map Prod.snd = some 0x1F := by decide
/-! File 23: an assertion that traps, after issue, with CODE. -/
theorem test_trap : faultOf (.trap plain 0x12A) id = some (10, 0x12A) := by decide
/-! File 18: LCLOSE rotates and goes back while iterations remain. -/
theorem test_lclose_goes_back : (match exec (.lclose plain 0 (-1)) ((placed (.lclose plain 0 (-1))).modOwn fun t => { t with pc := 4, lc := [(0, 3)] }) with
    | .next t => (t.stream 0 0).pc == 3 && (t.stream 0 0).rrbV == 127 && (t.stream 0 0).rrbK == 30
    | _ => false) = true := by decide

/-! ## Operations behind the happenings -/

/-! File 2: task 61 of the loop table D 2, C 24, T 8, T 16, C 2. -/
def table : List (Nat × Nat) := [(2, 2), (1, 24), (0, 8), (0, 16), (1, 2)]
theorem test_task_count : taskCount table = 96 := by decide
theorem test_task_coordinates : taskCoords table 61 = [1, 6, 0, 0, 1, 0] := by decide
theorem test_zero_trip_launch : taskCount [(2, 2), (1, 24), (0, 8), (0, 0), (1, 2)] = 0 := by decide
/-! File 9: a rate and its integral; the overrun of Y = 400. -/
def rate (y : Nat) : Dda := { cells := [(0, BitVec.ofNat 256 (y + 0x20 * 2 ^ 64 + 0x9000 * 2 ^ 128)),
  (1, BitVec.ofNat 256 (0x20 * 2 ^ 64 + 0x8000 * 2 ^ 192))], doms := [(1, { run := true, pend := 8 })] }
def stepped : Nat → Dda → Dda
  | 0, f => f
  | n + 1, f => match f.stepDomain 1 with | .ok g => stepped n g | .error _ => f
theorem test_dda_second_step : cellRes ((stepped 2 (rate 96)).cell 0) = -64 ∧ cellDz ((stepped 2 (rate 96)).cell 0) = 1 := by decide
theorem test_dda_eight_steps : cellTap ((stepped 8 (rate 96)).cell 0) = 3 ∧ cellY ((stepped 8 (rate 96)).cell 1) = 3 ∧
    cellRes ((stepped 8 (rate 96)).cell 0) = 0 := by decide
theorem test_dda_overrun : (match (rate 400).stepDomain 1 with | .error n => n | .ok _ => 99) = 0 := by decide
/-! File 17: FORM_IMB of work 3000, 1800, 3000, 3000 mA. -/
theorem test_form_imb : imbWord 2700 [30, -90, 30, 30] = 0x0A8C005A1E1EA61E := by decide

end Sys2Proof.Tests
end

section
/-! Branches, calls and returns (R396 to R399): the meaning of each is its body in the life of a word, and a body that transfers
control has the two outcomes of R61 and R396. -/

namespace Sys2Proof.Laws

open Sys2Proof.Machine

/-! ## The words of R396 to R399 as meanings of the instructions -/

theorem exec_br (h : Hdr) (disp : BitVec 31) (s : State) : exec (.br h disp) s = execBr h disp s := rfl
theorem exec_bri (h : Hdr) (a : Port) (s : State) : exec (.bri h a) s = execBri h a s := rfl
theorem exec_briRel (h : Hdr) (a : Port) (s : State) : exec (.briRel h a) s = execBriRel h a s := rfl
theorem exec_call (h : Hdr) (gn : BitVec 6) (disp : BitVec 31) (s : State) : exec (.call h gn disp) s = execCall h gn disp s := rfl
theorem exec_ret (h : Hdr) (a : Port) (s : State) : exec (.ret h a) s = execRet h a s := rfl

/-! ## What a transfer of control answers -/

/-- The word at the cursor answers the transfer to word n with the effects that u holds where n lies in the code object, and the illegal
instruction with the word's pops alone where it does not. -/
def TransfersTo (i : Instr) (s u : State) (n : Int) (o : Host.Outcome State Fault Refusal) : Prop :=
  (s.issues i = true → s.inCode n = true → o = .next (s.jump u n)) ∧
  (s.issues i = true → s.inCode n = false →
    o = .next ((s.popAll s.curCore i).takeFault s.curCore (some s.curStream) 1 (illegalInfo (Encoding.opcode i)) false))

/-- A word transfers to where its body goes. -/
theorem issueWord_transfersTo {i : Instr} {s u : State} {body : State → Out} {n : Int} (hb : body s = .goto u n) :
    TransfersTo i s u n (issueWord i s body) :=
  ⟨fun h hn => issueWord_goto h hb hn, fun h hn => issueWord_astray h hb hn⟩

theorem br_transfersTo (h : Hdr) (disp : BitVec 31) (s : State) :
    TransfersTo (.br h disp) s s (s.label disp) (exec (.br h disp) s) := by
  rw [exec_br]; exact issueWord_transfersTo rfl
theorem bri_transfersTo (h : Hdr) (a : Port) (s : State) :
    TransfersTo (.bri h a) s (s.readInt a).2 (s.readInt a).1.toNat (exec (.bri h a) s) := by
  rw [exec_bri]; exact issueWord_transfersTo rfl
theorem briRel_transfersTo (h : Hdr) (a : Port) (s : State) :
    TransfersTo (.briRel h a) s (s.readInt a).2 (s.own.pc + (s.readInt a).1.toInt) (exec (.briRel h a) s) := by
  rw [exec_briRel]; exact issueWord_transfersTo rfl
theorem call_transfersTo (h : Hdr) (gn : BitVec 6) (disp : BitVec 31) (s : State) :
    TransfersTo (.call h gn disp) s ((s.deliverG 1 gn (BitVec.ofNat 64 (s.own.pc + 1))).modOwn fun t => t.count 5) (s.label disp)
      (exec (.call h gn disp) s) := by
  rw [exec_call]; exact issueWord_transfersTo rfl
theorem ret_transfersTo (h : Hdr) (a : Port) (s : State) :
    TransfersTo (.ret h a) s ((s.readInt a).2.modOwn fun t => t.count 6) (s.readInt a).1.toNat (exec (.ret h a) s) := by
  rw [exec_ret]; exact issueWord_transfersTo rfl

/-- A BR whose guard is false goes to the next word and has no other effect (R63). -/
theorem br_unguarded {h : Hdr} {disp : BitVec 31} {s : State} (he : s.encodes (.br h disp) = true)
    (hg : s.guarded (.br h disp) = false) (hn : s.hasNext = true) :
    exec (.br h disp) s = .next (s.retire s.curCore s.curStream (s.own.pc + 1) false) := by
  rw [exec_br]; exact issueWord_unguarded he hg hn

/-- Settles O24: each of the five words is a body that transfers control, so it answers as R61 and R396 say of any transfer; a BR whose
guard is false answers the advance of R63. -/
theorem branchesCallsAndReturns : Obligations.BranchesCallsAndReturns := by
  intro h s
  constructor
  · intro disp
    obtain ⟨br_in, br_out⟩ := br_transfersTo h disp s
    exact ⟨br_in, br_out, br_unguarded, fun gn => call_transfersTo h gn disp s⟩
  · intro a
    obtain ⟨bri_in, bri_out⟩ := bri_transfersTo h a s
    obtain ⟨rel_in, rel_out⟩ := briRel_transfersTo h a s
    obtain ⟨ret_in, ret_out⟩ := ret_transfersTo h a s
    exact ⟨bri_in, bri_out, rel_in, rel_out, ret_in, ret_out⟩

end Sys2Proof.Laws
end

section
/-! Quotients and remainders (R147, R148, R152, R153): a result modulo 2^w extended by its type, and what the quotient and the
remainder are at every width. -/

namespace Sys2Proof.Laws

open Sys2Proof.Machine

/-! ## The division words as meanings of the instructions -/

theorem exec_div (h : Hdr) (d a b : Port) (ty : BitVec 5) (s : State) : exec (.div h d a b ty) s = execDiv h d a b ty s := rfl
theorem exec_divn (h : Hdr) (d a b : Port) (ty : BitVec 5) (s : State) : exec (.divn h d a b ty) s = execDivn h d a b ty s := rfl
theorem exec_rem (h : Hdr) (d a b : Port) (ty : BitVec 5) (s : State) : exec (.rem h d a b ty) s = execRem h d a b ty s := rfl
theorem exec_remn (h : Hdr) (d a b : Port) (ty : BitVec 5) (s : State) : exec (.remn h d a b ty) s = execRemn h d a b ty s := rfl

/-! ## Quotient and remainder -/

/-- A result modulo 2^w in 64 bits is the w-bit value extended as R148 says. -/
theorem extendZ_eq_extendTo64 (ty : Nat) (z : Int) : extendZ ty z = extendTo64 ty (BitVec.ofInt (widthOf ty) z) := by
  unfold extendZ extendTo64
  split
  · rfl
  · exact BitVec.ofNat_toNat 64 _

/-- The quotient 2^w - 1 of a zero divisor is all ones. -/
theorem ofInt_two_pow_sub_one (w : Nat) : BitVec.ofInt w (2 ^ w - 1) = BitVec.allOnes w := by
  have hpos : 0 < 2 ^ w := Nat.two_pow_pos w
  have hcast : (2 ^ w - 1 : Int) = (2 ^ w - 1 : Nat) := by simp [Nat.cast_pred hpos]
  apply BitVec.eq_of_toNat_eq
  rw [hcast, BitVec.ofInt_natCast, BitVec.toNat_ofNat, BitVec.toNat_allOnes, Nat.mod_eq_of_lt (Nat.sub_lt hpos Nat.one_pos)]

/-- The quotient of R152: all ones of a zero divisor, else truncated toward zero. -/
theorem quotient_eq (ty : Nat) (x y : Word) : quotient ty x y = extendTo64 ty (if operandZ ty y = 0 then BitVec.allOnes (widthOf ty)
    else BitVec.ofInt (widthOf ty) ((operandZ ty x).tdiv (operandZ ty y))) := by
  unfold quotient divRem
  rw [extendZ_eq_extendTo64]
  split
  · rw [ofInt_two_pow_sub_one]
  · rfl

/-- The remainder of R152: the dividend of a zero divisor, else what the truncated quotient leaves. -/
theorem remainder_eq (ty : Nat) (x y : Word) : remainder ty x y = extendTo64 ty (if operandZ ty y = 0
    then BitVec.ofInt (widthOf ty) (operandZ ty x)
    else BitVec.ofInt (widthOf ty) (operandZ ty x - operandZ ty y * (operandZ ty x).tdiv (operandZ ty y))) := by
  unfold remainder divRem
  rw [extendZ_eq_extendTo64]
  split
  · rfl
  · rw [Int.mul_comm]

/-- Settles O4: each of the four is a word of two sources, and its function is the quotient or the remainder of R152. -/
theorem quotientsAndRemainders : Obligations.QuotientsAndRemainders := by
  intro h d a b ty s w quo rest lat
  have hquo : quotient ty.toNat = quo := funext₂ (quotient_eq ty.toNat)
  have hrest : remainder ty.toNat = rest := funext₂ (remainder_eq ty.toNat)
  rw [exec_div, exec_divn, exec_rem, exec_remn, execDiv, execDivn, execRem, execRemn, hquo, hrest]
  exact ⟨binaryWord_ready, binaryWord_ready, binaryWord_ready, binaryWord_ready⟩

end Sys2Proof.Laws
end

section
/-! SEL (R155): its predicate is one of the 32 that never rotate, so the register itself is read. -/

namespace Sys2Proof.Laws

open Sys2Proof.Machine

theorem exec_sel (h : Hdr) (d a b : Port) (k : BitVec 5) (s : State) : exec (.sel h d a b k) s = execSel h d a b k s := rfl

/-- K0 to K31 never rotate (R49). -/
theorem physK_of_lt {n : Nat} (hn : n < 32) (rrb : Nat) : physK rrb n = n := by
  have hrot : ¬ (32 ≤ n ∧ n ≤ 62) := by omega
  rw [physK, if_neg hrot]

/-- A predicate among K0 to K31 reads the register of its number. -/
theorem readK_of_lt (t : Stream) {n : Nat} (hn : n < 32) : t.readK n = tabGet 0 t.k n := by
  have hones : n ≠ 63 := by omega
  rw [Stream.readK, if_neg hones, physK_of_lt hn]

/-- Settles O5: SEL is a word of two sources, and the predicate that its five bits name is read without rotation. -/
theorem selChoosesByItsPredicate : Obligations.SelChoosesByItsPredicate := by
  intro h d a b k s p hready
  have hp : (s.own.readK k.toNat).getLsbD 0 = p := by rw [readK_of_lt s.own k.isLt]
  rw [exec_sel, execSel, ← State.own, hp]
  exact binaryWord_ready hready

end Sys2Proof.Laws
end

section
/-! Decoding and encoding (R60, R69, R84): the reader of each listed opcode reads the fields of its word back from where the encoder
packed them. -/

namespace Sys2Proof.Laws

open Sys2Proof.Machine

/-- The field of a list that stands at bit lo, n bits wide, where the topmost field reaches up to bit hi. -/
def fieldBelow : Nat → List ((w : Nat) × BitVec w) → (lo n : Nat) → Option (BitVec n)
  | _, [], _, _ => none
  | hi, x :: t, lo, n =>
    if hi = lo + n then if h : x.1 = n then some (h ▸ x.2) else none else fieldBelow (hi - x.1) t lo n

theorem fieldBelow_le (fs : List ((w : Nat) × BitVec w)) : ∀ {hi lo n : Nat} {v : BitVec n},
    fieldBelow hi fs lo n = some v → lo + n ≤ hi := by
  induction fs with
  | nil => intro hi lo n v h; cases h
  | cons x t ih =>
    intro hi lo n v h
    unfold fieldBelow at h
    split at h
    · omega
    · have := ih h; omega

/-- A field found in a list is what its bits of the packed list are. -/
theorem bitsAt_of_fieldBelow (fs : List ((w : Nat) × BitVec w)) : ∀ {a lo n : Nat} {v : BitVec n},
    fieldBelow (widthSum fs) fs lo n = some v → bitsAt lo n (catBits fs a) = v := by
  induction fs with
  | nil => intro a lo n v h; cases h
  | cons x t ih =>
    intro a lo n v h
    unfold fieldBelow at h
    split at h
    · next htop =>
      obtain ⟨hx, hv⟩ := Option.dite_none_right_eq_some.mp h
      obtain rfl := Option.some.inj hv
      have hlo : widthSum t = lo := by simp only [widthSum] at htop; omega
      rw [bitsAt_catBits _ _ _ _ (by simp [hasFieldAt, hlo, hx])]
      simp [fieldAt, hlo, hx]
    · rw [widthSum, Nat.add_sub_cancel_left] at h
      exact ih h

theorem field_ofNat {x lo n : Nat} (h : lo + n ≤ 64) : field (BitVec.ofNat 64 x) lo n = bitsAt lo n x := by
  apply BitVec.eq_of_toNat_eq
  have hsplit : 2 ^ 64 = 2 ^ lo * 2 ^ (64 - lo) := by rw [← pow_add]; congr 1; omega
  simp only [field, bitsAt, BitVec.toNat_ofNat, hsplit]
  rw [Nat.mod_mul_right_div_self, Nat.mod_mod_of_dvd _ (pow_dvd_pow 2 (by omega))]

/-- What a packed word reads as at any place below GUARD: the field that stands there, if one does. -/
def packedField (h : Hdr) (op : BitVec 8) (fs : List ((w : Nat) × BitVec w)) (lo n : Nat) : BitVec n :=
  (fieldBelow 38 fs lo n).getD (field (packWord h op fs) lo n)

theorem field_packWord_eq (h : Hdr) (op : BitVec 8) {fs : List ((w : Nat) × BitVec w)} (hw : widthSum fs = 38) :
    field (packWord h op fs) = packedField h op fs := by
  funext lo n
  unfold packedField
  cases hf : fieldBelow 38 fs lo n with
  | none => rfl
  | some v =>
    have hle := fieldBelow_le fs hf
    rw [← hw] at hf
    exact (field_ofNat (by omega)).trans (bitsAt_of_fieldBelow fs hf)

/-- A packed word reads as what the reader of its opcode makes of the packed fields. -/
theorem readFields_packWord {h : Hdr} {op : BitVec 8} {fs : List ((w : Nat) × BitVec w)} {f : BitVec 64 → Option Instr} {i : Instr}
    (hl : opcodeRows.lookup op.toNat = some f) (hw : widthSum fs = 38)
    (hf : ∀ w, hdrOf w = h → field w = packedField h op fs → f w = some i) : readFields (packWord h op fs) = some i := by
  rw [readFields_of_row (congrArg BitVec.toNat (opOf_packWord h op fs hw)) hl]
  exact hf _ (hdrOf_packWord h op fs hw) (field_packWord_eq h op hw)

/-- Every instruction word reads back as its instruction. -/
theorem readFields_encode {i : Instr} {h : Hdr} {w : Word} (hh : Encoding.hdr i = some h) (he : encode i = some w) :
    readFields w = some i := by
  cases i <;> cases he
  case reservedOpcode => cases hh
  all_goals
    refine readFields_packWord rfl rfl fun w hhdr hfields => ?_
    simp only [hhdr, hfields] <;> rfl

/-- Every listed opcode is legal in some stream. -/
theorem legalStreams_of_row : ∀ r ∈ opcodeRows, Encoding.legalStreams r.1 ≠ 0 := by
  simp only [opcodeRows, List.forall_mem_append, and_assoc]
  refine ⟨?_, ?_, ?_, ?_, ?_, ?_, ?_⟩ <;> decide

/-- An opcode that no stream executes is not listed. -/
theorem lookup_of_noStream {op : Nat} (h : Encoding.legalStreams op = 0) : opcodeRows.lookup op = none := by
  rw [List.lookup_eq_none_iff]
  intro r hr
  rw [bne_iff_ne]
  rintro rfl
  exact legalStreams_of_row r hr h

/-- A word that reads as an instruction has a listed opcode. -/
theorem lookup_of_readFields {w : Word} {i : Instr} (h : readFields w = some i) :
    (opcodeRows.lookup (opOf w).toNat).isNone = false := by
  unfold readFields at h
  split at h
  · next hl => rw [hl]; rfl
  · cases h

theorem decode_of_readFields {w : Word} {i : Instr} (hr : readFields w = some i) (he : encode i = some w) : decode w = .ok i := by
  simp [decode, lookup_of_readFields hr, hr, he]

/-- The check of the decoder: what it reads encodes to the word. -/
theorem encode_of_decode {w : Word} {i : Instr} (h : decode w = .ok i) : encode i = some w := by
  unfold decode at h
  split at h
  · cases h; rfl
  · split at h
    · cases h
    · split at h
      · next he => cases h; exact he
      · cases h

/-- A happening is no word, so an instruction that has a word and no frame is a reserved opcode's. -/
theorem reserved_of_encode {i : Instr} {w : Word} (hh : Encoding.hdr i = none) (he : encode i = some w) : i = .reservedOpcode w := by
  cases i with
  | reservedOpcode => cases he; rfl
  | _ => cases he <;> cases hh

theorem decode_reservedOpcode {w : Word} (hwf : wellFormed (.reservedOpcode w) = true) : decode w = .ok (.reservedOpcode w) := by
  have hfields : Encoding.fieldsOk (.reservedOpcode w) = true := by
    by_contra hno
    rw [Bool.not_eq_true] at hno
    simp only [wellFormed, illFormed, hno] at hwf
    cases hwf
  have hstreams : Encoding.legalStreams (opOf w).toNat = 0 := eq_of_beq hfields
  simp [decode, lookup_of_noStream hstreams]

theorem encode_isSome {i : Instr} {h : Hdr} (hh : Encoding.hdr i = some h) : (encode i).isSome = true := by
  cases i <;> cases hh <;> rfl

/-- Settles O56: a word with a frame is read back field by field, the reserved opcodes are those that no row lists, and the decoder
itself checks that what it answers encodes to the word. -/
theorem decodeAndEncodeAgree : Obligations.DecodeAndEncodeAgree := by
  refine ⟨fun i w hwf he => ?_, fun w i hd => encode_of_decode hd, fun i h hh => Option.isSome_iff_exists.mp (encode_isSome hh)⟩
  cases hh : Encoding.hdr i with
  | some h => exact decode_of_readFields (readFields_encode hh he) he
  | none =>
    obtain rfl := reserved_of_encode hh he
    exact decode_reservedOpcode hwf

end Sys2Proof.Laws
end

section
/-! What stands before a word's effects (R62, R63, R65, R83, R85): its guard, its encoding, its queue ports, and the opcodes that no
stream executes. -/

namespace Sys2Proof.Laws

open Sys2Proof.Machine

/-! ## The life of every word -/

theorem hdr_isSome_of_encodes {s : State} {i : Instr} (h : s.encodes i = true) : (Encoding.hdr i).isSome = true := by
  obtain ⟨hd, hh, -⟩ := encodes_iff.mp h
  rw [hh]; rfl

theorem exec_unguarded {i : Instr} {s : State} (he : s.encodes i = true) (hg : s.guarded i = false) (hn : s.hasNext = true) :
    exec i s = .next (s.retire s.curCore s.curStream (s.own.pc + 1) false) := by
  obtain ⟨body, hb⟩ := exec_issues i s (hdr_isSome_of_encodes he)
  rw [hb, issueWord_unguarded he hg hn]

theorem exec_encodingFault {i : Instr} {s : State} {h : Hdr} {f : Nat × Word} (hh : Encoding.hdr i = some h)
    (hf : encodingFault (portFile s s.curCore s.curStream) s.curStream i h = some f) :
    exec i s = .next (s.takeFault s.curCore (some s.curStream) f.1 f.2 false) := by
  obtain ⟨body, hb⟩ := exec_issues i s (hh ▸ rfl)
  rw [hb, issueWord_fault hh hf]

theorem exec_blocked {i : Instr} {s : State} (he : s.encodes i = true) (hg : s.guarded i = true)
    (hp : portsBlocked s.now i = true) : exec i s = .next (s.block s.curCore s.curStream) := by
  obtain ⟨body, hb⟩ := exec_issues i s (hdr_isSome_of_encodes he)
  rw [hb, issueWord_blocked he hg hp]

/-- Settles O1: every word is the life of a word around a body, and that life meets the encoding, the guard and the queue ports before
the body. -/
theorem wordsBeforeTheirEffects : Obligations.WordsBeforeTheirEffects :=
  ⟨fun _ _ => exec_unguarded, fun _ _ _ _ => exec_encodingFault, fun _ _ => exec_blocked⟩

/-! ## The encoding fault of a word -/

/-- The illegal instruction is raised before any port is looked for. -/
theorem encodingFault_of_illegal {f : Encoding.PortFile} {st : Nat} {i : Instr} {h : Hdr}
    (hill : Encoding.fieldsOk i = false ∨ ∃ x ∈ Encoding.operands i, Encoding.illegalKind f.own x.1 x.2 = true) :
    encodingFault f st i h = some (1, illegalInfo (Encoding.opcode i)) := by
  unfold encodingFault
  refine if_pos ?_
  rcases hill with hf | ⟨x, hx, hk⟩
  · simp [hf]
  · have hany : (Encoding.operands i).any (fun x => Encoding.illegalKind f.own x.1 x.2 || Encoding.lineIllegal f x.1 x.2) = true :=
      List.any_eq_true.mpr ⟨x, hx, by simp [hk]⟩
    simp [hany]

/-- A port fault (class 2) of a word of an array core: its opcode is legal in the stream, its fields are legal, and the port recorded is
the guard's or an operand's that the stream's file lacks. -/
theorem encodingFault_port {f : Encoding.PortFile} {st : Nat} {i : Instr} {h : Hdr} {p : Nat × Word} (hl : f.lbp = false)
    (hf : encodingFault f st i h = some p) (hp : p.1 = 2) :
    (Encoding.legalStreams (Encoding.opcode i).toNat).getLsbD st = true ∧ Encoding.fieldsOk i = true ∧
      ((f.fullK = false ∧ p.2 = BitVec.ofNat 64 (0x1C0 + h.gk.toNat)) ∨
        ∃ x ∈ Encoding.operands i, Encoding.absent f x.1 x.2 = true ∧ p.2 = BitVec.ofNat 64 x.2.toNat) := by
  unfold encodingFault at hf
  simp only [hl, Bool.false_eq_true, if_false] at hf
  split at hf
  · cases hf; cases hp
  · next hlegal =>
    simp only [Bool.or_eq_true, Bool.not_eq_true', not_or, Bool.not_eq_false, Bool.and_eq_true] at hlegal
    obtain ⟨⟨⟨hstream, -⟩, hfields⟩, -⟩ := hlegal
    refine ⟨hstream, hfields, ?_⟩
    split at hf
    · cases hf; cases hp
    · split at hf
      · next hk =>
        cases hf
        simp only [Bool.not_eq_true', Bool.or_eq_false_iff] at hk
        exact .inl ⟨hk.1.1, rfl⟩
      · split at hf
        · next x hx =>
          cases hf
          have habsent : Encoding.absent f x.1 x.2 = true := by simpa using List.find?_some hx
          exact .inr ⟨x, List.mem_of_find?_eq_some hx, habsent, rfl⟩
        · cases hf

/-! ## Reserved opcodes -/

theorem opOf_toNat (w : Word) : (opOf w).toNat = slice w.toNat 45 8 := rfl

/-- A word of an opcode that no stream executes is no instruction. -/
theorem instrOf_of_noStream {w : Word} (h : Encoding.legalStreams (slice w.toNat 45 8) = 0) : instrOf w = .reservedOpcode w := by
  have hnone := lookup_of_noStream h
  rw [← opOf_toNat] at hnone
  simp [instrOf, decode, hnone]

theorem legalStreams_reserved {op : Nat} (h : (0x57 ≤ op ∧ op ≤ 0x5F) ∨ (0x75 ≤ op ∧ op ≤ 0x7F) ∨ (0x8B ≤ op ∧ op ≤ 0x8F) ∨
    (0xAD ≤ op ∧ op ≤ 0xAF) ∨ (0xD5 ≤ op ∧ op ≤ 0xDF) ∨ (0xEA ≤ op ∧ op ≤ 0xFF)) : Encoding.legalStreams op = 0 := by
  rcases h with h | h | h | h | h | h <;> obtain ⟨hlo, hhi⟩ := h <;> interval_cases op <;> rfl

/-- The opcode that a reserved word records is its own. -/
theorem illegalInfo_of_word (w : Word) : illegalInfo ((w >>> 45).setWidth 8) = BitVec.ofNat 64 (slice w.toNat 45 8 * 256) := by
  simp [illegalInfo, slice, Nat.shiftRight_eq_div_pow]

theorem exec_reservedOpcode (w : Word) (s : State) : exec (.reservedOpcode w) s =
    .next (s.takeFault s.curCore (some s.curStream) 1 (BitVec.ofNat 64 (slice w.toNat 45 8 * 256)) false) := by
  rw [← illegalInfo_of_word]; rfl

/-- Settles O2: the checks of R83 stand in the order of the encoding fault; the reserved opcodes are those that no stream executes. -/
theorem illegalInstructionsAndReservedOpcodes : Obligations.IllegalInstructionsAndReservedOpcodes :=
  ⟨⟨fun _ _ _ _ _ hf => encodingFault_of_illegal (.inl hf),
      fun _ _ _ _ x _ hx hk => encodingFault_of_illegal (.inr ⟨x, hx, hk⟩),
      fun _ _ _ _ _ => encodingFault_port⟩,
    fun _ hop => instrOf_of_noStream (legalStreams_reserved hop), exec_reservedOpcode⟩

end Sys2Proof.Laws
end

section
/-! Integer words, comparisons, constants, moves and capability words (R147, R148, R151, R154, R156 to R159, R163 to R167): what the
operations on Nat and Int are on bit vectors of the type's width. -/

namespace Sys2Proof.Laws

open Sys2Proof.Machine

/-! ## Widths and operands -/

theorem widthOf_cases (ty : Nat) : widthOf ty = 8 ∨ widthOf ty = 16 ∨ widthOf ty = 32 ∨ widthOf ty = 64 := by
  unfold widthOf
  split <;> simp

theorem widthOf_dvd_two_pow (ty : Nat) : widthOf ty ∣ 2 ^ widthOf ty := by
  rcases widthOf_cases ty with h | h | h | h <;> rw [h] <;> decide

theorem widthOf_pos (ty : Nat) : 0 < widthOf ty := by
  rcases widthOf_cases ty with h | h | h | h <;> rw [h] <;> decide

/-- A word that raises no encoding fault has legal fields. -/
theorem fieldsOk_of_encodes {s : State} {i : Instr} (h : s.encodes i = true) : Encoding.fieldsOk i = true := by
  obtain ⟨hd, -, hf⟩ := encodes_iff.mp h
  by_contra hno
  rw [Bool.not_eq_true] at hno
  rw [encodingFault_of_illegal (.inl hno)] at hf
  cases hf

theorem encodes_of_issues {s : State} {i : Instr} (h : s.issues i = true) : s.encodes i = true := by
  simp only [State.issues, Bool.and_eq_true] at h
  exact h.1.1.1

theorem issues_of_ready {s : State} {i : Instr} (h : s.ready i = true) : s.issues i = true := by
  simp only [State.ready, Bool.and_eq_true] at h
  exact h.1

theorem hasNext_of_ready {s : State} {i : Instr} (h : s.ready i = true) : s.hasNext = true := by
  simp only [State.ready, Bool.and_eq_true] at h
  exact h.2

theorem ready_of_issues {s : State} {i : Instr} (h : s.issues i = true) (hn : s.hasNext = true) : s.ready i = true := by
  simp [State.ready, h, hn]

theorem fieldsOk_of_ready {s : State} {i : Instr} (h : s.ready i = true) : Encoding.fieldsOk i = true :=
  fieldsOk_of_encodes (encodes_of_issues (issues_of_ready h))

theorem operandN_eq (ty : Nat) (x : Word) : operandN ty x = (x.setWidth (widthOf ty)).toNat := (BitVec.toNat_setWidth _ _).symm

theorem operandZ_eq (ty : Nat) (x : Word) : operandZ ty x =
    if signedTy ty then (x.setWidth (widthOf ty)).toInt else ((x.setWidth (widthOf ty)).toNat : Int) := by
  have hbits : BitVec.ofNat (widthOf ty) (x.toNat % 2 ^ widthOf ty) = x.setWidth (widthOf ty) := by
    rw [← BitVec.toNat_setWidth, BitVec.ofNat_toNat, BitVec.setWidth_eq]
  unfold operandZ
  simp only [hbits, BitVec.toNat_setWidth]

/-- An operand modulo 2^w is the low w bits of its port. -/
theorem ofInt_operandZ (ty : Nat) (x : Word) : BitVec.ofInt (widthOf ty) (operandZ ty x) = x.setWidth (widthOf ty) := by
  rw [operandZ_eq]
  split
  · exact BitVec.ofInt_toInt
  · rw [BitVec.ofInt_natCast, BitVec.ofNat_toNat, BitVec.setWidth_eq]

/-- A result that is f of both operands modulo 2^w. -/
theorem extendZ_onBits {ty : Nat} {z : Int} {x y : Word} {f : BitVec (widthOf ty) → BitVec (widthOf ty) → BitVec (widthOf ty)}
    (h : BitVec.ofInt (widthOf ty) z = f (x.setWidth (widthOf ty)) (y.setWidth (widthOf ty))) : extendZ ty z = onBits ty f x y := by
  rw [extendZ_eq_extendTo64, h, onBits]

theorem ofInt_sub (w : Nat) (x y : Int) : BitVec.ofInt w (x - y) = BitVec.ofInt w x - BitVec.ofInt w y := by
  rw [Int.sub_eq_add_neg, BitVec.ofInt_add, BitVec.ofInt_neg, BitVec.sub_eq_add_neg]

/-- A natural number modulo 2^w, as the bits of a word. -/
theorem ofInt_toNat (w : Nat) (x : Word) : BitVec.ofInt w (x.toNat : Int) = x.setWidth w := by
  rw [BitVec.ofInt_natCast, BitVec.ofNat_toNat]

theorem ofInt_natCast_eq {w n : Nat} {b : BitVec w} (h : n % 2 ^ w = b.toNat) : BitVec.ofInt w (n : Int) = b := by
  rw [BitVec.ofInt_natCast]
  exact BitVec.eq_of_toNat_eq (by rw [BitVec.toNat_ofNat, h])

/-! ## Sums, products and logic -/

theorem add_onBits (ty : Nat) : (fun x y => extendZ ty (operandZ ty x + operandZ ty y)) = onBits ty fun x y => x + y :=
  funext₂ fun x y => extendZ_onBits (by rw [BitVec.ofInt_add, ofInt_operandZ, ofInt_operandZ])
theorem sub_onBits (ty : Nat) : (fun x y => extendZ ty (operandZ ty x - operandZ ty y)) = onBits ty fun x y => x - y :=
  funext₂ fun x y => extendZ_onBits (by rw [ofInt_sub, ofInt_operandZ, ofInt_operandZ])
theorem mul_onBits (ty : Nat) : (fun x y => extendZ ty (operandZ ty x * operandZ ty y)) = onBits ty fun x y => x * y :=
  funext₂ fun x y => extendZ_onBits (by rw [BitVec.ofInt_mul, ofInt_operandZ, ofInt_operandZ])
theorem and_onBits (ty : Nat) : (fun x y : Word => extendZ ty (x &&& y).toNat) = onBits ty fun x y => x &&& y :=
  funext₂ fun x y => extendZ_onBits (by rw [ofInt_toNat, BitVec.setWidth_and])
theorem or_onBits (ty : Nat) : (fun x y : Word => extendZ ty (x ||| y).toNat) = onBits ty fun x y => x ||| y :=
  funext₂ fun x y => extendZ_onBits (by rw [ofInt_toNat, BitVec.setWidth_or])
theorem xor_onBits (ty : Nat) : (fun x y : Word => extendZ ty (x ^^^ y).toNat) = onBits ty fun x y => x ^^^ y :=
  funext₂ fun x y => extendZ_onBits (by rw [ofInt_toNat, BitVec.setWidth_xor])
theorem andn_onBits (ty : Nat) : (fun x y : Word => extendZ ty (x &&& ~~~y).toNat) = onBits ty fun x y => x &&& ~~~y := by
  have hw : widthOf ty ≤ 64 := by rcases widthOf_cases ty with h | h | h | h <;> omega
  exact funext₂ fun x y => extendZ_onBits (by rw [ofInt_toNat, BitVec.setWidth_and, BitVec.setWidth_not hw])

/-! ## Shifts and rotation -/

/-- The shift count takes only bits of the operand's width. -/
theorem shiftCount_eq (ty : Nat) (y : Word) : shiftCount ty y = (y.setWidth (widthOf ty)).toNat % widthOf ty := by
  rw [shiftCount, BitVec.toNat_setWidth, Nat.mod_mod_of_dvd _ (widthOf_dvd_two_pow ty)]

theorem shl_onBits (ty : Nat) : (fun x y => extendZ ty (operandN ty x * 2 ^ shiftCount ty y : Nat)) =
    onBits ty fun x y => x <<< (y.toNat % widthOf ty) :=
  funext₂ fun x y => extendZ_onBits (ofInt_natCast_eq (by
    rw [BitVec.toNat_shiftLeft, Nat.shiftLeft_eq, operandN_eq, shiftCount_eq]))
theorem shr_onBits (ty : Nat) : (fun x y => extendZ ty (operandN ty x / 2 ^ shiftCount ty y : Nat)) =
    onBits ty fun x y => x >>> (y.toNat % widthOf ty) :=
  funext₂ fun x y => extendZ_onBits (ofInt_natCast_eq (by
    rw [operandN_eq, shiftCount_eq, ← Nat.shiftRight_eq_div_pow, ← BitVec.toNat_ushiftRight]
    exact Nat.mod_eq_of_lt (BitVec.isLt _)))
theorem sar_onBits {ty : Nat} (hs : signedTy ty = true) : (fun x y => extendZ ty (operandZ ty x / 2 ^ shiftCount ty y)) =
    onBits ty fun x y => x.sshiftRight (y.toNat % widthOf ty) :=
  funext₂ fun x y => extendZ_onBits (by
    rw [operandZ_eq, if_pos hs, BitVec.sshiftRight_eq, shiftCount_eq, Int.shiftRight_eq_div_pow, Int.natCast_pow, Nat.cast_ofNat])
theorem rotl_toNat {w : Nat} (x : BitVec w) (r : Nat) (hr : r < w) : rotl w x.toNat r % 2 ^ w = (x.rotateLeft r).toNat := by
  have hlt : x.toNat / 2 ^ (w - r) < 2 ^ r := by
    rw [Nat.div_lt_iff_lt_mul (by positivity), ← pow_add, Nat.add_sub_cancel' hr.le]; exact x.isLt
  have hsplit : x.toNat * 2 ^ r % 2 ^ w = (x.toNat % 2 ^ (w - r)) <<< r := by
    rw [Nat.shiftLeft_eq, ← Nat.mul_mod_mul_right, ← pow_add, Nat.sub_add_cancel hr.le]
  rw [BitVec.toNat_rotateLeft, Nat.mod_eq_of_lt hr, Nat.shiftLeft_eq, Nat.shiftRight_eq_div_pow, rotl, Nat.mod_mod, hsplit,
    ← Nat.shiftLeft_add_eq_or_of_lt hlt, ← Nat.mod_add_mod, hsplit]
  have hfit : (x.toNat % 2 ^ (w - r)) <<< r + x.toNat / 2 ^ (w - r) < 2 ^ w := by
    have hmod : x.toNat % 2 ^ (w - r) < 2 ^ (w - r) := Nat.mod_lt _ (by positivity)
    have hw' : 2 ^ w = 2 ^ (w - r) * 2 ^ r := by rw [← pow_add, Nat.sub_add_cancel hr.le]
    have hrow := Nat.mul_le_mul_right (2 ^ r) (Nat.succ_le_of_lt hmod)
    rw [Nat.succ_mul] at hrow
    rw [Nat.shiftLeft_eq, hw']
    linarith
  exact Nat.mod_eq_of_lt hfit
theorem rot_onBits (ty : Nat) : (fun x y => extendZ ty (rotl (widthOf ty) (operandN ty x) (shiftCount ty y) : Nat)) =
    onBits ty fun x y => x.rotateLeft (y.toNat % widthOf ty) :=
  funext₂ fun x y => extendZ_onBits (ofInt_natCast_eq (by
    rw [operandN_eq, shiftCount_eq, rotl_toNat _ _ (Nat.mod_lt _ (widthOf_pos ty))]))

/-! ## Minima and maxima -/

/-- The order of a type is the order of its operands. -/
theorem lessOn_iff (ty : Nat) (x y : Word) :
    lessOn ty (x.setWidth (widthOf ty)) (y.setWidth (widthOf ty)) = true ↔ operandZ ty x < operandZ ty y := by
  rw [operandZ_eq, operandZ_eq, lessOn]
  cases signedTy ty
  · rw [if_neg (by decide), if_neg (by decide), if_neg (by decide), BitVec.ult, decide_eq_true_iff, Nat.cast_lt]
  · simp [BitVec.slt_iff_toInt_lt]

theorem min_onBits (ty : Nat) : (fun x y => extendZ ty (min (operandZ ty x) (operandZ ty y))) =
    onBits ty fun x y => if lessOn ty y x then y else x :=
  funext₂ fun x y => extendZ_onBits (by
    by_cases h : operandZ ty y < operandZ ty x
    · rw [if_pos ((lessOn_iff ty y x).mpr h), min_eq_right h.le, ofInt_operandZ]
    · rw [if_neg (mt (lessOn_iff ty y x).mp h), min_eq_left (not_lt.mp h), ofInt_operandZ])
theorem max_onBits (ty : Nat) : (fun x y => extendZ ty (max (operandZ ty x) (operandZ ty y))) =
    onBits ty fun x y => if lessOn ty x y then y else x :=
  funext₂ fun x y => extendZ_onBits (by
    by_cases h : operandZ ty x < operandZ ty y
    · rw [if_pos ((lessOn_iff ty x y).mpr h), max_eq_right h.le, ofInt_operandZ]
    · rw [if_neg (mt (lessOn_iff ty x y).mp h), max_eq_left (not_lt.mp h), ofInt_operandZ])

/-! ## Bit counts -/

/-- The count of set bits is the number of places that hold one. -/
theorem popN_eq (w : Nat) : ∀ x, popN w x = ((List.range w).filter x.testBit).length := by
  induction w with
  | zero => intro x; rfl
  | succ w ih =>
    intro x
    have htail : ((List.range w).filter (x / 2).testBit).length = (((List.range w).map Nat.succ).filter x.testBit).length := by
      rw [List.filter_map, List.length_map]
      congr 2
      funext j
      simp [Nat.testBit_succ]
    rw [popN, ih, List.range_succ_eq_map, List.filter_cons, htail]
    cases hb : x.testBit 0
    · have : x % 2 = 0 := by simpa [Nat.testBit_zero] using hb
      simp [this]
    · have : x % 2 = 1 := by simpa [Nat.testBit_zero] using hb
      simp [this, Nat.add_comm]

/-- The count of leading zeros is the length of the run of clear bits from the top. -/
theorem clzN_eq (w : Nat) : ∀ n, n < 2 ^ w → clzN w n = ((List.range w).takeWhile fun j => !n.testBit (w - 1 - j)).length := by
  induction w with
  | zero => intro n _; simp [clzN]
  | succ w ih =>
    intro n hn
    rw [List.range_succ_eq_map, List.takeWhile_cons, List.takeWhile_map]
    have htop : w + 1 - 1 - 0 = w := by omega
    rw [htop]
    cases hb : n.testBit w
    · have hlt : n < 2 ^ w := by
        by_contra hge
        have hdiv : n / 2 ^ w = 1 := by
          rw [Nat.div_eq_iff (by positivity)]; constructor <;> omega
        rw [Nat.testBit_eq_decide_div_mod_eq, hdiv] at hb
        simp at hb
      have hfun : ((fun j => !n.testBit (w + 1 - 1 - j)) ∘ Nat.succ) = fun j => !n.testBit (w - 1 - j) := by
        funext j
        have : w + 1 - 1 - j.succ = w - 1 - j := by omega
        simp only [Function.comp, this]
      have hlen : bitLen n ≤ w := by
        unfold bitLen
        split
        · omega
        · next h0 => exact (Nat.log2_lt h0).mpr hlt
      rw [hfun]
      simp only [Bool.not_false, if_true, List.length_cons, List.length_map, ← ih n hlt]
      unfold clzN
      omega
    · have hge := Nat.ge_two_pow_of_testBit hb
      have h0 : n ≠ 0 := by rintro rfl; simp at hb
      have hlog : n.log2 = w := (Nat.log2_eq_iff h0).mpr ⟨hge, hn⟩
      simp [clzN, bitLen, h0, hlog]

theorem popc_eq (ty : Nat) (x : Word) : extendZ ty (popN (widthOf ty) (operandN ty x) : Nat) = extendTo64 ty
    (BitVec.ofNat (widthOf ty) ((List.range (widthOf ty)).filter fun j => x.getLsbD j).length) := by
  rw [extendZ_eq_extendTo64, BitVec.ofInt_natCast, popN_eq]
  congr 3
  refine List.filter_congr fun j hj => ?_
  rw [operandN, Nat.testBit_mod_two_pow, decide_eq_true (List.mem_range.mp hj), Bool.true_and, BitVec.testBit_toNat]

theorem clz_eq (ty : Nat) (x : Word) : extendZ ty (clzN (widthOf ty) (operandN ty x) : Nat) = extendTo64 ty
    (BitVec.ofNat (widthOf ty) ((List.range (widthOf ty)).takeWhile fun j => !x.getLsbD (widthOf ty - 1 - j)).length) := by
  have hbit : (fun j => !(operandN ty x).testBit (widthOf ty - 1 - j)) = fun j => !x.getLsbD (widthOf ty - 1 - j) := by
    funext j
    have hj : widthOf ty - 1 - j < widthOf ty := by have := widthOf_pos ty; omega
    rw [operandN, Nat.testBit_mod_two_pow, decide_eq_true hj, Bool.true_and, BitVec.testBit_toNat]
  have hlt : operandN ty x < 2 ^ widthOf ty := Nat.mod_lt _ (by positivity)
  rw [extendZ_eq_extendTo64, BitVec.ofInt_natCast, clzN_eq _ _ hlt, hbit]

/-! ## The words -/

theorem signedTy_of_le {ty : Nat} (h : ty ≤ 3) : signedTy ty = true := by simp [signedTy]; omega

/-- Settles O3: each word is one of one or two sources, and its function is that of the bit vectors of its width. -/
theorem integerInstructions : Obligations.IntegerInstructions := by
  refine ⟨fun h d a b ty s => ?_, fun h d a b ty s => ?_, fun h d a b ty s => ?_⟩
  · rw [← add_onBits, ← sub_onBits, ← mul_onBits, ← and_onBits, ← or_onBits, ← xor_onBits, ← andn_onBits]
    exact ⟨fun hr => show execAdd h d a b ty s = _ from binaryWord_ready hr,
      fun hr => show execSub h d a b ty s = _ from binaryWord_ready hr,
      fun hr => show execMul h d a b ty s = _ from binaryWord_ready hr,
      fun hr => show execAnd h d a b ty s = _ from binaryWord_ready hr,
      fun hr => show execOr h d a b ty s = _ from binaryWord_ready hr,
      fun hr => show execXor h d a b ty s = _ from binaryWord_ready hr,
      fun hr => show execAndn h d a b ty s = _ from binaryWord_ready hr⟩
  · intro w
    rw [← shl_onBits, ← shr_onBits, ← rot_onBits, ← min_onBits, ← max_onBits, ← funext (clz_eq ty.toNat), ← funext (popc_eq ty.toNat)]
    refine ⟨fun hr => show execShl h d a b ty s = _ from binaryWord_ready hr,
      fun hr => show execShr h d a b ty s = _ from binaryWord_ready hr, fun hr => ?_,
      fun hr => show execRot h d a b ty s = _ from binaryWord_ready hr,
      fun hr => show execMin h d a b ty s = _ from binaryWord_ready hr,
      fun hr => show execMax h d a b ty s = _ from binaryWord_ready hr,
      fun hr => show execMinn h d a b ty s = _ from binaryWord_ready hr,
      fun hr => show execMaxn h d a b ty s = _ from binaryWord_ready hr,
      fun hr => show execClz h d a ty s = _ from unaryWord_ready hr,
      fun hr => show execPopc h d a ty s = _ from unaryWord_ready hr⟩
    rw [← sar_onBits (signedTy_of_le (of_decide_eq_true (fieldsOk_of_ready hr)))]
    exact show execSar h d a b ty s = _ from binaryWord_ready hr
  · intro w high
    have hhigh : high = mulHigh ty.toNat := funext₂ fun x y => (extendZ_eq_extendTo64 _ _).symm
    rw [hhigh]
    exact ⟨fun hr => show execMulh h d a b ty s = _ from binaryWord_ready hr,
      fun hr => show execMulhn h d a b ty s = _ from binaryWord_ready hr⟩

end Sys2Proof.Laws
end

section
/-! Comparisons, constants and moves (R154, R156 to R159) and the capability words (R163 to R167). -/

namespace Sys2Proof.Laws

open Sys2Proof.Machine

/-! ## Words whose function the rule names otherwise -/

theorem binaryWord_ready_of_eq {i : Instr} {s : State} {u l d a b} {f g : Word → Word → Word} (h : s.ready i = true)
    (hfg : ∀ x y, f x y = g x y) : binaryWord i u l d a b f s = .next (s.after (s.gives2 u l d a b g)) := by
  rw [← funext₂ hfg]; exact binaryWord_ready h

theorem unaryWord_ready_of_eq {i : Instr} {s : State} {u l d a} {f g : Word → Word} (h : s.ready i = true)
    (hfg : ∀ x, f x = g x) : unaryWord i u l d a f s = .next (s.after (s.gives1 u l d a g)) := by
  rw [← funext hfg]; exact unaryWord_ready h

/-! ## CMP, LDI, LDIH, MOV -/

theorem toNat_beq {w : Nat} (p q : BitVec w) : (p.toNat == q.toNat) = (p == q) := by
  rw [Bool.eq_iff_iff, beq_iff_eq, beq_iff_eq, BitVec.toNat_inj]

/-- The conditions of R154 on the low bits of both sources. -/
theorem cmpHolds_eq (cond : BitVec 3) (wd : BitVec 2) (x y : Word) : cmpHolds cond wd x y =
    (let w := 8 * 2 ^ wd.toNat
     let p := x.setWidth w
     let q := y.setWidth w
     match cond.toNat with
     | 0 => p == q | 1 => p != q | 2 => p.slt q | 3 => q.sle p | 4 => p.ult q | 5 => q.ule p | _ => p &&& q != 0) := by
  have hnat (z : Word) : z.toNat % 2 ^ (8 * 2 ^ wd.toNat) = (z.setWidth (8 * 2 ^ wd.toNat)).toNat := (BitVec.toNat_setWidth _ _).symm
  have hbits (z : Word) : BitVec.ofNat _ (z.setWidth (8 * 2 ^ wd.toNat)).toNat = z.setWidth (8 * 2 ^ wd.toNat) := by
    rw [BitVec.ofNat_toNat, BitVec.setWidth_eq]
  simp only [cmpHolds, hnat, hbits]
  generalize x.setWidth (8 * 2 ^ wd.toNat) = p
  generalize y.setWidth (8 * 2 ^ wd.toNat) = q
  generalize cond.toNat = n
  match n with
  | 0 => exact toNat_beq p q
  | 1 => exact congrArg not (toNat_beq p q)
  | 2 | 3 | 4 | 5 => rfl
  | n + 6 =>
    have hand := toNat_beq (p &&& q) 0#_
    rw [BitVec.toNat_and, BitVec.toNat_zero] at hand
    exact congrArg not hand

theorem mov_capability {h : Hdr} {d a : Port} {s : State} (hr : s.ready (.mov h d a) = true) (hc : Encoding.isC d = true) :
    exec (.mov h d a) s = .next (s.after (s.deliverTo 15 1 d ((capOf s s.curCore s.curStream a).bits.setWidth 1024) 0
      (capOf s s.curCore s.curStream a).tag)) :=
  show execMov h d a s = _ from issueWord_ready hr (if_pos hc)

theorem mov_plain {h : Hdr} {d a : Port} {s : State} (hr : s.ready (.mov h d a) = true) (hc : Encoding.isC d = false) :
    exec (.mov h d a) s = .next (s.after ((s.read a).2.deliverTo 15 1 d ((s.read a).1.setWidth 1024))) :=
  show execMov h d a s = _ from issueWord_ready hr (if_neg (Bool.eq_false_iff.mp hc))

/-- Settles O6: each word's body delivers what its rule names. -/
theorem comparisonsConstantsAndMoves : Obligations.ComparisonsConstantsAndMoves := by
  intro h d a b s
  refine ⟨fun cond wd hr => ?_, fun hr => show execNop h s = _ from issueWord_ready hr rfl,
    fun imm hr => show execLdi h d imm s = _ from issueWord_ready hr rfl,
    fun imm hr => show execLdih h d imm s = _ from issueWord_ready hr rfl, mov_plain, mov_capability⟩
  refine show execCmp h d a b cond wd s = _ from binaryWord_ready_of_eq hr fun x y => ?_
  exact congrArg (fun p : Bool => if p then (1 : Word) else 0) (cmpHolds_eq cond wd x y)

/-! ## Capability words -/

section
variable {i : Instr} {d a b : Port} {f : Cap → Word → Except CapCause Cap} {s : State}

/-- A capability word whose check holds pops its scalar and delivers with latency 2 in CU. -/
theorem capWord_ok {r : Cap} (hr : s.ready i = true) (hf : f (capOf s s.curCore s.curStream a) (s.readInt b).1 = .ok r) :
    capWord i d a b f s = .next (s.after ((s.readInt b).2.deliverTo 8 2 d (r.bits.setWidth 1024) 0 r.tag)) :=
  issueWord_ready hr (by simp only [hf])

/-- One whose check fails pops its scalar and faults. -/
theorem capWord_error {cause : CapCause} (hi : s.issues i = true)
    (hf : f (capOf s s.curCore s.curStream a) (s.readInt b).1 = .error cause) :
    capWord i d a b f s = .next ((s.readInt b).2.takeFault s.curCore (some s.curStream) 3 (capWordInfo cause a) false) :=
  issueWord_trap hi (by simp only [hf])

end

section
variable {c : Cap} {y : Word}

theorem capAdd_untagged {n : BitVec 3} (ht : c.tag = false) : capAdd n c y = .error .tag := by simp [capAdd, ht]
theorem capAdd_outside {n : BitVec 3} (ht : c.tag = true) (hz : (c.cur : Int) + y.toInt * 2 ^ n.toNat < 0 ∨
    (c.len : Int) < (c.cur : Int) + y.toInt * 2 ^ n.toNat) : capAdd n c y = .error .bounds := by
  simp only [capAdd, ht, Bool.not_true, Bool.false_eq_true, if_false, if_pos hz]
theorem capAdd_inside {n : BitVec 3} (ht : c.tag = true) (h0 : 0 ≤ (c.cur : Int) + y.toInt * 2 ^ n.toNat)
    (hl : (c.cur : Int) + y.toInt * 2 ^ n.toNat ≤ c.len) :
    capAdd n c y = .ok (c.put 0 32 ((c.cur : Int) + y.toInt * 2 ^ n.toNat).toNat) := by
  simp only [capAdd, ht, Bool.not_true, Bool.false_eq_true, if_false, not_lt.mpr h0, not_lt.mpr hl, or_self]

theorem capWin_untagged (ht : c.tag = false) : capWin c y = .error .tag := by simp [capWin, ht]
theorem capWin_underived (ht : c.tag = true) (hd : c.has 7 = false) : capWin c y = .error .rights := by simp [capWin, ht, hd]
theorem capWin_outside (ht : c.tag = true) (hd : c.has 7 = true)
    (hw : slice y.toNat 0 32 % 64 ≠ 0 ∨ c.len < slice y.toNat 0 32 + slice y.toNat 32 32) : capWin c y = .error .bounds := by
  simp only [capWin, ht, hd, Bool.not_true, Bool.false_eq_true, if_false, if_pos hw]
theorem capWin_inside (ht : c.tag = true) (hd : c.has 7 = true) (ha : slice y.toNat 0 32 % 64 = 0)
    (hl : slice y.toNat 0 32 + slice y.toNat 32 32 ≤ c.len) : capWin c y =
      .ok (((c.put 64 32 (c.base + slice y.toNat 0 32 / 64)).put 32 32 (slice y.toNat 32 32)).put 0 32 0) := by
  simp only [capWin, ht, hd, Bool.not_true, Bool.false_eq_true, if_false, ha, ne_eq, not_true_eq_false, not_lt.mpr hl, or_self]

theorem capRights_untagged (ht : c.tag = false) : capRights c y = .error .tag := by simp [capRights, ht]
theorem capRights_tagged (ht : c.tag = true) : capRights c y = .ok (c.put 96 8 (c.rights &&& y.setWidth 8).toNat) := by
  simp [capRights, ht]

theorem capCur_untagged (ht : c.tag = false) : capCur c y = .error .tag := by simp [capCur, ht]
theorem capCur_outside (ht : c.tag = true) (hl : c.len < y.toNat) : capCur c y = .error .bounds := by simp [capCur, ht, hl]
theorem capCur_inside (ht : c.tag = true) (hl : y.toNat ≤ c.len) : capCur c y = .ok (c.put 0 32 y.toNat) := by
  simp [capCur, ht, not_lt.mpr hl]

/-- The field of a capability whose CUR does not lie beyond LEN. -/
theorem capField_eq {fld : Nat} {open_ : Word} (hc : c.cur ≤ c.len) : capField fld c open_ = BitVec.ofNat 64 (match fld with
    | 0 => c.obj | 1 => c.rights.toNat | 2 => c.base | 3 => c.len | 4 => c.cur | 5 => b2n c.tag | 6 => c.base * 64 + c.cur
    | _ => c.len - c.cur) := by
  match fld with
  | 0 | 2 | 3 | 4 | 5 | 6 => rfl
  | 1 => exact (BitVec.ofNat_toNat 64 _).symm
  | n + 7 => exact if_neg (not_lt.mpr hc)

end

theorem capget_ready {h : Hdr} {d a : Port} {fld : BitVec 3} {s : State} (hr : s.ready (.capget h d a fld) = true)
    (hc : (capOf s s.curCore s.curStream a).cur ≤ (capOf s s.curCore s.curStream a).len) :
    exec (.capget h d a fld) s = .next (s.after (s.deliverTo 8 2 d
      ((capField fld.toNat (capOf s s.curCore s.curStream a) 0).setWidth 1024))) :=
  show execCapget h d a fld s = _ from issueWord_ready hr (if_neg fun hopen => absurd hopen.2 (not_lt.mpr hc))

/-- Settles O7: the checks of R163 to R166 decide between delivery and fault. -/
theorem capabilityWords : Obligations.CapabilityWords := by
  constructor
  · intro h d a b s c y gives
    exact ⟨fun n hr ht h0 hl => show execCapadd h d a b n s = _ from capWord_ok hr (capAdd_inside ht h0 hl),
      fun hr ht hd ha hl => show execCapsetWin h d a b s = _ from capWord_ok hr (capWin_inside ht hd ha hl),
      fun hr ht => show execCapsetRights h d a b s = _ from capWord_ok hr (capRights_tagged ht),
      fun hr ht hl => show execCapsetCur h d a b s = _ from capWord_ok hr (capCur_inside ht hl),
      fun hr => show execCapsetUntag h d a b s = _ from capWord_ok hr rfl,
      fun fld hr hc => (capget_ready hr hc).trans
        (congrArg (fun v : Word => Host.Outcome.next (s.after (s.deliverTo 8 2 d (v.setWidth 1024)))) (capField_eq hc))⟩
  · intro h d a b s c y faults
    exact ⟨fun n hi => ⟨fun ht => show execCapadd h d a b n s = _ from capWord_error hi (capAdd_untagged ht),
        fun ht hz => show execCapadd h d a b n s = _ from capWord_error hi (capAdd_outside ht hz)⟩,
      fun hi => ⟨fun ht => show execCapsetWin h d a b s = _ from capWord_error hi (capWin_untagged ht),
        fun ht hd => show execCapsetWin h d a b s = _ from capWord_error hi (capWin_underived ht hd),
        fun ht hd hw => show execCapsetWin h d a b s = _ from capWord_error hi (capWin_outside ht hd hw)⟩,
      fun hi ht => show execCapsetRights h d a b s = _ from capWord_error hi (capRights_untagged ht),
      fun hi => ⟨fun ht => show execCapsetCur h d a b s = _ from capWord_error hi (capCur_untagged ht),
        fun ht hl => show execCapsetCur h d a b s = _ from capWord_error hi (capCur_outside ht hl)⟩⟩

end Sys2Proof.Laws
end

section
/-! Vector words (R168 to R190): the lane functions of the model against those that the rules name. -/

namespace Sys2Proof.Laws

open Sys2Proof.Machine

/-! ## Vector words whose function the rule names otherwise -/

section
variable {i : Instr} {s : State} {u l : Nat} {d a b : Port} {ty : Nat}

theorem vec1_ready_of_eq {f g : Vec → Vec × Flags} (h : s.ready i = true) (hfg : ∀ x, f x = g x) :
    vec1 i u l d a f s = .next (s.after (s.givesV1 u l d a g)) := by
  rw [← funext hfg]; exact vec1_ready h

theorem vec2_ready_of_eq {f g : Vec → Vec → Vec × Flags} (h : s.ready i = true) (hfg : ∀ x y, f x y = g x y) :
    vec2 i u l d a b f s = .next (s.after (s.givesV2 u l d a b g)) := by
  rw [← funext₂ hfg]; exact vec2_ready h

theorem laneWord1_ready {f g : Nat → Nat × Flags} (h : s.ready i = true) (hfg : ∀ x, f x = g x) :
    laneWord1 i u l d a ty f s = .next (s.after (s.givesLanes1 u l d a ty g)) := by
  rw [← funext hfg]; exact vec1_ready h

theorem laneWord2_ready {f g : Nat → Nat → Nat × Flags} (h : s.ready i = true) (hfg : ∀ x y, f x y = g x y) :
    laneWord2 i u l d a b ty f s = .next (s.after (s.givesLanes2 u l d a b ty g)) := by
  rw [← funext₂ hfg]; exact vec2_ready h

theorem laneWord3_ready {f g : Nat → Nat → Nat → Nat × Flags} (h : s.ready i = true) (hfg : ∀ x y z, f x y z = g x y z) :
    laneWord3 i u l d a b ty f s = .next (s.after (s.givesLanes3 u l d a b ty g)) := by
  rw [← funext fun x => funext₂ (hfg x)]; exact vec2_ready h

end

/-! ## Lane arithmetic (R174 to R178) -/

/-- The negated product of VFNMA: c − a × b modulo 2^w. -/
theorem fused_negProduct (ty : Nat) (m : RMode) (x y z : Nat) : fused ty m true false x y z =
    if isFloatTy ty then fmaF (fmtOf ty) m ((fmtOf ty).val x).neg ((fmtOf ty).val y) ((fmtOf ty).val z)
    else (wrapN (widthOf ty) (laneZ ty z - laneZ ty x * laneZ ty y), 0) := by
  have hcomm : -(laneZ ty x * laneZ ty y) + laneZ ty z = laneZ ty z - laneZ ty x * laneZ ty y := by omega
  rw [← hcomm]; rfl

theorem divRem_fst (w : Nat) (x y : Int) : (divRem w x y).1 = if y = 0 then 2 ^ w - 1 else x.tdiv y := by
  unfold divRem
  split <;> rfl

/-- Settles O8: unit and latency are those of R172, and each lane function is the one that the rule names. -/
theorem vectorArithmetic : Obligations.VectorArithmetic := by
  refine ⟨fun h d a b ty s => ?_, fun h d a b ty s => ?_, fun h d a b ty s => ?_⟩
  · intro t w m lat val
    exact ⟨fun hr => show execVadd h d a b ty s = _ from laneWord2_ready hr fun _ _ => rfl,
      fun hr => show execVsub h d a b ty s = _ from laneWord2_ready hr fun _ _ => rfl,
      fun hr => show execVmul h d a b ty s = _ from laneWord2_ready hr fun _ _ => rfl,
      fun hr => show execVmulh h d a b ty s = _ from laneWord2_ready hr fun _ _ => rfl,
      fun hr => show execVmulw h d a b ty s = _ from vec2_ready hr,
      fun hr => show execVfma h d a b ty s = _ from laneWord3_ready hr fun _ _ _ => rfl,
      fun hr => show execVfms h d a b ty s = _ from laneWord3_ready hr fun _ _ _ => rfl,
      fun hr => show execVfnma h d a b ty s = _ from laneWord3_ready hr (fused_negProduct t m)⟩
  · intro t w m val lat
    refine ⟨fun hr => show execVdiv h d a b ty s = _ from laneWord2_ready hr fun x y => ?_,
      fun hr => show execVsqrt h d a ty s = _ from laneWord1_ready hr fun _ => rfl,
      fun hr => show execVrcp h d a ty s = _ from laneWord1_ready hr fun _ => rfl,
      fun hr => show execVrsq h d a ty s = _ from laneWord1_ready hr fun _ => rfl,
      fun hr => show execVexp2 h d a ty s = _ from laneWord1_ready hr fun _ => rfl,
      fun hr => show execVlog2 h d a ty s = _ from laneWord1_ready hr fun _ => rfl,
      fun hr => show execVround h d a ty s = _ from laneWord1_ready hr fun _ => rfl⟩
    rw [arith2, divRem_fst]; rfl
  · intro t w
    exact ⟨fun hr => show execVmin h d a b ty s = _ from laneWord2_ready hr fun _ _ => rfl,
      fun hr => show execVmax h d a b ty s = _ from laneWord2_ready hr fun _ _ => rfl,
      fun hr => show execVabs h d a ty s = _ from laneWord1_ready hr fun _ => rfl,
      fun hr => show execVneg h d a ty s = _ from laneWord1_ready hr fun _ => rfl,
      fun hr => show execVand h d a b ty s = _ from laneWord2_ready hr fun _ _ => rfl,
      fun hr => show execVor h d a b ty s = _ from laneWord2_ready hr fun _ _ => rfl,
      fun hr => show execVxor h d a b ty s = _ from laneWord2_ready hr fun _ _ => rfl,
      fun hr => show execVshl h d a b ty s = _ from laneWord2_ready hr fun _ _ => rfl,
      fun hr => show execVshr h d a b ty s = _ from laneWord2_ready hr fun _ _ => rfl,
      fun hr => show execVsar h d a b ty s = _ from laneWord2_ready hr fun _ _ => rfl,
      fun hr => show execVpopc h d a ty s = _ from laneWord1_ready hr fun x => congrArg noFlag (popN_eq w x),
      fun hr => show execVclz h d a ty s = _ from laneWord1_ready hr fun _ => rfl⟩

/-! ## Compares, selects and merges (R179, R180) -/

theorem orFlags_zeros {l : List Flags} (h : ∀ f ∈ l, f = 0) : orFlags l = 0 := by
  unfold orFlags
  induction l with
  | nil => rfl
  | cons f l ih =>
    obtain rfl := h f List.mem_cons_self
    exact ih fun g hg => h g (List.mem_cons_of_mem _ hg)

/-- No lane of an integer compare raises a flag. -/
theorem laneMask_vcmpInt (w c : Nat) (x y : Vec) : laneMask w (vcmpInt w c) x y =
    (BitVec.ofNat 256 (flagBits ((List.range (256 / w)).map fun i => (vcmpInt w c (lane x w i) (lane y w i)).1)), 0) := by
  unfold laneMask
  dsimp only
  rw [List.map_map, orFlags_zeros]
  · rfl
  · intro f hf
    simp only [List.map_map, List.mem_map] at hf
    obtain ⟨i, -, rfl⟩ := hf
    rfl

theorem vcmpInt_fst (w c p q : Nat) : (vcmpInt w c p q).1 =
    match c with | 0 => p == q | 1 => p != q | 2 => decide (sext w p < sext w q) | _ => decide (p < q) := rfl

/-- A vector has at most 32 lanes. -/
theorem lanes_le (ty : Nat) : 256 / widthOf ty ≤ 32 := by
  rcases widthOf_cases ty with h | h | h | h <;> rw [h] <;> decide

/-- The mask bits of a word's lanes lie among the low 32. -/
theorem maskBit_of_lane {ty i : Nat} (hi : i ∈ List.range (256 / widthOf ty)) (m : Vec) :
    (i < 32 && m.getLsbD i) = m.getLsbD i := by
  have : i < 32 := lt_of_lt_of_le (List.mem_range.mp hi) (lanes_le ty)
  simp [this]

/-! ## Predicate words (R191) -/

theorem filter_range_length_le (n : Nat) (p : Nat → Bool) : ((List.range n).filter p).length ≤ n :=
  (List.length_filter_le _ _).trans_eq List.length_range

theorem takeWhile_range_length_le (n : Nat) (p : Nat → Bool) : ((List.range n).takeWhile p).length ≤ n :=
  ((List.takeWhile_prefix p).length_le).trans_eq List.length_range

/-- A number of 32 bits delivered as 64. -/
theorem setWidth_ofNat32 {n : Nat} (h : n < 2 ^ 32) : (BitVec.ofNat 32 n).setWidth 64 = BitVec.ofNat 64 n := by
  apply BitVec.eq_of_toNat_eq
  rw [BitVec.toNat_setWidth, BitVec.toNat_ofNat, BitVec.toNat_ofNat, Nat.mod_eq_of_lt h]

/-- The run of clear bits from the bottom ends at the lowest set bit. -/
theorem firstSet_eq (w x : Nat) : firstSet w x = ((List.range w).takeWhile fun j => !x.testBit j).length := by
  unfold firstSet
  induction w with
  | zero => rfl
  | succ w ih =>
    rw [List.range_succ, List.find?_append, List.takeWhile_append]
    cases hf : (List.range w).find? (fun i => x.testBit i) with
    | some j =>
      rw [hf] at ih
      have hlt : j < w := List.mem_range.mp (List.mem_of_find?_eq_some hf)
      rw [if_neg (by rw [← ih, List.length_range]; simp only [Option.getD_some]; omega), ← ih]
      rfl
    | none =>
      rw [hf] at ih
      rw [if_pos (by rw [← ih, List.length_range]; rfl), List.length_append, List.length_range]
      cases hx : x.testBit w <;> simp [hx]

theorem kWord2_ready {i : Instr} {s : State} {d a b : Port} {f : BitVec 32 → BitVec 32 → BitVec 32} (h : s.ready i = true) :
    kWord2 i d a b f s = .next (s.after (s.gives2 6 1 d a b fun x y => (f (x.setWidth 32) (y.setWidth 32)).setWidth 64)) :=
  binaryWord_ready h

theorem kWord1_ready {i : Instr} {s : State} {d a : Port} {f : Word → BitVec 32} {g : Word → Word} (h : s.ready i = true)
    (hfg : ∀ x, (f x).setWidth 64 = g x) : kWord1 i d a f s = .next (s.after (s.gives1 6 1 d a g)) :=
  unaryWord_ready_of_eq h hfg

/-- Settles O9: the integer compares raise no flag, and no lane's mask bit lies beyond the low 32. -/
theorem vectorComparisonsAndPredicateWords : Obligations.VectorComparisonsAndPredicateWords := by
  refine ⟨fun h d a b s => ⟨fun md hr hlt => ?_, fun md hr hge => ?_, fun ty => ?_, fun ty hr => ?_⟩, fun h d a b s => ?_⟩
  · intro w
    refine show execVcmp h d a b md s = _ from vec2_ready_of_eq hr fun x y => ?_
    rw [if_pos hlt]
    exact laneMask_vcmpInt w (md.toNat / 4) _ _
  · intro f
    refine show execVcmp h d a b md s = _ from vec2_ready_of_eq hr fun x y => ?_
    exact if_neg (not_lt.mpr hge)
  · intro w hr
    refine show execVsel h d a b ty s = _ from vec2_ready_of_eq hr fun x m => ?_
    refine congrArg (fun l => (fromLanes w l, (0 : Flags))) (List.map_congr_left fun i hi => ?_)
    rw [maskBit_of_lane hi]
  · exact show execVmerge h d a b ty s = _ from vec2_ready hr
  · intro lo
    refine ⟨fun hr => show execKand h d a b s = _ from kWord2_ready hr, fun hr => show execKor h d a b s = _ from kWord2_ready hr,
      fun hr => show execKxor h d a b s = _ from kWord2_ready hr,
      fun hr => show execKnot h d a s = _ from kWord1_ready hr fun _ => rfl,
      fun hr => show execKpopc h d a s = _ from kWord1_ready hr fun x => ?_,
      fun hr => show execKfirst h d a s = _ from kWord1_ready hr fun x => ?_,
      fun hr => show execKmov h d a s = _ from kWord1_ready hr fun _ => rfl,
      fun hr => show execKmovFirst h d a s = _ from kWord1_ready hr fun x => ?_⟩
    · rw [popN_eq]
      exact setWidth_ofNat32 ((filter_range_length_le _ _).trans_lt (by decide))
    · rw [firstSet_eq]
      exact setWidth_ofNat32 ((takeWhile_range_length_le _ _).trans_lt (by decide))
    · refine setWidth_ofNat32 ?_
      have hpow : 2 ^ min x.toNat 32 ≤ 2 ^ 32 := Nat.pow_le_pow_right (by decide) (min_le_right _ _)
      have hpos : 0 < 2 ^ min x.toNat 32 := Nat.two_pow_pos _
      omega

/-! ## Conversions (R186 to R190) -/

/-- Settles O11: the source type, the quarter and the half are those that the rules name. -/
theorem conversions : Obligations.Conversions := by
  intro h d a b ty s t w
  refine ⟨fun st hr => show execVcvt h d a st ty s = _ from vec1_ready hr,
    fun hr => show execVpack h d a b ty s = _ from vec2_ready hr,
    fun hr => show execVunpk h d a b ty s = _ from vec2_ready_of_eq hr fun x y => ?_,
    fun hr => show execVqnt h d a b ty s = _ from vec2_ready hr,
    fun hr => show execVdqnt h d a b ty s = _ from vec2_ready hr⟩
  have hhalf : b2n (y.getLsbD 0) * (128 / w) = if y.getLsbD 0 then 128 / w else 0 := by
    unfold b2n
    split <;> simp
  refine congrArg (gather (2 * w)) (List.map_congr_left fun i _ => ?_)
  exact congrArg (fun k => convLane .rne (unpackType t) t (lane (widen a x w (immOf t)) w (k + i))) hhalf

end Sys2Proof.Laws
end

section
/-! The scan of R183 at lane 0: no value is added to it, so a NaN that stands there comes out as the canonical one (R173) although no sum
has rounded it. -/

namespace Sys2Proof.Laws

open Sys2Proof.Machine

/-- The values of the results in flight on core 0 after a step. -/
def flightValues : Host.Outcome State Fault Refusal → List (BitVec 1024)
  | .next t => (t.core 0).flight.map fun f => f.val
  | _ => []

/-- VSCAN.f32 of G2 under the mask in G3. -/
def scanWord : Instr := .vscan ⟨0, 0, 0, 63⟩ 0x181 0x182 0x183 8
/-- The word stands next, G2 holds a signalling NaN, and the mask takes lane 0. -/
def scanOfNan : State :=
  (State.reset.placeWord ((encode scanWord).getD 0)).modOwn fun t => { t with g := [(2, 0x7F800001), (3, 1)] }

theorem scanOfNan_ready : scanOfNan.ready scanWord = true := by decide

/-- Refutes O10: of a signalling NaN in lane 0 the scan delivers the canonical NaN, where the statement has the lane as it was. -/
theorem not_dotProductsReductionsScansAndPermutes : ¬ Obligations.DotProductsReductionsScansAndPermutes := by
  rintro ⟨hdots, -⟩
  obtain ⟨-, -, -, -, hscan, -⟩ := hdots ⟨0, 0, 0, 63⟩ 0x181 0x182 0x183 8 scanOfNan
  have hvalues := congrArg flightValues (hscan scanOfNan_ready)
  revert hvalues
  decide

end Sys2Proof.Laws
end

section
/-! PROOF. Nest, format and ring words (R119, R196 to R201, R208, R209). -/
namespace Sys2Proof.Laws
open Sys2Proof.Machine

/-- NESTW by its record (R119, R196). -/
theorem nestw_legal {h : Hdr} {tbl : BitVec 2} {lvl : BitVec 3} {src : Port} {s : State} (hr : s.ready (.nestw h tbl lvl src) = true)
    (hl : recLegal tbl.toNat ((s.read src).1.setWidth 128) = true) :
    exec (.nestw h tbl lvl src) s = .next (s.after ((s.read src).2.share fun y =>
      y.setNestRec tbl.toNat 0 lvl.toNat ((s.read src).1.setWidth 128))) :=
  show execNestw h tbl lvl src s = _ from issueWord_ready hr (if_pos hl)

theorem nestw_illegal {h : Hdr} {tbl : BitVec 2} {lvl : BitVec 3} {src : Port} {s : State} (hi : s.issues (.nestw h tbl lvl src) = true)
    (hl : recLegal tbl.toNat ((s.read src).1.setWidth 128) = false) :
    exec (.nestw h tbl lvl src) s = .next ((s.read src).2.takeFault s.curCore (some s.curStream) 1 (illegalInfo 0x60) false) :=
  show execNestw h tbl lvl src s = _ from issueWord_trap hi (if_neg (by simp [hl]))

/-- NSTAT by its selector (R198). -/
theorem nstat_ready {h : Hdr} {gd : BitVec 6} {tbl : BitVec 2} {sel : BitVec 3} {s : State} (hr : s.ready (.nstat h gd tbl sel) = true) :
    (sel.toNat < 6 → ((s.old.nestRunOf tbl.toNat).live = false ∨ s.old.nestLeft tbl.toNat = true) →
      exec (.nstat h gd tbl sel) s =
        .next (s.after (s.deliverG 2 gd (BitVec.ofNat 64 ((s.old.nestRunOf tbl.toNat).idx.getD sel.toNat 0))))) ∧
    (sel.toNat = 6 → exec (.nstat h gd tbl sel) s = .next (s.after (s.deliverG 2 gd (s.old.nestRunOf tbl.toNat).delivered))) ∧
    (6 < sel.toNat → exec (.nstat h gd tbl sel) s = .next (s.after (s.deliverG 2 gd (BitVec.ofNat 64 (flagBits
      [!s.old.nestLeft tbl.toNat, s.old.goWaits tbl.toNat, (s.old.nestRunOf tbl.toNat).live]))))) := by
  refine ⟨fun hs hl => ?_, fun hs => ?_, fun hs => ?_⟩
  · refine show execNstat h gd tbl sel s = _ from issueWord_ready hr ?_
    have hn : ((s.old.nestRunOf tbl.toNat).live && !s.old.nestLeft tbl.toNat) = false := by
      rcases hl with hl | hl <;> simp [hl]
    simp only [hs, hn, if_true, Bool.false_eq_true, if_false]
  · refine show execNstat h gd tbl sel s = _ from issueWord_ready hr ?_
    have : sel = 6 := BitVec.eq_of_toNat_eq hs
    subst this; rfl
  · refine show execNstat h gd tbl sel s = _ from issueWord_ready hr ?_
    have h7 : sel = 7 := BitVec.eq_of_toNat_eq (by have := sel.isLt; simp; omega)
    subst h7; rfl

/-- Settles O12. -/
theorem nestFormatAndRingWords : Obligations.NestFormatAndRingWords := by
  refine ⟨fun h tbl s => ⟨fun lvl src => ⟨nestw_legal, nestw_illegal⟩, fun gd lvl copy half hr => ?_, fun gd sel => nstat_ready⟩,
    fun h s => ⟨fun idx src => ⟨fun hr hl => ?_, fun hi hl => ?_⟩, fun en lvl hr => ?_, fun gd sn dn hr => ⟨fun hc => ?_, fun hc => ?_⟩,
      fun gd hr => ?_⟩⟩
  · exact show execNestr h gd tbl lvl copy half s = _ from issueWord_ready hr rfl
  · exact show execFmtw h idx src s = _ from issueWord_ready hr (if_pos hl)
  · exact show execFmtw h idx src s = _ from issueWord_trap hi (if_neg (by simp [hl]))
  · exact show execFmtsel h en lvl s = _ from issueWord_ready hr rfl
  · exact show execRingcfg h gd sn dn s = _ from issueWord_ready hr (by dsimp only; rw [if_neg hc])
  · exact show execRingcfg h gd sn dn s = _ from issueWord_ready hr (by dsimp only; rw [if_pos hc, hc]; rfl)
  · exact show execRhead h gd s = _ from issueWord_ready hr rfl
end Sys2Proof.Laws
end

section
/-! PROOF. Words that send commands to engines (R58, R65, R66, R199, R213). -/
namespace Sys2Proof.Laws
open Sys2Proof.Machine

section
variable {i : Instr} {s : State} {engs : List Nat} {body : State → Out}

theorem takesCommand_free (ht : s.takesCommand engs = true) : (engs.any fun e => engineBusy s.now s.old e) = false := by
  rw [List.any_eq_false]
  intro e he hb
  have := List.all_eq_true.mp ht e he
  simp [hb] at this

theorem takesCommand_out (ht : s.takesCommand engs = true) {e : Nat} (he : e ∈ engs) : (s.now.compRec e).out < 2 ^ 32 - 1 := by
  have := List.all_eq_true.mp ht e he
  rw [Bool.and_eq_true] at this
  exact of_decide_eq_true this.2

/-- A command word whose engines are free does what its body says. -/
theorem commandWord_free (ht : s.takesCommand engs = true) :
    (if engs.any (fun e => engineBusy (s.sh s.curCore) (s.soc s.curCore) e) = true then Out.wait s else body s) = body s :=
  if_neg (by rw [show (engs.any fun e => engineBusy (s.sh s.curCore) (s.soc s.curCore) e) = false from takesCommand_free ht]; decide)

theorem commandWord_ready {u : State} (hr : s.ready i = true) (ht : s.takesCommand engs = true) (hb : body s = .done u) :
    commandWord i engs s body = .next (s.after u) :=
  issueWord_ready hr ((commandWord_free ht).trans hb)

theorem commandWord_trap {u : State} {cls info} (hi : s.issues i = true) (ht : s.takesCommand engs = true) (hb : body s = .trap u cls info) :
    commandWord i engs s body = .next (u.takeFault s.curCore (some s.curStream) cls info false) :=
  issueWord_trap hi ((commandWord_free ht).trans hb)

/-- A command word one of whose engines is busy blocks (R65, items 4 and 5). -/
theorem commandWord_busy {e : Nat} (hi : s.issues i = true) (he : e ∈ engs) (hb : engineBusy s.now s.old e = true) :
    commandWord i engs s body = .next (s.block s.curCore s.curStream) :=
  issueWord_wait hi (if_pos (List.any_eq_true.mpr ⟨e, he, hb⟩))

/-- Commands for engines whose OUT has room are sent. -/
theorem sendCommands_done {cmds : List (Nat × Cmd)} (h : ∀ x ∈ cmds, (s.now.compRec x.1).out < 2 ^ 32 - 1) :
    sendCommands i s cmds = .done (s.commanded cmds) :=
  if_neg fun ha => by
    obtain ⟨x, hx, hf⟩ := List.any_eq_true.mp ha
    have := h x hx
    have := of_decide_eq_true hf
    change 2 ^ 32 - 1 ≤ (s.now.compRec x.1).out at this
    omega

/-- Reading a port leaves every completion record. -/
theorem read_now_compRec (s : State) (p : Port) (e : Nat) : (s.read p).2.now.compRec e = s.now.compRec e := by
  unfold State.now; rw [(read_cc s p).1, read_comp]

theorem plainCommand_ready {e : Nat} {hs : List Nat} (hr : s.ready i = true) (ht : s.takesCommand [e] = true) :
    plainCommand i e hs s = .next (s.after (s.commanded [(e, s.commandOf i 0 hs)])) :=
  commandWord_ready hr ht (sendCommands_done fun x hx => by
    rw [List.mem_singleton] at hx; subst hx; exact takesCommand_out ht (List.mem_singleton_self e))

theorem srcCommand_ready {e : Nat} {src : Port} {hs : List Nat} (hr : s.ready i = true) (ht : s.takesCommand [e] = true) :
    srcCommand i e src hs s = .next (s.after ((s.read src).2.commanded [(e, s.commandOf i (s.read src).1 hs)])) :=
  commandWord_ready hr ht (sendCommands_done fun x hx => by
    rw [List.mem_singleton] at hx; subst hx; rw [read_now_compRec]; exact takesCommand_out ht (List.mem_singleton_self e))

theorem plainCommand_busy {e : Nat} {hs : List Nat} (hi : s.issues i = true) (hb : engineBusy s.now s.old e = true) :
    plainCommand i e hs s = .next (s.block s.curCore s.curStream) :=
  commandWord_busy hi (List.mem_singleton_self e) hb

theorem srcCommand_busy {e : Nat} {src : Port} {hs : List Nat} (hi : s.issues i = true) (hb : engineBusy s.now s.old e = true) :
    srcCommand i e src hs s = .next (s.block s.curCore s.curStream) :=
  commandWord_busy hi (List.mem_singleton_self e) hb

theorem tagCommand_busy {op tag hs takesList src} (hi : s.issues i = true) (hb : engineBusy s.now s.old 4 = true) :
    tagCommand i op tag hs takesList src s = .next (s.block s.curCore s.curStream) :=
  commandWord_busy hi (List.mem_singleton_self 4) hb
end

theorem go_ready {h : Hdr} {mask : BitVec 4} {src : Port} {s : State} (hr : s.ready (.go h mask src) = true)
    (ht : s.takesCommand (goEngines mask) = true) (hb : ∀ e ∈ goEngines mask, baseLegal e (goBase src (s.read src).1 e) = true) :
    exec (.go h mask src) s = .next (s.after ((s.read src).2.commanded ((goEngines mask).map fun e => (e,
      { ins := .go h mask src, src := (s.read src).1, stream := s.curStream,
        nest := (List.range 6).map fun l => s.old.nestRec e 0 l })))) := by
  refine show execGo h mask src s = _ from commandWord_ready hr ht ?_
  dsimp only
  rw [if_neg fun ha => by
    obtain ⟨e, he, hf⟩ := List.any_eq_true.mp ha
    rw [hb e he] at hf; exact absurd hf (by decide)]
  refine sendCommands_done fun x hx => ?_
  obtain ⟨e, he, rfl⟩ := List.mem_map.mp hx
  rw [read_now_compRec]; exact takesCommand_out ht he

theorem go_illegal {h : Hdr} {mask : BitVec 4} {src : Port} {s : State} (hi : s.issues (.go h mask src) = true)
    (ht : s.takesCommand (goEngines mask) = true) (hb : ∃ e ∈ goEngines mask, baseLegal e (goBase src (s.read src).1 e) = false) :
    exec (.go h mask src) s = .next ((s.read src).2.takeFault s.curCore (some s.curStream) 1 (illegalInfo 0x62) false) := by
  obtain ⟨e, he, hf⟩ := hb
  refine show execGo h mask src s = _ from commandWord_trap hi ht (if_pos (List.any_eq_true.mpr ⟨e, he, by rw [hf]; rfl⟩))

theorem goEngines_mem {mask : BitVec 4} {e : Nat} (he : e < 4) (hm : mask.getLsbD e = true) : e ∈ goEngines mask := by
  have : e = 0 ∨ e = 1 ∨ e = 2 ∨ e = 3 := by omega
  exact List.mem_filter.mpr ⟨by simpa using this, hm⟩

/-- The engines that a word sends a command to. -/
def Sends (i : Instr) (e : Nat) : Prop :=
  match i with
  | .mma .. | .mmac .. | .decksel .. => e = 2
  | .rpop .. | .rdiscard .. | .epcfgAct .. | .epcfgBias .. | .epcfgScale .. | .epcfgLo .. | .epcfgHi .. | .eprun .. => e = 3
  | .deckld .. | .astage .. => e = 0
  | .go _ mask _ => e < 4 ∧ mask.getLsbD e = true
  | .copy .. | .copyp .. | .job .. | .near .. => e = 4
  | .patch .. | .cellw .. | .stepdom .. | .dasave .. | .daload .. => e = 5
  | _ => False

/-- A word blocks where an engine that it sends to is busy. -/
theorem exec_busyEngine {i : Instr} {s : State} {e : Nat} (hi : s.issues i = true) (hb : engineBusy s.now s.old e = true)
    (he : Sends i e) : exec i s = .next (s.block s.curCore s.curStream) := by
  cases i with
  | mma h close last gang kc => exact show execMma h close last gang kc s = _ from plainCommand_busy hi (he ▸ hb)
  | mmac h close last gang kc => exact show execMmac h close last gang kc s = _ from plainCommand_busy hi (he ▸ hb)
  | decksel h units => exact show execDecksel h units s = _ from plainCommand_busy hi (he ▸ hb)
  | rpop h => exact show execRpop h s = _ from plainCommand_busy hi (he ▸ hb)
  | rdiscard h => exact show execRdiscard h s = _ from plainCommand_busy hi (he ▸ hb)
  | epcfgAct h act => exact show execEpcfgAct h act s = _ from plainCommand_busy hi (he ▸ hb)
  | epcfgBias h hn en => exact show execEpcfgBias h hn en s = _ from plainCommand_busy hi (he ▸ hb)
  | epcfgScale h hn en => exact show execEpcfgScale h hn en s = _ from plainCommand_busy hi (he ▸ hb)
  | epcfgLo h src => exact show execEpcfgLo h src s = _ from srcCommand_busy hi (he ▸ hb)
  | epcfgHi h src => exact show execEpcfgHi h src s = _ from srcCommand_busy hi (he ▸ hb)
  | eprun h hn => exact show execEprun h hn s = _ from plainCommand_busy hi (he ▸ hb)
  | deckld h cn src units => exact show execDeckld h cn src units s = _ from srcCommand_busy hi (he ▸ hb)
  | astage h cn kn src => exact show execAstage h cn kn src s = _ from srcCommand_busy hi (he ▸ hb)
  | go h mask src => exact show execGo h mask src s = _ from commandWord_busy hi (goEngines_mem he.1 he.2) hb
  | copy h tag dk dst src sk sn => exact show execCopy h tag dk dst src sk sn s = _ from tagCommand_busy hi (he ▸ hb)
  | copyp h tag hn => exact show execCopyp h tag hn s = _ from tagCommand_busy hi (he ▸ hb)
  | job h tag cn => exact show execJob h tag cn s = _ from tagCommand_busy hi (he ▸ hb)
  | near h tag cn => exact show execNear h tag cn s = _ from tagCommand_busy hi (he ▸ hb)
  | patch h hn src keep => exact show execPatch h hn src keep s = _ from srcCommand_busy hi (he ▸ hb)
  | cellw h src item cell => exact show execCellw h src item cell s = _ from srcCommand_busy hi (he ▸ hb)
  | stepdom h dom src kind => exact show execStepdom h dom src kind s = _ from srcCommand_busy hi (he ▸ hb)
  | dasave h hn => exact show execDasave h hn s = _ from plainCommand_busy hi (he ▸ hb)
  | daload h hn => exact show execDaload h hn s = _ from plainCommand_busy hi (he ▸ hb)
  | _ => exact he.elim

/-- Settles O13. -/
theorem commandsToEngines : Obligations.CommandsToEngines := by
  refine ⟨fun h src s => ⟨fun close last gang kc => ⟨?_, ?_⟩, ⟨?_, ?_⟩, fun act => ?_, fun hn en => ⟨?_, ?_⟩, ⟨?_, ?_⟩, fun hn => ?_,
    fun cn units => ?_, fun units => ?_, fun cn kn => ?_, fun hn keep => ?_, fun item cell => ?_, fun dom kind => ?_,
    fun hn => ⟨?_, ?_⟩⟩, fun h mask src s => ⟨go_ready, go_illegal⟩, fun i s e hi hb he => exec_busyEngine hi hb he⟩ <;> intro hr ht
  · exact show execMma h close last gang kc s = _ from plainCommand_ready hr ht
  · exact show execMmac h close last gang kc s = _ from plainCommand_ready hr ht
  · exact show execRpop h s = _ from plainCommand_ready hr ht
  · exact show execRdiscard h s = _ from plainCommand_ready hr ht
  · exact show execEpcfgAct h act s = _ from plainCommand_ready hr ht
  · exact show execEpcfgBias h hn en s = _ from plainCommand_ready hr ht
  · exact show execEpcfgScale h hn en s = _ from plainCommand_ready hr ht
  · exact show execEpcfgLo h src s = _ from srcCommand_ready hr ht
  · exact show execEpcfgHi h src s = _ from srcCommand_ready hr ht
  · exact show execEprun h hn s = _ from plainCommand_ready hr ht
  · exact show execDeckld h cn src units s = _ from srcCommand_ready hr ht
  · exact show execDecksel h units s = _ from plainCommand_ready hr ht
  · exact show execAstage h cn kn src s = _ from srcCommand_ready hr ht
  · exact show execPatch h hn src keep s = _ from srcCommand_ready hr ht
  · exact show execCellw h src item cell s = _ from srcCommand_ready hr ht
  · exact show execStepdom h dom src kind s = _ from srcCommand_ready hr ht
  · exact show execDasave h hn s = _ from plainCommand_ready hr ht
  · exact show execDaload h hn s = _ from plainCommand_ready hr ht

end Sys2Proof.Laws
end

section
/-! PROOF. Completion records, pacing and the words of the integrator field (R213 to R215, R230 to R237). -/
namespace Sys2Proof.Laws
open Sys2Proof.Machine

theorem engine_busy_iff {e : Engine} : e.busy = true ↔ e.queue ≠ [] ∨ e.run ≠ none := by
  simp [Engine.busy, Option.ne_none_iff_isSome]

/-- Settles O14. -/
theorem completionAndPacingWords : Obligations.CompletionAndPacingWords := by
  intro h eng s
  refine ⟨fun gd hr => ?_, fun n hi => ⟨fun ho => ?_, fun ho hd => ?_, fun hn ho hd => ?_⟩, fun n hi => ⟨fun ho => ?_, fun hn h0 ho => ?_⟩,
    fun hr => ?_, fun gap hr => ?_, fun hr hq hrun => ?_, fun hi hb => ?_⟩
  · exact show execCcnt h gd eng s = _ from issueWord_ready hr rfl
  · exact show execCcons h eng n s = _ from issueWord_trap hi (if_pos ho)
  · exact show execCcons h eng n s = _ from issueWord_wait hi ((if_neg (Nat.not_lt.mpr ho)).trans (if_pos hd))
  · exact show execCcons h eng n s = _ from
      issueWord_ready (ready_of_issues hi hn) ((if_neg (Nat.not_lt.mpr ho)).trans (if_neg (Nat.not_lt.mpr hd)))
  · exact show execCdisc h eng n s = _ from issueWord_trap hi (if_pos (.inr ho))
  · exact show execCdisc h eng n s = _ from
      issueWord_ready (ready_of_issues hi hn) (if_neg (not_or.mpr ⟨h0, Nat.not_lt.mpr ho⟩))
  · exact show execCdiscAll h eng s = _ from issueWord_ready hr rfl
  · exact show execPace h eng gap s = _ from issueWord_ready hr rfl
  · exact show execTwaitIdle h eng s = _ from issueWord_ready hr (if_neg fun hb => (engine_busy_iff.mp hb).elim (· hq) (· hrun))
  · exact show execTwaitIdle h eng s = _ from issueWord_wait hi (if_pos (engine_busy_iff.mpr hb))

/-- The sum of DAINJ is exact within ±32,767 and clamped, with INJSAT, beyond (R237). -/
theorem inject_eq (g : Dda) (c : Nat) (v : Int) : g.inject c v =
    if -32767 ≤ g.chan c + v ∧ g.chan c + v ≤ 32767 then g.setChan c (g.chan c + v)
    else { (g.setChan c (if g.chan c + v < 0 then -32767 else 32767)) with injsat := true, fresh := g.fresh ||| 32 } := by
  unfold Dda.inject
  dsimp only
  generalize g.chan c + v = z
  by_cases hz : -32767 ≤ z ∧ z ≤ 32767
  · rw [if_pos hz, show max (-32767) (min 32767 z) = z by omega, if_pos rfl]
  · rw [if_neg hz, if_neg (by omega), show max (-32767) (min 32767 z) = if z < 0 then -32767 else 32767 by split <;> omega]
    rfl

/-- Settles O15. -/
theorem integratorWords : Obligations.IntegratorWords := by
  intro h s
  refine ⟨fun gd item cell hr => ?_, fun dom n => ⟨fun hr hk => ?_, fun hi hk => ?_⟩, fun stop run hr => ?_, fun chan src hr => ?_,
    fun gd cell => ⟨fun hr => ?_, fun hr => ?_⟩, fun gd sel => ⟨fun hr => ?_, fun hr => ?_⟩⟩
  · exact show execCellr h gd item cell s = _ from issueWord_ready hr rfl
  · exact show execStep h dom n s = _ from issueWord_ready hr (if_neg (not_not.mpr hk))
  · exact show execStep h dom n s = _ from issueWord_trap hi (if_pos hk)
  · exact show execDarun h stop run s = _ from issueWord_ready hr rfl
  · refine show execDainj h chan src s = _ from issueWord_ready hr ?_
    simp only [inject_eq]
  · exact show execDatap h gd 0 cell s = _ from issueWord_ready hr rfl
  · exact show execDatap h gd 1 cell s = _ from issueWord_ready hr rfl
  · exact show execDastat h gd 0 sel s = _ from issueWord_ready hr rfl
  · exact show execDastat h gd 1 sel s = _ from issueWord_ready hr rfl

end Sys2Proof.Laws
end

section
/-! PROOF. Capability checks, loads, stores, gathers, scatters and atomics (R273 to R283). -/
namespace Sys2Proof.Laws
open Sys2Proof.Machine

section
variable {c : Cap} {rights : List Nat} {p : Int} {size : Nat} {aligned : Bool}

theorem capCheck_tag (ht : c.tag = false) : capCheck c rights p size aligned = some .tag := by simp [capCheck, ht]
theorem capCheck_rights (ht : c.tag = true) (hr : ∃ r ∈ rights, c.has r = false) : capCheck c rights p size aligned = some .rights := by
  have : (rights.any fun r => !c.has r) = true := List.any_eq_true.mpr (hr.imp fun r h => ⟨h.1, by simp [h.2]⟩)
  simp [capCheck, ht, this]
theorem rights_held (hr : ∀ r ∈ rights, c.has r = true) : (rights.any fun r => !c.has r) = false :=
  List.any_eq_false.mpr fun r h => by simp [hr r h]
theorem capCheck_bounds (ht : c.tag = true) (hr : ∀ r ∈ rights, c.has r = true) (hb : p < 0 ∨ (c.len : Int) < p + size) :
    capCheck c rights p size aligned = some .bounds := by
  simp [capCheck, ht, rights_held hr, hb]
theorem capCheck_inside (ht : c.tag = true) (hr : ∀ r ∈ rights, c.has r = true) (h0 : 0 ≤ p) (hl : p + size ≤ (c.len : Int)) :
    capCheck c rights p size aligned = if aligned && (p.toNat + c.base * 64) % size != 0 then some .align else none := by
  have hb : ¬ (p < 0 ∨ (c.len : Int) < p + size) := by omega
  simp [capCheck, ht, rights_held hr, hb]
end

theorem not_withheld {s : State} {ord : BitVec 2} (ho : s.withheld ord = false) : ¬ s.withheld ord = true := by rw [ho]; decide

/-- Settles O16. -/
theorem checkedLoadsAndStores : Obligations.CheckedLoadsAndStores := by
  refine ⟨fun c rights p size aligned => ⟨capCheck_tag, capCheck_rights, capCheck_bounds, fun ht hr h0 hl => ⟨fun ha hm => ?_, fun ha => ?_⟩⟩,
    fun h d cn off w ord ag stor s => ⟨fun hr hc => ?_, fun cause hi hc => ?_, fun hr ho hc hf => ?_, fun cause hi ho hc => ?_,
      fun hi ho hc hf => ?_, fun hi ho => ?_⟩⟩
  · rw [capCheck_inside ht hr h0 hl, if_pos (by simp [ha, hm])]
  · rw [capCheck_inside ht hr h0 hl, if_neg (by rcases ha with ha | ha <;> simp [ha])]
  · exact show execLd h d cn off w ord ag stor s = _ from issueWord_ready hr (by dsimp only; rw [hc])
  · exact show execLd h d cn off w ord ag stor s = _ from issueWord_trap hi (by dsimp only; rw [hc])
  · refine show execSt h d cn off w ord ag stor s = _ from issueWord_ready hr ?_
    rw [if_neg (not_withheld ho)]
    cases hd : Encoding.isC d <;> simp only [hd, Bool.false_eq_true, if_false, if_true] at hc hf ⊢ <;> rw [hc] <;> dsimp only <;>
      rw [if_neg (by rw [hf]; decide)]
  · refine show execSt h d cn off w ord ag stor s = _ from issueWord_trap hi ?_
    rw [if_neg (not_withheld ho)]
    cases hd : Encoding.isC d <;> simp only [hd, Bool.false_eq_true, if_false, if_true] at hc ⊢ <;> rw [hc]
  · refine show execSt h d cn off w ord ag stor s = _ from issueWord_trap hi ?_
    rw [if_neg (not_withheld ho)]
    cases hd : Encoding.isC d <;> simp only [hd, Bool.false_eq_true, if_false, if_true] at hc hf ⊢ <;> rw [hc] <;> dsimp only <;>
      rw [if_pos hf]
  · exact show execSt h d cn off w ord ag stor s = _ from issueWord_wait hi (if_pos ho)

theorem atomicBody_passes {s popped : State} {d : Port} {cn : BitVec 5} {w : BitVec 3} {ord : BitVec 2} {ag stor : BitVec 3} {kind : AccKind}
    (hc : capCheck (s.capReg cn) (s.writeRights s.curCore (s.capReg cn) [5]) (s.capReg cn).cur (wSize w) true = none) :
    atomicBody s d cn w ord ag stor popped kind = .done (popped.enter
      { id := 0, stream := 0, kind, cap := s.capReg cn, reg := cn.toNat, ord := ord.toNat, agent := ag.toNat, stor := stor.toNat,
        pieces := [{ pos := (s.capReg cn).byte (s.capReg cn).cur, size := wSize w }], lag := 3 } w (some d)) := by
  unfold atomicBody; dsimp only; rw [hc]
theorem atomicBody_fails {s popped : State} {d : Port} {cn : BitVec 5} {w : BitVec 3} {ord : BitVec 2} {ag stor : BitVec 3} {kind : AccKind}
    {cause : CapCause}
    (hc : capCheck (s.capReg cn) (s.writeRights s.curCore (s.capReg cn) [5]) (s.capReg cn).cur (wSize w) true = some cause) :
    atomicBody s d cn w ord ag stor popped kind = .trap popped 3 (capInfo cause cn.toNat) := by
  unfold atomicBody; dsimp only; rw [hc]

/-- Settles O17. -/
theorem laneAccessesAndAtomics : Obligations.LaneAccessesAndAtomics := by
  refine ⟨fun h d cn off w ord ag stor s => ⟨fun hr hf => ⟨fun hl => ?_, fun hl => ?_⟩, fun cause hi hf => ?_, fun hr ho hf => ?_,
      fun cause hi ho hf => ?_, fun hi ho => ?_⟩,
    fun h d cn off opn w ord ag stor s => ⟨fun hr ho hc => ?_, fun hr ho hc => ?_, fun hr ho hc => ?_, fun ho i hm hi => ?_,
      fun cause ho hc => ⟨fun hi => ?_, fun hi => ?_, fun hi => ?_⟩⟩⟩
  · refine show execGath h d cn off w ord ag stor s = _ from issueWord_ready hr ?_
    change gatherFault (s.capReg cn) [0] w (gatherLanes (s.capReg cn) (s.read off).1 w) = _ at hf
    dsimp only; rw [hf]; exact if_pos (List.isEmpty_iff.mpr hl)
  · refine show execGath h d cn off w ord ag stor s = _ from issueWord_ready hr ?_
    change gatherFault (s.capReg cn) [0] w (gatherLanes (s.capReg cn) (s.read off).1 w) = _ at hf
    dsimp only; rw [hf]; exact if_neg fun he => hl (List.isEmpty_iff.mp he)
  · refine show execGath h d cn off w ord ag stor s = _ from issueWord_trap hi ?_
    change gatherFault (s.capReg cn) [0] w (gatherLanes (s.capReg cn) (s.read off).1 w) = _ at hf
    dsimp only; rw [hf]
  · refine show execScat h d cn off w ord ag stor s = _ from issueWord_ready hr ?_
    change gatherFault (s.capReg cn) (s.writeRights s.curCore (s.capReg cn) []) w
      (gatherLanes (s.capReg cn) ((s.read d).2.read off).1 w) = _ at hf
    rw [if_neg (not_withheld ho)]; dsimp only; rw [hf]; rfl
  · refine show execScat h d cn off w ord ag stor s = _ from issueWord_trap hi ?_
    change gatherFault (s.capReg cn) (s.writeRights s.curCore (s.capReg cn) []) w
      (gatherLanes (s.capReg cn) ((s.read d).2.read off).1 w) = _ at hf
    rw [if_neg (not_withheld ho)]; dsimp only; rw [hf]
  · exact show execScat h d cn off w ord ag stor s = _ from issueWord_wait hi (if_pos ho)
  · exact show execAmo h d cn opn w ord ag stor s = _ from issueWord_ready hr ((if_neg (not_withheld ho)).trans (atomicBody_passes hc))
  · exact show execAmof h d cn opn w ord ag stor s = _ from issueWord_ready hr ((if_neg (not_withheld ho)).trans (atomicBody_passes hc))
  · exact show execCas h d cn off w ord ag stor s = _ from issueWord_ready hr ((if_neg (not_withheld ho)).trans (atomicBody_passes hc))
  · simp only [List.mem_cons, List.not_mem_nil, or_false] at hm
    obtain rfl | rfl | rfl := hm
    · exact show execAmo h d cn opn w ord ag stor s = _ from issueWord_wait hi (if_pos ho)
    · exact show execAmof h d cn opn w ord ag stor s = _ from issueWord_wait hi (if_pos ho)
    · exact show execCas h d cn off w ord ag stor s = _ from issueWord_wait hi (if_pos ho)
  · exact show execAmo h d cn opn w ord ag stor s = _ from issueWord_trap hi ((if_neg (not_withheld ho)).trans (atomicBody_fails hc))
  · exact show execAmof h d cn opn w ord ag stor s = _ from issueWord_trap hi ((if_neg (not_withheld ho)).trans (atomicBody_fails hc))
  · exact show execCas h d cn off w ord ag stor s = _ from issueWord_trap hi ((if_neg (not_withheld ho)).trans (atomicBody_fails hc))
end Sys2Proof.Laws
end

section
/-! PROOF. Ordering, cache, footprint and tile words (R284 to R287, R292, R299, R308). -/
namespace Sys2Proof.Laws
open Sys2Proof.Machine

/-- A read leaves the prefetches of every core. -/
theorem read_prefs (s : State) (p : Port) (c : Nat) : ((s.read p).2.core c).prefs = (s.core c).prefs := by
  rcases read_state s p with h | ⟨n, _, h⟩ <;> rw [h]
  rcases eq_or_ne c s.curCore with rfl | hc
  · simp
  · rw [State.core_modSh_other _ _ hc]

theorem modCore_congr {s : State} {c : Nat} {f g : Core → Core} (h : f (s.core c) = g (s.core c)) : s.modCore c f = s.modCore c g := by
  unfold State.modCore; rw [h]

/-- Whether an object lies in host memory; an absent one does not. -/
def objInHost (s : State) (ctx obj : Nat) : Bool := match s.descr ctx obj with | some o => descHost o | none => false

/-- A core with its count of prefetches and their list set. -/
def withPrefs (y : Core) (n : BitVec 16) (l : List PrefToken) : Core := { y with prefCtr := n, prefs := l }

/-- PREF by whether it is tracked (R257, R286, log 25). -/
theorem pref_ready {h : Hdr} {d : Port} {cn : BitVec 5} {off : Port} {s : State} (hr : s.ready (.pref h d cn off) = true)
    (hc : capCheck (s.capReg cn) [0] (s.capReg cn).cur (s.readInt off).1.toNat false = none) :
    let cap := s.capReg cn
    let x := s.readInt off
    let ctx := (s.task s.curCore).ctx
    let token := (s.core s.curCore).prefCtr + 1
    let kept : List PrefToken :=
      if (s.core s.curCore).prefs.length < 16 ∧ objInHost s ctx cap.obj = false ∧ x.1 ≠ 0 then
        [{ token := token.toNat, ctx, obj := cap.obj, first := cap.byte cap.cur, len := x.1.toNat }]
      else []
    let counted := x.2.modCore s.curCore fun y => { y with prefCtr := token, prefs := (s.core s.curCore).prefs ++ kept }
    let sent := if kept = [] then counted else counted.enter { id := 0, stream := 0, kind := .prefetch token.toNat, cap, reg := cn.toNat,
                                                               pieces := [{ pos := cap.byte cap.cur, size := x.1.toNat }] } 0 none
    exec (.pref h d cn off) s = .next (s.after (sent.deliverTo 15 1 d (token.setWidth 1024))) := by
  refine show execPref h d cn off s = _ from issueWord_ready hr ?_
  have hp : ((s.readInt off).2.core s.curCore).prefs = (s.core s.curCore).prefs := read_prefs s off s.curCore
  dsimp only
  rw [hc]
  refine congrArg (fun u : State => Out.done (u.deliverTo 15 1 d _)) ?_
  by_cases hk : (s.core s.curCore).prefs.length < 16 ∧ objInHost s (s.task s.curCore).ctx (s.capReg cn).obj = false ∧ (s.readInt off).1 ≠ 0
  · have ht : (decide ((s.core s.curCore).prefs.length < 16) && !objInHost s (s.task s.curCore).ctx (s.capReg cn).obj &&
        (s.readInt off).1 != 0) = true := by
      rw [hk.2.1, decide_eq_true hk.1, bne_iff_ne.mpr hk.2.2]; rfl
    rw [if_pos hk, if_neg (List.cons_ne_nil _ _)]
    refine (if_pos ht).trans (congrArg (State.enter · _ _ _) (modCore_congr ?_))
    exact congrArg (withPrefs _ _) ((if_pos ht).trans (congrArg (· ++ _) hp))
  · have ht : ¬ (decide ((s.core s.curCore).prefs.length < 16) && !objInHost s (s.task s.curCore).ctx (s.capReg cn).obj &&
        (s.readInt off).1 != 0) = true := by simpa [and_assoc] using hk
    rw [if_neg hk, if_pos rfl]
    refine (if_neg ht).trans (modCore_congr ?_)
    exact congrArg (withPrefs _ _) ((if_neg ht).trans (hp.trans (List.append_nil _).symm))

theorem cacheBody_passes {s : State} {cn : BitVec 5} {off : Port} {right : Nat} {kind : AccKind}
    (hc : capCheck (s.capReg cn) [right] (s.capReg cn).cur (s.readInt off).1.toNat false = none) :
    cacheBody s cn off right kind = .done (if (s.readInt off).1 = 0 then (s.readInt off).2 else (s.readInt off).2.enter
      { id := 0, stream := 0, kind, cap := s.capReg cn, reg := cn.toNat,
        pieces := [{ pos := (s.capReg cn).byte (s.capReg cn).cur, size := (s.readInt off).1.toNat }] } 0 none) := by
  unfold cacheBody; dsimp only; rw [hc]; exact (apply_ite Out.done _ _ _).symm
theorem cacheBody_fails {s : State} {cn : BitVec 5} {off : Port} {right : Nat} {kind : AccKind} {cause : CapCause}
    (hc : capCheck (s.capReg cn) [right] (s.capReg cn).cur (s.readInt off).1.toNat false = some cause) :
    cacheBody s cn off right kind = .trap (s.readInt off).2 3 (capInfo cause cn.toNat) := by
  unfold cacheBody; dsimp only; rw [hc]

theorem any_token_iff {l : List PrefToken} {n : Nat} : (l.any fun t => t.token == n) = true ↔ ∃ t ∈ l, t.token = n := by
  simp [List.any_eq_true]

/-- Settles O18. -/
theorem orderingCacheAndTileWords : Obligations.OrderingCacheAndTileWords := by
  refine ⟨fun h s => ⟨fun ord ag stor hr ho => ?_, fun ord ag stor hi ho => ?_, fun ag stor hr => ?_,
      fun cn off => ⟨fun hr hc => ?_, fun hr hc => ?_, fun cause hi hc => ?_, fun cause hi hc => ?_⟩,
      fun d cn off => ⟨fun hr hc => ?_, fun cause hi hc => ?_⟩, fun d a => ⟨fun hr hp => ?_, fun hi hp => ?_⟩,
      fun cn src acc => ⟨fun hr hl hc => ?_, fun hi hl => ?_, fun cause hi hl hc => ?_⟩⟩,
    fun h hn gc d w s => ⟨fun hb => ⟨fun off hr ht => ?_, fun cause hi ht => ?_, fun off hr ht => ?_, fun cause hi ht => ?_⟩,
      fun desc hb hd => ⟨fun off hr ht => ?_, fun off hr ht => ?_, fun cause ht hi => ?_, fun cause ht hi => ?_⟩⟩⟩
  · exact show execFence h ord ag stor s = _ from issueWord_ready hr (if_neg (not_withheld ho))
  · exact show execFence h ord ag stor s = _ from issueWord_wait hi (if_pos ho)
  · exact show execMark h ag stor s = _ from issueWord_ready hr rfl
  · exact show execCflush h cn off s = _ from issueWord_ready hr (cacheBody_passes hc)
  · exact show execCinv h cn off s = _ from issueWord_ready hr (cacheBody_passes hc)
  · exact show execCflush h cn off s = _ from issueWord_trap hi (cacheBody_fails hc)
  · exact show execCinv h cn off s = _ from issueWord_trap hi (cacheBody_fails hc)
  · exact pref_ready hr hc
  · exact show execPref h d cn off s = _ from issueWord_trap hi (by dsimp only; rw [hc])
  · exact show execPrefw h d a s = _ from issueWord_ready hr (if_neg fun ha => by
      obtain ⟨t, ht, he⟩ := any_token_iff.mp ha; exact hp t ht he)
  · exact show execPrefw h d a s = _ from issueWord_wait hi (if_pos (any_token_iff.mpr hp))
  · exact show execFoot h cn src acc s = _ from issueWord_ready hr ((if_neg (Nat.not_le.mpr hl)).trans (by dsimp only; rw [hc]))
  · exact show execFoot h cn src acc s = _ from issueWord_trap hi (if_pos hl)
  · exact show execFoot h cn src acc s = _ from issueWord_trap hi ((if_neg (Nat.not_le.mpr hl)).trans (by dsimp only; rw [hc]))
  · change tilePlace ((s.soc s.curCore).handle hn.toNat).desc _ _ _ = _ at ht
    exact show execLdt h hn gc d w s = _ from issueWord_ready hr ((if_neg (by rw [hb]; decide)).trans (by dsimp only; rw [ht]; rfl))
  · change tilePlace ((s.soc s.curCore).handle hn.toNat).desc _ _ _ = _ at ht
    exact show execLdt h hn gc d w s = _ from issueWord_trap hi ((if_neg (by rw [hb]; decide)).trans (by dsimp only; rw [ht]))
  · change tilePlace ((s.soc s.curCore).handle hn.toNat).desc _ _ _ = _ at ht
    exact show execStt h hn gc d w s = _ from issueWord_ready hr ((if_neg (by rw [hb]; decide)).trans (by dsimp only; rw [ht]; rfl))
  · change tilePlace ((s.soc s.curCore).handle hn.toNat).desc _ _ _ = _ at ht
    exact show execStt h hn gc d w s = _ from issueWord_trap hi ((if_neg (by rw [hb]; decide)).trans (by dsimp only; rw [ht]))
  · exact show execLdt h hn gc d w s = _ from issueWord_ready hr ((if_pos hb).trans (by rw [hd]; dsimp only; rw [ht]))
  · exact show execStt h hn gc d w s = _ from issueWord_ready hr ((if_pos hb).trans (by rw [hd]; dsimp only; rw [ht]))
  · exact show execLdt h hn gc d w s = _ from issueWord_trap hi ((if_pos hb).trans (by rw [hd]; dsimp only; rw [ht]))
  · exact show execStt h hn gc d w s = _ from issueWord_trap hi ((if_pos hb).trans (by rw [hd]; dsimp only; rw [ht]))
end Sys2Proof.Laws
end

section
/-! PROOF. Handles, pool roles, and commands on tags (R239 to R243, R246, R289 to R291, R294 to R299). -/
namespace Sys2Proof.Laws
open Sys2Proof.Machine

theorem slice_high_eq_zero_iff (x : Word) : slice x.toNat 32 32 = 0 ↔ x.toNat < 2 ^ 32 := by
  have := x.isLt
  simp only [slice]; omega

theorem share_now (s : State) (f : Shared → Shared) : (s.share f).now = f s.now := by
  simp [State.share, State.now, State.sh]
/-- Reading a port leaves the pool's roles. -/
theorem read_now_pool (s : State) (p : Port) : (s.read p).2.now.pool = s.now.pool := by
  rcases read_state s p with h | ⟨n, _, h⟩ <;> rw [h]
  simp [State.now, State.sh, Shared.setQueue]

/-- Settles O19. -/
theorem handleAndPoolWords : Obligations.HandleAndPoolWords := by
  intro h gd hn src s
  refine ⟨fun hr hl => ?_, fun hi hl => ?_, fun hr => ?_, fun hr => ?_, fun hr hn' => ?_, fun hi hn' => ?_, fun hr => ?_, fun hr => ?_⟩
  · exact show execTalloc h gd hn src s = _ from issueWord_ready hr (if_neg (by simp [hl]))
  · exact show execTalloc h gd hn src s = _ from issueWord_trap hi (if_pos (by simp [hl]))
  · exact show execTfree h hn s = _ from issueWord_ready hr rfl
  · exact show execTinfo h gd hn s = _ from issueWord_ready hr rfl
  · refine show execPoolset h gd src s = _ from issueWord_ready hr ((if_neg (not_not.mpr ((slice_high_eq_zero_iff _).mpr hn'))).trans ?_)
    dsimp only
    rw [share_now, show (s.readInt src).2.now.pool = s.now.pool from read_now_pool s src]
  · exact show execPoolset h gd src s = _ from issueWord_trap hi (if_pos fun h0 => Nat.not_lt.mpr hn' ((slice_high_eq_zero_iff _).mp h0))
  · exact show execPoolqOcc h gd s = _ from issueWord_ready hr rfl
  · exact show execPoolqTkt h gd src s = _ from issueWord_ready hr rfl

section
variable {i : Instr} {op : BitVec 8} {tag : BitVec 6} {hs : List Nat} {src : State → Vec × State} {s : State}

/-- A command on a tag that has room enters CP's queue, and the tag counts it (R294). -/
theorem tagCommand_ready {takesList : Bool} (hr : s.ready i = true) (ht : s.takesCommand [4] = true) (hroom : s.now.tagCount tag.toNat < 255)
    (ho : ∀ e, (src s).2.now.compRec e = s.now.compRec e) :
    tagCommand i op tag hs takesList src s =
      let t := ((src s).2.commanded [(4, { s.commandOf i (src s).1 hs with foot := if takesList then s.own.foot else [] })]).share
        fun y => y.tagStart tag.toNat
      .next (s.after (if takesList then t.modStream s.curCore s.curStream fun u => { u with foot := [] } else t)) := by
  refine commandWord_ready hr ht ((if_neg (Nat.not_le.mpr hroom)).trans ?_)
  dsimp only
  rw [sendCommands_done fun x hx => by
    rw [List.mem_singleton] at hx; subst hx; rw [ho]; exact takesCommand_out ht (List.mem_singleton_self 4)]
  rfl

/-- The 256th command on a tag is an illegal instruction (R294). -/
theorem tagCommand_full {takesList : Bool} (hi : s.issues i = true) (ht : s.takesCommand [4] = true) (hroom : ¬ s.now.tagCount tag.toNat < 255) :
    tagCommand i op tag hs takesList src s = .next ((src s).2.takeFault s.curCore (some s.curStream) 1 (illegalInfo op) false) :=
  commandWord_trap hi ht (if_pos (Nat.not_lt.mp hroom))
end

/-- The first set bit of a word, and 64 where there is none. -/
theorem find_firstSet (x : Word) : ((List.range 64).find? fun i => x.getLsbD i).getD 64 =
    ((List.range 64).takeWhile fun j => !x.getLsbD j).length := firstSet_eq 64 x.toNat

/-- Settles O20. -/
theorem tagCommandsAndTagWaits : Obligations.TagCommandsAndTagWaits := by
  refine ⟨fun h tag s => ⟨fun dk dst src sk sn => ⟨fun hr ht hroom => ?_, fun hi ht hroom => ?_⟩,
      fun hn => ⟨fun hr ht hroom => ?_, fun hi ht hroom => ?_⟩,
      fun hn => ⟨fun hr ht hroom => ?_, fun hi ht hroom => ?_, fun hr ht hroom => ?_, fun hi ht hroom => ?_⟩⟩,
    fun h gd src s => ⟨fun hr hm => ?_, fun hi h0 hm => ?_, fun hi h0 => ?_, fun hr hm => ?_, fun hi hm => ?_, fun hr => ?_, fun hr => ?_⟩⟩
  · exact show execCopy h tag dk dst src sk sn s = _ from tagCommand_ready hr ht hroom (read_now_compRec s src)
  · exact show execCopy h tag dk dst src sk sn s = _ from tagCommand_full hi ht hroom
  · exact show execCopyp h tag hn s = _ from tagCommand_ready hr ht hroom fun _ => rfl
  · exact show execCopyp h tag hn s = _ from tagCommand_full hi ht hroom
  · exact show execJob h tag hn s = _ from tagCommand_ready hr ht hroom fun _ => rfl
  · exact show execJob h tag hn s = _ from tagCommand_full hi ht hroom
  · exact show execNear h tag hn s = _ from tagCommand_ready hr ht hroom fun _ => rfl
  · exact show execNear h tag hn s = _ from tagCommand_full hi ht hroom
  · refine show execTwaitany h gd src s = _ from issueWord_ready hr ((if_neg fun h0 => hm ?_).trans (if_neg hm))
    rw [h0]; exact BitVec.and_zero
  · exact show execTwaitany h gd src s = _ from issueWord_wait hi ((if_neg h0).trans (if_pos hm))
  · exact show execTwaitany h gd src s = _ from issueWord_trap hi (if_pos h0)
  · exact show execTwaitall h src s = _ from issueWord_ready hr (if_pos hm)
  · exact show execTwaitall h src s = _ from issueWord_wait hi (if_neg hm)
  · refine show execTffr h gd src s = _ from issueWord_ready hr ?_
    dsimp only; rw [find_firstSet]
  · exact show execTclr h src s = _ from issueWord_ready hr rfl
end Sys2Proof.Laws
end

section
/-! PROOF. Queue, event and barrier words, and the words of sensors, time and roll-call (R249, R314 to R341). -/
namespace Sys2Proof.Laws
open Sys2Proof.Machine

theorem read_seq (s : State) (p : Port) : (s.read p).2.seq = s.seq := by
  rcases read_state s p with h | ⟨n, _, h⟩ <;> rw [h]
  rfl

theorem testBit_low {m : Word} {k : Nat} (hk : k < 32) : (m.toNat % 2 ^ 32).testBit k = m.getLsbD k := by
  rw [Nat.testBit_mod_two_pow, decide_eq_true hk, Bool.true_and]; rfl

section
variable {h : Hdr} {gd : BitVec 6} {src : Port} {s : State}

/-- The events of AWAITN's mask with a count, lowest first (R326). -/
theorem awaitn_find_some {m : Word} {x : Shared} {k : Nat} (hk : k < 32) (hm : m.getLsbD k = true) (hc : (x.event k).count ≠ 0)
    (hl : ∀ j < k, m.getLsbD j = true → (x.event j).count = 0) :
    (List.range 32).find? (fun e => (m.toNat % 2 ^ 32).testBit e && (x.event e).count != 0) = some k := by
  rw [List.find?_range_eq_some]
  refine ⟨by rw [testBit_low hk, hm]; simpa using hc, List.mem_range.mpr hk, fun j hj => ?_⟩
  rw [testBit_low (by omega)]
  cases hb : m.getLsbD j
  · rfl
  · simp [hl j hj hb]

theorem awaitn_find_none {m : Word} {x : Shared} (hl : ∀ j < 32, m.getLsbD j = true → (x.event j).count = 0) :
    (List.range 32).find? (fun e => (m.toNat % 2 ^ 32).testBit e && (x.event e).count != 0) = none := by
  rw [List.find?_eq_none]
  intro j hj
  have hj := List.mem_range.mp hj
  rw [testBit_low hj]
  cases hb : m.getLsbD j
  · simp
  · simp [hl j hj hb]

theorem awaitn_mask_ne {m : Word} {k : Nat} (hk : k < 32) (hm : m.getLsbD k = true) : m.toNat % 2 ^ 32 ≠ 0 := fun h0 => by
  rw [← testBit_low hk, h0, Nat.zero_testBit] at hm
  exact Bool.false_ne_true hm
end

theorem withheld_release (s : State) : s.withheld 2 = (s.task s.curCore).spec := Bool.true_and _

/-- Settles O21. -/
theorem queueEventAndBarrierWords : Obligations.QueueEventAndBarrierWords := by
  refine ⟨fun h n ag stor s => ⟨fun src => ⟨fun hr hs hf ha => ?_, fun hr hs hf ha => ?_, fun hi hb => ?_⟩,
      fun d => ⟨fun hr hq => ?_, fun hi hq => ?_⟩, fun d => ⟨fun hr => ?_, fun hr => ?_⟩, fun gd => ⟨fun hr => ?_, fun hr => ?_⟩⟩,
    fun h en n s => ⟨fun hr => ?_, fun hr hc => ?_, fun hi hc => ?_,
      fun gd src k => ⟨fun hr hk hm hc hl => ?_, fun hi hm hl => ?_, fun hi hm => ?_⟩,
      fun bid mask => ⟨fun hr hl => ?_, fun hi hl ha hm hf => ?_, fun hi hl ha => ?_, fun hi hl ha hm => ?_⟩⟩⟩
  · refine show execPush h n src ag stor s = _ from issueWord_ready hr ((if_neg ?_).trans (if_pos ha))
    rw [withheld_release, hs, hf]; decide
  · refine show execPush h n src ag stor s = _ from issueWord_ready hr (((if_neg ?_).trans (if_neg ha)).trans ?_)
    · rw [withheld_release, hs, hf]; decide
    · dsimp only; rw [read_seq]
  · refine show execPush h n src ag stor s = _ from issueWord_wait hi (if_pos ?_)
    rw [withheld_release]; rcases hb with hb | hb <;> simp [hb]
  · exact show execPop h n d ag stor s = _ from issueWord_ready hr (if_neg hq)
  · exact show execPop h n d ag stor s = _ from issueWord_wait hi (if_pos hq)
  · exact show execQstatQ h d n s = _ from issueWord_ready hr rfl
  · exact show execQstatE h d n s = _ from issueWord_ready hr rfl
  · exact show execQdrainQ h gd n s = _ from issueWord_ready hr rfl
  · exact show execQdrainE h gd n s = _ from issueWord_ready hr rfl
  · exact show execPost h en n s = _ from issueWord_ready hr rfl
  · exact show execAwait h en n s = _ from issueWord_ready hr (if_neg (Nat.not_lt.mpr hc))
  · exact show execAwait h en n s = _ from issueWord_wait hi (if_pos hc)
  · refine show execAwaitn h gd src s = _ from issueWord_ready hr ((if_neg (awaitn_mask_ne hk hm)).trans ?_)
    rw [awaitn_find_some hk hm hc hl]; rfl
  · refine show execAwaitn h gd src s = _ from issueWord_wait hi ((if_neg hm).trans ?_)
    rw [awaitn_find_none hl]
  · exact show execAwaitn h gd src s = _ from issueWord_trap hi (if_pos hm)
  · exact show execBar h bid mask s = _ from issueWord_ready hr (if_pos hl)
  · refine show execBar h bid mask s = _ from issueWord_wait hi ((if_neg (not_not.mpr hl)).trans ((if_neg (not_not.mpr ha)).trans
      (if_neg ?_)))
    rintro (h0 | ⟨h0, h1⟩)
    · exact hm h0
    · exact hf.elim h0 h1
  · exact show execBar h bid mask s = _ from issueWord_wait hi ((if_neg (not_not.mpr hl)).trans (if_pos ha))
  · exact show execBar h bid mask s = _ from
      issueWord_trap hi ((if_neg (not_not.mpr hl)).trans ((if_neg (not_not.mpr ha)).trans (if_pos hm)))

theorem flagBits_three (a b c : Bool) : flagBits [a, b, c] = b2n a + 2 * b2n b + 4 * b2n c := by
  cases a <;> cases b <;> cases c <;> rfl

/-- Settles O22. -/
theorem sensorAndTimeWords : Obligations.SensorAndTimeWords := by
  intro h gd sn s
  have may : ∀ {b : Bool}, b = true → ¬ (!b) = true := fun hb => by rw [hb]; decide
  have mayNot : ∀ {b : Bool}, b = false → (!b) = true := fun hb => by rw [hb]; rfl
  refine ⟨fun hr hm => ?_, fun hr hm => ?_, fun hr hm => ?_, fun hm => ⟨fun hi => ?_, fun hi => ?_, fun hi => ?_⟩,
    fun src h0 => ⟨fun hr hm hp => ?_, fun hi hm hp => ?_, fun hi hm => ?_, fun hn => ⟨fun hr hm => ?_, fun hi hm => ?_⟩⟩,
    fun d => ⟨fun hr => ?_, fun hr => ?_⟩⟩
  · exact show execRowget h gd sn s = _ from issueWord_ready hr (if_neg (may hm))
  · exact show execFrmgetCnt h gd sn s = _ from issueWord_ready hr (if_neg (may hm))
  · exact show execFrmgetStamp h gd sn s = _ from issueWord_ready hr (if_neg (may hm))
  · exact show execRowget h gd sn s = _ from issueWord_trap hi (if_pos (mayNot hm))
  · exact show execFrmgetCnt h gd sn s = _ from issueWord_trap hi (if_pos (mayNot hm))
  · exact show execFrmgetStamp h gd sn s = _ from issueWord_trap hi (if_pos (mayNot hm))
  · exact show execRowwait h sn src s = _ from
      issueWord_ready hr ((if_neg (not_not.mpr h0)).trans ((if_neg (may hm)).trans (if_pos hp)))
  · exact show execRowwait h sn src s = _ from
      issueWord_wait hi ((if_neg (not_not.mpr h0)).trans ((if_neg (may hm)).trans (if_neg (by rw [hp]; decide))))
  · exact show execRowwait h sn src s = _ from issueWord_trap hi ((if_neg (not_not.mpr h0)).trans (if_pos (mayNot hm)))
  · exact show execStbind h hn sn src gd s = _ from issueWord_ready hr ((if_neg (not_not.mpr h0)).trans (if_neg (may hm)))
  · exact show execStbind h hn sn src gd s = _ from issueWord_trap hi ((if_neg (not_not.mpr h0)).trans (if_pos (mayNot hm)))
  · exact show execTimeget h d s = _ from issueWord_ready hr rfl
  · refine show execTimegetSt h d s = _ from issueWord_ready hr ?_
    rw [flagBits_three]

/-- A state whose group 0 has bound a set to a task and has no record to land. -/
def groupThatGave : State := State.reset.modGroup 0 fun g => { g with given := [{ stream := 0, frame := 0, tile := 0, slot := 0 }] }

/-- Refutes O23: a group without a coming record is not left as it is at the end of a cycle where it has given a set. -/
theorem not_rollCallWords : ¬ Obligations.RollCallWords := by
  intro h
  have := (((h ⟨0, 0, 0, 63⟩ 0 0 0 groupThatGave).1 0).2.1.1 rfl)
  have := congrArg (fun g => g.given.length) this
  revert this; decide
end Sys2Proof.Laws
end

section
/-! PROOF. Loops, rotation, forks, joins, and the words that start, end and sleep (R38, R400 to R409, R416). -/
namespace Sys2Proof.Laws
open Sys2Proof.Machine

/-- A word that issues and whose body ends its stream stays at its own index (R38, R407). -/
theorem issueWord_ending {i : Instr} {s u : State} {body : State → Out} (h : s.issues i = true) (hb : body s = .done u)
    (hu : (u.stream s.curCore s.curStream).ending = true) :
    issueWord i s body = .next (u.retire s.curCore s.curStream s.own.pc false) := by
  simp only [State.issues, State.encodes, State.guarded, Bool.and_eq_true] at h
  obtain ⟨⟨⟨he, hg⟩, hp⟩, hl⟩ := h
  rw [Option.isNone_iff_eq_none] at hl
  cases hh : Encoding.hdr i with
  | none => simp [hh] at he
  | some x =>
    simp only [hh] at he hg
    have he' : encodingFault (portFile s s.curCore s.curStream) s.curStream i x = none := by simpa using he
    simp only [State.own] at hg ⊢
    have hp' : portsBlocked (s.sh s.curCore) i = false := by simpa [State.now] using hp
    simp [issueWord, hh, he', hg, hp', hl, hb, finishWord, hu]

theorem modOwn_own (s : State) (f : Stream → Stream) : ((s.modOwn f).stream s.curCore s.curStream) = f s.own := by
  simp [State.modOwn, State.own]

/-- What LCLOSE leaves (R50, R400). -/
def closed (s : State) (n : BitVec 2) : State :=
  let counted := s.deliverTo 15 1 (BitVec.ofNat 11 (0x2C4 + n.toNat)) (BitVec.ofNat 1024 ((tabGet 0 s.own.lc n.toNat).toNat - 1))
  if s.curStream < 4 then counted.modOwn Stream.rotate else counted

/-- Settles O25. -/
theorem loopsAndRotation : Obligations.LoopsAndRotation := by
  intro h n disp s
  refine ⟨fun hr hl => ?_, fun hi hl hn => ?_, fun hi hl hn => ?_, ⟨fun hr hl => ?_, fun hi hl hn => ?_, fun hi hl hn => ?_⟩,
    fun a b ek ev => ⟨fun hr hx hy => ?_, fun hi hxy => ?_⟩⟩
  · exact show execLoop h n disp s = _ from issueWord_ready hr (if_neg hl)
  · exact show execLoop h n disp s = _ from issueWord_goto hi (if_pos hl) hn
  · exact show execLoop h n disp s = _ from issueWord_astray hi (if_pos hl) hn
  · exact show execLclose h n disp s = _ from issueWord_ready (u := closed s n) hr (if_neg (by omega))
  · exact show execLclose h n disp s = _ from issueWord_goto (u := closed s n) hi (if_pos (by omega)) hn
  · exact show execLclose h n disp s = _ from issueWord_astray (u := closed s n) hi (if_pos (by omega)) hn
  · exact show execRrbset h a b ek ev s = _ from issueWord_ready hr (if_neg (by rintro (h | h) <;> omega))
  · exact show execRrbset h a b ek ev s = _ from issueWord_trap hi (if_pos hxy)

theorem share_stream (s : State) (f : Shared → Shared) (n : Nat) : (s.share f).stream s.curCore n = s.stream s.curCore n := by
  simp [State.share, State.stream, Core.stream]

theorem join_notHalted {l : List Nat} {s : State} {f : Shared → Shared} :
    (l.all fun m => !((s.share f).stream s.curCore m).halted) = true ↔ ∀ m ∈ l, (s.stream s.curCore m).halted = false := by
  simp only [share_stream, List.all_eq_true, Bool.not_eq_true']

/-- What a JOIN's mask must be (R404). -/
theorem joinMask_fits {mask own m : BitVec 4} :
    ¬ (mask &&& own = 0 ∨ (m ≠ 0 ∧ m ≠ mask)) ↔ mask &&& own ≠ 0 ∧ (m = 0 ∨ m = mask) := by
  rw [not_or, not_and_or, not_not, not_not]

/-- Settles O26. -/
theorem forkJoinStartAndEndWords : Obligations.ForkJoinStartAndEndWords := by
  refine ⟨fun h cc mask s => ⟨fun hr => ?_, fun hr hl => ?_, fun hr hl ha hg => ?_, fun hi hl ha hg => ?_, fun hr hl ha hf hfull => ?_,
      fun hi hl ha hf hfull => ?_, fun hi hl ha hf => ?_, fun hr => ?_, fun hr => ?_, fun val => ⟨fun hr hv => ?_, fun hi hv => ?_⟩⟩,
    fun h s => ⟨fun hr hl => ?_, fun hr hl ha hg => ?_, fun hi hl ha hg => ?_, fun hr hl ha ho => ?_, fun hi hl ha ho => ?_, fun hi => ?_,
      fun hi => ?_, fun hr => ?_, fun en => ⟨fun hi ht => ?_, fun hi ha hw => ?_, fun hi ha hw hc => ?_, fun hr ha hw hc => ?_⟩⟩⟩
  · exact show execFork h s = _ from issueWord_ready hr rfl
  · exact show execJoinCc h cc mask s = _ from issueWord_ready hr (if_pos hl)
  · exact show execJoinCc h cc mask s = _ from issueWord_ready hr ((if_neg (not_not.mpr hl)).trans ((if_pos ha).trans (if_pos hg)))
  · exact show execJoinCc h cc mask s = _ from issueWord_wait hi ((if_neg (not_not.mpr hl)).trans ((if_pos ha).trans (if_neg hg)))
  · exact show execJoinCc h cc mask s = _ from issueWord_ready hr ((if_neg (not_not.mpr hl)).trans ((if_neg (not_not.mpr ha)).trans
      ((if_neg (joinMask_fits.mpr hf)).trans (if_pos ⟨hfull.1, join_notHalted.mpr hfull.2⟩))))
  · exact show execJoinCc h cc mask s = _ from issueWord_wait hi ((if_neg (not_not.mpr hl)).trans ((if_neg (not_not.mpr ha)).trans
      ((if_neg (joinMask_fits.mpr hf)).trans (if_neg fun hw => hfull ⟨hw.1, join_notHalted.mp hw.2⟩))))
  · exact show execJoinCc h cc mask s = _ from issueWord_trap hi ((if_neg (not_not.mpr hl)).trans ((if_neg (not_not.mpr ha)).trans
      (if_pos (not_not.mp (mt joinMask_fits.mp hf)))))
  · exact show execCcset h 0 cc s = _ from issueWord_ready hr (if_pos rfl)
  · exact show execCcset h 1 cc s = _ from issueWord_ready hr (if_neg (by decide))
  · exact show execCcwait h val cc s = _ from issueWord_ready hr (if_pos hv)
  · exact show execCcwait h val cc s = _ from issueWord_wait hi (if_neg hv)
  · exact show execStart h s = _ from issueWord_ready hr (if_pos hl)
  · exact show execStart h s = _ from issueWord_ready hr ((if_neg (not_not.mpr hl)).trans ((if_pos ha).trans (if_pos hg)))
  · exact show execStart h s = _ from
      issueWord_wait hi ((if_neg (not_not.mpr hl)).trans ((if_pos ha).trans (if_neg (Bool.not_eq_true _ ▸ hg))))
  · exact show execStart h s = _ from
      issueWord_ready hr ((if_neg (not_not.mpr hl)).trans ((if_neg (Bool.not_eq_true _ ▸ ha)).trans (if_pos ho)))
  · exact show execStart h s = _ from
      issueWord_wait hi ((if_neg (not_not.mpr hl)).trans ((if_neg (Bool.not_eq_true _ ▸ ha)).trans (if_neg (Bool.not_eq_true _ ▸ ho))))
  · exact show execEndStream h s = _ from issueWord_ending hi rfl (congrArg Stream.ending (modOwn_own s _))
  · exact show execTdone h s = _ from issueWord_ending hi rfl (congrArg Stream.ending (modOwn_own (s.modCur _) _))
  · exact show execYieldCore h s = _ from issueWord_ready hr rfl
  · exact show execSleep h en s = _ from issueWord_wait hi ((if_pos ht).trans (by split <;> rfl))
  · exact show execSleep h en s = _ from issueWord_wait hi ((if_neg (by simp [ha]; omega)).trans (if_pos (by omega)))
  · exact show execSleep h en s = _ from
      issueWord_wait hi ((if_neg (by simp [ha, hw])).trans ((if_neg (by simp [hw])).trans (if_pos hc)))
  · exact show execSleep h en s = _ from
      issueWord_ready hr ((if_neg (by simp [ha, hw])).trans ((if_neg (by simp [hw])).trans (if_neg hc)))

end Sys2Proof.Laws
end

section
/-! PROOF. SPAWN and the placement of its descriptor (R52, R360, R411), and DECIDE and TWAIT (R414, R415). -/
namespace Sys2Proof.Laws
open Sys2Proof.Machine

section
variable (s : State) (die ctx : Nat) (d : BitVec 256)

/-- Whether the descriptor goes to its die's queue. -/
def onChip : Bool :=
  let hasObj := (s.descr ctx (s.ovfObj ctx)).isSome && s.ovfObj ctx != 0
  let free := 4096 - ((s.die die).queue.length + (s.die die).freed)
  !(hasObj && (s.ovfHeld ctx).any fun x => x.1 == die && sameLane d x.2) && (256 < free || (chCrit d && 0 < free))

theorem placeCode_eq : s.placeCode die ctx d = if onChip s die ctx d then 0 else
    if ((s.descr ctx (s.ovfObj ctx)).isSome && s.ovfObj ctx != 0) && (s.ovfHeld ctx).length + (s.ctx ctx).ovfFreed < s.ovfCap ctx then 1
    else 2 := rfl

theorem onChip_iff : onChip s die ctx d = true ↔
    (((s.descr ctx (s.ovfObj ctx)).isSome && s.ovfObj ctx != 0) = false ∨ ∀ x ∈ s.ovfHeld ctx, x.1 = die → sameLane d x.2 = false) ∧
    ((s.die die).queue.length + (s.die die).freed + 256 < 4096 ∨
      (chCrit d = true ∧ (s.die die).queue.length + (s.die die).freed < 4096)) := by
  unfold onChip
  dsimp only
  generalize ((s.descr ctx (s.ovfObj ctx)).isSome && s.ovfObj ctx != 0) = o
  generalize (s.die die).queue.length + (s.die die).freed = n
  rw [Bool.and_eq_true]
  refine and_congr ?_ ?_
  · cases o <;> simp
  · cases chCrit d <;> simp <;> omega
end

theorem die_modDie (s : State) (d : Nat) (f : Die → Die) : (s.modDie d f).die d = f (s.die d) := tabGet_put_same _ _ _ _
theorem launch_modLaunch (s : State) (l : Nat) (f : Launch → Launch) : (s.modLaunch l f).launch l = f (s.launch l) :=
  tabGet_put_same _ _ _ _
theorem ctx_modCtx (s : State) (c : Nat) (f : Context → Context) : (s.modCtx c f).ctx c = f (s.ctx c) := tabGet_put_same _ _ _ _

/-- SPAWN's descriptor with the device's own fields. -/
def marked (s : State) (c : Nat) (d : BitVec 256) : BitVec 256 :=
  chMark d (s.task c).ctx (s.task c).spec (if (s.task c).spec then (s.task c).slot else 0) (if (s.task c).spec then (s.task c).succ else 0)

theorem placeChild_onChip (s : State) (c : Nat) (d : BitVec 256) :
    ((s.placeChild c d 0).die (dieOf c)).queue.length = (s.die (dieOf c)).queue.length + 1 ∧
    ((s.placeChild c d 0).launch (chLid d)).remain = (s.launch (chLid d)).remain + 1 := by
  have hd : (s.placeChild c d 0).die (dieOf c) = (s.modDie (dieOf c) fun y =>
    { y with queue := y.queue ++ [{ Child.ofDesc (marked s c d) with published := false, id := s.seq }] }).die (dieOf c) := rfl
  have hl : (s.placeChild c d 0).launch (chLid d) =
    (s.modLaunch (chLid d) fun l => { l with remain := l.remain + 1 }).launch (chLid d) := rfl
  rw [hd, die_modDie, hl, launch_modLaunch]
  exact ⟨List.length_append, rfl⟩
theorem placeChild_overflow (s : State) (c : Nat) (d : BitVec 256) :
    ((s.placeChild c d 1).die (dieOf c)).queue = (s.die (dieOf c)).queue ∧
    ((s.placeChild c d 1).ctx (s.task c).ctx).ovfComing.length = (s.ctx (s.task c).ctx).ovfComing.length + 1 := by
  have hc : (s.placeChild c d 1).ctx (s.task c).ctx =
    (s.modCtx (s.task c).ctx fun k => { k with ovfComing := k.ovfComing ++ [(dieOf c, marked s c d)] }).ctx (s.task c).ctx := rfl
  rw [hc, ctx_modCtx]
  exact ⟨rfl, List.length_append⟩

/-- Settles O27. -/
theorem spawnWordAndPlacement : Obligations.SpawnWordAndPlacement := by
  refine ⟨fun s die ctx d => ⟨?_, ?_, fun c => ⟨(placeChild_onChip s c d).1, (placeChild_onChip s c d).2, placeChild_overflow s c d⟩⟩,
    fun h gd src s => ⟨fun hi hf hl => ?_, fun hi hf hl hx => ?_, fun hi hf hl ha hc hp hx => ?_, fun hr hf hl ha hc hx => ?_,
      fun hi hs => ?_⟩⟩
  · rw [← onChip_iff, placeCode_eq]; split
    · simp [*]
    · split <;> simp [*]
  · rw [← onChip_iff, placeCode_eq]; split
    · simp [*]
    · split <;> simp_all
  · exact show execSpawn h gd src s = _ from issueWord_trap hi ((if_neg (by rw [withheld_release, hf]; decide)).trans
      (if_pos (by rw [hl]; rfl)))
  · exact show execSpawn h gd src s = _ from issueWord_trap hi ((if_neg (by rw [withheld_release, hf]; decide)).trans
      ((if_neg (by rw [hl]; decide)).trans (if_pos (hx.imp (fun h => by rw [h]; rfl) id))))
  · exact show execSpawn h gd src s = _ from issueWord_trap hi ((if_neg (by rw [withheld_release, hf]; decide)).trans
      ((if_neg (by rw [hl]; decide)).trans ((if_neg (by simp [ha, hc])).trans (if_pos ⟨hp, by rw [hx]; rfl⟩))))
  · exact show execSpawn h gd src s = _ from issueWord_ready hr ((if_neg (by rw [withheld_release, hf]; decide)).trans
      ((if_neg (by rw [hl]; decide)).trans ((if_neg (by simp [ha, hc])).trans (if_neg (by rcases hx with hx | hx <;> simp [hx])))))
  · exact show execSpawn h gd src s = _ from issueWord_wait hi (if_pos (by rw [withheld_release, hs]))

/-- The slot of a speculation that DECIDE has judged is free (R414). -/
theorem decide_specs (s : State) (ctx slot succ : Nat) : ∃ m : BitVec 2,
    ((s.decide ctx slot succ).2.ctx ctx).specs = m &&& ~~~(BitVec.ofNat 2 (2 ^ slot)) := by
  unfold State.decide
  dsimp only
  rw [ctx_modCtx]
  exact ⟨_, rfl⟩

theorem specs_cleared (m : BitVec 2) (slot : BitVec 1) : (m &&& ~~~(BitVec.ofNat 2 (2 ^ slot.toNat))).getLsbD slot.toNat = false := by
  revert m slot; decide

/-- Settles O29. -/
theorem decideAndTicketWaits : Obligations.DecideAndTicketWaits := by
  intro h gd s
  refine ⟨fun slot succ => ⟨fun hi hs ht => ?_, fun hr ht hp => ?_, fun hr ht hp => ⟨?_, ?_⟩⟩,
    fun src => ⟨fun hi hv => ?_, fun hi hv ha hg => ?_, fun hr hv ha hg => ?_, fun hr hv hg => ?_⟩⟩
  · exact show execDecide h gd slot succ s = _ from issueWord_trap hi (if_pos ⟨hs, ht⟩)
  · exact show execDecide h gd slot succ s = _ from
      issueWord_ready hr ((if_neg (by rcases ht with ht | ht <;> simp [ht])).trans (if_pos (by rw [hp]; rfl)))
  · exact show execDecide h gd slot succ s = _ from
      issueWord_ready hr ((if_neg (by rcases ht with ht | ht <;> simp [ht])).trans (if_neg (by rw [hp]; decide)))
  · obtain ⟨m, hm⟩ := decide_specs s (s.task s.curCore).ctx slot.toNat succ.toNat
    rw [hm, specs_cleared]
  · exact show execTwaitLaunch h gd src s = _ from issueWord_trap hi (if_pos hv)
  · exact show execTwaitLaunch h gd src s = _ from issueWord_wait hi ((if_neg (not_not.mpr hv)).trans (if_pos ⟨ha, hg⟩))
  · refine show execTwaitLaunch h gd src s = _ from issueWord_ready hr ((if_neg (not_not.mpr hv)).trans ((if_neg (by simp [ha])).trans ?_))
    rw [if_pos hg]
  · refine show execTwaitLaunch h gd src s = _ from issueWord_ready hr ((if_neg (not_not.mpr hv)).trans ((if_neg (by simp [hg])).trans ?_))
    rw [if_neg hg]
    rfl
end Sys2Proof.Laws
end

section
/-! PROOF. TRAP, BRK, and the control and status registers (R107, R490 to R493). -/
namespace Sys2Proof.Laws
open Sys2Proof.Machine

/-- A fault after issue in an array core is the core's alone (R447). -/
theorem takeFault_after {s : State} {c st cls : Nat} {info : Word} (hc : isLbp c = false) :
    s.takeFault c (some st) cls info true = s.modCore c fun x => x.takeFault (some st) cls info true :=
  if_neg (by rw [hc]; decide)

/-- Settles O30. -/
theorem trapAndBrkTakeTheirFaults : Obligations.TrapAndBrkTakeTheirFaults := by
  intro h s hn
  refine ⟨fun code hi hc => ?_, fun hi hb hc => ?_, fun hi hb => ?_⟩
  · exact show execTrap h code s = _ from issueWord_ready (ready_of_issues hi hn) (congrArg Out.done (takeFault_after hc))
  · exact show execBrk h s = _ from
      issueWord_ready (ready_of_issues hi hn) ((if_neg (by rw [hb]; decide)).trans (congrArg Out.done (takeFault_after hc)))
  · exact show execBrk h s = _ from issueWord_ready (ready_of_issues hi hn) (if_pos hb)

/-- STATUS after a write, bit by bit (R107). -/
theorem writeStatus_bit (old v : BitVec 32) {k : Nat} (hk : k < 32) : (writeStatus old v).getLsbD k =
    if k < 6 then old.getLsbD k && !v.getLsbD k
    else if 16 ≤ k ∧ k < 22 then v.getLsbD k
    else if 8 ≤ k ∧ k < 11 then (if slice v.toNat 8 3 < 5 then v.getLsbD k else old.getLsbD k) else false := by
  unfold writeStatus
  by_cases hv : slice v.toNat 8 3 < 5
  · simp only [hv, if_true]
    interval_cases k <;> simp
  · simp only [hv, if_false]
    interval_cases k <;> simp

/-- A word without its flags: its other bits, and its rounding mode, are as they were. -/
theorem clearFlags_bit (x : BitVec 32) {k : Nat} (hk : k < 32) : (x &&& ~~~(0x3F : BitVec 32)).getLsbD k = (decide (6 ≤ k) && x.getLsbD k) := by
  interval_cases k <;> simp
theorem clearFlags_mode (x : BitVec 32) : slice (x &&& ~~~(0x3F : BitVec 32)).toNat 8 3 = slice x.toNat 8 3 := by
  apply Nat.eq_of_testBit_eq
  intro i
  unfold slice
  rw [Nat.testBit_mod_two_pow, Nat.testBit_mod_two_pow, Nat.testBit_div_two_pow, Nat.testBit_div_two_pow]
  by_cases hi : i < 3
  · have := clearFlags_bit x (k := i + 8) (by omega)
    rw [decide_eq_true (by omega : 6 ≤ i + 8), Bool.true_and] at this
    exact congrArg (decide (i < 3) && ·) this
  · simp [hi]

/-- STATUS after a write of a value without flags (R493): they stay. -/
theorem writeStatus_keepsFlags (old x : BitVec 32) {k : Nat} (hk : k < 32) :
    (writeStatus old (x &&& ~~~(0x3F : BitVec 32))).getLsbD k =
    if k < 6 then old.getLsbD k
    else if 16 ≤ k ∧ k < 22 then x.getLsbD k
    else if 8 ≤ k ∧ k < 11 then (if slice x.toNat 8 3 < 5 then x.getLsbD k else old.getLsbD k) else false := by
  rw [writeStatus_bit _ _ hk, clearFlags_mode, clearFlags_bit _ hk]
  by_cases h6 : k < 6
  · simp [h6, Nat.not_le.mpr h6]
  · simp [h6, Nat.not_lt.mp h6]

/-- Settles O31. -/
theorem controlAndStatusWords : Obligations.ControlAndStatusWords := by
  intro h d s
  refine ⟨fun csr hr => ?_, fun csr b opn hr => ?_, fun old v k hk => ⟨writeStatus_bit old v hk, ?_, ?_⟩⟩
  · exact show execCsrr h d csr s = _ from issueWord_ready hr rfl
  · exact show execCsrw h d csr b opn s = _ from issueWord_ready hr rfl
  · have := writeStatus_keepsFlags old (old ||| v) hk
    rwa [BitVec.getLsbD_or] at this
  · have := writeStatus_keepsFlags old (old &&& ~~~v) hk
    rw [BitVec.getLsbD_and, BitVec.getLsbD_not, decide_eq_true hk, Bool.true_and] at this
    exact this
end Sys2Proof.Laws
end

section
/-! PROOF. What a write at the coherence points leaves alone: the memories, their tags and provisional data, L2, and the CACHE of a
core move, and nothing else (R249, R263). -/
namespace Sys2Proof.Laws
open Sys2Proof.Machine

/-- A state with the memories of another: bytes, tags, L2, dirty units, poison and provisional data. -/
def withMemory (s m : State) : State :=
  { s with dev := m.dev, host := m.host, devTags := m.devTags, tagSums := m.tagSums, l2 := m.l2, l2Clock := m.l2Clock,
           dirtyUnits := m.dirtyUnits, poison := m.poison, prov := m.prov, provTags := m.provTags }

/-- Nothing but the memories differs. -/
def MemoryOnly (s t : State) : Prop := t = withMemory s t

theorem MemoryOnly.refl (s : State) : MemoryOnly s s := rfl
theorem MemoryOnly.trans {s t u : State} (h1 : MemoryOnly s t) (h2 : MemoryOnly t u) : MemoryOnly s u := by
  unfold MemoryOnly at *
  rw [h2, h1]; rfl
theorem MemoryOnly.foldl {α : Type} {f : State → α → State} (hf : ∀ s x, MemoryOnly s (f s x)) (l : List α) (s : State) :
    MemoryOnly s (l.foldl f s) := by
  induction l generalizing s with
  | nil => exact .refl s
  | cons x l ih => exact (hf s x).trans (ih (f s x))
theorem MemoryOnly.core {s t : State} (h : MemoryOnly s t) (c : Nat) : t.core c = s.core c := by
  rw [h]; rfl

theorem memoryOnly_putTag (s : State) (id : Option Ident) (host : Bool) (g : Nat) (v : Bool) : MemoryOnly s (s.putTag id host g v) := by
  unfold State.putTag
  split
  · rfl
  · split <;> rfl
theorem memoryOnly_makeRoom (s : State) (a : Nat) : MemoryOnly s (s.makeRoom a) := by
  unfold State.makeRoom
  split
  · rfl
  · split
    · rfl
    · split
      · unfold State.evict State.markUnit; dsimp only; split <;> rfl
      · rfl
theorem memoryOnly_touchL2 (s : State) (a : Nat) (st : SectorState) : MemoryOnly s (s.touchL2 a st) := by
  refine (memoryOnly_makeRoom s a).trans ?_
  unfold State.touchL2 State.markUnit
  dsimp only
  generalize s.makeRoom a = u
  split <;> rfl
theorem memoryOnly_fillL2 (s : State) (host : Bool) (a : Nat) : MemoryOnly s (s.fillL2 host a) := by
  unfold State.fillL2
  split
  · rfl
  · exact memoryOnly_touchL2 _ _ _
theorem memoryOnly_cohPut (s : State) (id : Option Ident) (host : Bool) (a : Nat) (b : Byte) : MemoryOnly s (s.cohPut id host a b) := by
  unfold State.cohPut
  split
  · rfl
  · split
    · exact (memoryOnly_touchL2 s a .dirty).trans rfl
    · refine (memoryOnly_touchL2 s a .provisional).trans (MemoryOnly.trans ?_ (memoryOnly_putTag _ _ _ _ _))
      rfl
theorem memoryOnly_clearPoison (s : State) (l : List (Bool × Nat × Byte)) : MemoryOnly s (s.clearPoison l) := by
  unfold State.clearPoison
  split <;> rfl
theorem memoryOnly_cohWrite (s : State) (id : Option Ident) (l : List (Bool × Nat × Byte)) : MemoryOnly s (s.cohWrite id l) := by
  unfold State.cohWrite
  dsimp only
  have h := MemoryOnly.foldl (fun s (x : Bool × Nat × Byte) => memoryOnly_cohPut s id x.1 x.2.1 x.2.2) l s
  split
  · exact h
  · exact h.trans (memoryOnly_clearPoison _ _)
theorem memoryOnly_unprovision (s : State) (l : List ProvByte) : MemoryOnly s (s.unprovision l) := rfl
theorem memoryOnly_commit (s : State) (i : Ident) : MemoryOnly s (s.commit i) := by
  unfold State.commit
  dsimp only
  refine MemoryOnly.trans ?_ (MemoryOnly.foldl (fun _ _ => memoryOnly_putTag _ _ _ _ _) _ _)
  refine MemoryOnly.trans ?_ (memoryOnly_cohWrite _ _ _)
  rfl
theorem memoryOnly_discardAll (s : State) (gone : Ident → Bool) : MemoryOnly s (s.discardAll gone) := rfl

/-- Nothing but the memories and the CACHE of cores differs. -/
structure CacheOnly (s t : State) : Prop where
  others : t = { withMemory s t with cores := t.cores }
  cores : ∀ c, t.core c = { s.core c with cache := (t.core c).cache }

theorem MemoryOnly.cacheOnly {s t : State} (h : MemoryOnly s t) : CacheOnly s t where
  others := by rw [h]; rfl
  cores c := by rw [h.core c]
theorem CacheOnly.refl (s : State) : CacheOnly s s := (MemoryOnly.refl s).cacheOnly
theorem CacheOnly.trans {s t u : State} (h1 : CacheOnly s t) (h2 : CacheOnly t u) : CacheOnly s u where
  others := by rw [h2.others, h1.others]; rfl
  cores c := by rw [h2.cores c, h1.cores c]
theorem CacheOnly.foldl {α : Type} {f : State → α → State} (hf : ∀ s x, CacheOnly s (f s x)) (l : List α) (s : State) :
    CacheOnly s (l.foldl f s) := by
  induction l generalizing s with
  | nil => exact .refl s
  | cons x l ih => exact (hf s x).trans (ih (f s x))
theorem cacheOnly_modCore (s : State) (c : Nat) (f : Core → Core) (hf : ∀ x, f x = { x with cache := (f x).cache }) :
    CacheOnly s (s.modCore c f) where
  others := rfl
  cores d := by
    rcases eq_or_ne d c with rfl | hd
    · rw [State.core_modCore_same, hf]
    · rw [State.core_modCore_other _ _ hd]
theorem cacheOnly_writeBack (s : State) (c k : Nat) : CacheOnly s (s.writeBack c k) := by
  unfold State.writeBack
  split
  · exact .refl s
  · dsimp only
    split
    · exact .refl s
    · refine (((memoryOnly_cohWrite s _ _).trans (MemoryOnly.foldl (fun s g => ?_) _ _)).cacheOnly).trans
        (cacheOnly_modCore _ c _ fun x => rfl)
      split
      · rfl
      · exact memoryOnly_putTag _ _ _ _ _
theorem cacheOnly_writeBackAll (s : State) (c stor : Nat) : CacheOnly s (s.writeBackAll c stor) :=
  CacheOnly.foldl (fun s k => cacheOnly_writeBack s c k) _ s
theorem cacheOnly_acquireCache (s : State) (c agent stor : Nat) : CacheOnly s (s.acquireCache c agent stor) := by
  unfold State.acquireCache
  split
  · exact (cacheOnly_writeBackAll s c stor).trans (cacheOnly_modCore _ c _ fun x => rfl)
  · exact .refl s
theorem cacheOnly_releaseCache (s : State) (c agent stor : Nat) : CacheOnly s (s.releaseCache c agent stor) := by
  unfold State.releaseCache
  split
  · exact cacheOnly_writeBackAll s c stor
  · exact .refl s
end Sys2Proof.Laws
end

section
/-! PROOF. The registrar, LAUNCH and SPEC (R344, R346, R410 to R413). -/
namespace Sys2Proof.Laws
open Sys2Proof.Machine

theorem CacheOnly.task {s t : State} (h : CacheOnly s t) (c : Nat) : t.task c = s.task c := by
  unfold State.task; rw [h.cores c]
theorem CacheOnly.curCore {s t : State} (h : CacheOnly s t) : t.curCore = s.curCore := by rw [h.others]; rfl

/-- The end of a task's idempotence keeps the cursor and the contexts of the tasks. -/
theorem endIdem_keeps (s : State) (c : Nat) : (s.endIdem c).curCore = s.curCore ∧ ((s.endIdem c).task c).ctx = (s.task c).ctx := by
  unfold State.endIdem
  split
  next t ht =>
    split
    · have h : CacheOnly s ((s.writeBackAll c 0).commit (.idem t.ctx t.lid t.gen t.index)) :=
        (cacheOnly_writeBackAll s c 0).trans (memoryOnly_commit _ _).cacheOnly
      refine ⟨h.curCore, ?_⟩
      unfold State.task
      rw [State.core_modCore_same, ht]
      rfl
    · exact ⟨rfl, rfl⟩
  · exact ⟨rfl, rfl⟩

theorem launchRelease_keeps (s : State) :
    s.launchRelease.curCore = s.curCore ∧ (s.launchRelease.task s.curCore).ctx = (s.task s.curCore).ctx := by
  obtain ⟨hc, ht⟩ := endIdem_keeps s s.curCore
  have h := cacheOnly_writeBackAll (s.endIdem s.curCore) s.curCore 0
  exact ⟨h.curCore.trans hc, (congrArg Task.ctx (h.task _)).trans ht⟩

section
variable {s : State} {fn : Nat} {own : Option Nat} {p : List Byte}

theorem submit_refused (h : s.loaderCode fn own p ≠ 0) : (s.submit fn own p).1 = .refused (s.loaderCode fn own p) := by
  unfold State.submit; dsimp only; rw [if_pos h]
theorem submit_full (h : s.loaderCode fn own p = 0) (hr : s.roomFor p = false) : s.submit fn own p = (.full, s) := by
  unfold State.submit; dsimp only; rw [if_neg (not_not.mpr h), if_pos (by rw [hr]; rfl)]
theorem submit_entered (h : s.loaderCode fn own p = 0) (hr : s.roomFor p = true) :
    s.submit fn own p = (.entered (s.freeEntries.headD 0), s.enterAt (s.freeEntries.headD 0) fn p false 0 0) := by
  unfold State.submit; dsimp only; rw [if_neg (not_not.mpr h), if_neg (by rw [hr]; decide)]

theorem enterAt_launch {lid slot succ : Nat} {spec : Bool} (hn : taskCount (s.kLevels p) ≠ 0) :
    (s.enterAt lid fn p spec slot succ).launch lid =
      { active := true, gen := ((s.launch lid).gen + 1) % 1024, ctx := pkCtx p, packet := p, tasks := taskCount (s.kLevels p),
        remain := taskCount (s.kLevels p), dln := bytesNat p 32 4,
        wdb := BitVec.ofNat 32 (bytesNat p 36 4), prio := pkPrio p, ccls := pkCcls p, poolFix := pkFix p, spec, slot, succ, fn,
        reserve := bufDemand (s.kBufs p) 4 0, stamp := s.seq, foot := s.kFoot p,
        dies := (launchDies (s.kLevels p)).foldl (fun b d => b ||| BitVec.ofNat 2 (2 ^ d)) 0 } := by
  unfold State.enterAt
  dsimp only
  rw [if_neg hn]
  exact tabGet_put_same _ _ _ _

theorem loaderCode_illegal (h : packetLegal p = false) : s.loaderCode fn own p = 1 := by
  unfold State.loaderCode; dsimp only; rw [if_pos (by rw [h]; rfl)]
theorem loaderCode_foreign (h : packetLegal p = true) (hf : s.ctxForeign fn own p = true) : s.loaderCode fn own p = 2 := by
  unfold State.loaderCode; dsimp only; rw [if_neg (by rw [h]; decide), if_pos hf]
end

/-- Settles O28. -/
theorem launchesAndTheRegistrar : Obligations.LaunchesAndTheRegistrar := by
  refine ⟨fun s fn own p => ⟨submit_refused, submit_full, fun h hr hn => ?_, loaderCode_illegal, fun hl hf => loaderCode_foreign hl ?_,
      fun c hl hc => loaderCode_foreign hl ?_⟩,
    fun h gd hn s => ⟨fun cause hf hc hi => ?_, fun cause hf hc hi => ?_, fun hw hi => ?_, fun hw hi => ?_,
      fun hf hu => ⟨fun hc hr => ?_, fun hc hr => ?_⟩, fun p q => ⟨fun h3 => ?_, fun h3 hl => ?_, fun h3 hl hc => ?_⟩⟩⟩
  · rw [submit_entered h hr]
    dsimp only
    rw [enterAt_launch hn]
    exact ⟨rfl, rfl, rfl, rfl, rfl, rfl, rfl, rfl⟩
  · rcases hf with hf | hf
    · unfold State.ctxForeign; rw [hf]; rfl
    · simp [State.ctxForeign, hf]
  · simp [State.ctxForeign, hc]
  · exact show execLaunch h gd hn s = _ from issueWord_trap hi ((if_neg (by rw [hf]; decide)).trans (by rw [hc]))
  · exact show execSpec h gd hn s = _ from issueWord_trap hi ((if_neg (by rw [hf]; decide)).trans (by rw [hc]))
  · refine show execLaunch h gd hn s = _ from issueWord_wait hi (u := s) ?_
    by_cases hs : (s.task s.curCore).spec = true
    · exact if_pos hs
    · obtain ⟨hc, hu⟩ := hw.resolve_left hs
      refine (if_neg hs).trans ?_
      rw [hc]
      exact if_pos hu
  · refine show execSpec h gd hn s = _ from issueWord_wait hi (u := s) ?_
    by_cases hs : (s.task s.curCore).spec = true
    · exact if_pos hs
    · obtain ⟨hc, hu⟩ := hw.resolve_left hs
      refine (if_neg hs).trans ?_
      rw [hc]
      exact if_pos hu
  · refine show execLaunch h gd hn s = _ from issueWord_ready hr ((if_neg (by rw [hf]; decide)).trans ?_)
    rw [hc]
    refine (if_neg (by rw [hu]; decide)).trans ?_
    dsimp only
    rw [(launchRelease_keeps s).1]
    rfl
  · refine show execSpec h gd hn s = _ from issueWord_ready hr ((if_neg (by rw [hf]; decide)).trans ?_)
    rw [hc]
    refine (if_neg (by rw [hu]; decide)).trans ?_
    dsimp only
    rw [(launchRelease_keeps s).1, (launchRelease_keeps s).2]
  · exact if_pos h3
  · exact (if_neg h3).trans (if_pos hl)
  · unfold State.enterBoth; dsimp only
    rw [if_neg h3, if_neg (Nat.not_lt.mpr hl), if_pos hc]
end Sys2Proof.Laws
end

section
/-! PROOF. Identity, clocks, counters, IFENCE and the snapshot words (R487, R495 to R500). -/
namespace Sys2Proof.Laws
open Sys2Proof.Machine

/-- The counters of a core after a clear of counter k, where the last cycle counted nothing (R497). -/
theorem addCounts_cleared {x : Core} (k : Nat) (h : x.perfNow = []) :
    tabGet 0 (Core.addCounts { x with perfClr := [k] }).perf k = 0 ∧
    ∀ j, j ≠ k → tabGet 0 (Core.addCounts { x with perfClr := [k] }).perf j = tabGet 0 x.perf j := by
  have hp : (Core.addCounts { x with perfClr := [k] }).perf = tabSet 0 x.perf k 0 := by simp [Core.addCounts, h]
  rw [hp]
  exact ⟨tabGet_set_same _ _ _ _, fun j hj => tabGet_set_other _ _ _ hj⟩

/-- The request that a snapshot word sends from a state u that its reads leave (R500). -/
theorem snapWord_asks {s u : State} (hc : u.curCore = s.curCore) (hs : u.seq = s.seq) (d : Port) (kind : Nat) (sel : Word) (data : Vec) :
    snapWord u d kind sel data = .done ((u.reserveTo 15 (if dieOf (slice sel.toNat 24 7) = dieOf s.curCore then 64 else 128) d 0).modCur
      fun x => { x with flight := x.flight.map fun f =>
        if f.id = s.seq then { f with snap := kind, snapSel := sel, snapData := data } else f }) := by
  unfold snapWord
  dsimp only
  rw [hc, hs]

section
variable {s : State} {c t : Nat}

theorem snapStatus_own (h : t = c) : s.snapStatus c t = 2 := if_pos (.inl h)
theorem snapStatus_taskless (h : (s.core t).task = none) : s.snapStatus c t = 2 := if_pos (.inr (.inl (by simp [h])))
theorem snapStatus_of_tasks {k m : Task} (hc : t ≠ c) (hk : (s.core t).task = some k) (hm : (s.core c).task = some m)
    (hf : s.fnOfCtx k.ctx = s.fnOfCtx m.ctx) :
    s.snapStatus c t = if (s.core t).tt = .faulted ∨ (s.core t).allHalted = true then 0 else 1 := by
  unfold State.snapStatus Core.reachable
  simp only [hk, hm, Option.map_some, Option.getD_some, hf, Option.isNone_some, Bool.false_eq_true, ne_eq, not_true_eq_false, or_false, hc,
    if_false]
  by_cases h : (s.core t).tt = .faulted ∨ (s.core t).allHalted = true
  · rw [if_pos h, if_neg (by rcases h with h | h <;> simp [h])]
  · rw [if_neg h, if_pos (by simpa [not_or] using h)]

variable {f : Flight}

/-- The size of a snapshot access. -/
def snapSize (f : Flight) : Nat := if f.snap = 2 ∨ f.snap = 5 then 32 else 8

theorem snapAccess_read (h : f.snap = 1 ∨ f.snap = 2) : s.snapAccess c f =
    (if s.snapRange f.snapSel (snapSize f) false = false ∧ s.snapStatus c (slice f.snapSel.toNat 24 7) = 0 then
      imgAt (s.image (slice f.snapSel.toNat 24 7)) (slice f.snapSel.toNat 0 23) (snapSize f) else 0, s) := by
  unfold State.snapAccess snapSize
  rcases h with h | h
  · cases hr : s.snapRange f.snapSel 8 false <;> simp [h, hr]
  · cases hr : s.snapRange f.snapSel 32 false <;> simp [h, hr]

theorem snapAccess_write (h : f.snap = 4 ∨ f.snap = 5) : s.snapAccess c f =
    let st := if s.snapRange f.snapSel (snapSize f) true = true then 3 else s.snapStatus c (slice f.snapSel.toNat 24 7)
    (st, if st = 0 then { s with snapDue := s.snapDue ++
      [(slice f.snapSel.toNat 24 7, slice f.snapSel.toNat 0 23, leBytes (snapSize f) f.snapData.toNat)] } else s) := by
  unfold State.snapAccess snapSize
  rcases h with h | h <;> simp [h]

/-- A snapshot access moves nothing but what is due at the end of the cycle. -/
theorem snapAccess_core (d : Nat) : (s.snapAccess c f).2.core d = s.core d := by
  unfold State.snapAccess
  dsimp only
  generalize (if f.snap ≠ 3 ∧ s.snapRange f.snapSel (if f.snap = 2 ∨ f.snap = 5 then 32 else 8) (decide (4 ≤ f.snap)) = true then 3
    else s.snapStatus c (slice f.snapSel.toNat 24 7)) = st
  split
  · rfl
  · split <;> rfl
  · split <;> rfl
  · rfl
end

/-- A write through snapshot registers touches its target alone. -/
theorem snapWrite_others (s : State) (t off : Nat) (bs : List Byte) : (s.snapWrite t off bs).dev = s.dev ∧
    (s.snapWrite t off bs).host = s.host ∧ ∀ d, d ≠ t → (s.snapWrite t off bs).core d = s.core d := by
  unfold State.snapWrite
  dsimp only
  split
  · exact ⟨rfl, rfl, fun d hd => State.core_modCore_other s (fun _ => _) hd⟩
  · exact ⟨rfl, rfl, fun d hd => State.core_modCore_other s _ hd⟩

/-- Settles O32. -/
theorem identityClockAndSnapshotWords : Obligations.IdentityClockAndSnapshotWords := by
  refine ⟨fun h d s => ⟨fun sel hr => ?_, fun hr => ?_, fun hr => ?_, fun hr => ?_, fun n hn => ⟨fun hr => ?_, fun hr => ?_⟩,
      fun n hn => ⟨fun hr => ?_, fun hr => ?_⟩, fun x k h0 => addCounts_cleared k h0, fun hr => ?_⟩,
    fun h d a b s => ⟨fun hr => ?_, fun hr => ?_, fun hr => ?_, fun hr => ?_, fun hr => ?_⟩,
    fun c f s => ⟨snapStatus_own, snapStatus_taskless, fun k m => snapStatus_of_tasks, fun hf => ⟨fun hr hs => ?_, fun hb => ?_⟩, fun hf => ?_,
      fun hf => ⟨fun hr => ?_, fun hr hs => ?_, fun hr hs => ?_⟩, fun hf h0 h1 => ?_, fun bs hb ht => ?_⟩⟩
  · exact show execIdget h d sel s = _ from issueWord_ready hr rfl
  · exact show execClkget h d 0 s = _ from issueWord_ready hr rfl
  · exact show execClkget h d 1 s = _ from issueWord_ready hr rfl
  · exact show execClkget h d 2 s = _ from issueWord_ready hr rfl
  · exact show execPerfr h d n 0 s = _ from issueWord_ready hr (by simp [hn])
  · exact show execPerfr h d n 1 s = _ from issueWord_ready hr (by simp [hn])
  · exact show execPerfr h d n 0 s = _ from issueWord_ready hr (by simp [Nat.not_lt.mpr hn])
  · exact show execPerfr h d n 1 s = _ from issueWord_ready hr (by simp [Nat.not_lt.mpr hn])
  · exact show execIfence h s = _ from issueWord_ready hr rfl
  · exact show execSnaprD h d a s = _ from issueWord_ready hr (snapWord_asks (read_cc s a).1 (read_seq s a) _ _ _ _)
  · exact show execSnaprV h d a s = _ from issueWord_ready hr (snapWord_asks (read_cc s a).1 (read_seq s a) _ _ _ _)
  · exact show execSnaprSt h d a s = _ from issueWord_ready hr (snapWord_asks (read_cc s a).1 (read_seq s a) _ _ _ _)
  · exact show execSnapwD h d a b s = _ from issueWord_ready hr
      (snapWord_asks ((read_cc (s.readInt a).2 b).1.trans (read_cc s a).1) ((read_seq (s.readInt a).2 b).trans (read_seq s a)) _ _ _ _)
  · exact show execSnapwV h d a b s = _ from issueWord_ready hr
      (snapWord_asks ((read_cc (s.readInt a).2 b).1.trans (read_cc s a).1) ((read_seq (s.readInt a).2 b).trans (read_seq s a)) _ _ _ _)
  · rw [snapAccess_read hf, if_pos ⟨hr, hs⟩]; rfl
  · rw [snapAccess_read hf, if_neg]
    rintro ⟨h1, h2⟩
    rcases hb with hb | hb
    · exact absurd (h1.symm.trans hb) (by decide)
    · exact hb h2
  · unfold State.snapAccess; simp only [hf]
  · rw [snapAccess_write hf]; dsimp only
    rw [show s.snapRange f.snapSel (snapSize f) true = true from hr]; rfl
  · rw [snapAccess_write hf]; dsimp only
    rw [show s.snapRange f.snapSel (snapSize f) true = false from hr, if_neg (by decide), if_neg hs]
  · rw [snapAccess_write hf]; dsimp only
    rw [show s.snapRange f.snapSel (snapSize f) true = false from hr, if_neg (by decide), if_pos hs, hs]; rfl
  · have hd : ((s.core c).flight.filter fun f : Flight => f.snap != 0 && (f.left == 1 || (s.core c).tt == .save)) = [f] := by
      rw [hf]; simp [h0, h1]
    unfold State.snapAll
    dsimp only
    rw [hd, List.foldl_cons, List.foldl_nil, State.core_modCore_same, snapAccess_core, hf]
    simp
  · have hs : s.snapEnd = State.snapWrite { s with snapDue := [] } (slice f.snapSel.toNat 24 7) (slice f.snapSel.toNat 0 23) bs := by
      unfold State.snapEnd
      rw [hb]
      exact if_pos ht
    rw [hs]
    exact ⟨rfl, snapWrite_others _ _ _ _⟩
end Sys2Proof.Laws
end

section
/-! PROOF. What one step does at the cursor (log 3), the words written out from the encodings, and the values of reset. -/
namespace Sys2Proof.Laws
open Sys2Proof.Machine

section
variable {s : State} {n : Nat}

theorem frame_stream (hp : s.phase = .stream n) : s.frame = s := by
  unfold State.frame
  rw [hp]
  dsimp only
  split_ifs <;> rfl

theorem bundleOf_alone {x : Core} (h : 4 ≤ n ∨ (x.stream n).group = 0) : x.bundleOf n = [n] :=
  if_pos (h.imp_right .inr)

theorem leaveUnjoined_alone {c : Nat} (h : 4 ≤ n ∨ (s.stream c n).group = 0) : s.leaveUnjoined c n = s := by
  unfold State.leaveUnjoined
  split_ifs with hl
  · rfl
  · have hg := h.resolve_left fun h4 => hl (.inl h4)
    rw [bundleOf_alone (x := s.core c) (.inr hg)]
    simp [hg]

/-- The slot of a stream that issues alone offers its word once its idle count is 0. -/
theorem slotWords_alone {c : Nat} (hpass : n < 4 → (s.core c).pass.getLsbD n = false) (hrun : s.runs c n = true)
    (hv : (s.stream c n).verdict = .none) (hr : (s.stream c n).replay = false) (hg : 4 ≤ n ∨ (s.stream c n).group = 0) :
    s.slotWords c n = if ((s.countIdle c n).stream c n).verdict = .none then (s.countIdle c n, (s.countIdle c n).wordsOf c [n])
      else (s.countIdle c n, []) := by
  have hp : ¬ (n < 4 ∧ (s.core c).pass.getLsbD n = true) := fun h => by simp [hpass h.1] at h
  have hb : (s.core c).bundleOf n = [n] := bundleOf_alone hg
  have hr' : ((s.core c).stream n).replay = false := hr
  have ha : ¬ ((!s.runs c n) = true ∨ (s.stream c n).verdict ≠ .none) := by simp [hrun, hv]
  unfold State.slotWords
  rw [if_neg hp, if_neg ha, leaveUnjoined_alone hg]
  dsimp only
  rw [hb]
  simp [hr']

theorem slotWords_none {c : Nat} (hpass : n < 4 → (s.core c).pass.getLsbD n = false)
    (h : s.runs c n = false ∨ (s.stream c n).verdict ≠ .none) : s.slotWords c n = (s, []) := by
  have hp : ¬ (n < 4 ∧ (s.core c).pass.getLsbD n = true) := fun h => by simp [hpass h.1] at h
  unfold State.slotWords
  rw [if_neg hp, if_pos (h.imp_left fun h => by simp [h])]

theorem cursorStep_empty {t : State} (hp : s.phase = .stream n) (h : s.slotWords s.curCore n = (t, [])) (ht : t.phase = .stream n) :
    s.cursorStep = answer t.advance := by
  have hf : s.fetchStep = (t, []) := by unfold State.fetchStep; rw [hp]; exact h
  unfold State.cursorStep
  rw [hf]
  dsimp only
  rw [frame_stream ht]

theorem gapsOf_single (w : Nat × Instr) : gapsOf [w] = [] := by
  simp [gapsOf]
  omega

/-- A word that stands alone in its slot runs, and the cursor goes on. -/
theorem cursorStep_single {t : State} {i : Instr} (hp : s.phase = .stream n) (h : s.slotWords s.curCore n = (t, [(n, i)]))
    (ht : t.phase = .stream n) :
    s.cursorStep = match exec i t with
      | .next u => answer ({ u.consumed t (n, i) with phase := t.phase } : State).advance
      | .fault f => .fault f
      | .refused r => .refused r := by
  have hf : s.fetchStep = (t, [(n, i)]) := by unfold State.fetchStep; rw [hp]; exact h
  have he : ({ t with phase := .stream n } : State) = t := by rw [← ht]
  unfold State.cursorStep
  rw [hf]
  dsimp only
  unfold runSlot
  rw [gapsOf_single]
  simp only [runWords, he]
  cases exec i t <;> simp [runSettled, State.settle]

end

/-- Settles O54. -/
theorem stepRunsTheDecodedWord : Obligations.StepRunsTheDecodedWord := by
  unfold Obligations.StepRunsTheDecodedWord
  have hcursor {s : State} (hd : s.due = []) (ho : s.outside = []) : step s = s.cursorStep := by
    unfold step State.stepNow; rw [hd, ho]
  refine ⟨fun s i rest hd => ?_, fun s i rest hd ho => ⟨fun hp => ?_, fun hp => ?_⟩, fun s i k rest hd ho => ?_,
    fun s n w hd ho hp hpass hrun hv hr hg hw => ?_, fun s n hd ho hp hpass h => ?_⟩
  · unfold step State.stepNow; rw [hd]
  · unfold step State.stepNow; rw [hd, ho]; exact if_pos hp
  · unfold step State.stepNow; rw [hd, ho]; exact if_neg hp
  · unfold step State.stepNow; rw [hd, ho]
  · have hs := slotWords_alone hpass hrun hv hr hg
    refine ⟨fun hi => ?_, fun i hdec hl h0 => ?_, fun i hdec hl h0 => ?_⟩
    · have hc : s.countIdle s.curCore n = s.modStream s.curCore n fun u =>
          { u with idle := (if (s.stream s.curCore n).idleLoaded then (s.stream s.curCore n).idle else slice w.toNat 54 10) - 1,
                   idleLoaded := true, verdict := .idle } := by
        unfold State.countIdle
        rw [hw]
        exact if_neg hi.ne'
      rw [hcursor hd ho]
      rw [hc] at hs
      exact cursorStep_empty hp (hs.trans (if_neg (by simp))) (by simpa using hp)
    · have hc : s.countIdle s.curCore n = s := by
        unfold State.countIdle
        rw [hw]
        simp [hl, h0]
      have hwords : s.wordsOf s.curCore [n] = [(n, i)] := by simp [State.wordsOf, hw, instrOf, hdec]
      rw [hc, if_pos hv, hwords] at hs
      rw [hcursor hd ho]
      exact cursorStep_single hp hs hp
    · have hc : s.countIdle s.curCore n = s.modStream s.curCore n fun u => { u with idle := 0, idleLoaded := true } := by
        unfold State.countIdle
        rw [hw]
        simp [hl, h0]
      rw [hc] at hs
      have hwords : (s.modStream s.curCore n fun u => { u with idle := 0, idleLoaded := true }).wordsOf s.curCore [n] = [(n, i)] := by
        have : (s.modStream s.curCore n fun u => { u with idle := 0, idleLoaded := true }).nextWord s.curCore n = some w := by
          simpa [State.nextWord, State.wordAt, State.lbp] using hw
        simp [State.wordsOf, this, instrOf, hdec]
      rw [if_pos (by simpa using hv), hwords] at hs
      rw [hcursor hd ho]
      exact cursorStep_single hp hs (by simpa using hp)
  · rw [hcursor hd ho]
    exact cursorStep_empty hp (slotWords_none hpass h) hp

/-- Settles O55. -/
theorem wordsDecodeToTheirInstructions : Obligations.WordsDecodeToTheirInstructions := by
  unfold Obligations.WordsDecodeToTheirInstructions
  refine ⟨?_, ?_, ?_, ?_, ?_, ?_, ?_, ?_, ?_, ?_, ?_, ?_, ?_⟩ <;> rfl

/-- Settles O58. -/
theorem resetLeavesTheGivenValues : Obligations.ResetLeavesTheGivenValues := by
  unfold Obligations.ResetLeavesTheGivenValues
  refine ⟨fun c n => ⟨rfl, rfl, rfl, rfl, rfl, fun r => rfl⟩, fun c => ⟨rfl, rfl, rfl, rfl, rfl, rfl, rfl, fun e => ⟨rfl, rfl, rfl⟩, fun n => rfl⟩,
    fun d => ⟨rfl, rfl⟩, fun f => ⟨rfl, rfl, rfl, rfl, rfl, rfl, rfl⟩, fun k => ⟨rfl, rfl⟩, fun f => ⟨rfl, rfl, rfl⟩, fun l => rfl,
    fun n => ⟨rfl, rfl⟩, rfl, rfl, rfl, rfl, rfl, rfl, rfl⟩

end Sys2Proof.Laws
end

section
/-! PROOF. The start and the finish of an engine's command (R195), and the bytes of memories and tiles. -/
namespace Sys2Proof.Laws
open Sys2Proof.Machine

/-- The word of a completion that posts (R213). -/
def postedComp (r : Comp) : Comp := if r.skip = 0 then { r with done := r.done + 1 } else { r with skip := r.skip - 1 }

@[simp] theorem engine_modEngine_same (x : Shared) (e : Nat) (f : Engine → Engine) : (x.modEngine e f).engine e = f (x.engine e) :=
  tabGet_put_same _ _ _ _
@[simp] theorem compRec_modEngine (x : Shared) (e d : Nat) (f : Engine → Engine) : (x.modEngine e f).compRec d = x.compRec d := rfl
@[simp] theorem engine_setRun_same (x : Shared) (e : Nat) (r : Run) : (x.setRun e r).engine e = { x.engine e with run := some r } :=
  engine_modEngine_same _ _ _
@[simp] theorem engine_begin_same (x : Shared) (e : Nat) (r : Run) :
    (x.begin e r).engine e = { x.engine e with queue := (x.engine e).queue.drop 1, run := some r, startAge := 0, idleFor := 0 } :=
  engine_modEngine_same _ _ _

/-- The shared state after a finish (R195). -/
theorem finishCommand_sh (s : State) (c e : Nat) : (s.finishCommand c e).sh c =
    (((s.sh c).modEngine e fun g => { g with run := none, idleFor := 0 }).post e) := by
  simp [State.finishCommand, State.sh, State.modSh]
@[simp] theorem finishCommand_engine (s : State) (c e : Nat) :
    ((s.finishCommand c e).sh c).engine e = { (s.sh c).engine e with run := none, idleFor := 0 } := by
  rw [finishCommand_sh]
  exact (engine_modEngine_same (s.sh c) e fun g => { g with run := none, idleFor := 0 })
@[simp] theorem finishCommand_comp (s : State) (c e : Nat) :
    ((s.finishCommand c e).sh c).compRec e = postedComp ((s.sh c).compRec e) := by
  rw [finishCommand_sh]
  exact tabGet_set_same _ _ _ _
@[simp] theorem finishCommand_ring (s : State) (c e : Nat) : ((s.finishCommand c e).sh c).ring = (s.sh c).ring := by rw [finishCommand_sh]; rfl
@[simp] theorem finishCommand_mat (s : State) (c e : Nat) : ((s.finishCommand c e).sh c).mat = (s.sh c).mat := by rw [finishCommand_sh]; rfl
@[simp] theorem finishCommand_deck (s : State) (c e : Nat) : ((s.finishCommand c e).sh c).deck = (s.sh c).deck := by rw [finishCommand_sh]; rfl
@[simp] theorem finishCommand_tile (s : State) (c e n : Nat) : ((s.finishCommand c e).sh c).tile n = (s.sh c).tile n := by rw [finishCommand_sh]; rfl
@[simp] theorem finishCommand_epcfg (s : State) (c e : Nat) : ((s.finishCommand c e).sh c).epcfg = (s.sh c).epcfg := by rw [finishCommand_sh]; rfl
@[simp] theorem finishCommand_nest (s : State) (c e : Nat) : ((s.finishCommand c e).sh c).nest = (s.sh c).nest := by rw [finishCommand_sh]; rfl
@[simp] theorem finishCommand_nestRun (s : State) (c e : Nat) : ((s.finishCommand c e).sh c).nestRun = (s.sh c).nestRun := by
  rw [finishCommand_sh]; rfl

theorem sh_modSh_same (s : State) (c : Nat) (f : Shared → Shared) : (s.modSh c f).sh c = f (s.sh c) := by simp [State.sh, State.modSh]

theorem answer_whole {s : State} (h : s.broken = none) : answer s = .next s := by unfold answer; rw [h]

theorem takeFault_broken (s : State) (c : Nat) (st : Option Nat) (cls : Nat) (info : Word) (b : Bool) :
    (s.takeFault c st cls info b).broken = s.broken := by
  unfold State.takeFault
  split_ifs <;> rfl

/-- What the attempt to start command k leaves (R195). -/
def afterStart (s : State) (c e : Nat) (k : Cmd) : Eng → State
  | .wait => s
  | .stall => s.noteStall (.engine c e)
  | .fault cls info => s.engFault c k cls info
  | .go t => match ((t.sh c).engine e).run with
    | some r => if r.left = some 0 then t.advanceEngine c e r else t
    | none => t

section
variable {s : State} {c e : Nat} {k : Cmd} {rest : List Cmd}

/-- The start of an engine's oldest command, where it consumes no poison (R195). -/
theorem exec_start (hm : (s.core c).mayStart e = true) (hq : ((s.core c).sh.engine e).queue = k :: rest)
    (hb : s.startBad c k = none) : exec (.engineCommandStart c e) s = answer (afterStart s c e k (s.startCmd c e k)) := by
  refine congrArg answer (a₁ := s.engineStart c e) ?_
  unfold State.engineStart
  dsimp only
  rw [hm, hq]
  dsimp only [Bool.not_true]
  rw [hb]
  cases s.startCmd c e k <;> rfl

variable (hs : s.broken = none) (hm : (s.core c).mayStart e = true) (hq : ((s.core c).sh.engine e).queue = k :: rest)
  (hb : s.startBad c k = none)
include hs hm hq hb

theorem exec_start_wait (ho : s.startCmd c e k = .wait) : exec (.engineCommandStart c e) s = .next s :=
  (exec_start hm hq hb).trans (by rw [ho]; exact answer_whole hs)

theorem exec_start_fault {cls : Nat} {info : Word} (ho : s.startCmd c e k = .fault cls info) :
    exec (.engineCommandStart c e) s = .next (s.takeFault c (some k.stream) cls info true) :=
  (exec_start hm hq hb).trans (by rw [ho]; exact answer_whole ((takeFault_broken _ _ _ _ _ _).trans hs))

omit hs in
/-- A command that begins and has cycles to pass. -/
theorem exec_start_begins {t : State} {r : Run} (ho : s.startCmd c e k = .go t) (ht : t.broken = none)
    (hr : ((t.sh c).engine e).run = some r) (hl : r.left ≠ some 0) : exec (.engineCommandStart c e) s = .next t := by
  rw [exec_start hm hq hb, ho]
  simp only [afterStart, hr, if_neg hl, answer_whole ht]

/-- A command that finishes in its start cycle: it leaves the queue, its completion posts, and the shared state changes as f says. -/
theorem exec_start_atOnce {f : Shared → Shared} (ho : s.startCmd c e k = s.atOnce c e k f)
    (he : ∀ y, (f y).engines = y.engines ∧ (f y).comp = y.comp) :
    ∃ t, exec (.engineCommandStart c e) s = .next t ∧ ((t.sh c).engine e).queue = rest ∧ ((t.sh c).engine e).run = none ∧
      (t.sh c).compRec e = postedComp ((s.core c).sh.compRec e) ∧
      ∃ r, t.sh c = (((f ((s.core c).sh.begin e r)).modEngine e fun g => { g with run := none, idleFor := 0 }).post e) := by
  have hengine : ∀ y, (f y).engine e = y.engine e := fun y => by unfold Shared.engine; rw [(he y).1]
  have hcomp : ∀ y, (f y).compRec e = y.compRec e := fun y => by unfold Shared.compRec; rw [(he y).2]
  let t := (s.modSh c fun x => f (x.begin e { cmd := k })).finishCommand c e
  have hsh : ((s.modSh c fun x => f (x.begin e { cmd := k })).sh c) = f ((s.core c).sh.begin e { cmd := k }) := sh_modSh_same _ _ _
  have hrun : ((t.sh c).engine e).run = none := by simp [t]
  refine ⟨t, ?_, ?_, hrun, ?_, { cmd := k }, ?_⟩
  · rw [exec_start hm hq hb, ho]
    have ha : afterStart s c e k (s.atOnce c e k f) = t := by
      unfold State.atOnce afterStart
      dsimp only
      rw [show (((s.modSh c fun x => f (x.begin e { cmd := k })).finishCommand c e).sh c).engine e = (t.sh c).engine e from rfl, hrun]
    rw [ha]
    exact answer_whole hs
  · have hq' : ((s.sh c).engine e).queue = k :: rest := hq
    simp [t, hengine, hq']
  · simp [t, hcomp]; rfl
  · rw [finishCommand_sh, hsh]
end

/-- The finish of an engine's running command (R195). -/
theorem exec_finish {s t : State} {c e : Nat} {r : Run} (hr : ((s.core c).sh.engine e).run = some r) (hl : r.left = some 0)
    (ha : s.advanceCmd c e r = .go t) (ht : ((t.sh c).engine e).run = none) (hb : t.broken = none) :
    exec (.engineCommandFinish c e) s = .next t := by
  refine Eq.trans (b := answer (s.engineFinish c e)) rfl ?_
  have hr' : ((s.sh c).engine e).run = some r := hr
  unfold State.engineFinish
  simp [hr', hl, ha, ht, answer_whole hb]

/-! ## Marks, bytes and tiles -/

theorem heal_unmarked {s : State} (p : Mark → Bool) (h : s.marks = []) : s.heal p = s := by unfold State.heal; rw [h]
@[simp] theorem heal_core (s : State) (p : Mark → Bool) (c : Nat) : (s.heal p).core c = s.core c := by unfold State.heal; split <;> rfl
@[simp] theorem heal_sh (s : State) (p : Mark → Bool) (c : Nat) : (s.heal p).sh c = s.sh c := by unfold State.heal; split <;> rfl
@[simp] theorem heal_broken (s : State) (p : Mark → Bool) : (s.heal p).broken = s.broken := by unfold State.heal; split <;> rfl

section
variable {β : Type} (f : β → Nat) (g : β → Byte)

/-- Bytes written one by one change no byte at another address. -/
theorem rdByte_foldl_other {a : Nat} : ∀ (l : List β) (m : Memory), (∀ x ∈ l, a ≠ f x) →
    rdByte (l.foldl (fun m x => wrByte m (f x) (g x)) m) a = rdByte m a
  | [], _, _ => rfl
  | x :: l, m, h => by
    rw [List.foldl_cons, rdByte_foldl_other l _ fun y hy => h y (.tail _ hy), rdByte_wrByte_other _ _ (h x (.head _))]

/-- Of bytes written one by one, the last one at an address stands there. -/
theorem rdByte_foldl_last {x : β} : ∀ (l : List β) (m : Memory) (i : Nat), l[i]? = some x →
    (∀ j y, i < j → l[j]? = some y → f y ≠ f x) → rdByte (l.foldl (fun m x => wrByte m (f x) (g x)) m) (f x) = g x
  | [], _, _, h, _ => by simp at h
  | y :: l, m, 0, h, hl => by
    obtain rfl : y = x := by simpa using h
    rw [List.foldl_cons, rdByte_foldl_other f g l _ fun z hz => ?_, rdByte_wrByte_same]
    obtain ⟨j, hj⟩ := List.getElem?_of_mem hz
    exact (hl (j + 1) z (by omega) (by simpa using hj)).symm
  | y :: l, m, i + 1, h, hl => by
    rw [List.foldl_cons]
    exact rdByte_foldl_last l _ i (by simpa using h) fun j z hij hz => hl (j + 1) z (by omega) (by simpa using hz)
end

theorem rdBytes_length (m : Memory) (a n : Nat) : (rdBytes m a n).length = n := by simp [rdBytes]

/-- Bytes read within bytes that have been written. -/
theorem rdBytes_wrBytes (m : Memory) (a k n : Nat) (bs : List Byte) (h : k + n ≤ bs.length) :
    rdBytes (wrBytes m a bs) (a + k) n = (bs.drop k).take n := by
  refine List.ext_getElem (by simp [rdBytes]; omega) fun i hi _ => ?_
  have hi' : i < n := by simpa [rdBytes] using hi
  simp only [rdBytes, List.getElem_map, List.getElem_range, List.getElem_take, List.getElem_drop]
  rw [Nat.add_assoc, rdByte_wrBytes_inside _ _ _ _ (by omega), List.getD_eq_getElem _ _ (by omega)]

theorem leBytes_length (n x : Nat) : (leBytes n x).length = n := by
  induction n generalizing x with
  | zero => rfl
  | succ n ih => simp [leBytes, ih]

theorem leNat_leBytes (n x : Nat) : leNat (leBytes n x) = x % 256 ^ n := by
  induction n generalizing x with
  | zero => simp [leBytes, leNat, Nat.mod_one]
  | succ n ih =>
    rw [leBytes, leNat, ih, pow_succ', Nat.mod_mul]
    simp

/-- Slice i of a list made of pieces of w bytes each. -/
theorem flatMap_range_slice (f : Nat → List Byte) (w : Nat) (hf : ∀ i, (f i).length = w) :
    ∀ n i, i < n → (((List.range n).flatMap f).drop (w * i)).take w = f i := by
  intro n
  induction n with
  | zero => simp
  | succ n ih =>
    intro i hi
    have hlen : ((List.range n).flatMap f).length = w * n := by simp [List.length_flatMap, hf, Nat.mul_comm]
    rw [List.range_succ, List.flatMap_append]
    rcases Nat.lt_succ_iff_lt_or_eq.1 hi with hin | rfl
    · have hle : w * i + w ≤ w * n := by rw [← Nat.mul_succ]; exact Nat.mul_le_mul_left w hin
      rw [List.drop_append_of_le_length (by omega), List.take_append_of_le_length (by rw [List.length_drop]; omega)]
      exact ih i hin
    · rw [← hlen, List.drop_left]
      simp [← hf i]

/-- A tile's image after a write to it. -/
theorem tileBytes_tileWrite (s : State) (c : Nat) (h : Handle) (off : Nat) (bs : List Byte) (hb : h.bound = none) :
    (s.tileWrite c h off bs).tileBytes c h = wrBytes (s.tileBytes c h) off bs := by
  unfold State.tileWrite State.tileBytes
  rw [hb]
  simp [Shared.tile, Shared.setTile]

theorem tileRead_of_tile {s t : State} {c : Nat} {h : Handle} (hb : h.bound = none) (ht : (t.sh c).tile h.tile = (s.sh c).tile h.tile)
    (off n : Nat) : t.tileRead c h off n = s.tileRead c h off n := by
  unfold State.tileRead State.tileBytes
  rw [hb]
  simp [ht]

theorem tileRead_tileWrite (s : State) (c : Nat) (h : Handle) (off k n : Nat) (bs : List Byte) (hb : h.bound = none) (hk : k + n ≤ bs.length) :
    (s.tileWrite c h off bs).tileRead c h (off + k) n = (bs.drop k).take n := by
  unfold State.tileRead
  rw [tileBytes_tileWrite _ _ _ _ _ hb]
  exact rdBytes_wrBytes _ _ _ _ _ hk

end Sys2Proof.Laws
end

section
/-! PROOF. Engine commands start, take their units of work and finish (R141 to R144, R195, R199 to R212, R233 to R236, R293 to R295). -/
namespace Sys2Proof.Laws
open Sys2Proof.Machine

theorem getElem?_pairs (w j : Nat) (hw : 0 < w) : ∀ N, ((List.range N).flatMap fun n => (List.range w).map fun i => (n, i))[j]? =
    if j < w * N then some (j / w, j % w) else none
  | 0 => by simp
  | N + 1 => by
    have hlen : ((List.range N).flatMap fun n => (List.range w).map fun i => (n, i)).length = w * N := by
      simp [List.length_flatMap, Nat.mul_comm]
    rw [List.range_succ, List.flatMap_append, List.getElem?_append, hlen]
    split_ifs with h1 h2 h2
    · rw [getElem?_pairs w j hw N, if_pos h1]
    · rw [Nat.mul_succ] at h2
      omega
    · rw [Nat.mul_succ] at h2
      have hj : j / w = N := by
        rw [Nat.div_eq_iff hw]
        rw [Nat.mul_comm] at h1 h2
        omega
      have hm : j - w * N = j % w := by
        have := Nat.div_add_mod j w
        rw [hj] at this
        omega
      simp [hm, hj, Nat.mod_lt _ hw]
    · rw [Nat.mul_succ] at h2
      simp
      omega

theorem rdBytes_add (m : Memory) (a p q : Nat) : rdBytes m a (p + q) = rdBytes m a p ++ rdBytes m (a + p) q := by
  simp [rdBytes, List.range_add, Nat.add_assoc]

/-- Consecutive pieces of w bytes are the bytes of the whole. -/
theorem flatMap_rdBytes (m : Memory) (a w : Nat) : ∀ N, ((List.range N).flatMap fun n => rdBytes m (a + w * n) w) = rdBytes m a (w * N)
  | 0 => rfl
  | N + 1 => by
    rw [List.range_succ, List.flatMap_append, flatMap_rdBytes m a w N, Nat.mul_succ, rdBytes_add]
    simp

theorem leBytes_leNat : ∀ l : List Byte, leBytes l.length (leNat l) = l
  | [] => rfl
  | b :: l => by
    have hb : b.toNat < 256 := b.isLt
    have hdiv : leNat (b :: l) / 256 = leNat l := by rw [leNat]; omega
    have hlow : BitVec.ofNat 8 (leNat (b :: l)) = b := by
      apply BitVec.eq_of_toNat_eq
      rw [BitVec.toNat_ofNat, leNat]
      omega
    rw [List.length_cons, leBytes, hdiv, leBytes_leNat l, hlow]

section
variable {s : State} {c : Nat} {k : Cmd} {rest : List Cmd}

/-- A command of EP that acts at once: what its change of the shared state says of one of its parts holds after it. -/
theorem exec_epAtOnce {α : Type} (π : Shared → α) {v : α} {f : Shared → Shared} (hs : s.broken = none) (hm : (s.core c).mayStart 3 = true)
    (hq : ((s.core c).sh.engine 3).queue = k :: rest) (hb : s.startBad c k = none) (ho : s.startCmd c 3 k = s.atOnce c 3 k f)
    (he : ∀ y, (f y).engines = y.engines ∧ (f y).comp = y.comp)
    (hp : ∀ r, π (((f ((s.core c).sh.begin 3 r)).modEngine 3 fun g => { g with run := none, idleFor := 0 }).post 3) = v) :
    ∃ t, exec (.engineCommandStart c 3) s = .next t ∧ ((t.sh c).engine 3).queue = rest ∧ ((t.sh c).engine 3).run = none ∧
      (t.sh c).compRec 3 = postedComp ((s.core c).sh.compRec 3) ∧ π (t.sh c) = v := by
  obtain ⟨t, ht, hqueue, hrun, hcomp, r, hsh⟩ := exec_start_atOnce hs hm hq hb ho he
  exact ⟨t, ht, hqueue, hrun, hcomp, hsh ▸ hp r⟩

/-! ### What the start of each command is -/

theorem startCmd_go {e : Nat} {h : Hdr} {m : BitVec 4} {src : Port} (hk : k.ins = .go h m src) : s.startCmd c e k = s.startGo c e k src := by
  cases k
  cases hk
  exact (if_neg Bool.false_ne_true).trans (if_neg Bool.false_ne_true)
theorem startCmd_decksel {e : Nat} {h : Hdr} {units : BitVec 11} (hk : k.ins = .decksel h units) :
    s.startCmd c e k = s.atOnce c 2 k fun x => { x with ring := { x.ring with deckBase := 32 * units.toNat } } := by
  cases k
  cases hk
  exact (if_neg Bool.false_ne_true).trans (if_neg Bool.false_ne_true)
theorem startCmd_rpop {e : Nat} {h : Hdr} (hk : k.ins = .rpop h) : s.startCmd c e k = s.startPop c k := by
  cases k
  cases hk
  exact (if_neg Bool.false_ne_true).trans (if_neg Bool.false_ne_true)
theorem startCmd_rdiscard {e : Nat} {h : Hdr} (hk : k.ins = .rdiscard h) : s.startCmd c e k = s.startDiscard c k := by
  cases k
  cases hk
  exact (if_neg Bool.false_ne_true).trans (if_neg Bool.false_ne_true)
theorem startCmd_epcfgAct {e : Nat} {h : Hdr} {act : BitVec 3} (hk : k.ins = .epcfgAct h act) :
    s.startCmd c e k = s.startEpcfg c k fun x => epPut x 0 3 act.toNat := by
  cases k
  cases hk
  exact (if_neg Bool.false_ne_true).trans (if_neg Bool.false_ne_true)
theorem startCmd_epcfgBias {e : Nat} {h : Hdr} {hn : BitVec 6} (hk : k.ins = .epcfgBias h hn 1) :
    s.startCmd c e k = s.startEpcfg c k fun x => epPut (epPut x 8 1 1) 9 6 hn.toNat := by
  cases k
  cases hk
  exact (if_neg Bool.false_ne_true).trans (if_neg Bool.false_ne_true)
theorem startCmd_epcfgScale {e : Nat} {h : Hdr} {hn : BitVec 6} (hk : k.ins = .epcfgScale h hn 1) :
    s.startCmd c e k = s.startEpcfg c k fun x => epPut (epPut x 15 1 1) 16 6 hn.toNat := by
  cases k
  cases hk
  exact (if_neg Bool.false_ne_true).trans (if_neg Bool.false_ne_true)
theorem startCmd_epcfgLo {e : Nat} {h : Hdr} {p : Port} (hk : k.ins = .epcfgLo h p) :
    s.startCmd c e k = s.startEpcfg c k fun x => epPut x 32 32 (slice k.src.toNat 0 32) := by
  cases k
  cases hk
  exact (if_neg Bool.false_ne_true).trans (if_neg Bool.false_ne_true)
theorem startCmd_epcfgHi {e : Nat} {h : Hdr} {p : Port} (hk : k.ins = .epcfgHi h p) :
    s.startCmd c e k = s.startEpcfg c k fun x => epPut x 64 32 (slice k.src.toNat 0 32) := by
  cases k
  cases hk
  exact (if_neg Bool.false_ne_true).trans (if_neg Bool.false_ne_true)
theorem startCmd_mma {e : Nat} {h : Hdr} {close last : BitVec 1} {gang kc : BitVec 3} (hk : k.ins = .mma h close last gang kc)
    (hm : (s.soc c).matHeld = false) : s.startCmd c e k = s.startMma c k 0x66 true gang.toNat kc.toNat := by
  cases k
  cases hk
  exact (if_neg Bool.false_ne_true).trans (if_neg fun h => Bool.noConfusion (hm.symm.trans h))
theorem startCmd_cellw {e : Nat} {h : Hdr} {p : Port} {item : BitVec 4} {cell : BitVec 8} (hk : k.ins = .cellw h p item cell) :
    s.startCmd c e k = s.startCellw c k item.toNat := by
  cases k
  cases hk
  exact (if_neg Bool.false_ne_true).trans (if_neg Bool.false_ne_true)
theorem startCmd_stepdom {e : Nat} {h : Hdr} {dom kind : BitVec 2} {p : Port} (hk : k.ins = .stepdom h dom p kind) :
    s.startCmd c e k = s.startStepdom c k dom.toNat kind.toNat := by
  cases k
  cases hk
  exact (if_neg Bool.false_ne_true).trans (if_neg Bool.false_ne_true)
theorem startCmd_dasave {e : Nat} {h : Hdr} {hn : BitVec 6} (hk : k.ins = .dasave h hn) (hsent : (s.core c).sentBefore k = false) :
    s.startCmd c e k = s.startDasave c k hn.toNat := by
  cases k
  cases hk
  exact (if_neg fun h => Bool.noConfusion (hsent.symm.trans h)).trans (if_neg Bool.false_ne_true)
theorem startCmd_daload {e : Nat} {h : Hdr} {hn : BitVec 6} (hk : k.ins = .daload h hn) (hsent : (s.core c).sentBefore k = false) :
    s.startCmd c e k = s.startDaload c k hn.toNat := by
  cases k
  cases hk
  exact (if_neg fun h => Bool.noConfusion (hsent.symm.trans h)).trans (if_neg Bool.false_ne_true)

theorem nestRec_setNestRec_other (x : Shared) (e copy l j : Nat) (v : BitVec 128) (h : l ≠ j) :
    (x.setNestRec e copy j v).nestRec e copy l = x.nestRec e copy l := tabGet_set_other _ _ _ (by omega)
theorem nestRec_post (x : Shared) (d : Nat) (f : Engine → Engine) (r : NestRun) (e copy l : Nat) :
    (((x.setNestRun d r).modEngine d f).post d).nestRec e copy l = x.nestRec e copy l := rfl
theorem nestRunOf_post (x : Shared) (d : Nat) (f : Engine → Engine) (r : NestRun) :
    (((x.setNestRun d r).modEngine d f).post d).nestRunOf d = r := tabGet_set_same _ _ _ _
/-- The active copy of a table into which the records of a GO have been copied, and what else stands. -/
theorem nestCopied_rec (x : Shared) (e l : Nat) (f : Nat → BitVec 128) (n : Nat) :
    ((List.range n).foldl (fun x l => x.setNestRec e 1 l (f l)) x).nestRec e 1 l = if l < n then f l else x.nestRec e 1 l := by
  induction n with
  | zero => rfl
  | succ n ih =>
    rw [List.range_succ, List.foldl_append, List.foldl_cons, List.foldl_nil]
    by_cases h : l = n
    · subst h
      rw [if_pos (by omega)]
      simp [Shared.nestRec, Shared.setNestRec]
    · rw [nestRec_setNestRec_other _ _ _ _ _ _ h, ih]
      exact if_congr (by omega) rfl rfl
theorem nestCopied_others (x : Shared) (e : Nat) (f : Nat → BitVec 128) (n : Nat) :
    let y := (List.range n).foldl (fun x l => x.setNestRec e 1 l (f l)) x
    y.engines = x.engines ∧ y.comp = x.comp := by
  induction n with
  | zero => exact ⟨rfl, rfl⟩
  | succ n ih =>
    rw [List.range_succ, List.foldl_append, List.foldl_cons, List.foldl_nil]
    exact ih

/-- GO makes the record that it carries its engine's active table (R199). -/
theorem exec_go_start {e : Nat} {h : Hdr} {mask : BitVec 4} {src : Port} (hs : s.broken = none) (hm : (s.core c).mayStart e = true)
    (hq : ((s.core c).sh.engine e).queue = k :: rest) (hk : k.ins = .go h mask src) :
    ∃ t, exec (.engineCommandStart c e) s = .next t ∧ ((t.sh c).engine e).run = none ∧
      (t.sh c).compRec e = postedComp ((s.core c).sh.compRec e) ∧
      (t.sh c).nestRunOf e = { live := true, base := [(goBase src k.src e).toNat] } ∧
      ∀ l, l < 6 → (t.sh c).nestRec e 1 l = k.nest.getD l 0 := by
  obtain ⟨t, ht, -, hrun, hcomp, r, hsh⟩ := exec_start_atOnce hs hm hq (by simp [State.startBad, hk]) (startCmd_go hk)
    fun y => nestCopied_others y e (fun l => k.nest.getD l 0) 6
  refine ⟨t, ht, hrun, hcomp, ?_, fun l hl => ?_⟩
  · rw [hsh]; exact nestRunOf_post _ _ _ _
  · rw [hsh]
    refine (nestRec_post _ _ _ _ _ _ _).trans ?_
    exact (nestCopied_rec _ e l (fun l => k.nest.getD l 0) 6).trans (if_pos hl)
theorem elemWrite_broken {c : Nat} {h : Handle} {bs : List Byte} : (s.elemWrite c h bs).broken = s.broken := by
  unfold State.elemWrite
  split
  · rfl
  · exact heal_broken _ _

/-- An engine starts commands in a task that runs alone. -/
theorem tt_of_mayStart {x : Core} {e : Nat} (h : x.mayStart e = true) : x.tt = .run := by
  simp only [Core.mayStart, Bool.and_eq_true] at h
  simpa using h.1.1.1.1

/-- A command of MX whose next K-step is due asks for it (R132). -/
theorem advanceEngine_kDue {t : State} {r : Run} {h : Hdr} {close last : BitVec 1} {gang kc : BitVec 3} (hr : ((t.sh c).engine 2).run = some r)
    (hi : r.cmd.ins = .mma h close last gang kc) (hm : t.marks = []) (hk : r.kDue = true) (ht : (t.core c).tt = .run) :
    t.advanceEngine c 2 r = { t with due := t.due ++ [.kStep c] } := by
  unfold State.advanceEngine
  rw [hi]
  dsimp only
  rw [hr]
  have hb : t.unitBad c 2 r = none := if_pos (by simp [hm])
  rw [Option.getD_some, hb]
  dsimp only
  rw [if_pos ⟨rfl, hk⟩, if_pos ht]

/-- MMA draws its iteration and stands before its first K-step (R206). -/
theorem exec_mma_start {h : Hdr} {close last : BitVec 1} {gang kc : BitVec 3} {i : Iter} {y : Shared} (hs : s.broken = none)
    (hm : (s.core c).mayStart 2 = true) (hq : ((s.core c).sh.engine 2).queue = k :: rest) (hk : k.ins = .mma h close last gang kc)
    (hheld : (s.soc c).matHeld = false) (hmarks : s.marks = []) (hd : (s.core c).sh.draw 2 = some (i, y)) :
    let f := (s.soc c).fmtEntry ((s.soc c).entryFor i)
    let len := 16 * (kc.toNat + 1)
    let span := kSpan gang.toNat (fEdge f)
    (s.soc c).ring.d ≠ 0 → (s.sh c).ring.openTile = false → 0 ≤ i.op2 → i.op2 + len ≤ 128 → len % span = 0 →
    (fA f ≤ 2 → i.op2 % fEdge f = 0 ∧ i.op1 % fEdge f = 0) → gangOf (fA f) (fB f) = some gang.toNat →
    ∃ t q, exec (.engineCommandStart c 2) s = .next t ∧ ((t.sh c).engine 2).run = some q ∧ ((t.sh c).engine 2).queue = rest ∧
      q.iter = [i.op0, i.op1, i.op2] ∧ q.steps = 16 * (len / span) ∧ q.progress = 0 ∧ q.entry = (s.soc c).entryFor i ∧
      (t.sh c).nestRunOf 2 = y.nestRunOf 2 := by
  intro f len span hring hopen hop hlen hspan hedge hgang
  have hbad : ¬ ((s.soc c).ring.d = 0 ∨ (s.sh c).ring.openTile == true ∨ i.op2 < 0 ∨ 128 < i.op2 + len ∨ len % span ≠ 0 ∨
      (fA f ≤ 2 ∧ (i.op2 % fEdge f ≠ 0 ∨ i.op1 % fEdge f ≠ 0)) ∨ gangOf (fA f) (fB f) ≠ some gang.toNat) := by
    rintro (h | h | h | h | h | ⟨h, h'⟩ | h)
    · exact hring h
    · rw [hopen] at h; cases h
    · omega
    · omega
    · exact h hspan
    · obtain ⟨h1, h2⟩ := hedge h
      exact h'.elim (· h1) (· h2)
    · exact h hgang
  let q : Run := { cmd := k, iter := [i.op0, i.op1, i.op2], idx := i.idx, entry := (s.soc c).entryFor i, fmt := f, edge := fEdge f, span,
                   cyc := span / kPerCycle gang.toNat (fA f), steps := 16 * (len / span), left := some 0 }
  have hstart : s.startCmd c 2 k = .go (s.modSh c fun _ => y.begin 2 q) := by
    rw [startCmd_mma hk hheld]
    unfold State.startMma
    rw [show (s.sh c).draw 2 = some (i, y) from hd]
    exact if_neg hbad
  let t := s.modSh c fun _ => y.begin 2 q
  have hrun : ((t.sh c).engine 2).run = some q := by simp [t]
  have hsteps : 0 < q.steps := by
    have hpos : 0 < len / span := Nat.div_pos (Nat.le_of_dvd (by omega) (Nat.dvd_of_mod_eq_zero hspan)) ?_
    · show 0 < 16 * (len / span)
      omega
    · rcases Nat.eq_zero_or_pos span with h0 | h0
      · rw [h0, Nat.mod_zero] at hspan
        omega
      · exact h0
  have hadv := advanceEngine_kDue (t := t) hrun hk hmarks (by simp [Run.kDue, q] at hsteps ⊢; exact hsteps)
    (by simpa [t, State.modSh] using tt_of_mayStart hm)
  have hqueue : (y.engine 2).queue = k :: rest := by
    have hy : (s.core c).sh.nestLeft 2 = true := by
      by_contra hn
      simp [Shared.draw, hn] at hd
    unfold Shared.draw at hd
    rw [hy] at hd
    obtain ⟨-, rfl⟩ : _ ∧ _ = y := by simpa using hd
    exact hq
  refine ⟨{ t with due := t.due ++ [.kStep c] }, q, ?_, hrun, ?_, rfl, rfl, rfl, rfl, ?_⟩
  · rw [exec_start hm hq (by simp [State.startBad, hmarks]), hstart]
    unfold afterStart
    dsimp only
    rw [show (((s.modSh c fun _ => y.begin 2 q).sh c).engine 2).run = some q from hrun]
    dsimp only
    rw [if_pos rfl, hadv]
    exact answer_whole hs
  · show ((t.sh c).engine 2).queue = rest
    simp [t, hqueue]
  · show (t.sh c).nestRunOf 2 = y.nestRunOf 2
    rw [sh_modSh_same]
    rfl

/-! ### Units of work -/

@[simp] theorem setRun_mat (x : Shared) (e : Nat) (r : Run) : (x.setRun e r).mat = x.mat := rfl

theorem sh_modCore_flight (s : State) (c : Nat) (l : List Flight) :
    (s.modCore c fun z => { z with flight := z.flight ++ l }).sh c = s.sh c := by simp [State.sh]

@[simp] theorem setRun_ring (x : Shared) (e : Nat) (r : Run) : (x.setRun e r).ring = x.ring := rfl


/-- A unit of an ASTAGE: the bytes that it reads go to its slot, which is FULL after the last (R203). -/
theorem advanceAstage_unit {r : Run} {cn kn : Nat} {bs : List Byte} {u : State} (hw : r.waiting = false) :
    let slot := (s.sh c).ring.slot (r.iter.getD 1 0)
    let ms := stageUnitOf (r.caps.headD {}) r.fmt (r.cmd.src.setWidth 64)
      { idx := r.idx, op0 := r.iter.getD 0 0, op1 := r.iter.getD 1 0, op2 := r.iter.getD 2 0 } kn (r.progress / 32)
    s.engRead c 0 cn (r.caps.headD {}) (ms.map Prod.snd) = .ok (bs, u) →
    ∃ t, s.advanceAstage c r cn kn = .go t ∧
      (t.sh c).mat = (ms.zip bs).foldl (fun m p => wrByte m ((u.sh c).ring.stageAt slot + p.1.1) p.2) (u.sh c).mat ∧
      tabGet 0 (t.sh c).ring.stage slot = (if 32 * stageUnits r.fmt ≤ r.progress + 32 then 2 else 1) ∧
      ((t.sh c).engine 0).run =
        (if 32 * stageUnits r.fmt ≤ r.progress + 32 then none else some { r with progress := r.progress + 32, waiting := false }) := by
  intro slot ms hread
  unfold State.advanceAstage
  rw [if_neg (by simp [hw])]
  dsimp only
  rw [hread]
  dsimp only
  split_ifs with hlast
  · refine ⟨_, rfl, ?_, ?_, ?_⟩
    · rw [finishCommand_mat, heal_sh, sh_modSh_same]
    · rw [finishCommand_ring, heal_sh, sh_modSh_same]
      simp [slot]
    · rw [finishCommand_engine]
  · refine ⟨_, rfl, ?_, ?_, ?_⟩
    · rw [sh_modSh_same, heal_sh, sh_modSh_same]
      rfl
    · rw [sh_modSh_same, heal_sh, sh_modSh_same, setRun_ring]
      simp [slot]
    · rw [sh_modSh_same, engine_setRun_same]

theorem translateAll_length (ctx obj : Nat) : ∀ (ps : List Nat) {s : State} {r : List (Bool × Nat) × State},
    s.translateAll c ctx obj ps = .ok r → r.1.length = ps.length
  | [], s, r, h => by obtain rfl : ([], s) = r := by simpa [State.translateAll] using h
                      rfl
  | a :: ps, s, r, h => by
    unfold State.translateAll at h
    split at h
    · split at h
      · rename_i hl
        obtain rfl := Except.ok.inj h
        simpa using translateAll_length ctx obj ps hl
      · cases h
    · cases h

theorem coreRead_length (agent : Nat) : ∀ (l : List (Bool × Nat)) {s : State}, (s.coreRead c agent l).1.length = l.length
  | [], _ => rfl
  | x :: l, s => by
    unfold State.coreRead
    simp [coreRead_length agent l]

theorem engAddr_length {e reg : Nat} {cap : Cap} {w : Bool} {ps : List Nat} {r : List (Bool × Nat) × State}
    (h : s.engAddr c e reg cap w ps = .ok r) : r.1.length = ps.length := by
  unfold State.engAddr at h
  split at h
  · rename_i ht
    rw [← Except.ok.inj h]
    have hl := translateAll_length _ _ _ ht
    exact hl
  all_goals cases h

theorem engRead_length {e reg : Nat} {cap : Cap} {ps : List Int} {r : List Byte × State} (h : s.engRead c e reg cap ps = .ok r) :
    r.1.length = ps.length := by
  unfold State.engRead at h
  split at h
  · cases h
  · split at h
    · cases h
    · rename_i hl
      split at h
      · cases h
      · obtain rfl := Except.ok.inj h
        rw [coreRead_length]
        simpa using engAddr_length hl

/-- An end gives as many bytes as are asked of it. -/
theorem endRead_length {a : CopyEnd} {p : Int} {n : Nat} {r : List Byte × State} (h : s.endRead c a p n = .ok r) : r.1.length = n := by
  cases a with
  | cap reg k => simpa using engRead_length h
  | tile m g =>
    obtain rfl := Except.ok.inj h
    exact rdBytes_length _ _ _

theorem tagFinish_tile (x : Shared) (tag n : Nat) : (x.tagFinish tag).tile n = x.tile n := by
  unfold Shared.tagFinish
  dsimp only
  split_ifs <;> rfl

/-- A sector of a COPY moves, and the last one finishes its tag (R293). -/
theorem advanceCopy_moves {r : Run} {dk sk : Bool} {dst src : Nat} :
    let w := r.cmd.src.toNat
    let e := s.copyEnds c r.cmd dk sk dst src
    let a := e.1.withCap (r.caps.getD 0 {})
    let b := e.2.1.withCap (r.caps.getD 1 {})
    let from_ := a.start + (32 * slice w 32 16 + r.progress : Nat)
    let into := b.start + (32 * slice w 48 16 + r.progress : Nat)
    let n := min (32 - b.phase into) (slice w 0 32 - r.progress)
    r.progress < slice w 0 32 → ∀ bs u v, s.endRead c a from_ n = .ok (bs, u) → u.endWrite c b into bs = .ok v →
    s.advanceCopy c r dk sk dst src = .go (if r.progress + n = slice w 0 32 then v.finishTag c r.cmd
      else v.modSh c fun y => y.setRun 4 { r with progress := r.progress + n }) := by
  intro w e a b from_ into n hlt bs u v hread hwrite
  have hmove : s.moveBytes c a b from_ into n = .ok v := by
    unfold State.moveBytes
    rw [hread]
    exact hwrite
  refine (if_neg (Nat.not_le.2 hlt)).trans ?_
  rw [show s.moveBytes c (CopyEnd.withCap (s.copyEnds c r.cmd dk sk dst src).1 (r.caps.getD 0 {})) _ _ _ _ = .ok v from hmove]
  dsimp only
  split_ifs <;> rfl

/-- A unit of a DECKLD: its bytes go to every slice of the deck (R204). -/
theorem advanceDeckld_unit {r : Run} {cn units : Nat} {bs : List Byte} {u : State} :
    let w := r.cmd.src.toNat
    let cells := (List.range 64).flatMap fun n => (List.range 32).map fun i => (n, i)
    s.engRead c 0 cn (r.caps.headD {}) (cells.map fun p =>
      (((r.caps.headD {}).cur + slice w 0 32 + p.1 * 32 * units + 32 * r.progress + p.2 : Nat) : Int)) = .ok (bs, u) →
    ∃ t, s.advanceDeckld c r cn units = .go t ∧
      (t.sh c).deck = (cells.zip bs).foldl (fun m p => wrByte m (49152 * p.1.1 + slice w 32 16 + 32 * r.progress + p.1.2) p.2) (u.sh c).deck ∧
      ((t.sh c).engine 0).run = (if r.progress + 1 = units then none else some { r with progress := r.progress + 1 }) := by
  intro w cells hread
  unfold State.advanceDeckld
  dsimp only
  rw [hread]
  dsimp only
  split_ifs with hlast
  · refine ⟨_, rfl, ?_, ?_⟩
    · rw [finishCommand_deck, heal_sh, sh_modSh_same]
    · rw [finishCommand_engine]
  · refine ⟨_, rfl, ?_, ?_⟩
    · rw [sh_modSh_same, heal_sh, sh_modSh_same]
      rfl
    · rw [sh_modSh_same, engine_setRun_same]

theorem tileBytes_of_tile {t : State} {h : Handle} (hb : h.bound = none) (ht : (t.sh c).tile h.tile = (s.sh c).tile h.tile) :
    t.tileBytes c h = s.tileBytes c h := by
  unfold State.tileBytes
  rw [hb]
  exact congrArg TileStore.bytes ht

@[simp] theorem tileWrite_ring (s : State) (c : Nat) (h : Handle) (off : Nat) (bs : List Byte) :
    ((s.tileWrite c h off bs).sh c).ring = (s.sh c).ring := by
  unfold State.tileWrite
  split
  · rfl
  · rw [heal_sh, sh_modSh_same]
    rfl

/-- An element that nothing is added to, scales or activates passes the epilogue as it is (R143). -/
theorem epElem_plain {k : Cmd} {op1 m n : Nat} (hbias : epBias (s.sh c).epcfg = none) (hscale : epScale (s.sh c).epcfg = none)
    (hact : epAct (s.sh c).epcfg = 0) :
    (s.epElem c k op1 m n).1 = leNat (rdBytes (s.sh c).mat (16384 * ((s.sh c).ring.tl % max 1 (s.sh c).ring.d) + 4 * (64 * m + n)) 4) := by
  unfold State.epElem
  dsimp only
  rw [hbias, hscale]
  unfold activate
  dsimp only
  rw [if_pos hact]

/-- The bytes of an output row of FP32 (R143). -/
theorem epRow_fp32 {r : Run} (h : Handle) (m : Nat) (hout : fOut r.fmt = 8) :
    (s.epRow c r h m).1 = [(((r.iter.getD 0 0).toNat + m) * dPitch h.desc + 4 * (r.iter.getD 2 0).toNat,
      (List.range 64).flatMap fun n => leBytes 4 (s.epElem c r.cmd (r.iter.getD 1 0).toNat m n).1)] := by
  unfold State.epRow
  have hw : elemBytes 8 = 4 := by decide
  simp [hout, isMx, hw, Nat.mul_comm, List.flatMap_map]

/-- A row of an FP32 EPRUN: its 64 elements go to its tile, and the last row drains the ring's tile (R143, R211). -/
theorem advanceEprun_row {r : Run} {hn : Nat} :
    let g := r.cmd.handle (s.sh c) hn
    let place := ((r.iter.getD 0 0).toNat + r.progress) * dPitch g.desc + 4 * (r.iter.getD 2 0).toNat
    let row := (List.range 64).flatMap fun n => leBytes 4 (s.epElem c r.cmd (r.iter.getD 1 0).toNat r.progress n).1
    fOut r.fmt = 8 → g.bound = none → r.progress < 64 →
    let t := s.advanceEprun c r hn
    t.tileBytes c g = wrBytes (s.tileBytes c g) place row ∧
    (r.progress = 63 → ((t.sh c).engine 3).run = none ∧ (t.sh c).ring.tl = (s.sh c).ring.tl + 1 ∧ (t.sh c).ring.current = false) ∧
    (r.progress < 63 → ∃ q, ((t.sh c).engine 3).run = some q ∧ q.progress = r.progress + 1) := by
  intro g place row hout hbound hlt t
  have htile : t.tileBytes c g = (s.tileWrite c g place row).tileBytes c g ∧
      (r.progress = 63 → ((t.sh c).engine 3).run = none ∧ (t.sh c).ring.tl = (s.sh c).ring.tl + 1 ∧ (t.sh c).ring.current = false) ∧
      (r.progress < 63 → ∃ q, ((t.sh c).engine 3).run = some q ∧ q.progress = r.progress + 1) := by
    simp only [t, State.advanceEprun]
    rw [epRow_fp32 _ _ hout]
    rw [List.foldl_cons, List.foldl_nil]
    by_cases hp : r.progress + 1 < 64
    · rw [if_pos hp]
      refine ⟨?_, fun h => by omega, fun _ => ⟨_, by rw [sh_modSh_same, engine_setRun_same], rfl⟩⟩
      exact tileBytes_of_tile hbound (by rw [sh_modSh_same]; rfl)
    · rw [if_neg hp]
      refine ⟨tileBytes_of_tile hbound ?_, fun _ => ?_, fun h => by omega⟩
      · split_ifs
        · rw [finishCommand_tile, sh_modSh_same]; rfl
        · rw [sh_modCore_flight, finishCommand_tile, sh_modSh_same]; rfl
      · split_ifs
        · simp
        · simp [sh_modCore_flight]
  rw [htile.1, tileBytes_tileWrite _ _ _ _ _ hbound]
  exact ⟨rfl, htile.2⟩

/-- An MMA that has taken its K-steps closes its tile and empties its slot as it says, and posts (R206). -/
theorem finishMma_effect {r : Run} (close last : BitVec 1) :
    let t := s.finishMma c r close last
    ((t.sh c).engine 2).run = none ∧ (t.sh c).compRec 2 = postedComp ((s.sh c).compRec 2) ∧
      (t.sh c).ring.hd = (s.sh c).ring.hd + close.toNat ∧
      (last = 1 → tabGet 0 (t.sh c).ring.stage ((s.sh c).ring.slot (r.iter.getD 0 0)) = 0) := by
  intro t
  have hclose : close = 0 ∨ close = 1 := by revert close; decide
  refine ⟨?_, ?_, ?_, fun hlast => ?_⟩
  · simp [t, State.finishMma]
  · simp only [t, State.finishMma, finishCommand_comp, sh_modSh_same]
    rfl
  · simp only [t, State.finishMma, finishCommand_ring, sh_modSh_same]
    rcases hclose with rfl | rfl <;> split_ifs <;> simp_all
  · simp only [t, State.finishMma, finishCommand_ring, sh_modSh_same, hlast]
    rcases hclose with rfl | rfl <;> simp

/-- The plan of the next K-step of a command (R132). -/
def kPlanOf (s : State) (c : Nat) (r : Run) : KPlan :=
  { e := (s.soc c).fmtEntry r.entry, stage := (s.sh c).ring.stageAt ((s.sh c).ring.slot (r.iter.getD 0 0)),
    stageK := (r.iter.getD 2 0).toNat + r.progress / 16 * r.span, deckBase := (s.sh c).ring.deckBase,
    deckK := r.iter.getD 1 0 + (r.progress / 16 * r.span : Nat), span := r.span }

section
variable {r : Run} {h : Hdr} {close last : BitVec 1} {gang kc : BitVec 3} (hs : s.broken = none)
  (hr : ((s.core c).sh.engine 2).run = some r) (hi : r.cmd.ins = .mma h close last gang kc) (hk : r.kDue = true)
include hs hr hi hk

omit hs in
theorem exec_kStep_go {t : State} {q : Run} (ho : s.kStep c r 0x66 true gang.toNat = .go t) (hq : ((t.sh c).engine 2).run = some q)
    (hb : t.broken = none) : ∃ d, exec (.kStep c) s = .next { t with due := d } := by
  have hr' : ((s.sh c).engine 2).run = some r := hr
  have hnow : s.kStepNow c =
      if q.left = some 0 ∧ q.steps ≤ q.progress then { t with due := t.due ++ [.engineCommandFinish c 2] } else t := by
    unfold State.kStepNow
    simp only [hr', hk, hi, Bool.not_true, Bool.false_eq_true, if_false, ho, hq]
  have he : exec (.kStep c) s = answer (s.kStepNow c) := rfl
  rw [he, hnow]
  split_ifs
  · exact ⟨_, answer_whole hb⟩
  · exact ⟨t.due, answer_whole hb⟩

/-- A K-step waits for its stage slot (R132, R200). -/
theorem exec_kStep_waits (hslot : tabGet 0 (s.soc c).ring.stage ((s.sh c).ring.slot (r.iter.getD 0 0)) ≠ 2) : exec (.kStep c) s = .next s := by
  have ho : s.kStep c r 0x66 true gang.toNat = .wait := if_pos (.inl hslot)
  have hr' : ((s.sh c).engine 2).run = some r := hr
  refine Eq.trans (b := answer (s.kStepNow c)) rfl ?_
  unfold State.kStepNow
  simp only [hr', hk, hi, ho, Bool.not_true, Bool.false_eq_true, if_false]
  exact answer_whole hs

/-- A K-step takes one row quad; the first one of a tile opens it with zeros (R132, R200, R206). -/
theorem exec_kStep_takes (hslot : tabGet 0 (s.soc c).ring.stage ((s.sh c).ring.slot (r.iter.getD 0 0)) = 2)
    (hroom : (s.soc c).ring.hd - (s.soc c).ring.tl < (s.soc c).ring.d)
    (hedge : fEdge (kPlanOf s c r).e = r.edge) (hgang : gangOf (fA (kPlanOf s c r).e) (fB (kPlanOf s c r).e) = some gang.toNat)
    (hdeck : (kPlanOf s c r).inDeck = true) :
    let tile := 16384 * ((s.sh c).ring.hd % max 1 (s.sh c).ring.d)
    let mat := if r.progress = 0 then zeroBytes (s.sh c).mat tile 16384 else (s.sh c).mat
    ∃ t q, exec (.kStep c) s = .next t ∧ ((t.sh c).engine 2).run = some q ∧ q.progress = r.progress + 1 ∧
      (t.sh c).ring.openTile = true ∧ (t.sh c).mat = ((kPlanOf s c r).run mat (s.sh c).deck tile (r.progress % 16)).1 := by
  intro tile mat
  have hwait : ¬ (tabGet 0 (s.soc c).ring.stage ((s.sh c).ring.slot (r.iter.getD 0 0)) ≠ 2 ∨
      ((true && r.progress == 0) && decide ((s.soc c).ring.d ≤ (s.soc c).ring.hd - (s.soc c).ring.tl)) = true) := by
    rintro (h | h)
    · exact h hslot
    · simp at h
      omega
  have hgood : ¬ (fEdge (kPlanOf s c r).e ≠ r.edge ∨ gangOf (fA (kPlanOf s c r).e) (fB (kPlanOf s c r).e) ≠ some gang.toNat) := by
    rintro (h | h)
    · exact h hedge
    · exact h hgang
  have hin : ¬ (!(kPlanOf s c r).inDeck) = true := by simp [hdeck]
  obtain ⟨t, ho, hb, q, hq, hp, hopen, hmat⟩ : ∃ t, s.kStep c r 0x66 true gang.toNat = .go t ∧ t.broken = none ∧
      ∃ q, ((t.sh c).engine 2).run = some q ∧ q.progress = r.progress + 1 ∧ (t.sh c).ring.openTile = true ∧
        (t.sh c).mat = ((kPlanOf s c r).run mat (s.sh c).deck tile (r.progress % 16)).1 := by
    refine ⟨_, (if_neg hwait).trans ((if_neg hgood).trans (if_neg hin)), ?_⟩
    have hflight (u : State) (fl : Flags) (l : List Flight) : let v := if fl = 0 then u else u.modCore c fun z => { z with flight := z.flight ++ l }
        v.sh c = u.sh c ∧ v.broken = u.broken := by
      dsimp only
      split_ifs
      · exact ⟨rfl, rfl⟩
      · exact ⟨sh_modCore_flight _ _ _, rfl⟩
    have hheal (u : State) (b : Prop) [Decidable b] (p : Mark → Bool) : let v := if b then u.heal p else u
        v.sh c = u.sh c ∧ v.broken = u.broken := by
      dsimp only
      split_ifs
      · exact ⟨heal_sh _ _ _, heal_broken _ _⟩
      · exact ⟨rfl, rfl⟩
    have hcount (u : State) : (u.modCore c fun z => z.count 8).sh c = u.sh c ∧ (u.modCore c fun z => z.count 8).broken = u.broken :=
      ⟨by simp [State.sh, Core.count], rfl⟩
    rw [(hflight _ _ _).1, (hflight _ _ _).2, (hheal _ _ _).1, (hheal _ _ _).2, (hcount _).1, (hcount _).2, sh_modSh_same]
    refine ⟨hs, _, by rw [engine_setRun_same], rfl, rfl, ?_⟩
    have hmat : mat = if (true && r.progress == 0) = true then zeroBytes (s.sh c).mat tile 16384 else (s.sh c).mat := by simp [mat]
    rw [hmat, setRun_mat]
    simp only [kPlanOf, tile]
  obtain ⟨d, hd⟩ := exec_kStep_go hr hi hk ho hq hb
  exact ⟨{ t with due := d }, q, hd, hq, hp, hopen, hmat⟩
end

end

/-- Settles O33. -/
theorem engineCommandsStartStepAndFinish : Obligations.EngineCommandsStartStepAndFinish := by
  unfold Obligations.EngineCommandsStartStepAndFinish
  intro c s hs
  refine ⟨?_, ?_, ?_, ?_, ?_, ?_, ?_, ?_, ?_, ?_, ?_, ?_, ?_, ?_, ?_, ?_⟩
  · intro e hm
    refine Eq.trans (b := answer (s.engineStart c e)) rfl ?_
    unfold State.engineStart
    dsimp only
    rw [hm]
    exact answer_whole hs
  · intro k rest h units hm hq hk
    obtain ⟨t, ht, hqueue, hrun, hcomp, r, hsh⟩ :=
      exec_start_atOnce hs hm hq (by simp [State.startBad, hk]) (startCmd_decksel hk) fun _ => ⟨rfl, rfl⟩
    exact ⟨t, ht, by rw [hsh]; rfl, hqueue, hrun, hcomp⟩
  · intro k rest h hm hq hk hd
    exact exec_start_fault hs hm hq (by simp [State.startBad, hk]) ((startCmd_rpop hk).trans (if_pos hd))
  · intro k rest hm hq
    refine ⟨fun h hk hd hr => ?_, fun h hk hd hr => ?_, fun h hk hd hcur => ?_, fun h act hk => ?_, fun h hn hk => ?_, fun h hn hk => ?_,
      fun h p hk => ?_, fun h p hk => ?_⟩
    · exact exec_start_wait hs hm hq (by simp [State.startBad, hk]) ((startCmd_rpop hk).trans ((if_neg hd).trans (if_pos hr)))
    · exact exec_epAtOnce Shared.ring hs hm hq (by simp [State.startBad, hk])
        ((startCmd_rpop hk).trans ((if_neg hd).trans (if_neg (Nat.not_le.2 hr)))) (fun _ => ⟨rfl, rfl⟩) fun _ => rfl
    · have hn : ¬ ((s.soc c).ring.d = 0 ∨ (!(s.sh c).ring.current) = true) := by
        rintro (h | h)
        · exact hd h
        · rw [show (s.sh c).ring.current = true from hcur] at h
          cases h
      exact exec_epAtOnce Shared.ring hs hm hq (by simp [State.startBad, hk]) ((startCmd_rdiscard hk).trans (if_neg hn)) (fun _ => ⟨rfl, rfl⟩) fun _ => rfl
    · exact exec_epAtOnce Shared.epcfg hs hm hq (by simp [State.startBad, hk]) (startCmd_epcfgAct hk) (fun _ => ⟨rfl, rfl⟩) fun _ => rfl
    · exact exec_epAtOnce Shared.epcfg hs hm hq (by simp [State.startBad, hk]) (startCmd_epcfgBias hk) (fun _ => ⟨rfl, rfl⟩) fun _ => rfl
    · exact exec_epAtOnce Shared.epcfg hs hm hq (by simp [State.startBad, hk]) (startCmd_epcfgScale hk) (fun _ => ⟨rfl, rfl⟩) fun _ => rfl
    · exact exec_epAtOnce Shared.epcfg hs hm hq (by simp [State.startBad, hk]) (startCmd_epcfgLo hk) (fun _ => ⟨rfl, rfl⟩) fun _ => rfl
    · exact exec_epAtOnce Shared.epcfg hs hm hq (by simp [State.startBad, hk]) (startCmd_epcfgHi hk) (fun _ => ⟨rfl, rfl⟩) fun _ => rfl
  · intro e k rest h mask src he hm hq hk
    exact exec_go_start hs hm hq hk
  · intro k rest h close last gang kc i y hm hq hk hheld hmarks hd
    exact exec_mma_start hs hm hq hk hheld hmarks hd
  · intro k rest hm hq
    refine ⟨fun h p item cell hk => ⟨fun hv => ?_, fun hv => ?_⟩, fun h dom p kind hk hrun => ?_⟩
    · exact exec_start_fault hs hm hq (by simp [State.startBad, hk]) ((startCmd_cellw hk).trans (if_pos (by simpa [BitVec.toNat_eq] using hv)))
    · exact exec_start_begins hm hq (by simp [State.startBad, hk]) ((startCmd_cellw hk).trans (if_neg (by simpa [BitVec.toNat_eq] using hv)))
        hs (by simp; rfl) (by simp)
    · exact exec_start_fault hs hm hq (by simp [State.startBad, hk]) ((startCmd_stepdom hk).trans (if_pos (.inl hrun)))
  · intro r hr hl
    refine ⟨fun h p item cell hi => ?_, fun h hn p keep hi hmarks => ?_, fun h hn hi => ?_, fun h hn hi hmarks => ?_⟩
    · exact exec_finish hr hl (by simp [State.advanceCmd, State.finishDa, hi]) (by simp) hs
    · refine exec_finish hr hl ?_ (by simp) hs
      simp only [State.advanceCmd, State.finishDa, hi, if_pos]
      rw [State.healCells, heal_unmarked _ (by exact hmarks)]
    · exact exec_finish hr hl (by simp [State.advanceCmd, State.finishDa, hi]; rfl) (by simp) (elemWrite_broken.trans hs)
    · refine exec_finish hr hl ?_ (by simp) hs
      simp only [State.advanceCmd, State.finishDa, hi, if_pos]
      rw [State.healCells, heal_unmarked _ (by exact hmarks)]
  · intro k rest h hn hm hq hmarks hsent g hg
    have hb : s.startBad c k = none := by simp [State.startBad, hmarks]
    refine ⟨fun hk => ?_, fun hk hrun hok => ?_⟩
    · have ho : s.startCmd c 5 k = .go (s.modSh c fun y => y.begin 5 { cmd := k, data := (s.soc c).dda.image, left := some 263 }) := by
        rw [startCmd_dasave hk hsent]
        unfold State.startDasave
        rw [show daHandle (k.handle (s.sh c) hn.toNat) hn.toNat 8448 = none from hg]
      exact exec_start_begins hm hq hb ho hs (by simp; rfl) (by simp)
    · have hstill : ([0, 1, 2, 3].any fun d => ((s.sh c).dda.dom d).run) = false := by
        have h (d : Nat) (hd : d < 4) : ((s.sh c).dda.dom d).run = false := hrun d hd
        simp [h]
      have ho : s.startCmd c 5 k = .go (s.modSh c fun y => y.begin 5 { cmd := k, data := s.elemRead c g 8448, left := some 263 }) := by
        rw [startCmd_daload hk hsent]
        unfold State.startDaload
        dsimp only
        rw [hstill, show daHandle (k.handle (s.sh c) hn.toNat) hn.toNat 8448 = none from hg]
        dsimp only
        rw [show (Dda.ofImage (s.elemRead c (k.handle (s.sh c) hn.toNat) 8448)).2 = true from hok]
        rfl
      exact exec_start_begins hm hq hb ho hs (by simp; rfl) (by simp)
  · intro r h cn kn p hi slot ms
    have hadv : s.advanceCmd c 0 r = s.advanceAstage c r cn.toNat (16 * (kn.toNat + 1)) := by simp [State.advanceCmd, hi]
    refine ⟨fun hw hslot => hadv.trans (if_pos ⟨hw, hslot⟩), fun bs u hw hread => ?_⟩
    obtain ⟨t, ht, hmat, hstage, hrun⟩ := advanceAstage_unit hw hread
    refine ⟨t, hadv.trans ht, fun i m b hm hb hlast => ?_, fun a ha => ?_, hstage, hrun⟩
    · rw [hmat]
      refine rdByte_foldl_last (fun p : (Nat × Int) × Byte => (u.sh c).ring.stageAt slot + p.1.1) Prod.snd (x := (m, b)) _ _ i
        (List.getElem?_zip_eq_some.2 ⟨hm, hb⟩) fun j y hij hy => ?_
      have := hlast j y.1 hij (List.getElem?_zip_eq_some.1 hy).1
      dsimp only
      omega
    · rw [hmat]
      refine rdByte_foldl_other _ _ _ _ fun x hx => ha x.1 ?_
      exact (List.of_mem_zip hx).1
  · intro r h cn p units bs u hi w at_ hfit hread
    have hadv : s.advanceCmd c 0 r = s.advanceDeckld c r cn.toNat units.toNat := by simp [State.advanceCmd, hi]
    obtain ⟨t, ht, hdeck, hrun⟩ := advanceDeckld_unit hread
    refine ⟨t, hadv.trans ht, fun n i b hn hi' hb => ?_, fun a ha => ?_, hrun⟩
    · rw [hdeck]
      have hcell : ((List.range 64).flatMap fun n => (List.range 32).map fun i => (n, i))[32 * n + i]? = some (n, i) := by
        rw [getElem?_pairs 32 _ (by omega), if_pos (by omega)]
        congr 2 <;> omega
      have hplace : 49152 * n + at_ + i = 49152 * n + slice w 32 16 + 32 * r.progress + i := by omega
      rw [hplace]
      refine rdByte_foldl_last (fun p : (Nat × Nat) × Byte => 49152 * p.1.1 + slice w 32 16 + 32 * r.progress + p.1.2) Prod.snd
        (x := ((n, i), b)) _ _ (32 * n + i) (List.getElem?_zip_eq_some.2 ⟨hcell, hb⟩) fun j y hij hy => ?_
      have hy1 := (List.getElem?_zip_eq_some.1 hy).1
      rw [getElem?_pairs 32 _ (by omega)] at hy1
      obtain ⟨hj, hy1⟩ := Option.ite_none_right_eq_some.1 hy1
      show 49152 * y.1.1 + slice w 32 16 + 32 * r.progress + y.1.2 ≠ 49152 * n + slice w 32 16 + 32 * r.progress + i
      rw [← Option.some.inj hy1]
      dsimp only
      omega
    · rw [hdeck]
      refine rdByte_foldl_other _ _ _ _ fun x hx => ?_
      obtain ⟨n, hn, hx1⟩ := List.mem_flatMap.1 (List.of_mem_zip hx).1
      obtain ⟨i, hi, hx1⟩ := List.mem_map.1 hx1
      have := ha n i (List.mem_range.1 hn) (List.mem_range.1 hi)
      show a ≠ 49152 * x.1.1 + slice w 32 16 + 32 * r.progress + x.1.2
      rw [← hx1]
      dsimp only
      omega
  · intro r h hn hi g place hout hbound hlt
    obtain ⟨hbytes, hend, hmore⟩ := advanceEprun_row (s := s) (c := c) (hn := hn.toNat) hout hbound hlt
    refine ⟨s.advanceEprun c r hn.toNat, by simp [State.advanceCmd, hi], fun n hn' => ?_, fun hbias hscale hact => ?_, hend, hmore⟩
    · have hrow := flatMap_range_slice (fun n => leBytes 4 (s.epElem c r.cmd (r.iter.getD 1 0).toNat r.progress n).1) 4
        (fun n => leBytes_length 4 _) 64 n hn'
      have hbytes' : (s.advanceEprun c r hn.toNat).tileBytes c g = wrBytes _ place _ := hbytes
      unfold State.tileRead
      dsimp only
      rw [hbytes', rdBytes_wrBytes _ _ _ _ _ (by simp [List.length_flatMap, leBytes_length]; omega), hrow, leNat_leBytes]
      norm_num
    · have hbytes' : (s.advanceEprun c r hn.toNat).tileBytes c g = wrBytes _ place _ := hbytes
      have helem (n : Nat) : leBytes 4 (s.epElem c r.cmd (r.iter.getD 1 0).toNat r.progress n).1 =
          rdBytes (s.sh c).mat (16384 * ((s.sh c).ring.tl % max 1 (s.sh c).ring.d) + 256 * r.progress + 4 * n) 4 := by
        rw [show 16384 * ((s.sh c).ring.tl % max 1 (s.sh c).ring.d) + 256 * r.progress + 4 * n =
          16384 * ((s.sh c).ring.tl % max 1 (s.sh c).ring.d) + 4 * (64 * r.progress + n) by ring]
        rw [epElem_plain hbias hscale hact]
        have h4 := leBytes_leNat (rdBytes (s.sh c).mat (16384 * ((s.sh c).ring.tl % max 1 (s.sh c).ring.d) + 4 * (64 * r.progress + n)) 4)
        rw [rdBytes_length] at h4
        exact h4
      unfold State.tileRead
      dsimp only
      rw [hbytes']
      refine (rdBytes_wrBytes _ place 0 256 _ (by simp [List.length_flatMap, leBytes_length])).trans ?_
      rw [List.drop_zero, List.take_of_length_le (by simp [List.length_flatMap, leBytes_length])]
      simp only [helem]
      exact flatMap_rdBytes _ _ 4 64
  · intro r h tg dk dst p sk sn hi w e a b from_ into n hlt bs u hread
    have hadv : s.advanceCmd c 4 r = s.advanceCopy c r (dk == 1) (sk == 1) dst.toNat sn.toNat := by simp [State.advanceCmd, hi]
    refine ⟨fun v hwrite => hadv.trans (advanceCopy_moves hlt bs u v hread hwrite), fun m g hb hg hinto => ?_⟩
    have hwrite : u.endWrite c b into bs = .ok (u.tileWrite c g into.toNat bs) := by rw [hb]; rfl
    refine ⟨_, hadv.trans (advanceCopy_moves hlt bs u _ hread hwrite), ?_⟩
    have hlen : bs.length = n := endRead_length hread
    have hbytes := tileRead_tileWrite u c g into.toNat 0 n bs hg (by omega)
    rw [List.drop_zero, List.take_of_length_le (by omega)] at hbytes
    refine (tileRead_of_tile hg ?_ _ _).trans hbytes
    split_ifs
    · unfold State.finishTag
      rw [finishCommand_tile, sh_modSh_same, tagFinish_tile]
    · rw [sh_modSh_same]
      rfl
  · intro r h tg hn hi hw p a b from_ into
    have hadv : s.advanceCmd c 4 r = s.advanceCopyp c r := by simp [State.advanceCmd, hi, hw]
    refine ⟨fun hcount => hadv.trans (if_pos hcount), fun hcount hsrc hdst bs u v hread hwrite => ?_⟩
    rw [hadv]
    refine (if_neg (by show ¬ p.count ≤ r.progress; omega)).trans ?_
    dsimp only
    have hmove : s.moveBytes c a b from_ into p.width = .ok v := by
      unfold State.moveBytes
      rw [hread]
      exact hwrite
    rw [show CopyEnd.check s c a from_ p.width false = none from hsrc]
    dsimp only
    rw [show CopyEnd.check s c b into p.width true = none from hdst]
    dsimp only
    rw [show State.moveBytes s c a b from_ into p.width = .ok v from hmove]
    exact if_pos hcount
  · intro r h tg dk dst p sk sn hr hi hl hlen
    refine exec_finish hr hl ?_ (by simp) hs
    simp only [State.advanceCmd, hi]
    refine (if_pos hlen).trans ?_
    simp [State.finishTag, cmdTag, hi]
  · intro r h close last gang kc hr hi slot
    refine ⟨fun hl hsteps => ?_, fun hk => ?_⟩
    · obtain ⟨hrun, hcomp, hhd, hslot⟩ := finishMma_effect (s := s) (c := c) (r := r) close last
      refine ⟨_, exec_finish hr hl ?_ hrun hs, hrun, hcomp, hhd, hslot⟩
      simp only [State.advanceCmd, hi]
      exact if_neg (Nat.not_lt.2 hsteps)
    · intro e p tile mat
      exact ⟨exec_kStep_waits hs hr hi hk, exec_kStep_takes hs hr hi hk⟩

end Sys2Proof.Laws
end

section
/-! PROOF. Seasons of an engine, the field's clock, pattern markers and pool requests (R218, R224, R225, R241, R296, R385). -/
namespace Sys2Proof.Laws
open Sys2Proof.Machine

theorem modSh_congr {s : State} {c : Nat} {f g : Shared → Shared} (h : f (s.core c).sh = g (s.core c).sh) : s.modSh c f = s.modSh c g :=
  modCore_congr (congrArg (fun y => { s.core c with sh := y }) h)

/-- One count of PHASE of a running domain (R224). -/
theorem countPhase_eq (g : Dda) (d : Nat) (r : Domain) (h : g.dom d = r) : g.countPhase d =
    if r.divm ≤ r.phase then (g.setDom d { r with phase := 0 }).trigger d 1 else g.setDom d { r with phase := r.phase + 1 } := by
  subst h
  rfl

/-- Settles O34. -/
theorem seasonFieldMarkerAndPoolHappenings : Obligations.SeasonFieldMarkerAndPoolHappenings := by
  unfold Obligations.SeasonFieldMarkerAndPoolHappenings
  intro c s hs
  refine ⟨fun e hseason hqueue hrun hidle hwake hrest => ?_, fun d hstep hbad => ⟨fun new hnew => ?_, fun cell hcell => ?_⟩,
    fun d hrun => ⟨fun hkind hcounts => ?_, fun hkind hcounts => ?_, fun hkind => ?_⟩,
    fun r h tg hn q hr hi hw hm => ⟨fun hfull => ?_, fun hfull => ?_⟩, ?_, ?_, ?_, ?_, ?_⟩
  · have hgo : s.engineAutumn c e =
        s.modSh c fun y => y.setEngine e { (s.core c).sh.engine e with season := .autumn } := by
      refine modSh_congr (if_pos ?_)
      have hrest' : (e == 5 && (s.core c).sh.dda.restless) = false := by
        by_cases h5 : e = 5
        · rw [hrest h5, Bool.and_false]
        · simp [h5]
      simp [hseason, hqueue, hrun, hidle, hwake, hrest']
    refine Eq.trans (b := answer (s.engineAutumn c e)) rfl ?_
    rw [hgo]
    exact answer_whole hs
  · have hgo : s.domainSteps c = s.modSh c fun y => { y with dda := y.dda.land { (s.core c).soc.dda with fresh := 0 } new d } := by
      unfold State.domainSteps
      dsimp only
      rw [hstep, List.foldl_cons, List.foldl_nil, hbad, hnew]
    refine Eq.trans (b := answer (s.domainSteps c)) rfl ?_
    rw [hgo]
    exact answer_whole hs
  · have hgo : s.domainSteps c = s.takeFault c (some 9) 6 (BitVec.ofNat 64 (cell + 256 * d)) true := by
      unfold State.domainSteps
      dsimp only
      rw [hstep, List.foldl_cons, List.foldl_nil, hbad, hcell]
    refine Eq.trans (b := answer (s.domainSteps c)) rfl ?_
    rw [hgo]
    exact answer_whole ((takeFault_broken _ _ _ _ _ _).trans hs)
  · refine Eq.trans (b := answer (s.refTrigger c d)) rfl ?_
    unfold State.refTrigger
    rw [if_neg (by simp [hcounts])]
    refine (congrArg answer (modSh_congr ?_)).trans (answer_whole hs)
    exact (if_pos ⟨hkind, hrun⟩).trans (by rw [countPhase_eq _ d _ rfl])
  · refine Eq.trans (b := answer (s.refTrigger c d)) rfl ?_
    unfold State.refTrigger
    rw [if_pos (by simp [hcounts])]
    exact answer_whole hs
  · refine Eq.trans (b := answer (s.engTrigger c d)) rfl ?_
    unfold State.engTrigger
    refine (congrArg answer (modSh_congr ?_)).trans (answer_whole hs)
    exact (if_pos ⟨hkind, hrun⟩).trans (by rw [countPhase_eq _ d _ rfl])
  · have hr' : ((s.sh c).engine 4).run = some r := hr
    have hfull' : ((s.sh c).queue q).full = true := hfull
    refine Eq.trans (b := answer (s.markerNow c)) rfl ?_
    unfold State.markerNow State.endMarker
    simp only [hr', hi, hw, hm, hfull', Bool.not_true, Bool.false_eq_true, if_false, if_true]
    exact answer_whole hs
  · have hr' : ((s.sh c).engine 4).run = some r := hr
    have hfull' : ((s.sh c).queue q).full = false := hfull
    refine Eq.trans (b := answer (s.markerNow c)) rfl ?_
    unfold State.markerNow State.endMarker
    simp only [hr', hi, hw, hm, hfull', Bool.not_true, Bool.false_eq_true, if_false, cmdTag]
    exact answer_whole hs
  · intro hp
    refine Eq.trans (b := answer (s.poolStep c)) rfl ?_
    unfold State.poolStep
    rw [if_pos (by simp [State.sh, hp])]
    exact answer_whole hs
  · intro hp hstep
    have hp' : (s.sh c).poolReq.pending = true := hp
    refine Eq.trans (b := answer (s.poolStep c)) rfl ?_
    unfold State.poolStep
    rw [if_neg (by simp [hp'])]
    obtain ⟨n, hn⟩ : ∃ n, (s.sh c).poolReq.step = n + 4 := ⟨_, (Nat.sub_add_cancel hstep).symm⟩
    simp only [hn]
    exact answer_whole hs
  · intro he
    exact if_pos (by simp [he])
  · intro he
    have hfin : (s.core c).sh.finishPool = _ := if_neg (show ¬ (!(s.core c).sh.poolReq.ending) = true by simp [he])
    rw [hfin]
    refine ⟨rfl, rfl, fun k hk ht => ?_, fun k hk ht => ?_⟩
    · obtain ⟨k', -, rfl⟩ := List.mem_map.1 hk
      split_ifs at ht ⊢ with h
      · exact ⟨rfl, rfl⟩
      · exact absurd ht h
    · exact List.mem_map.2 ⟨k, hk, if_neg ht⟩
  · intro hp hstep hreg hready
    have hp' : (s.sh c).poolReq.pending = true := hp
    have hstep' : (s.sh c).poolReq.step = 3 := hstep
    refine Eq.trans (b := answer (s.poolStep c)) rfl ?_
    unfold State.poolStep
    rw [if_neg (by simp [hp'])]
    simp only [hstep']
    rw [if_neg]
    · exact answer_whole hs
    · rintro (h | h)
      · exact absurd hreg (Nat.not_lt.2 h)
      · rw [hready] at h
        cases h

end Sys2Proof.Laws
end

section
/-! PROOF. The fabric's parts of a NEAR, and the peers of the Taloth link (R300, R301, R442). -/
namespace Sys2Proof.Laws
open Sys2Proof.Machine

theorem CacheOnly.broken {s t : State} (h : CacheOnly s t) : t.broken = s.broken := by rw [h.others]; rfl

/-! ## The card of a run that hears a message -/

/-- A field of a card within bytes that stand keeps its value whatever follows them. -/
theorem bytesNat_append {l m : List Byte} {off n : Nat} (hn : off + n ≤ 64) (h : off + n ≤ l.length) :
    bytesNat ((l ++ m).take 64) off n = bytesNat (l.take 64) off n := by
  unfold bytesNat
  rw [List.drop_take, List.drop_take, List.take_take, List.take_take, min_eq_left (by omega), List.drop_append_of_le_length (by omega),
    List.take_append_of_le_length (by rw [List.length_drop]; omega)]

theorem card_hear (r : Run) (p : Nat) (data : List Byte) :
    jbOpk ((r.hear p data).data.take 64) = jbOpk (r.data.take 64) ∧ jbPeer ((r.hear p data).data.take 64) = jbPeer (r.data.take 64) := by
  obtain ⟨m, hm, hlen⟩ : ∃ m, (r.hear p data).data = r.data ++ m ∧ (m = [] ∨ 8 ≤ r.data.length) := by
    refine ⟨_, rfl, ?_⟩
    by_cases h8 : 8 ≤ r.data.length
    · exact .inr h8
    · left
      have h0 : jbLen (r.data.take 64) = 0 := by
        unfold jbLen bytesNat
        rw [List.drop_eq_nil_of_le (by rw [List.length_take]; omega)]
        rfl
      rw [h0, List.take_zero, ite_self]
  rw [hm]
  rcases hlen with rfl | h8
  · rw [List.append_nil]
    exact ⟨rfl, rfl⟩
  · exact ⟨bytesNat_append (by omega) (by omega), bytesNat_append (by omega) (by omega)⟩

theorem cardPeers_hear (s : State) (r : Run) (p : Nat) (data : List Byte) :
    s.cardPeers ((r.hear p data).data.take 64) = s.cardPeers (r.data.take 64) := by
  obtain ⟨hopk, hpeer⟩ := card_hear r p data
  unfold State.cardPeers
  rw [hopk, hpeer]

/-- Whether a card has heard every peer with one message more (R300). -/
theorem cardHeard_hear (s : State) (r : Run) (p : Nat) (data : List Byte) :
    s.cardHeard (r.hear p data) = (s.cardPeers (r.data.take 64)).all fun q => (r.idx ++ [p]).contains q := by
  unfold State.cardHeard
  rw [cardPeers_hear]
  rfl

/-- A card that writes nothing ends with its completion alone (R300). -/
theorem cardEnd_silent {s : State} {c : Nat} {r : Run} (h : jbOpk (r.data.take 64) ≤ 1) : s.cardEnd c r = .go (s.finishJob c r.cmd 0) := by
  have h2 : jbOpk (r.data.take 64) ≠ 2 := by omega
  have h3 : jbOpk (r.data.take 64) ≠ 3 := by omega
  have h4 : jbOpk (r.data.take 64) ≠ 4 := by omega
  unfold State.cardEnd
  simp only [if_neg h2, if_neg h3, if_neg h4]
  refine if_pos ?_
  split <;> rfl

theorem finishJob_broken (s : State) (c : Nat) (k : Cmd) : (s.finishJob c k 0).broken = s.broken :=
  (cacheOnly_writeBackAll s c 0).broken

/-- A message of a trained peer joins the card that awaits it (R300, R442). -/
theorem peerMessage_heard {s : State} {port p c : Nat} {data : List Byte} {r : Run} (hp : tabGet 8 s.peers port = p)
    (ha : s.awaitingCard p = some (c, r)) : s.peerMessage port p data =
      if (!s.cardHeard (r.hear p data)) = true then s.modSh c fun y => y.setRun 4 (r.hear p data)
      else match s.cardEnd c (r.hear p data) with
        | .go u => u
        | .wait => s.modSh c fun y => y.setRun 4 (r.hear p data)
        | .stall => (s.modSh c fun y => y.setRun 4 (r.hear p data)).noteStall (.engine c 4)
        | .fault cls info => (s.modSh c fun y => y.setRun 4 (r.hear p data)).runFault c 4 (r.hear p data).cmd cls info := by
  unfold State.peerMessage
  rw [if_neg (not_not.2 hp), ha] <;> rfl

/-- Settles O35. -/
theorem fabricAndPeerHappenings : Obligations.FabricAndPeerHappenings := by
  unfold Obligations.FabricAndPeerHappenings
  intro s hs
  refine ⟨?_, fun port p hport hp => ?_, fun port => answer_whole hs, fun port p data hp => ?_, fun port p c data r hp ha => ?_⟩
  · intro c r h tg hn bs u hr hi hf hop b a n hlt hread hu counts
    have hw : nrElem b = 1 := by simp [nrElem, show nrOp b = 3 from hop]
    have hread' : s.nearRead c (bytesNat b 1 1) a (a.cur + bytesNat b 8 8 + nrElem b * r.progress : Nat) (nrElem b * n) = .ok (bs, u) := by
      rw [hw, Nat.one_mul, Nat.one_mul]
      exact hread
    have hstep : s.nearStep c r = .go (u.modSh c fun y => y.setRun 4
        { r with progress := r.progress + n, data := b ++ counts.flatMap fun v => leBytes 4 v, flags := r.flags ||| 0 }) := by
      unfold State.nearStep
      dsimp only
      rw [hread']
      dsimp only
      rw [hop, hw]
      rfl
    rw [show r.flags ||| 0 = r.flags from BitVec.or_zero] at hstep
    refine Eq.trans (b := answer (s.nearPart c)) rfl ?_
    unfold State.nearPart
    rw [hr]
    dsimp only
    rw [hi]
    dsimp only
    rw [if_neg (by simp [hf]), if_neg (Nat.not_le.2 hlt), hstep]
    exact answer_whole hu
  · exact (congrArg answer (if_pos ⟨hport, hp⟩)).trans (answer_whole hs)
  · exact (congrArg answer (if_pos hp)).trans (answer_whole hs)
  · have hgo := peerMessage_heard (data := data) hp ha
    rw [cardHeard_hear] at hgo
    refine ⟨fun hall => ?_, fun hall hopk => ?_⟩
    · rw [hall, if_pos Bool.not_false] at hgo
      refine ⟨_, r.hear p data, (congrArg answer hgo).trans (answer_whole hs), ?_, rfl⟩
      rw [sh_modSh_same, engine_setRun_same]
    · have hcard : jbOpk ((r.hear p data).data.take 64) ≤ 1 := by rwa [(card_hear r p data).1]
      rw [hall, if_neg (by simp), cardEnd_silent hcard] at hgo
      exact (congrArg answer hgo).trans (answer_whole ((finishJob_broken s c r.cmd).trans hs))

end Sys2Proof.Laws
end

section
/-! PROOF. Accesses on their way: translation, stalls and faults at the memory port (R423, R430, R450, R470, R472). -/
namespace Sys2Proof.Laws
open Sys2Proof.Machine

theorem access_id {x : Core} {id : Nat} {a : Access} (h : x.access id = some a) : a.id = id := by
  simpa using List.find?_some h

theorem holdAcc_broken (s : State) (c : Nat) (a : Access) (cls : Nat) (info : Word) : (s.holdAcc c a cls info).broken = s.broken :=
  takeFault_broken _ _ _ _ _ _

/-- Places of installed memory stop nothing (R20). -/
theorem checkPlace_installed {s : State} {l : List (Bool × Nat)} (h : ∀ q ∈ l, q.1 = true ∨ q.2 < Config.deviceBytes) : s.checkPlace l = s := by
  have hnone : l.find? (fun x => !x.1 && Config.deviceBytes ≤ x.2) = none := by
    refine List.find?_eq_none.2 fun q hq => ?_
    rcases h q hq with h | h
    · simp [h]
    · simp only [Bool.and_eq_true, decide_eq_true_eq, not_and, not_le]
      exact fun _ => h
  unfold State.checkPlace
  rw [hnone]

section
variable {s : State} {c id : Nat} {a : Access} (ha : (s.core c).access id = some a) (ht : a.translated = false) (hh : a.held = false)
  (hk : a.kind.translates = true) (hlag : a.lag = 0)

include ha in
theorem exec_translation : exec (.addressTranslation c id) s = answer (s.translateAcc c a) := by
  refine congrArg answer (a₁ := match (s.core c).access id with | some a => s.translateAcc c a | none => s) ?_
  rw [ha]

include ht hh hk hlag in
/-- An access that may look for its addresses does so after its checks (R423, R472). -/
theorem translateAcc_looks (hl : (s.core c).leaves a = false) : s.translateAcc c a = match a.checked with
    | some cause => s.holdAcc c a 3 (capInfo cause a.reg)
    | none => match s.placePieces c (s.task c).ctx a.cap.obj a.pieces with
      | .ok (ps, s) => (s.setAcc c { a with pieces := ps, translated := true, recheck := false }).checkPlace (ps.flatMap Piece.at_)
      | .error (.migrating, s) => s.noteStall (.access c a.id)
      | .error (.absent page, s) => s.holdAcc c a 4 (absentInfo a.cap.obj page (!a.kind.loads))
      | .error (.fault cause, s) => s.holdAcc c a 3 (capInfo cause a.reg)
      | .error (.ok .., s) => s := by
  unfold State.translateAcc
  rw [if_neg (by simp [ht, hh, hk, hlag, hl])] <;> rfl
end

/-- Settles O36. -/
theorem accessesTranslateStallOrFault : Obligations.AccessesTranslateStallOrFault := by
  unfold Obligations.AccessesTranslateStallOrFault
  intro c id a s u hs hu ha ht hh hk hlag
  rw [exec_translation ha]
  refine ⟨fun hl => ?_, fun cause hl hchecked hus => ?_, fun hl hchecked => ?_⟩
  · unfold State.translateAcc
    rw [if_pos (by simp [hl])]
    exact answer_whole hs
  · subst hus
    rw [translateAcc_looks ht hh hk hlag hl, hchecked]
    exact answer_whole ((holdAcc_broken _ _ _ _ _).trans hs)
  · rw [translateAcc_looks ht hh hk hlag hl, hchecked]
    refine ⟨fun ps hf hplaces => ?_, fun hf => ?_, fun page hf => ?_, fun cause hf => ?_⟩
    · rw [hf]
      dsimp only
      rw [checkPlace_installed hplaces]
      exact answer_whole hu
    · rw [hf]
      dsimp only
      rw [access_id ha]
      unfold State.noteStall
      by_cases hmem : StallAt.access c id ∈ u.stalls
      · rw [if_pos (List.contains_iff_mem.2 hmem), if_pos hmem]
        exact ⟨u, answer_whole hu, rfl, rfl⟩
      · rw [if_neg (mt List.contains_iff_mem.1 hmem), if_neg hmem]
        exact ⟨_, answer_whole hu, rfl, rfl⟩
    · rw [hf]
      exact answer_whole ((holdAcc_broken _ _ _ _ _).trans hu)
    · rw [hf]
      exact answer_whole ((holdAcc_broken _ _ _ _ _).trans hu)

end Sys2Proof.Laws
end

section
/-! PROOF. What reads and writes of a core's bytes leave alone: the memories and CACHE move, and nothing else (R249, R263, R264). -/
namespace Sys2Proof.Laws
open Sys2Proof.Machine

theorem cacheOnly_dropLine (s : State) (c n : Nat) : CacheOnly s (s.dropLine c n) :=
  (CacheOnly.foldl (fun s (e : Nat × CacheSector) => cacheOnly_writeBack s c e.1) _ s).trans (cacheOnly_modCore _ c _ fun _ => rfl)
/-- The line that leaves CACHE for a sector that comes in (R249). -/
def makesWay (s : State) (c k : Nat) : State :=
  match cacheLines (s.core c).cache with
  | [] => s
  | n :: _ => if (cacheLines (s.core c).cache).contains (lineKey k) ∨ (cacheLines (s.core c).cache).length < (s.core c).sh.cacheRoom then s
    else s.dropLine c n
theorem cacheOnly_makesWay (s : State) (c k : Nat) : CacheOnly s (makesWay s c k) := by
  unfold makesWay
  split
  · exact .refl s
  · split_ifs
    · exact .refl s
    · exact cacheOnly_dropLine _ _ _
theorem cacheOnly_allocate (s : State) (c k : Nat) : CacheOnly s (s.allocate c k) := by
  unfold State.allocate
  dsimp only
  by_cases hin : (s.core c).cache.any (·.1 == k) = true
  · rw [if_pos hin]
    exact .refl s
  · rw [if_neg hin]
    by_cases hroom : (s.core c).sh.cacheRoom = 0 ∨ (s.core c).sh.cacheStep = true
    · rw [if_pos hroom]
      exact .refl s
    · rw [if_neg hroom]
      exact ((cacheOnly_makesWay s c k).trans (memoryOnly_fillL2 _ _ _).cacheOnly).trans (cacheOnly_modCore _ c _ fun _ => rfl)
theorem cacheOnly_coreByte (s : State) (c agent : Nat) (host : Bool) (a : Nat) : CacheOnly s (s.coreByte c agent host a).2 := by
  have hroom : CacheOnly s (if agent ≤ 1 then s.allocate c (sectorKey host a) else s) := by
    split_ifs
    · exact cacheOnly_allocate _ _ _
    · exact .refl s
  unfold State.coreByte
  dsimp only
  split
  · exact hroom
  · exact hroom.trans (memoryOnly_fillL2 _ _ _).cacheOnly
theorem cacheOnly_coreRead (c agent : Nat) : ∀ (l : List (Bool × Nat)) (s : State), CacheOnly s (s.coreRead c agent l).2
  | [], s => .refl s
  | x :: l, s => (cacheOnly_coreByte s c agent x.1 x.2).trans (cacheOnly_coreRead c agent l _)
theorem cacheOnly_corePut (s : State) (c agent : Nat) (host : Bool) (a : Nat) (b : Byte) : CacheOnly s (s.corePut c agent host a b) := by
  have hroom : CacheOnly s (if agent ≤ 1 then s.allocate c (sectorKey host a) else s) := by
    split_ifs
    · exact cacheOnly_allocate _ _ _
    · exact .refl s
  unfold State.corePut
  dsimp only
  split
  · refine hroom.trans (CacheOnly.trans ?_ (cacheOnly_modCore _ c _ fun _ => rfl))
    split_ifs
    · exact .refl _
    · exact (memoryOnly_cohPut _ _ _ _ _).cacheOnly
  · exact hroom.trans (memoryOnly_cohPut _ _ _ _ _).cacheOnly
theorem cacheOnly_passCache (s : State) (c : Nat) (l : List (Bool × Nat)) : CacheOnly s (s.passCache c l) := by
  unfold State.passCache
  refine CacheOnly.foldl (fun s k => ?_) _ s
  split_ifs
  · exact (cacheOnly_writeBack s c k).trans (cacheOnly_modCore _ c _ fun _ => rfl)
  · exact .refl s

/-- Bytes written after the end of idempotence that host memory asks for (R459). -/
theorem cacheOnly_coreWrite (s : State) (c agent : Nat) (l : List (Bool × Nat × Byte)) (tag : Bool) :
    CacheOnly (if l.any (·.1) then s.endIdem c else s) (s.coreWrite c agent l tag) := by
  unfold State.coreWrite
  generalize (if l.any (·.1) then s.endIdem c else s) = u
  dsimp only
  refine (CacheOnly.foldl (fun s (x : Bool × Nat × Byte) => cacheOnly_corePut s c agent x.1 x.2.1 x.2.2) l u).trans ?_
  generalize l.foldl (fun s x => State.corePut s c agent x.1 x.2.1 x.2.2) u = v
  have hpoison : CacheOnly v (if (v.identOf c).isSome then v
      else v.clearPoison (l.filter fun x => !(decide (agent ≤ 1) && (v.core c).cache.any (·.1 == sectorKey x.1 x.2.1)))) := by
    split_ifs
    · exact .refl v
    · exact (memoryOnly_clearPoison _ _).cacheOnly
  refine hpoison.trans ?_
  generalize (if (v.identOf c).isSome then v
      else v.clearPoison (l.filter fun x => !(decide (agent ≤ 1) && (v.core c).cache.any (·.1 == sectorKey x.1 x.2.1)))) = w
  cases tag with
  | false => exact .refl w
  | true =>
    rw [if_neg (by simp)]
    cases l with
    | nil => exact .refl w
    | cons x l =>
      dsimp only
      refine CacheOnly.trans (t := if agent ≤ 1 ∧ (w.core c).cache.any (·.1 == sectorKey x.1 x.2.1) then w
        else w.putTag (w.identOf c) x.1 (x.2.1 / 16) true) ?_ (cacheOnly_modCore _ c _ fun y => ?_)
      · split_ifs
        · exact .refl w
        · exact (memoryOnly_putTag _ _ _ _ _).cacheOnly
      · split <;> rfl

end Sys2Proof.Laws
end

section
/-! PROOF. Loads that may be performed return their bytes (R249, R263, R275, R277, R279, R292, R466). -/
namespace Sys2Proof.Laws
open Sys2Proof.Machine

/-! ## Lanes of a value -/

/-- A digit that is 0 takes a value, and no other digit changes. -/
theorem digit_add {B N k v : Nat} (hB : 0 < B) (hv : v < B) (h0 : N / B ^ k % B = 0) (l : Nat) :
    (N + v * B ^ k) / B ^ l % B = if l = k then v else N / B ^ l % B := by
  have hpos (n : Nat) : 0 < B ^ n := pow_pos hB n
  rcases lt_trichotomy l k with hl | rfl | hl
  · rw [if_neg hl.ne, show v * B ^ k = v * B ^ (k - l - 1) * B * B ^ l by
      rw [mul_assoc, mul_assoc, ← pow_succ', ← pow_add]; congr 2; omega, Nat.add_mul_div_right _ _ (hpos l), Nat.add_mul_mod_self_right]
  · rw [if_pos rfl, Nat.add_mul_div_right _ _ (hpos l), Nat.add_mod, h0, Nat.zero_add, Nat.mod_mod, Nat.mod_eq_of_lt hv]
  · rw [if_neg hl.ne']
    have hsplit : B ^ l = B ^ (k + 1) * B ^ (l - k - 1) := by rw [← pow_add]; congr 1; omega
    have hq : (N + v * B ^ k) / B ^ (k + 1) = N / B ^ (k + 1) := by
      rw [pow_succ, ← Nat.div_div_eq_div_mul, ← Nat.div_div_eq_div_mul, Nat.add_mul_div_right _ _ (hpos k)]
      have hN := Nat.div_add_mod (N / B ^ k) B
      rw [h0, Nat.add_zero] at hN
      rw [← hN, Nat.mul_add_div hB, Nat.mul_div_cancel_left _ hB, Nat.div_eq_of_lt hv, Nat.add_zero]
    rw [hsplit, ← Nat.div_div_eq_div_mul, ← Nat.div_div_eq_div_mul, hq]

/-- Values at different digits stand there, and every other digit is 0. -/
theorem digits_of_sum {B : Nat} (hB : 0 < B) (lane val : Nat → Nat) (hv : ∀ i, val i < B) : ∀ n,
    (∀ i j, i < n → j < n → lane i = lane j → i = j) →
    let S := (List.range n).foldl (fun s i => s + val i * B ^ lane i) 0
    (∀ i, i < n → S / B ^ lane i % B = val i) ∧ ∀ l, (∀ i, i < n → lane i ≠ l) → S / B ^ l % B = 0
  | 0, _ => ⟨fun i hi => absurd hi (Nat.not_lt_zero i), fun l _ => by simp⟩
  | n + 1, hinj => by
    obtain ⟨hin, hout⟩ := digits_of_sum hB lane val hv n fun i j hi hj => hinj i j (by omega) (by omega)
    dsimp only
    rw [List.range_succ, List.foldl_append, List.foldl_cons, List.foldl_nil]
    have h0 := hout (lane n) fun i hi h => by
      have := hinj i n (by omega) (by omega) h
      omega
    refine ⟨fun i hi => ?_, fun l hl => ?_⟩
    · rw [digit_add hB (hv n) h0]
      split_ifs with h
      · rw [hinj i n hi (by omega) h]
      · exact hin i (Nat.lt_of_le_of_ne (Nat.lt_succ_iff.1 hi) fun he => h (by rw [he]))
    · rw [digit_add hB (hv n) h0, if_neg (hl n (by omega)).symm]
      exact hout l fun i hi => hl i (by omega)

/-- A field of a vector is that of the number it is made of. -/
theorem slice_ofNat {w lo n : Nat} (x : Nat) (h : lo + n ≤ w) : slice (BitVec.ofNat w x).toNat lo n = slice x lo n := by
  unfold slice
  obtain ⟨m, rfl⟩ := Nat.exists_eq_add_of_le h
  rw [BitVec.toNat_ofNat, show 2 ^ (lo + n + m) = 2 ^ lo * 2 ^ (n + m) by rw [← pow_add]; congr 1; omega, Nat.mod_mul_right_div_self,
    Nat.mod_mod_of_dvd _ (pow_dvd_pow 2 (Nat.le_add_right n m))]

theorem leNat_lt : ∀ l : List Byte, leNat l < 256 ^ l.length
  | [] => by simp [leNat]
  | b :: l => by
    have := leNat_lt l
    have hb : b.toNat < 256 := b.isLt
    rw [leNat, List.length_cons, pow_succ]
    omega

/-- The lanes of a gather: each holds its own bytes, and the others 0 (R279). -/
theorem gatherValue_lanes {w : Nat} {ps : List Piece} {bytes : List Byte} (hw : w ≤ 3) (hnodup : (ps.map Piece.lane).Nodup)
    (hlane : ∀ k ∈ ps, k.lane < 8) :
    let size := [1, 2, 4, 8].getD w 8
    let bits := if w = 3 then 64 else 32
    let val := BitVec.ofNat 1024 (gatherValue w ps bytes)
    (∀ k (p : Piece), ps[k]? = some p → slice val.toNat (bits * p.lane) bits = leNat ((bytes.drop (size * k)).take size)) ∧
    ∀ l, l < 8 → l ∉ ps.map Piece.lane → slice val.toNat (bits * l) bits = 0 := by
  intro size bits val
  have hbits : bits ≤ 64 := by simp only [bits]; split_ifs <;> omega
  have hfit : 256 ^ size ≤ 2 ^ bits := by
    have : 256 ^ size = 2 ^ (8 * size) := by rw [pow_mul]; norm_num
    rw [this]
    refine Nat.pow_le_pow_right (by omega) ?_
    simp only [size, bits]
    interval_cases w <;> simp
  let lane (i : Nat) : Nat := (ps.getD i { pos := 0, size := 0 }).lane
  let v (i : Nat) : Nat := leNat ((bytes.drop (size * i)).take size)
  have hv (i : Nat) : v i < 2 ^ bits := by
    refine lt_of_lt_of_le (leNat_lt _) (le_trans (Nat.pow_le_pow_right (by omega) ?_) hfit)
    rw [List.length_take]
    exact min_le_left _ _
  have lane_eq (i : Nat) (hi : i < ps.length) : lane i = ps[i].lane := by simp [lane, List.getElem?_eq_getElem hi]
  have hinj (i j : Nat) (hi : i < ps.length) (hj : j < ps.length) (h : lane i = lane j) : i = j := by
    refine (List.Nodup.getElem_inj_iff hnodup (hi := by simpa using hi) (hj := by simpa using hj)).1 ?_
    rw [lane_eq i hi, lane_eq j hj] at h
    simpa using h
  have hval : gatherValue w ps bytes = (List.range ps.length).foldl (fun s i => s + v i * (2 ^ bits) ^ lane i) 0 := by
    simp only [gatherValue, v, lane, size, bits, pow_mul]
  obtain ⟨hin, hout⟩ := digits_of_sum (B := 2 ^ bits) (by positivity) lane v hv ps.length hinj
  rw [← hval] at hin hout
  have hslice (l : Nat) (hl : l < 8) : slice val.toNat (bits * l) bits = gatherValue w ps bytes / (2 ^ bits) ^ l % 2 ^ bits := by
    have : bits * l ≤ 64 * 7 := Nat.mul_le_mul hbits (by omega)
    rw [slice_ofNat _ (by omega), slice, pow_mul]
  refine ⟨fun k p hk => ?_, fun l hl hnot => ?_⟩
  · obtain ⟨hlt, hp⟩ := List.getElem?_eq_some_iff.1 hk
    have hlk : lane k = p.lane := by simp [lane, hk]
    rw [hslice _ (hlane p (List.mem_of_getElem? hk)), ← hlk]
    exact hin k hlt
  · rw [hslice l hl]
    refine hout l fun i hi h => hnot ?_
    rw [← h]
    exact List.mem_map.2 ⟨ps[i], List.getElem_mem hi, (lane_eq i hi).symm⟩

/-! ## Performing a load -/

theorem passCache_broken (s : State) (c : Nat) (l : List (Bool × Nat)) : (s.passCache c l).broken = s.broken := (cacheOnly_passCache s c l).broken
theorem countMiss_broken (s : State) (c : Nat) (a : Access) : (s.countMiss c a).broken = s.broken := by
  unfold State.countMiss
  split_ifs <;> rfl

section
variable {s : State} {c id : Nat} {a : Access}

/-- A load that may not be performed changes nothing. -/
theorem performIf_waits {p : AccKind → Bool} (ha : (s.core c).access id = some a) (hm : s.mayPerform c a = false) : s.performIf c id p = s := by
  have hacc : s.performAcc c id = s := by
    unfold State.performAcc
    rw [ha]
    exact if_pos (by simp [hm])
  unfold State.performIf
  rw [ha]
  dsimp only
  rw [hacc, ite_self]

/-- An access that has its addresses is performed, once its miss of CACHE is counted. -/
theorem performAcc_translated (ha : (s.core c).access id = some a) (ht : a.translated = true ∨ a.kind.translates = false)
    (hm : s.mayPerform c a = true) : s.performAcc c id =
      match a.kind with
      | .tileLoad | .tileStore => (s.countMiss c a).performTile c a
      | .load | .gather | .capLoad => if a.translated then (s.countMiss c a).performLoad c a else s.countMiss c a
      | .store | .scatter | .capStore => if a.translated then (s.countMiss c a).performStore c a else s.countMiss c a
      | .atomic .. | .atomicF .. => if a.translated then (s.countMiss c a).performAtomic c a else s.countMiss c a
      | .prefetch token => if a.translated then (s.countMiss c a).performPref c a token else s.countMiss c a
      | _ => s.countMiss c a := by
  have htr : s.translateAcc c a = s := if_pos (by rcases ht with h | h <;> simp [h])
  unfold State.performAcc
  rw [ha]
  dsimp only
  rw [if_neg (by simp [hm]), htr, ha] <;> rfl

/-- A result that is no line of registers returns to its destination and MU.o (R275). -/
theorem returnLoad_plain {val : BitVec 1024} {tag : Bool} {fl : BitVec 6} (h : ∀ w x y z, a.dest ≠ .line w x y z) :
    s.returnLoad c a val tag fl = s.modCore c fun x => { x with flight := x.flight ++
      [{ stream := a.stream, unit := 7, dest := a.dest, val, tag, flags := fl, left := 1 + (a.soonest - a.age), id := a.id, load := true,
         acc := if a.inFlight then none else some a }] } := by
  cases hd : a.dest with
  | line w x y z => exact absurd hd (h w x y z)
  | _ => simp only [State.returnLoad, hd]

theorem modCore_broken (s : State) (c : Nat) (f : Core → Core) : (s.modCore c f).broken = s.broken := rfl

theorem core_takeFree (s : State) (c : Nat) : s.takeFree.2.core c = s.core c := rfl
theorem takeFree_broken (s : State) : s.takeFree.2.broken = s.broken := rfl
/-- The free value that MU.o takes of a line (log 95). -/
def lineLatch (s : State) : BitVec 1024 :=
  let f0 := s.takeFree
  let f1 := f0.2.takeFree
  let f2 := f1.2.takeFree
  let f3 := f2.2.takeFree
  BitVec.ofNat 1024 (f0.1.toNat + 2 ^ 64 * f1.1.toNat + 2 ^ 128 * f2.1.toNat + 2 ^ 192 * f3.1.toNat)

/-- The two results of a line: its registers, and MU.o. -/
def lineFlights (s : State) (a : Access) (val : BitVec 1024) (tag : Bool) (fl : BitVec 6) : List Flight :=
  [{ stream := a.stream, dest := a.dest, val, tag, flags := fl, left := 1 + (a.soonest - a.age), id := a.id, load := true,
     acc := if a.inFlight then none else some a },
   { stream := a.stream, unit := 7, dest := .none, val := lineLatch s, tag, flags := fl, left := 1 + (a.soonest - a.age), id := a.id, load := true,
     acc := if a.inFlight then none else some a }]
theorem flight_of_modCore {u v : State} {c : Nat} {l m : List Flight} (h : u = v.modCore c fun x => { x with flight := x.flight ++ l })
    (hl : l = m) : u.broken = v.broken ∧ (u.core c).flight = (v.core c).flight ++ m := by
  subst hl
  subst h
  exact ⟨rfl, congrArg Core.flight (State.core_modCore_same _ _ _)⟩

/-- A line of four registers returns together, with a free value in MU.o (log 95). -/
theorem returnLoad_line {val : BitVec 1024} {tag : Bool} {fl : BitVec 6} {w x y z : Nat} (hd : a.dest = .line w x y z) :
    (s.returnLoad c a val tag fl).broken = s.broken ∧
      ((s.returnLoad c a val tag fl).core c).flight = (s.core c).flight ++ lineFlights s a val tag fl := by
  have h : s.returnLoad c a val tag fl = s.takeFree.2.takeFree.2.takeFree.2.takeFree.2.modCore c
      fun x => { x with flight := x.flight ++ lineFlights s a val tag fl } := by
    simp only [State.returnLoad, hd, lineFlights, lineLatch]
  obtain ⟨hb, hf⟩ := flight_of_modCore h rfl
  exact ⟨hb.trans (by simp only [takeFree_broken]), hf.trans (by simp only [core_takeFree])⟩

theorem performTile_load {p : Piece} {rest : List Piece} (hk : a.kind = .tileLoad) (hp : a.pieces = p :: rest) :
    s.performTile c a = match s.tileBad c a.handle p.pos p.size with
      | some info => s.holdAcc c a 9 info
      | none => (s.dropAcc c a.id).returnLoad c a (BitVec.ofNat 1024 (leNat (s.tileRead c a.handle p.pos p.size))) false := by
  unfold State.performTile
  simp only [hp, List.headD_cons]
  exact if_pos (by rw [hk]; rfl)

/-- The state that a load reads: at FORM scope or wider its sectors have left CACHE (R264, R268). -/
def readsFrom (s : State) (c : Nat) (a : Access) : State := if 2 ≤ a.agent then s.passCache c a.places else s
theorem readsFrom_broken : (readsFrom s c a).broken = s.broken := by
  unfold readsFrom
  split_ifs
  · exact passCache_broken _ _ _
  · rfl

theorem performLoad_poisoned {q : Nat × Nat} (h : (readsFrom s c a).poisoned c a.agent a.places = some q) :
    s.performLoad c a = (readsFrom s c a).holdAcc c a 9 (poisonInfo q) := by
  unfold readsFrom at *
  unfold State.performLoad
  simp only [h]

/-- What a load returns of the bytes that it has read: a gather its lanes, the others all of them. -/
def loadValue (a : Access) (bytes : List Byte) : Nat :=
  match a.kind with
  | .gather => gatherValue a.w a.pieces bytes
  | _ => leNat bytes
/-- The tag that a load returns: a capability load that of its granule. -/
def loadTag (s : State) (c : Nat) (a : Access) : Bool :=
  match a.kind, a.places with
  | .capLoad, x :: _ => s.coreTag c a.agent x.1 x.2
  | _, _ => false

/-- A load of bytes that hold no poison returns them, and its acquire follows (R263, R275). -/
theorem performLoad_clean (h : (readsFrom s c a).poisoned c a.agent a.places = none) :
    let r := (readsFrom s c a).coreRead c a.agent a.places
    s.performLoad c a =
      ((r.2.dropAcc c a.id).returnLoad c a (BitVec.ofNat 1024 (loadValue a r.1)) (loadTag r.2 c a)).afterAcquire c a := by
  unfold readsFrom at *
  unfold State.performLoad
  simp only [h]
  rfl
end

/-- Settles O37. -/
theorem loadsReturnTheirBytes : Obligations.LoadsReturnTheirBytes := by
  unfold Obligations.LoadsReturnTheirBytes
  intro c id a s hs ha hload hpref
  have hid := access_id ha
  have hexec (hm : s.mayPerform c a = true) : exec (.loadDataReturn c id) s = answer (s.performAcc c id) := by
    refine congrArg answer (a₁ := s.performIf c id AccKind.loads) ?_
    unfold State.performIf
    rw [ha]
    exact if_pos hload
  refine ⟨fun hm => ?_, fun hkind ht hm => ?_, fun p rest hkind ht hm hp hdest => ?_⟩
  · exact (congrArg answer (performIf_waits ha hm)).trans (answer_whole hs)
  · have hperf : s.performAcc c id = (s.countMiss c a).performLoad c a := by
      rw [performAcc_translated ha (.inl ht) hm]
      cases hk : a.kind <;> simp_all [AccKind.loads]
    intro m u r bytes
    have hu : u.broken = none := readsFrom_broken.trans ((countMiss_broken s c a).trans hs)
    have hr : r.2.broken = none := (cacheOnly_coreRead c a.agent a.places u).broken.trans hu
    refine ⟨fun q hq => ?_, fun hclean hdest => ?_, fun w x y z hclean hk hacq hd => ?_⟩
    · rw [hexec hm, hperf, performLoad_poisoned hq]
      exact answer_whole ((holdAcc_broken _ _ _ _ _).trans hu)
    · intro returns
      have hgo (val : Nat) (tag : Bool) (hval : loadValue a r.1 = val) (htag : loadTag r.2 c a = tag) : returns (BitVec.ofNat 1024 val) tag := by
        have hstep : (s.countMiss c a).performLoad c a = _ := performLoad_clean hclean
        rw [show loadValue a ((readsFrom (s.countMiss c a) c a).coreRead c a.agent a.places).1 = val from hval,
          show loadTag ((readsFrom (s.countMiss c a) c a).coreRead c a.agent a.places).2 c a = tag from htag, hid,
          returnLoad_plain hdest] at hstep
        refine ⟨fun hacq => ?_, fun hacq => ?_, fun hag => ?_⟩
        · rw [hexec hm, hperf, hstep]
          unfold State.afterAcquire
          rw [if_neg (by simp [hacq])]
          exact answer_whole hr
        · rw [hexec hm, hperf, hstep]
          unfold State.afterAcquire
          rw [if_pos hacq]
          exact answer_whole ((cacheOnly_acquireCache _ _ _ _).broken.trans hr)
        · exact ⟨if_neg (by omega), if_neg (by omega)⟩
      refine ⟨fun hk => ?_, fun hk q rest hq => ?_, fun hk hw hnodup hlane => ?_⟩
      · exact hgo _ _ (by simp [loadValue, hk]; rfl) (by simp [loadTag, hk])
      · exact hgo _ _ (by simp [loadValue, hk]; rfl) (by simp [loadTag, hk, hq])
      · obtain ⟨hin, hout⟩ := gatherValue_lanes (bytes := r.1) hw hnodup hlane
        exact ⟨_, hgo _ _ (by simp [loadValue, hk]) (by simp [loadTag, hk]), hin, hout⟩
    · have hstep : (s.countMiss c a).performLoad c a = _ := performLoad_clean hclean
      rw [show loadValue a ((readsFrom (s.countMiss c a) c a).coreRead c a.agent a.places).1 = bytes by simp [loadValue, hk]; rfl,
        show loadTag ((readsFrom (s.countMiss c a) c a).coreRead c a.agent a.places).2 c a = false by simp [loadTag, hk], hid] at hstep
      unfold State.afterAcquire at hstep
      rw [if_neg (by simp [hacq])] at hstep
      obtain ⟨hb, hf⟩ := returnLoad_line (s := r.2.dropAcc c id) (c := c) (val := BitVec.ofNat 1024 bytes) (tag := false) (fl := 0) hd
      refine ⟨_, lineLatch (r.2.dropAcc c id), ?_, hf⟩
      rw [hexec hm, hperf, hstep]
      exact answer_whole (hb.trans hr)
  · have hperf : s.performAcc c id = s.performTile c a := by
      have hmiss : s.countMiss c a = s := if_neg (by simp [State.missesCache, ht])
      rw [performAcc_translated ha (.inr (by rw [hkind]; rfl)) hm, hkind, hmiss]
    rw [hexec hm, hperf, performTile_load hkind hp]
    refine ⟨fun info hbad => ?_, fun hclean => ?_⟩
    · rw [hbad]
      exact answer_whole ((holdAcc_broken _ _ _ _ _).trans hs)
    · rw [hclean]
      dsimp only
      rw [returnLoad_plain hdest, show s.dropAcc c a.id = s.dropAcc c id by rw [hid]]
      exact answer_whole hs

end Sys2Proof.Laws
end

section
/-! PROOF. What writes at a coherence point and write-backs of CACHE do to device memory, where nothing is provisional (R249, R263, R277). -/
namespace Sys2Proof.Laws
open Sys2Proof.Machine

/-! ## Bytes at their coherence points -/

theorem touchL2_memories (s : State) (a : Nat) (st : SectorState) :
    (s.touchL2 a st).dev = s.dev ∧ (s.touchL2 a st).host = s.host ∧ (s.touchL2 a st).devTags = s.devTags := by
  have hroom : (s.makeRoom a).dev = s.dev ∧ (s.makeRoom a).host = s.host ∧ (s.makeRoom a).devTags = s.devTags := by
    unfold State.makeRoom
    split
    · exact ⟨rfl, rfl, rfl⟩
    · split
      · exact ⟨rfl, rfl, rfl⟩
      · split
        · unfold State.evict State.markUnit
          dsimp only
          split <;> exact ⟨rfl, rfl, rfl⟩
        · exact ⟨rfl, rfl, rfl⟩
  unfold State.touchL2 State.markUnit
  dsimp only
  generalize s.makeRoom a = u at hroom
  split <;> exact hroom

/-- A committed byte of device memory lands there and clears its granule's tag (R277). -/
theorem cohPut_device (s : State) (a : Nat) (b : Byte) :
    (s.cohPut none false a b).dev = wrByte s.dev a b ∧ (s.cohPut none false a b).host = s.host ∧
      (s.cohPut none false a b).devTags = tabSet false s.devTags (a / 16) false := by
  obtain ⟨hd, hh, ht⟩ := touchL2_memories s a .dirty
  unfold State.cohPut
  rw [if_neg (by simp)]
  dsimp only
  rw [hd, hh, ht]
  exact ⟨rfl, rfl, rfl⟩
theorem cohPut_host_dev (s : State) (id : Option Ident) (a : Nat) (b : Byte) : (s.cohPut id true a b).dev = s.dev := rfl

/-- Bytes of device memory that are put there one after another. -/
theorem cohPuts_device : ∀ (l : List (Bool × Nat × Byte)) (s : State), (∀ x ∈ l, x.1 = false) →
    let t := l.foldl (fun s x => s.cohPut none x.1 x.2.1 x.2.2) s
    t.dev = l.foldl (fun m x => wrByte m x.2.1 x.2.2) s.dev ∧ t.host = s.host ∧
      t.devTags = l.foldl (fun m x => tabSet false m (x.2.1 / 16) false) s.devTags
  | [], _, _ => ⟨rfl, rfl, rfl⟩
  | x :: l, s, h => by
    obtain ⟨hd, hh, ht⟩ := cohPuts_device l (s.cohPut none x.1 x.2.1 x.2.2) fun y hy => h y (.tail _ hy)
    rw [h x (.head _)] at hd hh ht
    obtain ⟨hd', hh', ht'⟩ := cohPut_device s x.2.1 x.2.2
    simp only [List.foldl_cons]
    rw [h x (.head _)]
    exact ⟨hd.trans (by rw [hd']), hh.trans hh', ht.trans (by rw [ht'])⟩
theorem cohPuts_host_dev (id : Option Ident) : ∀ (l : List (Bool × Nat × Byte)) (s : State), (∀ x ∈ l, x.1 = true) →
    (l.foldl (fun s x => s.cohPut id x.1 x.2.1 x.2.2) s).dev = s.dev
  | [], _, _ => rfl
  | x :: l, s, h => by
    rw [List.foldl_cons, cohPuts_host_dev id l _ fun y hy => h y (.tail _ hy), h x (.head _)]
    rfl
theorem clearPoison_memories (s : State) (l : List (Bool × Nat × Byte)) :
    (s.clearPoison l).dev = s.dev ∧ (s.clearPoison l).host = s.host ∧ (s.clearPoison l).devTags = s.devTags := by
  unfold State.clearPoison
  split <;> exact ⟨rfl, rfl, rfl⟩
theorem putTag_bytes (s : State) (id : Option Ident) (host : Bool) (g : Nat) (v : Bool) :
    (s.putTag id host g v).dev = s.dev ∧ (s.putTag id host g v).host = s.host := by
  unfold State.putTag
  split
  · exact ⟨rfl, rfl⟩
  · split <;> exact ⟨rfl, rfl⟩
theorem cohWrite_device (s : State) (l : List (Bool × Nat × Byte)) (h : ∀ x ∈ l, x.1 = false) :
    (s.cohWrite none l).dev = l.foldl (fun m x => wrByte m x.2.1 x.2.2) s.dev ∧ (s.cohWrite none l).host = s.host := by
  obtain ⟨hd, hh, -⟩ := cohPuts_device l s h
  unfold State.cohWrite
  rw [if_neg (by simp)]
  exact ⟨(clearPoison_memories _ _).1.trans hd, (clearPoison_memories _ _).2.1.trans hh⟩
theorem cohWrite_host_dev (s : State) (id : Option Ident) (l : List (Bool × Nat × Byte)) (h : ∀ x ∈ l, x.1 = true) :
    (s.cohWrite id l).dev = s.dev := by
  unfold State.cohWrite
  dsimp only
  split_ifs
  · exact cohPuts_host_dev id l s h
  · exact (clearPoison_memories _ _).1.trans (cohPuts_host_dev id l s h)

/-! ## The write-back of a CACHE sector (R249) -/

/-- The dirty bytes of a sector with their places. -/
def dirtyBytes (k : Nat) (e : CacheSector) : List (Bool × Nat × Byte) :=
  ((List.range 32).filter fun j => e.dirty.getLsbD j).map fun j => (keyHost k, keyAddr k + j, (e.data >>> (8 * j)).setWidth 8)

theorem dirtyBytes_host {k : Nat} {e : CacheSector} : ∀ x ∈ dirtyBytes k e, x.1 = keyHost k := by
  intro x hx
  obtain ⟨j, -, rfl⟩ := List.mem_map.1 hx
  rfl

/-- What a write-back of a sector of device memory leaves there. -/
theorem dirtyBytes_written (m : Memory) (k : Nat) (e : CacheSector) :
    let d := (dirtyBytes k e).foldl (fun m x => wrByte m x.2.1 x.2.2) m
    (∀ j, j < 32 → e.dirty.getLsbD j = true → rdByte d (keyAddr k + j) = (e.data >>> (8 * j)).setWidth 8) ∧
    ∀ a, (∀ j, j < 32 → e.dirty.getLsbD j = true → a ≠ keyAddr k + j) → rdByte d a = rdByte m a := by
  refine ⟨fun j hj hd => ?_, fun a ha => ?_⟩
  · have hnodup : ((List.range 32).filter fun j => e.dirty.getLsbD j).Nodup := List.nodup_range.filter _
    obtain ⟨i, hi⟩ := List.getElem?_of_mem (List.mem_filter.2 ⟨List.mem_range.2 hj, hd⟩)
    have hx : (dirtyBytes k e)[i]? = some (keyHost k, keyAddr k + j, (e.data >>> (8 * j)).setWidth 8) := by
      rw [dirtyBytes, List.getElem?_map, hi]
      rfl
    refine rdByte_foldl_last (fun x : Bool × Nat × Byte => x.2.1) (fun x => x.2.2) _ m i hx fun n y hin hy => ?_
    rw [dirtyBytes, List.getElem?_map] at hy
    obtain ⟨j', hj', rfl⟩ := Option.map_eq_some_iff.1 hy
    intro heq
    have hjj : j' = j := by
      dsimp only at heq
      omega
    subst hjj
    obtain ⟨h1, hi'⟩ := List.getElem?_eq_some_iff.1 hi
    obtain ⟨h2, hn'⟩ := List.getElem?_eq_some_iff.1 hj'
    have := (List.Nodup.getElem_inj_iff hnodup).1 (hi'.trans hn'.symm)
    omega
  · refine rdByte_foldl_other (fun x : Bool × Nat × Byte => x.2.1) (fun x => x.2.2) _ m fun x hx => ?_
    obtain ⟨j, hj, rfl⟩ := List.mem_map.1 hx
    exact ha j (List.mem_range.1 (List.mem_filter.1 hj).1) (List.mem_filter.1 hj).2

/-- The granules of a sector whose dirty bytes are written back take the sector's tags. -/
def tagsBack (s : State) (id : Option Ident) (k : Nat) (e : CacheSector) : State :=
  (List.range 2).foldl (fun (s : State) g =>
    if (e.dirty >>> (16 * g)).setWidth 16 = (0 : BitVec 16) then s else s.putTag id (keyHost k) (keyAddr k / 16 + g) (e.tags.getLsbD g)) s
theorem tagsBack_bytes (s : State) (id : Option Ident) (k : Nat) (e : CacheSector) :
    (tagsBack s id k e).dev = s.dev ∧ (tagsBack s id k e).host = s.host := by
  unfold tagsBack
  generalize List.range 2 = l
  induction l generalizing s with
  | nil => exact ⟨rfl, rfl⟩
  | cons g l ih =>
    rw [List.foldl_cons]
    refine ⟨(ih _).1.trans ?_, (ih _).2.trans ?_⟩
    · split_ifs
      · rfl
      · exact (putTag_bytes _ _ _ _ _).1
    · split_ifs
      · rfl
      · exact (putTag_bytes _ _ _ _ _).2
theorem memoryOnly_tagsBack (s : State) (id : Option Ident) (k : Nat) (e : CacheSector) : MemoryOnly s (tagsBack s id k e) := by
  refine MemoryOnly.foldl (fun s g => ?_) _ s
  split_ifs
  · rfl
  · exact memoryOnly_putTag _ _ _ _ _

section
variable {s : State} {c k : Nat} {e : CacheSector}

theorem writeBack_eq (hf : (s.core c).cache.find? (·.1 == k) = some (k, e)) (hd : e.dirty ≠ 0) :
    s.writeBack c k = (tagsBack (s.cohWrite (s.identOf c) (dirtyBytes k e)) (s.identOf c) k e).modCore c
      fun x => { x with cache := tabPut x.cache k { e with dirty := 0 } } := by
  unfold State.writeBack
  rw [hf]
  exact if_neg hd

/-- The write-back of a sector: device memory, host memory and CACHE after it. -/
theorem writeBack_found (hid : s.identOf c = none) (hf : (s.core c).cache.find? (·.1 == k) = some (k, e)) (hd : e.dirty ≠ 0) :
    (keyHost k = false → (s.writeBack c k).dev = (dirtyBytes k e).foldl (fun m x => wrByte m x.2.1 x.2.2) s.dev ∧
      (s.writeBack c k).host = s.host) ∧
    (keyHost k = true → (s.writeBack c k).dev = s.dev) ∧
    ((s.writeBack c k).core c).cache = tabPut (s.core c).cache k { e with dirty := 0 } := by
  rw [writeBack_eq hf hd, hid]
  obtain ⟨htd, hth⟩ := tagsBack_bytes (s.cohWrite none (dirtyBytes k e)) none k e
  refine ⟨fun hk => ?_, fun hk => ?_, ?_⟩
  · obtain ⟨hwd, hwh⟩ := cohWrite_device s (dirtyBytes k e) fun x hx => (dirtyBytes_host x hx).trans hk
    exact ⟨htd.trans hwd, hth.trans hwh⟩
  · exact htd.trans (cohWrite_host_dev s none _ fun x hx => (dirtyBytes_host x hx).trans hk)
  · rw [State.core_modCore_same]
    dsimp only
    rw [(memoryOnly_tagsBack _ _ _ _).core, (memoryOnly_cohWrite _ _ _).core]
end

/-! ## Write-backs of several sectors -/

/-- A table whose keys rise holds one entry a key. -/
theorem find_of_mem {α : Type} : ∀ {t : Tab α} {e : Nat × α}, (t.map Prod.fst).Pairwise (· < ·) → e ∈ t → t.find? (·.1 == e.1) = some e
  | x :: t, e, hs, he => by
    rw [List.map_cons, List.pairwise_cons] at hs
    rcases List.mem_cons.1 he with rfl | he
    · simp
    · have hne : x.1 ≠ e.1 := (hs.1 e.1 (List.mem_map_of_mem he)).ne
      rw [List.find?_cons_of_neg (by simpa using hne)]
      exact find_of_mem hs.2 he
/-- Putting a value at a key of a table whose keys rise changes that entry alone. -/
theorem tabPut_of_mem {α : Type} {k : Nat} {v w : α} : ∀ {t : Tab α}, (t.map Prod.fst).Pairwise (· < ·) → (k, w) ∈ t →
    tabPut t k v = t.map fun e => if e.1 = k then (k, v) else e
  | (j, x) :: t, hs, he => by
    rw [List.map_cons, List.pairwise_cons] at hs
    unfold tabPut
    rcases List.mem_cons.1 he with h | h
    · obtain ⟨rfl, rfl⟩ := Prod.mk.inj h
      rw [if_neg (lt_irrefl _), if_pos rfl, List.map_cons, if_pos rfl]
      refine congrArg _ (Eq.symm ?_)
      refine (List.map_congr_left fun e he => if_neg ?_).trans (List.map_id t)
      exact (hs.1 e.1 (List.mem_map_of_mem he)).ne'
    · have hlt : j < k := hs.1 k (List.mem_map_of_mem h)
      rw [if_neg (by omega), if_neg (by omega), List.map_cons, if_neg (by simpa using hlt.ne), tabPut_of_mem hs.2 h]

/-- What write-backs of some sectors leave of a sector. -/
def cleanedIn (K : List Nat) (e : Nat × CacheSector) : Nat × CacheSector := if e.1 ∈ K then (e.1, { e.2 with dirty := 0 }) else e

theorem cleanedIn_fst (K : List Nat) (e : Nat × CacheSector) : (cleanedIn K e).1 = e.1 := by
  unfold cleanedIn
  split_ifs <;> rfl
theorem sorted_cleanedIn {t : Tab CacheSector} (K : List Nat) (h : (t.map Prod.fst).Pairwise (· < ·)) :
    ((t.map (cleanedIn K)).map Prod.fst).Pairwise (· < ·) := by
  rw [List.map_map, show Prod.fst ∘ cleanedIn K = Prod.fst from funext fun e => cleanedIn_fst K e]
  exact h
theorem CacheOnly.identOf {s t : State} (h : CacheOnly s t) (c : Nat) : t.identOf c = s.identOf c := by
  unfold State.identOf
  rw [h.cores c]

section
variable {s : State} {c : Nat} (hid : s.identOf c = none) (hs : ((s.core c).cache.map Prod.fst).Pairwise (· < ·))
include hid hs

theorem writeBack_cache (k : Nat) : ((s.writeBack c k).core c).cache = (s.core c).cache.map (cleanedIn [k]) := by
  have hsame (h : ∀ e ∈ (s.core c).cache, e.1 = k → e.2.dirty = 0) : (s.core c).cache = (s.core c).cache.map (cleanedIn [k]) := by
    refine Eq.symm ((List.map_congr_left fun e he => ?_).trans (List.map_id _))
    unfold cleanedIn
    split_ifs with hk
    · rw [← h e he (by simpa using hk)]
      rfl
    · rfl
  cases hf : (s.core c).cache.find? (·.1 == k) with
  | none =>
    have hw : s.writeBack c k = s := by unfold State.writeBack; rw [hf]
    rw [hw]
    exact hsame fun e he hk => absurd (List.find?_eq_none.1 hf e he) (by simp [hk])
  | some e =>
    obtain rfl : e.1 = k := by simpa using List.find?_some hf
    have hmem := List.mem_of_find?_eq_some hf
    by_cases hd : e.2.dirty = 0
    · have hw : s.writeBack c e.1 = s := by unfold State.writeBack; rw [hf]; exact if_pos hd
      rw [hw]
      refine hsame fun f hf' hk => ?_
      have := find_of_mem hs hf'
      rw [hk, hf] at this
      rw [← Option.some.inj this]
      exact hd
    · rw [(writeBack_found hid hf hd).2.2, tabPut_of_mem hs hmem]
      refine List.map_congr_left fun f hf' => ?_
      unfold cleanedIn
      by_cases hk : f.1 = e.1
      · have hfe := find_of_mem hs hf'
        rw [hk, hf] at hfe
        rw [if_pos hk, if_pos (by simp [hk]), ← Option.some.inj hfe]
      · rw [if_neg hk, if_neg (by simpa using hk)]

theorem writeBack_inside {e : Nat × CacheSector} (he : e ∈ (s.core c).cache) (hk : keyHost e.1 = false) {j : Nat} (hj : j < 32)
    (hd : e.2.dirty.getLsbD j = true) : rdByte (s.writeBack c e.1).dev (keyAddr e.1 + j) = (e.2.data >>> (8 * j)).setWidth 8 := by
  have hne : e.2.dirty ≠ 0 := by
    intro h
    rw [h] at hd
    simp at hd
  obtain ⟨hdev, -, -⟩ := writeBack_found hid (find_of_mem hs he) hne
  rw [(hdev hk).1]
  exact (dirtyBytes_written s.dev e.1 e.2).1 j hj hd

omit hs in
theorem writeBack_outside {k a : Nat} (ha : ∀ e ∈ (s.core c).cache, e.1 = k → keyHost k = false → ∀ j, j < 32 → e.2.dirty.getLsbD j = true →
    a ≠ keyAddr k + j) : rdByte (s.writeBack c k).dev a = rdByte s.dev a := by
  cases hf : (s.core c).cache.find? (·.1 == k) with
  | none =>
    have hw : s.writeBack c k = s := by unfold State.writeBack; rw [hf]
    rw [hw]
  | some e =>
    obtain rfl : e.1 = k := by simpa using List.find?_some hf
    by_cases hd : e.2.dirty = 0
    · have hw : s.writeBack c e.1 = s := by unfold State.writeBack; rw [hf]; exact if_pos hd
      rw [hw]
    · obtain ⟨hdev, hhost, -⟩ := writeBack_found hid hf hd
      cases hk : keyHost e.1 with
      | true => rw [hhost hk]
      | false =>
        rw [(hdev hk).1]
        exact (dirtyBytes_written s.dev e.1 e.2).2 a (ha e (List.mem_of_find?_eq_some hf) rfl hk)
end

/-- Write-backs of some sectors leave them clean. -/
theorem writeBacks_cache {c : Nat} : ∀ (K : List Nat) {s : State}, s.identOf c = none → ((s.core c).cache.map Prod.fst).Pairwise (· < ·) →
    ((K.foldl (fun s k => s.writeBack c k) s).core c).cache = (s.core c).cache.map (cleanedIn K)
  | [], s, _, _ => by
    refine Eq.symm ((List.map_congr_left fun e _ => ?_).trans (List.map_id _))
    exact if_neg (by simp)
  | k :: K, s, hid, hs => by
    have hone := writeBack_cache hid hs k
    rw [List.foldl_cons, writeBacks_cache K (((cacheOnly_writeBack s c k).identOf c).trans hid) (by rw [hone]; exact sorted_cleanedIn _ hs),
      hone, List.map_map]
    refine List.map_congr_left fun e _ => ?_
    simp only [Function.comp_apply]
    unfold cleanedIn
    by_cases h1 : e.1 ∈ [k] <;> by_cases h2 : e.1 ∈ K <;> simp_all

/-- Write-backs of some sectors change no byte but the dirty ones of those sectors. -/
theorem writeBacks_outside {c a : Nat} : ∀ (K : List Nat) {s : State}, s.identOf c = none → ((s.core c).cache.map Prod.fst).Pairwise (· < ·) →
    (∀ e ∈ (s.core c).cache, e.1 ∈ K → keyHost e.1 = false → ∀ j, j < 32 → e.2.dirty.getLsbD j = true → a ≠ keyAddr e.1 + j) →
    rdByte (K.foldl (fun s k => s.writeBack c k) s).dev a = rdByte s.dev a
  | [], _, _, _, _ => rfl
  | k :: K, s, hid, hs, ha => by
    have hone := writeBack_cache hid hs k
    rw [List.foldl_cons, writeBacks_outside K (((cacheOnly_writeBack s c k).identOf c).trans hid) (by rw [hone]; exact sorted_cleanedIn _ hs)]
    · exact writeBack_outside hid fun e he hk => hk ▸ ha e he (by simp [hk])
    · intro e he hK hk j hj hd
      rw [hone] at he
      obtain ⟨f, hf, rfl⟩ := List.mem_map.1 he
      rw [cleanedIn_fst] at hK hk ⊢
      unfold cleanedIn at hd
      split_ifs at hd with h1
      · simp at hd
      · exact ha f hf (.tail _ hK) hk j hj hd

/-- Write-backs of some sectors put their dirty bytes in device memory. -/
theorem writeBacks_inside {c : Nat} {e : Nat × CacheSector} (hk : keyHost e.1 = false) {j : Nat} (hj : j < 32) (hd : e.2.dirty.getLsbD j = true) :
    ∀ (K : List Nat) {s : State}, s.identOf c = none → ((s.core c).cache.map Prod.fst).Pairwise (· < ·) → e ∈ (s.core c).cache → e.1 ∈ K →
    rdByte (K.foldl (fun s k => s.writeBack c k) s).dev (keyAddr e.1 + j) = (e.2.data >>> (8 * j)).setWidth 8 := by
  intro K
  induction K with
  | nil => exact fun _ _ _ h => absurd h (by simp)
  | cons k K ih =>
    intro s hid hs he hK
    have hone := writeBack_cache hid hs k
    have hid' := ((cacheOnly_writeBack s c k).identOf c).trans hid
    have hs' : (((s.writeBack c k).core c).cache.map Prod.fst).Pairwise (· < ·) := by rw [hone]; exact sorted_cleanedIn _ hs
    rw [List.foldl_cons]
    by_cases hek : e.1 = k
    · subst hek
      rw [writeBacks_outside K hid' hs', writeBack_inside hid hs he hk hj hd]
      intro f hf _ hfk i hi hfd
      rw [hone] at hf
      obtain ⟨g, -, rfl⟩ := List.mem_map.1 hf
      rw [cleanedIn_fst] at hfk ⊢
      unfold cleanedIn at hfd
      split_ifs at hfd with h1
      · simp at hfd
      · have hne : g.1 ≠ e.1 := by simpa using h1
        unfold keyHost at hk hfk
        unfold keyAddr
        simp only [beq_eq_false_iff_ne] at hk hfk
        omega
    · refine ih hid' hs' ?_ ((List.mem_cons.1 hK).resolve_left hek)
      rw [hone]
      exact List.mem_map.2 ⟨e, he, if_neg (by simpa using hek)⟩

end Sys2Proof.Laws
end

section
/-! PROOF. Performed stores and write-backs write their bytes and no others (R249, R263, R276, R277, R279, R285, R292). -/
namespace Sys2Proof.Laws
open Sys2Proof.Machine

/-! ## Bytes written without CACHE -/

section
variable {s : State} {c agent : Nat}

theorem corePut_bare (hcache : (s.core c).cache = []) (hpool : (s.sh c).pool.cache = 0) (host : Bool) (a : Nat) (b : Byte) :
    s.corePut c agent host a b = s.cohPut (s.identOf c) host a b := by
  have hroom : (s.core c).sh.cacheRoom = 0 := by
    unfold Shared.cacheRoom
    rw [show (s.core c).sh.pool.cache = 0 from hpool]
    simp
  have halloc : s.allocate c (sectorKey host a) = s := by
    unfold State.allocate
    simp [hcache, hroom]
  unfold State.corePut
  simp [halloc, hcache]

theorem corePuts_bare : ∀ (l : List (Bool × Nat × Byte)) {s : State}, s.identOf c = none → (s.core c).cache = [] → (s.sh c).pool.cache = 0 →
    l.foldl (fun s x => s.corePut c agent x.1 x.2.1 x.2.2) s = l.foldl (fun s x => s.cohPut none x.1 x.2.1 x.2.2) s
  | [], _, _, _, _ => rfl
  | x :: l, s, hid, hcache, hpool => by
    have hcore := (memoryOnly_cohPut s none x.1 x.2.1 x.2.2).core c
    rw [List.foldl_cons, List.foldl_cons, corePut_bare hcache hpool, hid]
    refine corePuts_bare l ?_ (by rw [hcore]; exact hcache) (by unfold State.sh; rw [hcore]; exact hpool)
    rw [(memoryOnly_cohPut s none x.1 x.2.1 x.2.2).cacheOnly.identOf]
    exact hid

/-- What a write of device memory leaves there, where CACHE is empty and nothing is provisional. -/
theorem coreWrite_bare (l : List (Bool × Nat × Byte)) (tag : Bool) (hid : s.identOf c = none) (hcache : (s.core c).cache = [])
    (hpool : (s.sh c).pool.cache = 0) (hl : ∀ x ∈ l, x.1 = false) :
    let t := s.coreWrite c agent l tag
    t.dev = l.foldl (fun m x => wrByte m x.2.1 x.2.2) s.dev ∧ t.host = s.host ∧
      (tag = false → t.devTags = l.foldl (fun m x => tabSet false m (x.2.1 / 16) false) s.devTags) ∧
      ∀ x rest, tag = true → l = x :: rest → tabGet false t.devTags (x.2.1 / 16) = true := by
  obtain ⟨hd, hh, ht⟩ := cohPuts_device l s hl
  have hany : ¬ l.any (·.1) = true := by
    intro h
    obtain ⟨x, hx, hx1⟩ := List.any_eq_true.1 h
    rw [hl x hx] at hx1
    cases hx1
  have hputs : MemoryOnly s (l.foldl (fun s x => s.cohPut none x.1 x.2.1 x.2.2) s) :=
    MemoryOnly.foldl (fun s (x : Bool × Nat × Byte) => memoryOnly_cohPut s none x.1 x.2.1 x.2.2) l s
  have hid' : (l.foldl (fun s x => s.cohPut none x.1 x.2.1 x.2.2) s).identOf c = none := (hputs.cacheOnly.identOf c).trans hid
  unfold State.coreWrite
  rw [if_neg hany]
  dsimp only
  rw [corePuts_bare l hid hcache hpool]
  generalize l.foldl (fun s x => State.cohPut s none x.1 x.2.1 x.2.2) s = u at *
  rw [hid', Option.isSome_none, if_neg Bool.false_ne_true]
  obtain ⟨hpd, hph, hpt⟩ := clearPoison_memories u (l.filter fun x => !(decide (agent ≤ 1) && (u.core c).cache.any (·.1 == sectorKey x.1 x.2.1)))
  have hpc := memoryOnly_clearPoison u (l.filter fun x => !(decide (agent ≤ 1) && (u.core c).cache.any (·.1 == sectorKey x.1 x.2.1)))
  generalize u.clearPoison (l.filter fun x => !(decide (agent ≤ 1) && (u.core c).cache.any (·.1 == sectorKey x.1 x.2.1))) = v at *
  have hv : (v.core c).cache = [] := by rw [hpc.core, hputs.core]; exact hcache
  have hvid : v.identOf c = none := (hpc.cacheOnly.identOf c).trans hid'
  cases tag with
  | false => exact ⟨hpd.trans hd, hph.trans hh, fun _ => hpt.trans ht, fun _ _ h => (nomatch h)⟩
  | true =>
    rw [if_neg (by simp)]
    cases l with
    | nil => exact ⟨hpd.trans hd, hph.trans hh, fun h => (nomatch h), fun _ _ _ h => (nomatch h)⟩
    | cons x l =>
      dsimp only
      rw [hv, if_neg (by simp), hvid, hl x (.head _)]
      obtain ⟨htd, hth⟩ := putTag_bytes v none false (x.2.1 / 16) true
      refine ⟨(htd.trans hpd).trans hd, (hth.trans hph).trans hh, fun h => (nomatch h), fun y rest _ h => ?_⟩
      obtain ⟨rfl, -⟩ := List.cons.inj h
      exact tabGet_set_same false v.devTags (x.2.1 / 16) true

end

/-! ## The bytes of a store at their places -/

/-- Of bytes written one by one, one whose address only its own value is written to stands there. -/
theorem rdByte_foldl_mem {β : Type} (f : β → Nat) (g : β → Byte) {x : β} : ∀ (l : List β) (m : Memory), x ∈ l →
    (∀ y ∈ l, f y = f x → g y = g x) → rdByte (l.foldl (fun m x => wrByte m (f x) (g x)) m) (f x) = g x := by
  intro l
  induction l using List.reverseRecOn with
  | nil => exact fun _ h => absurd h (by simp)
  | append_singleton l y ih =>
    intro m hx hsame
    rw [List.foldl_append, List.foldl_cons, List.foldl_nil]
    by_cases hy : f y = f x
    · rw [hy, rdByte_wrByte_same]
      exact hsame y (by simp) hy
    · rw [rdByte_wrByte_other _ _ (Ne.symm hy)]
      refine ih m ?_ fun z hz => hsame z (by simp [hz])
      rcases List.mem_append.1 hx with h | h
      · exact h
      · exact absurd (by rw [List.mem_singleton.1 h]) hy

/-- A list without repetitions pairs each of its elements with one of another list. -/
theorem zip_unique {α β : Type} {l : List α} {m : List β} (hl : l.Nodup) {a : α} {b d : β} (h1 : (a, b) ∈ l.zip m) (h2 : (a, d) ∈ l.zip m) : b = d := by
  obtain ⟨i, hi⟩ := List.getElem?_of_mem h1
  obtain ⟨j, hj⟩ := List.getElem?_of_mem h2
  obtain ⟨hia, hib⟩ := List.getElem?_zip_eq_some.1 hi
  obtain ⟨hja, hjb⟩ := List.getElem?_zip_eq_some.1 hj
  obtain ⟨hil, hie⟩ := List.getElem?_eq_some_iff.1 hia
  obtain ⟨hjl, hje⟩ := List.getElem?_eq_some_iff.1 hja
  obtain rfl := (List.Nodup.getElem_inj_iff hl).1 (hie.trans hje.symm)
  exact Option.some.inj (hib.symm.trans hjb)

theorem getElem?_leBytes : ∀ (n x k : Nat), k < n → (leBytes n x)[k]? = some (BitVec.ofNat 8 (x / 2 ^ (8 * k)))
  | n + 1, x, 0, _ => by simp [leBytes]
  | n + 1, x, k + 1, h => by
    rw [leBytes, List.getElem?_cons_succ, getElem?_leBytes n (x / 256) k (by omega), Nat.div_div_eq_div_mul,
      show 2 ^ (8 * (k + 1)) = 256 * 2 ^ (8 * k) by rw [Nat.mul_succ, pow_add]; ring]

/-- A byte of an access's data, as a write of a place. -/
def asWrite (x : (Bool × Nat) × Byte) : Bool × Nat × Byte := (x.1.1, x.1.2, x.2)

theorem mem_asWrite {l : List (Bool × Nat)} {bs : List Byte} {k : Nat} {q : Bool × Nat} {b : Byte} (hq : l[k]? = some q) (hb : bs[k]? = some b) :
    (q.1, q.2, b) ∈ (l.zip bs).map asWrite :=
  List.mem_map.2 ⟨(q, b), List.mem_of_getElem? (List.getElem?_zip_eq_some.2 ⟨hq, hb⟩), rfl⟩

/-- The bytes of data that is written to places in order. -/
theorem zipWrites {l : List (Bool × Nat)} {bs : List Byte} (hdev : ∀ q ∈ l, q.1 = false) (hnodup : l.Nodup) (m : Memory) :
    (∀ x ∈ (l.zip bs).map asWrite, (x.1, x.2.1) ∈ l) ∧ ∀ (k : Nat) (q : Bool × Nat) (b : Byte), l[k]? = some q → bs[k]? = some b →
      rdByte (((l.zip bs).map asWrite).foldl (fun m x => wrByte m x.2.1 x.2.2) m) q.2 = b := by
  have hin : ∀ x ∈ (l.zip bs).map asWrite, (x.1, x.2.1) ∈ l := fun x hx => by
    obtain ⟨y, hy, rfl⟩ := List.mem_map.1 hx
    exact (List.of_mem_zip hy).1
  refine ⟨hin, fun k q b hq hb => ?_⟩
  refine rdByte_foldl_mem (fun x : Bool × Nat × Byte => x.2.1) (fun x => x.2.2) _ m (mem_asWrite hq hb) fun y hy hyq => ?_
  obtain ⟨⟨r, d⟩, hz, rfl⟩ := List.mem_map.1 hy
  have hr : r = q := by
    refine Prod.ext ?_ hyq
    rw [hdev r (List.of_mem_zip hz).1, hdev q (List.mem_of_getElem? hq)]
  subst hr
  exact zip_unique hnodup hz (List.mem_of_getElem? (List.getElem?_zip_eq_some.2 ⟨hq, hb⟩))

/-- The data of a lane of a scatter, as writes of its places (R279). -/
def laneWrites (bits : Nat) (data : Nat) (p : Piece) : List (Bool × Nat × Byte) :=
  (p.at_.zip (leBytes p.size (slice data (bits * p.lane) bits))).map asWrite

theorem disjoint_of_lt {ps : List Piece} (h : ps.Pairwise (Function.onFun List.Disjoint Piece.at_)) {p q : Piece} {i j : Nat}
    (hi : ps[i]? = some p) (hj : ps[j]? = some q) (hij : i < j) : List.Disjoint p.at_ q.at_ := by
  obtain ⟨hil, rfl⟩ := List.getElem?_eq_some_iff.1 hi
  obtain ⟨hjl, rfl⟩ := List.getElem?_eq_some_iff.1 hj
  exact List.pairwise_iff_getElem.1 h i j hil hjl hij

/-- The bytes of a scatter's lanes at their places. -/
theorem laneWrites_written {ps : List Piece} (bits data : Nat) (hdev : ∀ q ∈ ps.flatMap Piece.at_, q.1 = false) (hnodup : (ps.flatMap Piece.at_).Nodup)
    (m : Memory) :
    (∀ x ∈ ps.flatMap (laneWrites bits data), (x.1, x.2.1) ∈ ps.flatMap Piece.at_) ∧
    ∀ p ∈ ps, ∀ k q, k < p.size → p.at_[k]? = some q →
      rdByte ((ps.flatMap (laneWrites bits data)).foldl (fun m x => wrByte m x.2.1 x.2.2) m) q.2 =
        BitVec.ofNat 8 (slice data (bits * p.lane) bits / 2 ^ (8 * k)) := by
  obtain ⟨hown, hapart⟩ := List.nodup_flatMap.1 hnodup
  have hplace {p : Piece} {x : Bool × Nat × Byte} (hx : x ∈ laneWrites bits data p) : (x.1, x.2.1) ∈ p.at_ := by
    obtain ⟨y, hy, rfl⟩ := List.mem_map.1 hx
    exact (List.of_mem_zip hy).1
  refine ⟨fun x hx => ?_, fun p hp k q hk hq => ?_⟩
  · obtain ⟨p, hp, hx⟩ := List.mem_flatMap.1 hx
    exact List.mem_flatMap.2 ⟨p, hp, hplace hx⟩
  · have hb := getElem?_leBytes p.size (slice data (bits * p.lane) bits) k hk
    have hmem : (q.1, q.2, BitVec.ofNat 8 (slice data (bits * p.lane) bits / 2 ^ (8 * k))) ∈ laneWrites bits data p := mem_asWrite hq hb
    refine rdByte_foldl_mem (fun x : Bool × Nat × Byte => x.2.1) (fun x => x.2.2) _ m (List.mem_flatMap.2 ⟨p, hp, hmem⟩) fun y hy hyq => ?_
    obtain ⟨p', hp', hy⟩ := List.mem_flatMap.1 hy
    have hyin := hplace hy
    have hqin := List.mem_of_getElem? hq
    have hyqe : (y.1, y.2.1) = q := by
      refine Prod.ext ?_ hyq
      rw [hdev _ (List.mem_flatMap.2 ⟨p', hp', hyin⟩), hdev q (List.mem_flatMap.2 ⟨p, hp, hqin⟩)]
    have hpp : p' = p := by
      by_contra hne
      obtain ⟨i, hi⟩ := List.getElem?_of_mem hp'
      obtain ⟨j, hj⟩ := List.getElem?_of_mem hp
      rcases lt_trichotomy i j with h | h | h
      · exact disjoint_of_lt hapart hi hj h (hyqe ▸ hyin) hqin
      · exact hne (Option.some.inj (hi.symm.trans (h ▸ hj)))
      · exact disjoint_of_lt hapart hj hi h hqin (hyqe ▸ hyin)
    subst hpp
    obtain ⟨⟨r, d⟩, hz, rfl⟩ := List.mem_map.1 hy
    obtain rfl : r = q := hyqe
    exact zip_unique (hown p' hp') hz (List.mem_of_getElem? (List.getElem?_zip_eq_some.2 ⟨hq, hb⟩))

theorem countMiss_keeps (s : State) (c : Nat) (a : Access) : let m := s.countMiss c a
    (m.core c).cache = (s.core c).cache ∧ m.identOf c = s.identOf c ∧ (m.sh c) = s.sh c ∧ (m.core c).acc = (s.core c).acc ∧
      m.dev = s.dev ∧ m.host = s.host ∧ m.devTags = s.devTags := by
  unfold State.countMiss
  split_ifs
  · simp [State.identOf, State.sh, Core.count, State.modCore, State.setCore, State.core]
  · simp

theorem passCache_empty {s : State} {c : Nat} (l : List (Bool × Nat)) (h : (s.core c).cache = []) : s.passCache c l = s := by
  unfold State.passCache
  generalize (l.map fun x => sectorKey x.1 x.2).eraseDups = ks
  induction ks with
  | nil => rfl
  | cons k ks ih => rw [List.foldl_cons, if_neg (by simp [h]), ih]

/-- A store without CACHE and provisional data, performed (R263, R276). -/
theorem performStore_bare {s : State} {c : Nat} {a : Access} (hid : s.identOf c = none) (hrel : a.isRelease = false)
    (hcache : (s.core c).cache = []) (hpool : (s.sh c).pool.cache = 0) (hw : ∀ x ∈ a.writes, x.1 = false) :
    let t := (s.countMiss c a).performStore c a
    t.broken = s.broken ∧ (t.core c).acc = (s.core c).acc.filter (fun b => b.id != a.id) ∧
      t.dev = a.writes.foldl (fun m x => wrByte m x.2.1 x.2.2) s.dev ∧ t.host = s.host ∧
      ((a.kind == .capStore && a.data.getLsbD 128) = false →
        t.devTags = a.writes.foldl (fun m x => tabSet false m (x.2.1 / 16) false) s.devTags) ∧
      ∀ x rest, (a.kind == .capStore && a.data.getLsbD 128) = true → a.writes = x :: rest → tabGet false t.devTags (x.2.1 / 16) = true := by
  obtain ⟨hmcache, hmid, hmsh, hmacc, hmdev, hmhost, hmtags⟩ := countMiss_keeps s c a
  have hmb := countMiss_broken s c a
  generalize s.countMiss c a = m at *
  have hgo : m.performStore c a = (m.coreWrite c a.agent a.writes (a.kind == .capStore && a.data.getLsbD 128)).dropAcc c a.id := by
    unfold State.performStore State.beforeRelease
    rw [if_neg (by simp [hrel])]
    dsimp only
    rw [passCache_empty _ (hmcache.trans hcache), ite_self]
  obtain ⟨hdev, hhost, htags, htag⟩ := coreWrite_bare (agent := a.agent) a.writes (a.kind == .capStore && a.data.getLsbD 128) (hmid.trans hid)
    (hmcache.trans hcache) (by rw [hmsh]; exact hpool) hw
  have hany : ¬ a.writes.any (·.1) = true := by
    intro h
    obtain ⟨x, hx, hx1⟩ := List.any_eq_true.1 h
    rw [hw x hx] at hx1
    cases hx1
  have honly := cacheOnly_coreWrite m c a.agent a.writes (a.kind == .capStore && a.data.getLsbD 128)
  rw [if_neg hany] at honly
  rw [hgo]
  generalize m.coreWrite c a.agent a.writes (a.kind == .capStore && a.data.getLsbD 128) = t at *
  refine ⟨honly.broken.trans hmb, ?_, hdev.trans (by rw [hmdev]), hhost.trans hmhost, fun h => (htags h).trans (by rw [hmtags]), htag⟩
  unfold State.dropAcc
  rw [State.core_modCore_same, honly.cores c]
  dsimp only
  rw [hmacc]

theorem slice_byte (data lo : Nat) {w k : Nat} (h : 8 * k + 8 ≤ w) :
    BitVec.ofNat 8 (slice data lo w / 2 ^ (8 * k)) = BitVec.ofNat 8 (data / 2 ^ (lo + 8 * k)) := by
  obtain ⟨m, rfl⟩ := Nat.exists_eq_add_of_le h
  refine BitVec.eq_of_toNat_eq ?_
  rw [BitVec.toNat_ofNat, BitVec.toNat_ofNat]
  unfold slice
  rw [show 2 ^ (8 * k + 8 + m) = 2 ^ (8 * k) * 2 ^ (8 + m) by rw [← pow_add]; congr 1; omega, Nat.mod_mul_right_div_self, Nat.div_div_eq_div_mul,
    ← pow_add, Nat.mod_mod_of_dvd _ (pow_dvd_pow 2 (Nat.le_add_right 8 m))]
theorem ofNat_mod_byte (data : Nat) {k : Nat} (h : k < 16) :
    BitVec.ofNat 8 (data % 2 ^ 128 / 2 ^ (8 * k)) = BitVec.ofNat 8 (data / 2 ^ (8 * k)) := by
  have := slice_byte data 0 (w := 128) (k := k) (by omega)
  unfold slice at this
  rwa [pow_zero, Nat.div_one, Nat.zero_add] at this

/-- Tags of one granule, cleared one after another. -/
theorem tags_cleared {n : Nat} : ∀ (l : List (Bool × Nat × Byte)), l ≠ [] → (∀ x ∈ l, x.2.1 / 16 = n) → ∀ m : Tab Bool,
    tabGet false (l.foldl (fun m x => tabSet false m (x.2.1 / 16) false) m) n = false := by
  intro l hl hn m
  obtain ⟨l, x, rfl⟩ := List.eq_nil_or_concat l |>.resolve_left hl
  rw [List.concat_eq_append, List.foldl_append, List.foldl_cons, List.foldl_nil, hn x (by simp)]
  exact tabGet_set_same false _ n false

theorem endIdem_broken (s : State) (c : Nat) : (s.endIdem c).broken = s.broken := by
  unfold State.endIdem
  split
  next t _ =>
    split
    · exact ((cacheOnly_writeBackAll s c 0).trans (memoryOnly_commit _ (.idem t.ctx t.lid t.gen t.index)).cacheOnly).broken
    · rfl
  · rfl
theorem coreWrite_broken (s : State) (c agent : Nat) (l : List (Bool × Nat × Byte)) (tag : Bool) :
    (s.coreWrite c agent l tag).broken = s.broken := by
  refine (cacheOnly_coreWrite s c agent l tag).broken.trans ?_
  split_ifs
  · exact endIdem_broken s c
  · rfl
theorem beforeRelease_broken (s : State) (c : Nat) (a : Access) : (s.beforeRelease c a).broken = s.broken := by
  unfold State.beforeRelease
  split_ifs
  · exact (cacheOnly_releaseCache _ _ _ _).broken.trans (endIdem_broken s c)
  · exact (cacheOnly_releaseCache _ _ _ _).broken
  · rfl
theorem tileWrite_broken (s : State) (c : Nat) (h : Handle) (pos : Nat) (l : List Byte) : (s.tileWrite c h pos l).broken = s.broken := by
  unfold State.tileWrite
  split
  · rfl
  · exact heal_broken _ _

theorem writeBacks_clean {s : State} {c : Nat} {K : List Nat} (hid : s.identOf c = none) (hs : ((s.core c).cache.map Prod.fst).Pairwise (· < ·)) :
    ∀ f ∈ ((K.foldl (fun s k => s.writeBack c k) s).core c).cache, f.1 ∈ K → f.2.dirty = 0 := by
  intro f hf hk
  rw [writeBacks_cache K hid hs] at hf
  obtain ⟨g, -, rfl⟩ := List.mem_map.1 hf
  rw [cleanedIn_fst] at hk
  rw [cleanedIn, if_pos hk]

/-- Settles O38. -/
theorem storesWriteTheirBytesAndNoOthers : Obligations.StoresWriteTheirBytesAndNoOthers := by
  unfold Obligations.StoresWriteTheirBytesAndNoOthers
  intro c id s hs hident
  have hexec {a : Access} (ha : (s.core c).access id = some a) (hk : a.kind.stores = true) :
      exec (.storePerformed c false id) s = answer (s.performAcc c id) := by
    refine congrArg answer (a₁ := s.performIf c id AccKind.stores) ?_
    unfold State.performIf
    rw [ha]
    exact if_pos hk
  refine ⟨?_, ?_, ?_, ?_, ?_, ?_⟩
  · intro a ha ht hm hrel hcache hpool hplaces hnodup wrote
    have hid := access_id ha
    have hperf (hk : a.kind = .store ∨ a.kind = .scatter ∨ a.kind = .capStore) : s.performAcc c id = (s.countMiss c a).performStore c a := by
      rw [performAcc_translated ha (.inl ht) hm]
      rcases hk with h | h | h <;> rw [h] <;> exact if_pos ht
    have hgo (p : State → Prop) (hk : a.kind = .store ∨ a.kind = .scatter ∨ a.kind = .capStore)
        (hin : ∀ x ∈ a.writes, (x.1, x.2.1) ∈ a.places)
        (hp : ∀ t : State, t.dev = a.writes.foldl (fun m x => wrByte m x.2.1 x.2.2) s.dev →
          ((a.kind == .capStore && a.data.getLsbD 128) = false → t.devTags = a.writes.foldl (fun m x => tabSet false m (x.2.1 / 16) false) s.devTags) →
          (∀ x rest, (a.kind == .capStore && a.data.getLsbD 128) = true → a.writes = x :: rest → tabGet false t.devTags (x.2.1 / 16) = true) → p t) :
        wrote p := by
      obtain ⟨hb, hacc, hdev, hhost, htags, htag⟩ := performStore_bare hident hrel hcache hpool fun x hx => hplaces _ (hin x hx)
      refine ⟨(s.countMiss c a).performStore c a, ?_, hid ▸ hacc, fun m hmn => ?_, hhost, hp _ hdev htags htag⟩
      · rw [hexec ha (by rcases hk with h | h | h <;> rw [h] <;> rfl), hperf hk]
        exact answer_whole (hb.trans hs)
      · rw [hdev]
        refine rdByte_foldl_other (fun x : Bool × Nat × Byte => x.2.1) (fun x => x.2.2) _ _ fun x hx hmx => hmn ?_
        have := hin x hx
        rw [hplaces _ this] at this
        rw [hmx]
        exact this
    refine ⟨fun hk => ?_, fun hk => ?_, fun q rest hk hlen hq hgran => ?_⟩
    · have hwrites : a.writes = (a.places.zip (leBytes a.places.length a.data.toNat)).map asWrite := by unfold Access.writes; rw [hk]; rfl
      obtain ⟨hin, hbytes⟩ := zipWrites (bs := leBytes a.places.length a.data.toNat) hplaces hnodup s.dev
      refine hgo _ (.inl hk) (by rw [hwrites]; exact hin) fun t hdev _ _ k q hq => ?_
      rw [hdev, hwrites]
      exact hbytes k q _ hq (getElem?_leBytes _ _ _ (List.getElem?_eq_some_iff.1 hq).1)
    · have hwrites : a.writes = a.pieces.flatMap (laneWrites (if a.w = 3 then 64 else 32) a.data.toNat) := by unfold Access.writes; rw [hk]; rfl
      obtain ⟨hin, hbytes⟩ := laneWrites_written (if a.w = 3 then 64 else 32) a.data.toNat hplaces hnodup s.dev
      refine hgo _ (.inr (.inl hk)) (by rw [hwrites]; exact hin) fun t hdev _ _ p hp k q hkp hq hsize => ?_
      rw [hdev, hwrites, hbytes p hp k q hkp hq]
      have hfit : 8 * k + 8 ≤ (if a.w = 3 then 64 else 32) := by split_ifs at hsize ⊢ <;> omega
      rw [slice_byte _ _ hfit]
    · have hwrites : a.writes = (a.places.zip (leBytes 16 (a.data.toNat % 2 ^ 128))).map asWrite := by unfold Access.writes; rw [hk]; rfl
      obtain ⟨hin, hbytes⟩ := zipWrites (bs := leBytes 16 (a.data.toNat % 2 ^ 128)) hplaces hnodup s.dev
      refine hgo _ (.inr (.inr hk)) (by rw [hwrites]; exact hin) fun t hdev htags htag => ⟨fun k y hy => ?_, ?_⟩
      · have hk16 : k < 16 := hlen ▸ (List.getElem?_eq_some_iff.1 hy).1
        rw [hdev, hwrites, hbytes k y _ hy (getElem?_leBytes _ _ _ hk16)]
        rw [ofNat_mod_byte _ hk16]
      · rw [hk] at htags htag
        cases hbit : a.data.getLsbD 128 with
        | true =>
          rw [hbit, hwrites] at htag
          rw [hq] at htag
          exact htag _ _ rfl rfl
        | false =>
          rw [htags (by rw [hbit]; rfl)]
          refine tags_cleared a.writes ?_ (fun x hx => hgran _ (hin x (hwrites ▸ hx))) s.devTags
          rw [hwrites, hq]
          exact List.cons_ne_nil _ _
  · intro a ha hk ht hm hrel m
    obtain rfl := access_id ha
    have hm' : m.broken = none := (beforeRelease_broken _ c a).trans ((countMiss_broken s c a).trans hs)
    refine ⟨?_, fun hag => ?_⟩
    · rw [hexec ha (by rw [hk]; rfl), performAcc_translated ha (.inl ht) hm, hk]
      refine (congrArg answer ?_).trans (answer_whole (s := ((if 2 ≤ a.agent then m.passCache c a.places else m).coreWrite c a.agent a.writes
        false).dropAcc c a.id) ?_)
      · dsimp only
        rw [if_pos ht]
        unfold State.performStore
        rw [show (a.kind == .capStore && a.data.getLsbD 128) = false by rw [hk]; rfl]
      · refine (coreWrite_broken _ _ _ _ _).trans ?_
        split_ifs
        · exact (passCache_broken _ _ _).trans hm'
        · exact hm'
    · show (s.countMiss c a).beforeRelease c a = _
      unfold State.beforeRelease State.releaseCache
      rw [if_pos hrel, if_neg (by omega), if_neg (by omega)]
  · intro a p rest ha hk ht hm hp
    obtain rfl := access_id ha
    have hmiss : s.countMiss c a = s := by
      unfold State.countMiss State.missesCache
      rw [ht]
      rfl
    rw [hexec ha (by rw [hk]; rfl), performAcc_translated ha (.inr (by rw [hk]; rfl)) hm, hk]
    dsimp only
    rw [hmiss]
    unfold State.performTile
    rw [hk, hp]
    exact answer_whole ((tileWrite_broken _ _ _ _ _).trans hs)
  · refine fun agent stor => ⟨fun h => ?_, fun h hsorted e he hstor => ?_⟩
    · show s.releaseCache c agent stor = s
      unfold State.releaseCache
      rw [if_neg (by omega)]
    · have hkey : e.1 ∈ (tabKeys (s.core c).cache).filter fun k => storHas stor (keySpace k) :=
        List.mem_filter.2 ⟨List.mem_map_of_mem he, hstor⟩
      have hgo : s.releaseCache c agent stor =
          ((tabKeys (s.core c).cache).filter fun k => storHas stor (keySpace k)).foldl (fun s k => s.writeBack c k) s := if_pos h
      rw [hgo]
      exact ⟨fun f hf hfe => writeBacks_clean hident hsorted f hf (hfe ▸ hkey), fun hk j hj hd => writeBacks_inside hk hj hd _ hident hsorted he hkey⟩
  · intro a p rest l ha hh htt hfree hp hl
    obtain rfl := access_id ha
    have hauto (hk : a.kind = .flush ∨ a.kind = .inval) : s.autoAccess c a.id = s.flushAcc c a := by
      unfold State.autoAccess
      rw [ha]
      dsimp only
      rw [if_neg (by simp [hh])]
      rcases hk with hk | hk <;> rw [hk] <;> dsimp only <;> rw [if_pos hfree] <;> exact if_neg (by rw [htt]; decide)
    refine ⟨fun hk hsorted => ?_, fun hk => ?_⟩
    · have hgo : s.flushAcc c a = (((tabKeys (s.core c).cache).filter (keyIn l)).foldl (fun s k => s.writeBack c k) s).dropAcc c a.id := by
        unfold State.flushAcc
        rw [hp]
        dsimp only [List.headD]
        rw [hl, hk]
        rfl
      have hkey {e : Nat × CacheSector} (he : e ∈ (s.core c).cache) (hin : keyIn l e.1 = true) :
          e.1 ∈ (tabKeys (s.core c).cache).filter (keyIn l) := List.mem_filter.2 ⟨List.mem_map_of_mem he, hin⟩
      rw [hauto (.inl hk), hgo]
      have honly := CacheOnly.foldl (fun s (k : Nat) => cacheOnly_writeBack s c k) ((tabKeys (s.core c).cache).filter (keyIn l)) s
      have hclean := writeBacks_cache ((tabKeys (s.core c).cache).filter (keyIn l)) hident hsorted
      have hinside := fun {e : Nat × CacheSector} (hk' : keyHost e.1 = false) {j : Nat} (hj : j < 32) (hd : e.2.dirty.getLsbD j = true) =>
        writeBacks_inside (c := c) hk' hj hd ((tabKeys (s.core c).cache).filter (keyIn l)) hident hsorted
      generalize ((tabKeys (s.core c).cache).filter (keyIn l)).foldl (fun s k => s.writeBack c k) s = t at *
      dsimp only
      unfold State.dropAcc
      rw [State.core_modCore_same]
      refine ⟨fun f hf hin => ?_, ?_, fun e he hin hk j hj hd => hinside hk hj hd he (hkey he hin)⟩
      · dsimp only at hf
        rw [hclean] at hf
        obtain ⟨g, hg, rfl⟩ := List.mem_map.1 hf
        rw [cleanedIn_fst] at hin
        rw [cleanedIn, if_pos (hkey hg hin)]
      · dsimp only
        rw [honly.cores c]
    · rw [hauto (.inr hk)]
      unfold State.flushAcc
      rw [hp]
      dsimp only [List.headD]
      rw [hl, hk]
      rfl
  · intro e hf hd hk
    obtain ⟨hdev, -, hcache⟩ := writeBack_found hident hf hd
    obtain ⟨hin, hout⟩ := dirtyBytes_written s.dev id e
    refine ⟨s.writeBack c id, ?_, fun j hj hdj => ?_, fun m hm => ?_, (hdev hk).2, _, rfl, ?_⟩
    · refine Eq.trans (b := answer (s.writeBack c id)) rfl ?_
      exact answer_whole ((cacheOnly_writeBack s c id).broken.trans hs)
    · rw [(hdev hk).1]
      exact hin j hj hdj
    · rw [(hdev hk).1]
      exact hout m hm
    · rw [hcache, tabGet_put_same]
      exact ⟨rfl, rfl⟩

end Sys2Proof.Laws
end

section
/-! PROOF. Performed atomics (R265, R280 to R283). -/
namespace Sys2Proof.Laws
open Sys2Proof.Machine

/-! ## Bytes read and written at their coherence points, apart from CACHE -/

theorem fillL2_memories (s : State) (host : Bool) (a : Nat) : (s.fillL2 host a).dev = s.dev ∧ (s.fillL2 host a).host = s.host := by
  unfold State.fillL2
  split_ifs
  · exact ⟨rfl, rfl⟩
  · obtain ⟨hd, hh, -⟩ := touchL2_memories s a .clean
    exact ⟨hd, hh⟩

section
variable {c : Nat}

theorem coreByte_coherent (s : State) (host : Bool) (a : Nat) : s.coreByte c 2 host a = (s.cohByte (s.identOf c) host a, s.fillL2 host a) := by
  unfold State.coreByte
  simp

/-- What is read at the coherence points of bytes of device memory, where nothing is provisional. -/
theorem coreRead_coherent : ∀ (l : List (Bool × Nat)) (s : State), s.identOf c = none → (∀ q ∈ l, q.1 = false) → let r := s.coreRead c 2 l
    r.1 = l.map (fun q => rdByte s.dev q.2) ∧ MemoryOnly s r.2 ∧ r.2.dev = s.dev ∧ r.2.host = s.host
  | [], s, _, _ => ⟨rfl, .refl s, rfl, rfl⟩
  | q :: l, s, hid, hl => by
    have hfill := memoryOnly_fillL2 s q.1 q.2
    obtain ⟨hd, hh⟩ := fillL2_memories s q.1 q.2
    obtain ⟨hb, hm, hdev, hhost⟩ := coreRead_coherent l (s.fillL2 q.1 q.2) ((hfill.cacheOnly.identOf c).trans hid) fun y hy => hl y (.tail _ hy)
    unfold State.coreRead
    rw [coreByte_coherent, hid]
    refine ⟨?_, hfill.trans hm, hdev.trans hd, hhost.trans hh⟩
    dsimp only
    rw [hb, hd, List.map_cons, hl q (.head _)]
    rfl

/-- Bytes written by a core at their coherence points, with no sector of them in its CACHE. -/
theorem corePuts_apart : ∀ (l : List (Bool × Nat × Byte)) {s : State}, s.identOf c = none →
    (∀ x ∈ l, ∀ e ∈ (s.core c).cache, e.1 ≠ sectorKey x.1 x.2.1) →
    l.foldl (fun s x => s.corePut c 2 x.1 x.2.1 x.2.2) s = l.foldl (fun s x => s.cohPut none x.1 x.2.1 x.2.2) s
  | [], _, _, _ => rfl
  | x :: l, s, hid, hl => by
    have hput : s.corePut c 2 x.1 x.2.1 x.2.2 = s.cohPut none x.1 x.2.1 x.2.2 := by
      have hnone : (s.core c).cache.find? (·.1 == sectorKey x.1 x.2.1) = none :=
        List.find?_eq_none.2 fun e he => by simpa using hl x (.head _) e he
      unfold State.corePut
      dsimp only
      rw [if_neg (by decide), hnone, hid]
    have honly := memoryOnly_cohPut s none x.1 x.2.1 x.2.2
    rw [List.foldl_cons, List.foldl_cons, hput]
    refine corePuts_apart l ((honly.cacheOnly.identOf c).trans hid) fun y hy => ?_
    rw [honly.core c]
    exact hl y (.tail _ hy)

theorem coreWrite_apart {s : State} (l : List (Bool × Nat × Byte)) (hid : s.identOf c = none) (hdev : ∀ x ∈ l, x.1 = false)
    (hl : ∀ x ∈ l, ∀ e ∈ (s.core c).cache, e.1 ≠ sectorKey x.1 x.2.1) : let t := s.coreWrite c 2 l
    CacheOnly s t ∧ t.dev = l.foldl (fun m x => wrByte m x.2.1 x.2.2) s.dev ∧ t.host = s.host := by
  have hany : ¬ l.any (·.1) = true := by
    intro h
    obtain ⟨x, hx, hx1⟩ := List.any_eq_true.1 h
    rw [hdev x hx] at hx1
    cases hx1
  have honly := cacheOnly_coreWrite s c 2 l false
  rw [if_neg hany] at honly
  refine ⟨honly, ?_⟩
  obtain ⟨hd, hh, -⟩ := cohPuts_device l s hdev
  have hputs : MemoryOnly s (l.foldl (fun s x => s.cohPut none x.1 x.2.1 x.2.2) s) :=
    MemoryOnly.foldl (fun s (x : Bool × Nat × Byte) => memoryOnly_cohPut s none x.1 x.2.1 x.2.2) l s
  unfold State.coreWrite
  rw [if_neg hany]
  dsimp only
  rw [corePuts_apart l hid hl]
  generalize l.foldl (fun s x => State.cohPut s none x.1 x.2.1 x.2.2) s = u at *
  have hidu : u.identOf c = none := (hputs.cacheOnly.identOf c).trans hid
  rw [hidu, Option.isSome_none, if_neg Bool.false_ne_true, if_pos (by rfl)]
  obtain ⟨hpd, hph, -⟩ := clearPoison_memories u (l.filter fun x => !(decide (2 ≤ 1) && (u.core c).cache.any (·.1 == sectorKey x.1 x.2.1)))
  exact ⟨hpd.trans hd, hph.trans hh⟩

theorem passCache_apart {s : State} {l : List (Bool × Nat)} (h : ∀ q ∈ l, ∀ e ∈ (s.core c).cache, e.1 ≠ sectorKey q.1 q.2) :
    s.passCache c l = s := by
  unfold State.passCache
  have hk : ∀ k ∈ (l.map fun x => sectorKey x.1 x.2).eraseDups, ¬ (s.core c).cache.any (·.1 == k) = true := by
    intro k hk hany
    rw [List.mem_eraseDups] at hk
    obtain ⟨q, hq, rfl⟩ := List.mem_map.1 hk
    obtain ⟨e, he, hek⟩ := List.any_eq_true.1 hany
    exact h q hq e he (by simpa using hek)
  generalize (l.map fun x => sectorKey x.1 x.2).eraseDups = ks at hk
  induction ks with
  | nil => rfl
  | cons k ks ih => rw [List.foldl_cons, if_neg (hk k (.head _)), ih fun y hy => hk y (.tail _ hy)]

theorem countMiss_poisoned (s : State) (a : Access) (l : List (Bool × Nat)) : (s.countMiss c a).poisoned c 2 l = s.poisoned c 2 l := by
  have hid : (s.countMiss c a).identOf c = s.identOf c := (countMiss_keeps s c a).2.1
  unfold State.poisoned
  refine congrArg (fun f => l.findSome? f) (funext fun x => ?_)
  have hbad (u : State) : u.byteBad c 2 x = if x.1 then none else u.sectorBad (u.identOf c) (x.2 / 32) := by
    unfold State.byteBad
    rw [if_neg (by decide)]
  rw [hbad, hbad, hid]
  generalize s.identOf c = i
  unfold State.countMiss
  split_ifs <;> rfl
end

theorem countMiss_flight (s : State) (c : Nat) (a : Access) : ((s.countMiss c a).core c).flight = (s.core c).flight := by
  unfold State.countMiss
  split_ifs
  · rw [State.core_modCore_same]
    rfl
  · rfl

/-- The new value of an atomic, where it has one, and its flags. -/
def atomicNew (a : Access) (old : Nat) : Option Nat × Flags :=
  match a.kind with
  | .atomicF op v => let x := amofValue op old (v.toNat % 2 ^ (8 * a.places.length)); (some x.1, x.2)
  | .atomic op v cmp =>
    (amoValue op (8 * a.places.length) old (v.toNat % 2 ^ (8 * a.places.length)) (cmp.toNat % 2 ^ (8 * a.places.length)), 0)
  | _ => (none, 0)

/-- What an atomic leaves, where it meets neither CACHE nor poison. -/
theorem performAtomic_apart {s : State} {c : Nat} {a : Access} (hcache : ∀ q ∈ a.places, ∀ e ∈ (s.core c).cache, e.1 ≠ sectorKey q.1 q.2)
    (hpoison : s.poisoned c 2 a.places = none) (hrel : a.isRelease = false) (hacq : a.acquires = false) (hdev : ∀ q ∈ a.places, q.1 = false) :
    let r := s.coreRead c 2 a.places
    let new := atomicNew a (leNat r.1)
    s.performAtomic c a = ((match new.1 with
      | some v => r.2.coreWrite c 2 ((a.places.zip (leBytes a.places.length v)).map asWrite)
      | none => r.2).dropAcc c a.id).returnLoad c a (BitVec.ofNat 1024 (leNat r.1)) false new.2 := by
  have hhost : ¬ a.places.any (·.1) = true := by
    intro h
    obtain ⟨x, hx, hx1⟩ := List.any_eq_true.1 h
    rw [hdev x hx] at hx1
    cases hx1
  intro r new
  unfold State.performAtomic
  rw [passCache_apart hcache]
  dsimp only
  rw [hpoison]
  unfold State.beforeRelease State.afterAcquire
  dsimp only
  rw [if_neg (c := a.acquires = true) (by rw [hacq]; decide), if_neg (c := a.isRelease = true) (by rw [hrel]; decide), if_neg hhost]
  rfl

/-- Settles O39: what an atomic reads and writes at its coherence point, for a new value of any kind. -/
theorem atomicsReturnTheOldValue : Obligations.AtomicsReturnTheOldValue := by
  unfold Obligations.AtomicsReturnTheOldValue
  intro c id a s hs hident ha ht hm hrel hacq hcache hdev hnodup hpoison hdest n old answers
  obtain rfl := access_id ha
  obtain ⟨hmcache, hmid, -, hmacc, hmdev, hmhost, -⟩ := countMiss_keeps s c a
  have hgo {new : Option Nat} {flags : Flags} (hk : a.kind.atomics = true)
      (hperf : s.performAcc c a.id = (s.countMiss c a).performAtomic c a) (hnew : atomicNew a old = (new, flags)) : answers new flags := by
    have hexec : exec (.atomicReturn c a.id) s = answer (s.performAcc c a.id) := by
      refine congrArg answer (a₁ := s.performIf c a.id AccKind.atomics) ?_
      unfold State.performIf
      rw [ha]
      exact if_pos hk
    have hinf : a.inFlight = false := by
      have hne : (a.kind == .tileLoad) = false := by
        refine beq_eq_false_iff_ne.2 fun h => ?_
        rw [h] at hk
        exact Bool.noConfusion hk
      unfold Access.inFlight
      rw [hne, Bool.false_and]
    have happly := performAtomic_apart (s := s.countMiss c a) (c := c) (a := a) (by rw [hmcache]; exact hcache)
      (by rw [countMiss_poisoned]; exact hpoison) hrel hacq hdev
    have hmb := (countMiss_broken s c a).trans hs
    have hmflight : ((s.countMiss c a).core c).flight = (s.core c).flight := countMiss_flight s c a
    rw [hperf, happly] at hexec
    generalize s.countMiss c a = m at *
    obtain ⟨hbytes, honly, hrdev, hrhost⟩ := coreRead_coherent (c := c) a.places m (hmid.trans hident) hdev
    generalize m.coreRead c 2 a.places = r at *
    have hold : leNat r.1 = old := by
      rw [hbytes, hmdev]
    rw [hold, hnew] at hexec
    have hrid : r.2.identOf c = none := ((honly.cacheOnly.identOf c).trans hmid).trans hident
    have hreturn (u : State) (hexec : exec (.atomicReturn c a.id) s =
          answer ((u.dropAcc c a.id).returnLoad c a (BitVec.ofNat 1024 old) false flags)) (hu : CacheOnly m u) (hhost : u.host = s.host)
        (hnewb : ∀ x, new = some x → ∀ k q, a.places[k]? = some q → rdByte u.dev q.2 = BitVec.ofNat 8 (x / 2 ^ (8 * k)))
        (hnone : new = none → u.dev = s.dev) (hother : ∀ m, (false, m) ∉ a.places → rdByte u.dev m = rdByte s.dev m) :
        answers new flags := by
      rw [returnLoad_plain hdest] at hexec
      refine ⟨_, hexec.trans (answer_whole ?_), ?_, hnewb, hnone, hother, hhost⟩
      · exact hu.broken.trans hmb
      · rw [State.core_modCore_same]
        dsimp only
        rw [hinf]
        unfold State.dropAcc
        rw [State.core_modCore_same, hu.cores c]
        dsimp only
        rw [hmflight]
        rfl
    cases new with
    | none =>
      exact hreturn r.2 hexec honly.cacheOnly (hrhost.trans hmhost) (fun _ h => nomatch h) (fun _ => hrdev.trans hmdev)
        fun m _ => by rw [hrdev, hmdev]
    | some v =>
      obtain ⟨hin, hwritten⟩ := zipWrites (bs := leBytes a.places.length v) hdev hnodup s.dev
      obtain ⟨hwonly, hwdev, hwhost⟩ := coreWrite_apart ((a.places.zip (leBytes a.places.length v)).map asWrite) hrid (fun x hx => hdev _ (hin x hx))
        fun x hx e he => hcache _ (hin x hx) e (by rw [← hmcache, ← honly.core c]; exact he)
      refine hreturn _ hexec (honly.cacheOnly.trans hwonly) (hwhost.trans (hrhost.trans hmhost)) (fun x hx k q hq => ?_) (fun h => nomatch h) fun k hk => ?_
      · obtain rfl := Option.some.inj hx
        rw [hwdev, hrdev, hmdev]
        exact hwritten k q _ hq (getElem?_leBytes _ _ _ (List.getElem?_eq_some_iff.1 hq).1)
      · rw [hwdev, hrdev, hmdev]
        refine rdByte_foldl_other (fun x : Bool × Nat × Byte => x.2.1) (fun x => x.2.2) _ _ fun x hx hkx => hk ?_
        have := hin x hx
        rw [hdev _ this] at this
        rw [hkx]
        exact this
  have hatomic (hk : (∃ op v cmp, a.kind = .atomic op v cmp) ∨ ∃ op v, a.kind = .atomicF op v) :
      a.kind.atomics = true ∧ s.performAcc c a.id = (s.countMiss c a).performAtomic c a := by
    rw [performAcc_translated ha (.inl ht) hm]
    rcases hk with ⟨op, v, cmp, hk⟩ | ⟨op, v, hk⟩ <;> rw [hk] <;> exact ⟨rfl, if_pos ht⟩
  have hfloat {op : Nat} {v : Word} (hk : a.kind = .atomicF op v) {new : Nat × Flags} (hnew : amofValue op old (v.toNat % 2 ^ (8 * n)) = new) :
      answers (some new.1) new.2 := by
    obtain ⟨hat, hperf⟩ := hatomic (.inr ⟨op, v, hk⟩)
    refine hgo hat hperf ?_
    unfold atomicNew
    rw [hk, ← hnew]
  refine ⟨fun op v cmp hk => ?_, fun op v hk => ?_⟩
  · obtain ⟨hat, hperf⟩ := hatomic (.inl ⟨op, v, cmp, hk⟩)
    refine hgo hat hperf ?_
    unfold atomicNew
    rw [hk]
  · intro y
    refine ⟨?_, ?_, ?_, ?_, ?_⟩
    all_goals
      rintro rfl
      exact hfloat hk rfl

end Sys2Proof.Laws
end

section
/-! PROOF. Releases that land, prefetches, instruction buffer fills and errors of the host (R252, R286, R322, R324, R405, R430, R438, R498). -/
namespace Sys2Proof.Laws
open Sys2Proof.Machine

section
variable {s : State} {c id : Nat} {a : Access}

theorem landIf_found {p : AccKind → Bool} (ha : (s.core c).access id = some a) (hp : p a.kind = true) : s.landIf c id p = s.landRelease c a := by
  unfold State.landIf
  rw [ha]
  exact if_pos hp
theorem landRelease_waits (h : s.releaseReady c a = false) : s.landRelease c a = s := by
  unfold State.landRelease
  rw [if_pos (by rw [h]; rfl)]

/-- A release at STREAM or CORE scope has nothing to write back (R249). -/
theorem beforeRelease_near (h : a.agent ≤ 1) : s.beforeRelease c a = s := by
  unfold State.beforeRelease State.releaseCache
  simp only [if_neg (show ¬ 2 ≤ a.agent by omega), ite_self]

theorem landRelease_near (h : s.releaseReady c a = true) (hag : a.agent ≤ 1) : s.landRelease c a =
    match a.kind with
    | .pushRel q => (s.dropAcc c a.id).modSh c fun x => x.setQueue q ((x.queue q).release a.id)
    | .postRel e n => (s.dropAcc c a.id).modSh c fun x => x.setEvent e { x.event e with adds := (x.event e).adds + n }
    | .ccRel bit live => if live then (s.dropAcc c a.id).modCore c fun x => x.landCc bit true a.id else s.dropAcc c a.id
    | .spawnPub d => s.publish c a d
    | _ => s := by
  unfold State.landRelease
  rw [if_neg (by rw [h]; decide), beforeRelease_near hag] <;> rfl

/-- A prefetch that has its addresses brings its sectors into L2 and completes its token (R252, R286). -/
theorem performPref_keeps (token : Nat) : let t := s.performPref c a token
    t.broken = s.broken ∧ t.dev = s.dev ∧ t.host = s.host ∧ (t.core c).prefs = (s.core c).prefs.filter (fun k => k.token != token) ∧
      (t.core c).acc = (s.core c).acc.filter fun y => y.id != a.id := by
  unfold State.performPref
  dsimp only
  generalize ((a.places.filter fun x => !x.1).map fun x => x.2 / 32).eraseDups = l
  have honly : MemoryOnly s (l.foldl (fun (s : State) n => s.touchL2 (32 * n) .clean) s) :=
    MemoryOnly.foldl (fun s (n : Nat) => memoryOnly_touchL2 s (32 * n) .clean) l s
  have hmem (l : List Nat) : ∀ s : State, (l.foldl (fun (s : State) n => s.touchL2 (32 * n) .clean) s).dev = s.dev ∧
      (l.foldl (fun (s : State) n => s.touchL2 (32 * n) .clean) s).host = s.host := by
    induction l with
    | nil => exact fun _ => ⟨rfl, rfl⟩
    | cons n l ih =>
      intro s
      obtain ⟨hd, hh, -⟩ := touchL2_memories s (32 * n) .clean
      exact ⟨(ih _).1.trans hd, (ih _).2.trans hh⟩
  obtain ⟨hd, hh⟩ := hmem l s
  generalize l.foldl (fun (s : State) n => s.touchL2 (32 * n) .clean) s = u at *
  refine ⟨honly.cacheOnly.broken, hd, hh, ?_, ?_⟩ <;> rw [State.core_modCore_same] <;> unfold State.dropAcc <;>
    rw [State.core_modCore_same, honly.core]
end

section
variable {s : State} {c n block : Nat} (hmay : s.mayFill c n block = true)
include hmay

theorem fillBlock_arrives {e f : TlbEntry} (he : s.walk (s.task c).ctx (s.task c).kobj (s.blockSpan c n block).1 = .ok e)
    (hf : s.walk (s.task c).ctx (s.task c).kobj ((s.blockSpan c n block).1 + ((s.blockSpan c n block).2 - 1)) = .ok f) :
    let u := if (s.stream c n).fillAfter = 0 then s else s.writeBackAll c 3
    s.fillBlock c n block = match u.poisoned c 4 (u.blockPlaces c n block) with
      | some q => u.takeFault c (some n) 9 (poisonInfo q) false
      | none => u.modStream c n fun t =>
        { t with ibuf := putWords t.ibuf (16 * block) (u.blockWords c n block), blocks := t.blocks ||| BitVec.ofNat 64 (2 ^ block), fillAfter := 0 } := by
  intro u
  unfold State.fillBlock
  rw [if_neg (c := (!s.mayFill c n block) = true) (by rw [hmay]; decide)]
  dsimp only
  rw [List.findSome?_cons, he, List.findSome?_cons, hf] <;> rfl
theorem fillBlock_stops {x : Xlat} (hx : s.walk (s.task c).ctx (s.task c).kobj (s.blockSpan c n block).1 = .error x) :
    s.fillBlock c n block = match (generalizing := false) x with
      | .absent page => s.takeFault c (some n) 4 (absentInfo (s.task c).kobj page false) false
      | .fault cause => s.takeFault c (some n) 3 (capInfo cause) false
      | _ => s.noteStall (.fill c n block) := by
  unfold State.fillBlock
  rw [if_neg (by rw [hmay]; decide)]
  dsimp only
  rw [List.findSome?_cons, hx]
  cases x <;> rfl
end

/-- Settles O40. -/
theorem releasesTokensFillsAndHostErrors : Obligations.ReleasesTokensFillsAndHostErrors := by
  unfold Obligations.ReleasesTokensFillsAndHostErrors
  intro c id s hs
  refine ⟨fun a ha hid hag => ?_, fun hnone => ?_, fun a b hfind hb hk => ?_, fun n block hc => ?_⟩
  · subst hid
    have hland {p : AccKind → Bool} (hp : p a.kind = true) {e : Instr} (he : exec e s = answer (s.landIf c a.id p)) :
        exec e s = answer (s.landRelease c a) := by rw [he, landIf_found ha hp]
    have hwait (h : s.releaseReady c a = false) : answer (s.landRelease c a) = .next s := by rw [landRelease_waits h]; exact answer_whole hs
    refine ⟨fun q hk => ?_, fun e n hk => ?_, fun b hk => ?_, fun hm hh hl hspace hfree => ?_⟩
    · have he := hland (e := .pushEntryPoppable c a.id) (p := fun k => match k with | .pushRel .. => true | _ => false) (by rw [hk]) rfl
      refine ⟨fun h => he.trans (hwait h), fun h => he.trans ?_⟩
      rw [landRelease_near h hag, hk]
      exact answer_whole hs
    · have he := hland (e := .postAdditionLands c a.id) (p := fun k => match k with | .postRel .. => true | _ => false) (by rw [hk]) rfl
      refine ⟨fun h => he.trans (hwait h), fun h => he.trans ?_⟩
      rw [landRelease_near h hag, hk]
      exact answer_whole hs
    · have he := hland (e := .ccsetValueLands c a.id) (p := fun k => match k with | .ccRel .. => true | _ => false) (by rw [hk]) rfl
      refine ⟨fun h => he.trans (hwait h), fun h => he.trans ?_⟩
      rw [landRelease_near h hag, hk]
      exact answer_whole hs
    · have hgo : s.hostError c a.id = s.holdAcc c a 3 (capInfo .object a.reg) := by
        unfold State.hostError
        rw [ha]
        exact if_pos (by simp [hm, hh, hl, hspace, hfree])
      refine Eq.trans (b := answer (s.hostError c a.id)) rfl ?_
      rw [hgo]
      exact answer_whole ((holdAcc_broken _ _ _ _ _).trans hs)
  · refine Eq.trans (b := answer (s.prefetchDone c id)) rfl ?_
    have hf : (s.core c).acc.find? (fun a => a.kind == .prefetch id) = none :=
      List.find?_eq_none.2 fun a ha => by simpa using hnone a ha
    unfold State.prefetchDone
    rw [hf]
    exact answer_whole hs
  · have hgo : exec (.prefetchComplete c id) s = answer (s.performAcc c a.id) := by
      refine congrArg answer (a₁ := s.prefetchDone c id) ?_
      unfold State.prefetchDone
      rw [hfind]
    refine ⟨fun hm => ?_, fun hm ht => ?_⟩
    · have hstay := performIf_waits (p := fun _ => true) hb hm
      unfold State.performIf at hstay
      rw [hb] at hstay
      rw [hgo, show s.performAcc c a.id = s from hstay]
      exact answer_whole hs
    · have hmiss : s.countMiss c b = s := by
        unfold State.countMiss State.missesCache
        rw [hk, Bool.and_false, Bool.false_and]
        rfl
      obtain ⟨hbr, hd, hh, hp, hacc⟩ := performPref_keeps (s := s) (c := c) (a := b) id
      refine ⟨s.performPref c b id, ?_, hd, hh, hp, hacc⟩
      rw [hgo, performAcc_translated hb (.inl ht) hm, hk]
      dsimp only
      rw [if_pos ht, hmiss]
      exact answer_whole (hbr.trans hs)
  · have hgo : exec (.instructionBufferFill c n block) s = answer (s.fillBlock c n block) := congrArg answer (if_pos hc)
    rw [hgo]
    intro k p u
    have hu : u.broken = none := by
      show (if (s.stream c n).fillAfter = 0 then s else s.writeBackAll c 3).broken = none
      split_ifs
      · exact hs
      · exact (cacheOnly_writeBackAll s c 3).broken.trans hs
    refine ⟨fun h => ?_, fun h => ⟨fun e f he hf => ⟨fun hp => ?_, fun q hp => ?_⟩, fun hx => ?_, fun page hx => ?_⟩⟩
    · have hstay : s.fillBlock c n block = s := by unfold State.fillBlock; exact if_pos (by rw [h]; rfl)
      rw [hstay]
      exact answer_whole hs
    · have hfill := fillBlock_arrives h he hf
      change s.fillBlock c n block = match u.poisoned c 4 (u.blockPlaces c n block) with | some q => _ | none => _ at hfill
      rw [hp] at hfill
      rw [hfill]
      exact answer_whole hu
    · have hfill := fillBlock_arrives h he hf
      change s.fillBlock c n block = match u.poisoned c 4 (u.blockPlaces c n block) with | some q => _ | none => _ at hfill
      rw [hp] at hfill
      rw [hfill]
      exact answer_whole ((takeFault_broken _ _ _ _ _ _).trans hu)
    · rw [fillBlock_stops h hx]
      dsimp only
      unfold State.noteStall
      by_cases hin : s.stalls.contains (.fill c n block) = true
      · rw [if_pos hin]
        exact ⟨s, answer_whole hs, rfl, by simpa using hin⟩
      · rw [if_neg hin]
        exact ⟨_, answer_whole hs, rfl, by simp⟩
    · rw [fillBlock_stops h hx]
      exact answer_whole ((takeFault_broken _ _ _ _ _ _).trans hs)

end Sys2Proof.Laws
end

section
/-! PROOF. Commits, swaps, queue pops, restores and saves (R351, R352, R354, R359, R430, R475, R484). -/
namespace Sys2Proof.Laws
open Sys2Proof.Machine

/-! ## What the registrar's small steps leave unchanged -/

theorem notice_keeps (s : State) (n : Notice) : let t := s.notice n
    t.broken = s.broken ∧ t.cores = s.cores ∧ t.forms = s.forms ∧ t.side = s.side ∧ t.dies = s.dies ∧ t.launches = s.launches ∧ t.fns = s.fns := by
  unfold State.notice
  split_ifs <;> exact ⟨rfl, rfl, rfl, rfl, rfl, rfl, rfl⟩
theorem swapCheck_keeps (s : State) (f : Nat) : let t := s.swapCheck f
    t.broken = s.broken ∧ (∀ c, t.core c = s.core c) ∧ t.forms = s.forms ∧ t.side = s.side ∧ t.ttResult = s.ttResult := by
  unfold State.swapCheck
  split_ifs <;> exact ⟨rfl, fun _ => rfl, rfl, rfl, rfl⟩
theorem die_modDie_other (s : State) {d e : Nat} (f : Die → Die) (h : e ≠ d) : (s.modDie d f).die e = s.die e :=
  tabGet_put_other ({} : Die) s.dies _ h
theorem enqueueEngine_queue (s : State) (c : Nat) (save : Bool) (d : Nat) : ((s.enqueueEngine c save).die d).queue = (s.die d).queue := by
  unfold State.enqueueEngine
  by_cases hd : d = dieOf c
  · subst hd
    rw [die_modDie]
    split_ifs <;> rfl
  · exact congrArg Die.queue (die_modDie_other s _ hd)
theorem core_enqueueEngine (s : State) (c : Nat) (save : Bool) (d : Nat) : (s.enqueueEngine c save).core d = s.core d := rfl
theorem activate_keeps (s : State) (c : Nat) (r : BitVec 128) : (s.activate c r).broken = s.broken ∧ (s.activate c r).forms = s.forms := by
  unfold State.activate
  dsimp only
  split_ifs <;> exact ⟨rfl, rfl⟩
theorem swapCheck_modCore (u : State) (c n : Nat) {f : Core → Core} (hf : ∀ x, (f x).task = none) :
    (((u.modCore c f).swapCheck n).core c).task = none := by
  obtain ⟨-, hc, -⟩ := swapCheck_keeps (u.modCore c f) n
  rw [hc, State.core_modCore_same]
  exact hf _
theorem unbind_keeps (s : State) (c : Nat) : let t := s.unbind c
    t.broken = s.broken ∧ t.side = s.side ∧ (t.core c).task = none := by
  unfold State.unbind
  refine ⟨?_, ?_, ?_⟩
  · exact (swapCheck_keeps _ _).1
  · exact (swapCheck_keeps _ _).2.2.2.1
  · refine swapCheck_modCore _ c _ ?_
    exact fun x => rfl

/-! ## Folds over the streams of a core -/

/-- Words over streams change streams alone. -/
theorem modStreams_keeps (f : Nat → Stream → Stream) : ∀ (l : List Nat) (x : Core), let y := l.foldl (fun (x : Core) n => x.modStream n (f n)) x
    y.tt = x.tt ∧ y.task = x.task ∧ y.sh = x.sh
  | [], _ => ⟨rfl, rfl, rfl⟩
  | n :: l, x => modStreams_keeps f l (x.modStream n (f n))
theorem halt_keeps (x : Core) (n : Nat) : (x.halt n).tt = x.tt ∧ (x.halt n).task = x.task ∧ (x.halt n).sh = x.sh :=
  modStreams_keeps (fun _ t => { t with halted := true }) _ x
theorem haltHeld_keeps (x : Core) : x.haltHeld.tt = x.tt ∧ x.haltHeld.task = x.task ∧ x.haltHeld.sh = x.sh := by
  unfold Core.haltHeld
  generalize allStreams.filter (fun n => x.haltAsked.getLsbD n) = l
  have h : ∀ (l : List Nat) (x : Core), (l.foldl Core.halt x).tt = x.tt ∧ (l.foldl Core.halt x).task = x.task ∧ (l.foldl Core.halt x).sh = x.sh := by
    intro l
    induction l with
    | nil => exact fun _ => ⟨rfl, rfl, rfl⟩
    | cons n l ih =>
      intro x
      obtain ⟨h1, h2, h3⟩ := halt_keeps x n
      obtain ⟨k1, k2, k3⟩ := ih (x.halt n)
      exact ⟨k1.trans h1, k2.trans h2, k3.trans h3⟩
  exact h l x

/-! ## A binding (R35, R484) -/

/-- A core that runs a task with a watchdog budget of which nothing is used. -/
def RunsTask (s : State) (c : Nat) (k : Task) (wdb : BitVec 32) : Prop :=
  s.broken = none ∧ (s.core c).tt = .run ∧ (s.core c).task = some k ∧ (s.sh c).budget = wdb ∧ (s.sh c).countK = 0

section
variable {s : State} {c : Nat} {k : Task} {wdb : BitVec 32}

theorem RunsTask.modCore (h : RunsTask s c k wdb) {f : Core → Core} (hf : ∀ x, (f x).tt = x.tt ∧ (f x).task = x.task ∧ (f x).sh = x.sh) :
    RunsTask (s.modCore c f) c k wdb := by
  obtain ⟨hb, htt, htask, hbud, hcount⟩ := h
  obtain ⟨h1, h2, h3⟩ := hf (s.core c)
  unfold RunsTask State.sh
  rw [State.core_modCore_same, h1, h2, h3]
  exact ⟨hb, htt, htask, hbud, hcount⟩
theorem RunsTask.modSh (h : RunsTask s c k wdb) {f : Shared → Shared} (hf : ∀ x, (f x).budget = x.budget ∧ (f x).countK = x.countK) :
    RunsTask (s.modSh c f) c k wdb := by
  obtain ⟨hb, htt, htask, hbud, hcount⟩ := h
  obtain ⟨h1, h2⟩ := hf (s.sh c)
  unfold RunsTask
  rw [sh_modSh_same, h1, h2, State.core_modSh_same]
  exact ⟨hb, htt, htask, hbud, hcount⟩
theorem RunsTask.modCtx (h : RunsTask s c k wdb) (n : Nat) (f : Context → Context) : RunsTask (s.modCtx n f) c k wdb := h
theorem RunsTask.talloc (h : RunsTask s c k wdb) (hn : Nat) (v : Word) : RunsTask (s.talloc c hn v) c k wdb := by
  unfold State.talloc
  dsimp only
  split_ifs
  · refine RunsTask.modCtx (h.modSh ?_) _ _
    exact fun x => ⟨rfl, rfl⟩
  · refine h.modSh ?_
    exact fun x => ⟨rfl, rfl⟩
theorem RunsTask.bindHandles (h : RunsTask s c k wdb) (scr : Memory) : RunsTask (s.bindHandles c scr) c k wdb := by
  unfold State.bindHandles
  generalize List.range 64 = l
  have hr : RunsTask (s, 0).1 c k wdb := h
  generalize ((s, 0) : State × Nat) = r at hr
  induction l generalizing r with
  | nil => exact hr
  | cons n l ih =>
    rw [List.foldl_cons]
    refine ih _ ?_
    dsimp only
    split_ifs
    · exact hr
    · exact hr.talloc _ _
    · refine hr.modSh ?_
      exact fun x => ⟨rfl, rfl⟩
    · refine (hr.talloc _ _).modSh ?_
      exact fun x => ⟨rfl, rfl⟩
theorem RunsTask.startStreams (h : RunsTask s c k wdb) (p : List Byte) : RunsTask (s.startStreams c p) c k wdb := by
  unfold State.startStreams
  refine h.modCore ?_
  exact fun x => modStreams_keeps _ _ x
theorem RunsTask.seq (h : RunsTask s c k wdb) (n : Nat) : RunsTask { s with seq := n } c k wdb := h
theorem bindFresh_runs (hb : s.broken = none) : RunsTask (s.bindFresh c k wdb) c k wdb := by
  unfold State.bindFresh
  dsimp only
  refine RunsTask.bindHandles ?_ _
  have hown : (s.changeOwner c k.ctx).broken = none := by
    unfold State.changeOwner State.flushCache
    exact ((cacheOnly_writeBackAll _ c 0).broken.trans (heal_broken _ _)).trans hb
  generalize s.changeOwner c k.ctx = u at *
  have hload : RunsTask ((u.modCore c fun x => { (x.bare.loadImage (s.objSparse k.ctx k.kobj (k.koff + (s.kImage (s.launch k.lid).packet).1)
      (s.kImage (s.launch k.lid).packet).2) k.vregs u.seq) with task := some k, tt := .run, preempt := x.preempt }).modSh c fun x =>
      { (x.putArgs k.args) with
        budget := wdb, countK := 0, subCount := 0, nestRun := [], poolReq := { x.poolReq with pending := false },
        ring := { x.ring with deckBase := 0 } }) c k wdb := by
    unfold RunsTask
    rw [sh_modSh_same, State.core_modSh_same, State.core_modCore_same]
    exact ⟨hown, rfl, rfl, rfl, rfl⟩
  exact (RunsTask.startStreams hload _).seq _
end

/-! ## Commits and swaps -/

section
variable {s : State}

theorem modCores_keeps (g : Nat → Nat) (f : Core → Core) : ∀ (l : List Nat) (s : State),
    let t := l.foldl (fun (s : State) i => s.modCore (g i) f) s
    t.broken = s.broken ∧ t.ttResult = s.ttResult ∧ t.forms = s.forms
  | [], _ => ⟨rfl, rfl, rfl⟩
  | i :: l, s => modCores_keeps g f l (s.modCore (g i) f)
theorem activates_keep (g : Nat → BitVec 128) : ∀ (l : List Nat) (s : State), let t := l.foldl (fun (s : State) c => s.activate c (g c)) s
    t.broken = s.broken ∧ t.forms = s.forms
  | [], _ => ⟨rfl, rfl⟩
  | c :: l, s => by
    obtain ⟨hb, hf⟩ := activates_keep g l (s.activate c (g c))
    obtain ⟨hb', hf'⟩ := activate_keeps s c (g c)
    exact ⟨hb.trans hb', hf.trans hf'⟩

/-- A commit of legal records makes them NEXT (R351). -/
theorem ttCommitNow_next (h : s.commitCode = 0) : let t := s.ttCommitNow
    t.broken = s.broken ∧ t.ttResult = 0 ∧ (t.form s.ttSel.toNat).next = [0, 1, 2, 3].map fun i => (i, s.staged i) := by
  unfold State.ttCommitNow
  rw [h, if_neg (by decide)]
  dsimp only
  generalize hu : State.modForm _ _ _ = u
  have hub : u.broken = s.broken := hu ▸ rfl
  have hur : u.ttResult = 0 := hu ▸ rfl
  have huf : (u.form s.ttSel.toNat).next = [0, 1, 2, 3].map fun i => (i, s.staged i) := by
    rw [← hu]
    exact congrArg Form.next (tabGet_put_same ({} : Form) s.forms s.ttSel.toNat _)
  obtain ⟨hb, -, hf, -, hr⟩ := swapCheck_keeps (if ([0, 1, 2, 3].map fun i => (i, s.staged i)).any (fun r => brPreempt r.2) then
    [0, 1, 2, 3].foldl (fun (s' : State) i => s'.modCore (4 * s.ttSel.toNat + i) Core.request) u else u) s.ttSel.toNat
  obtain ⟨hcb, hcr, hcf⟩ := modCores_keeps (fun i => 4 * s.ttSel.toNat + i) Core.request [0, 1, 2, 3] u
  refine ⟨hb.trans ?_, hr.trans ?_, (congrArg (fun t => (tabGet ({} : Form) t s.ttSel.toNat).next) hf).trans ?_⟩
  · split_ifs
    · exact hcb.trans hub
    · exact hub
  · split_ifs
    · exact hcr.trans hur
    · exact hur
  · split_ifs
    · exact (congrArg (fun t => (tabGet ({} : Form) t s.ttSel.toNat).next) hcf).trans huf
    · exact huf

theorem swap_waits {f : Nat} (h : ∃ x ∈ [0, 1, 2, 3].map fun i => s.core (4 * f + i), x.spare = false) : s.swap f = s := by
  obtain ⟨x, hx, hspare⟩ := h
  obtain ⟨i, hi, rfl⟩ := List.mem_map.1 hx
  unfold State.swap
  refine if_pos (.inr (.inr ?_))
  rw [Bool.not_eq_true', List.all_eq_false]
  exact ⟨4 * f + i, List.mem_map_of_mem hi, by rw [hspare]; decide⟩

/-- A swap makes NEXT ACTIVE (R352). -/
theorem swap_now {f : Nat} (hn : (s.form f).next ≠ []) (hp : s.powered = true)
    (hall : ∀ x ∈ [0, 1, 2, 3].map fun i => s.core (4 * f + i), x.spare = true) : let t := s.swap f
    t.broken = s.broken ∧ (t.form f).active = (s.form f).next ∧ (t.form f).next = [] := by
  have hspare : ([0, 1, 2, 3].map fun i => 4 * f + i).all (fun c => (s.core c).spare) = true := by
    refine List.all_eq_true.2 fun c hc => ?_
    obtain ⟨i, hi, rfl⟩ := List.mem_map.1 hc
    exact hall _ (List.mem_map_of_mem hi)
  have hgo : ¬ ((s.form f).next.isEmpty = true ∨ (!s.powered) = true ∨
      (!([0, 1, 2, 3].map fun i => 4 * f + i).all fun c => (s.core c).spare) = true) := by
    rw [List.isEmpty_iff, hp, hspare]
    simpa using hn
  unfold State.swap
  rw [if_neg hgo]
  dsimp only
  generalize hu : State.modForm _ _ _ = u
  have hub : u.broken = s.broken := hu ▸ rfl
  have huf : u.form f = { s.form f with active := (s.form f).next, next := [] } := by
    rw [← hu]
    exact tabGet_put_same ({} : Form) s.forms f _
  have hkeep (v : State) (hv : v.broken = s.broken ∧ v.form f = u.form f) (l : List Nat) (n : Notice) :
      let t := (l.foldl (fun (s' : State) c => s'.activate c (tabGet 0 (s.form f).next (c % 4))) v).notice n
      t.broken = s.broken ∧ (t.form f).active = (s.form f).next ∧ (t.form f).next = [] := by
    obtain ⟨hb, hf⟩ := activates_keep (fun c => tabGet 0 (s.form f).next (c % 4)) l v
    obtain ⟨hnb, -, hnf, -⟩ := notice_keeps (l.foldl (fun (s' : State) c => s'.activate c (tabGet 0 (s.form f).next (c % 4))) v) n
    have hform : ((l.foldl (fun (s' : State) c => s'.activate c (tabGet 0 (s.form f).next (c % 4))) v).notice n).form f = u.form f := by
      exact (congrArg (fun t => tabGet ({} : Form) t f) (hnf.trans hf)).trans hv.2
    dsimp only
    rw [hform, huf]
    exact ⟨hnb.trans (hb.trans hv.1), rfl, rfl⟩
  split_ifs
  · exact hkeep (u.askRamp _) ⟨hub, rfl⟩ _ _
  · exact hkeep u ⟨hub, rfl⟩ _ _
end

theorem noteStall_keeps (s : State) (x : StallAt) : (s.noteStall x).broken = s.broken ∧ (s.noteStall x).cores = s.cores ∧ x ∈ (s.noteStall x).stalls := by
  unfold State.noteStall
  by_cases hin : s.stalls.contains x = true
  · rw [if_pos hin]
    exact ⟨rfl, rfl, by simpa using hin⟩
  · rw [if_neg hin]
    exact ⟨rfl, rfl, by simp⟩

/-- A save leaves its core without a task and the task's record in `side` (R475). -/
theorem saveTask_leaves {s : State} {c : Nat} (h : ((s.clearCache c).core c).task ≠ none) : let t := s.saveTask c
    (t.core c).task = none ∧ t.side.any (fun r => r.isOf (s.task c).ctx (s.task c).lid (s.task c).gen (s.task c).index) = true := by
  unfold State.saveTask
  rw [if_neg (by simpa using h)]
  dsimp only
  generalize State.objWrite _ _ _ _ _ = u
  refine ⟨(unbind_keeps _ c).2.2, ?_⟩
  rw [(unbind_keeps _ c).2.1]
  refine (congrArg (fun l : List SaveSide => l.any fun r => r.isOf (s.task c).ctx (s.task c).lid (s.task c).gen (s.task c).index)
    (notice_keeps _ _).2.2.2.1).trans ?_
  rw [List.any_append]
  simp [SaveSide.isOf]

/-- Settles O41. -/
theorem timetableSaveAndRestoreHappenings : Obligations.TimetableSaveAndRestoreHappenings := by
  unfold Obligations.TimetableSaveAndRestoreHappenings
  intro s hs
  refine ⟨fun h => ?_, fun h => ?_, fun f => ?_, fun c => ⟨fun h => ?_, fun d htt hd => ?_⟩, fun c => ⟨fun h => ?_, fun k htt hhead hsum htask hsaved hmig => ?_,
    fun k htt hhead hsum htask hmig => ?_⟩, fun c => ?_⟩
  · refine Eq.trans (b := answer s.ttCommitNow) rfl ?_
    unfold State.ttCommitNow
    rw [if_pos h]
    exact answer_whole hs
  · refine ⟨s.ttCommitNow, ?_⟩
    obtain ⟨hb, hr, hf⟩ := ttCommitNow_next h
    exact ⟨answer_whole (hb.trans hs), hr, hf⟩
  · refine ⟨fun hx => ?_, fun hn hp hall => ?_⟩
    · refine Eq.trans (b := answer (s.swap f)) rfl ?_
      rw [swap_waits hx]
      exact answer_whole hs
    · obtain ⟨hb, hf⟩ := swap_now hn hp hall
      exact ⟨s.swap f, answer_whole (hb.trans hs), hf⟩
  · refine Eq.trans (b := answer (s.popChild c)) rfl ?_
    unfold State.popChild
    rw [if_pos h]
    exact answer_whole hs
  · refine ⟨s.popChild c, ?_, ?_⟩
    · refine Eq.trans (b := answer (s.popChild c)) rfl ?_
      unfold State.popChild
      rw [if_neg (not_not.2 htt), hd]
      exact answer_whole hs
    · unfold State.popChild
      rw [if_neg (not_not.2 htt), hd]
      dsimp only
      rw [enqueueEngine_queue]
      generalize hu : State.modDie _ _ _ = u
      have hq : (u.die (dieOf c)).queue = (s.die (dieOf c)).queue.erase d := by
        rw [← hu, die_modDie]
      rw [core_enqueueEngine, State.core_modCore_same]
      exact ⟨rfl, rfl, hq⟩
  · refine Eq.trans (b := answer (s.contextRestore c)) rfl ?_
    unfold State.contextRestore
    rw [if_neg fun h' => h h'.2.1]
    exact answer_whole hs
  · have hk : s.task c = k := by unfold State.task; rw [htask]; rfl
    have hgo : s.contextRestore c = ((s.modDie (dieOf c) fun d => { d with order := d.order.filter (·.1 ≠ c) }).bindFresh c k
        (s.wdbOf c k.lid)).modCore c Core.haltHeld := by
      unfold State.contextRestore
      rw [if_pos ⟨htt, hhead, hsum⟩, hk, if_neg (by rw [hmig]; decide)]
      unfold State.restoreTask
      rw [htask]
      dsimp only
      rw [hsaved] <;> rfl
    obtain ⟨hb, htt', htask', hbud, hcount⟩ := (bindFresh_runs (s := s.modDie (dieOf c) fun d => { d with order := d.order.filter (·.1 ≠ c) })
      (c := c) (k := k) (wdb := s.wdbOf c k.lid) hs).modCore haltHeld_keeps
    exact ⟨_, (congrArg answer hgo).trans (answer_whole hb), htt', htask', hbud, hcount⟩
  · have hk : s.task c = k := by unfold State.task; rw [htask]; rfl
    have hgo : s.contextRestore c = s.noteStall (.image c) := by
      unfold State.contextRestore
      rw [if_pos ⟨htt, hhead, hsum⟩, hk, if_pos hmig]
    obtain ⟨hb, hcores, hin⟩ := noteStall_keeps s (.image c)
    exact ⟨_, (congrArg answer hgo).trans (answer_whole (hb.trans hs)), hcores, hin⟩
  · intro moves
    refine ⟨fun h => ?_, fun htt hdr hhead hm => ?_, fun htt hdr hhead hlive hm hb => ?_⟩
    · refine Eq.trans (b := answer (s.contextSave c)) rfl ?_
      unfold State.contextSave
      rw [if_neg fun h' => h h'.2.2]
      exact answer_whole hs
    · have hgo : s.contextSave c = s.noteStall (.image c) := by
        unfold State.contextSave
        rw [if_pos ⟨htt, hdr, hhead⟩]
        exact if_pos hm
      obtain ⟨hb, hcores, hin⟩ := noteStall_keeps s (.image c)
      exact ⟨_, (congrArg answer hgo).trans (answer_whole (hb.trans hs)), hcores, hin⟩
    · have hgo : s.contextSave c = s.saveTask c := by
        unfold State.contextSave
        rw [if_pos ⟨htt, hdr, hhead⟩]
        exact if_neg (Bool.not_eq_true _ ▸ hm)
      exact ⟨_, (congrArg answer hgo).trans (answer_whole hb), saveTask_leaves hlive⟩

end Sys2Proof.Laws
end

section
/-! PROOF. Inbox packets, overflow drains, the watchdog and deadlines (R342, R346, R360, R366, R369). -/
namespace Sys2Proof.Laws
open Sys2Proof.Machine

theorem ctx_modDie (s : State) (d : Nat) (f : Die → Die) (n : Nat) : (s.modDie d f).ctx n = s.ctx n := rfl
theorem fn_modFn (s : State) (n : Nat) (f : HostFn → HostFn) : (s.modFn n f).fn n = f (s.fn n) := tabGet_put_same _ _ _ _

section
variable {s : State} {fn lid : Nat} {p : List Byte} {spec : Bool} {slot succ : Nat}

theorem enterAt_keeps (hn : taskCount (s.kLevels p) ≠ 0) : let t := s.enterAt lid fn p spec slot succ
    t.broken = s.broken ∧ t.fns = s.fns := by
  unfold State.enterAt
  dsimp only
  rw [if_neg hn]
  exact ⟨rfl, rfl⟩
end

/-- What a write of an object leaves unchanged. -/
theorem objWrite_keeps (s : State) (ctx obj off : Nat) (bs : List Byte) : let t := s.objWrite ctx obj off bs
    t.dies = s.dies ∧ t.ctxs = s.ctxs := by
  unfold State.objWrite
  split_ifs
  · unfold State.noteStall
    split_ifs <;> exact ⟨rfl, rfl⟩
  · dsimp only
    generalize (List.range bs.length).filterMap _ = l
    have h := memoryOnly_cohWrite s none l
    have hd : (s.cohWrite none l).dies = s.dies := by rw [h]; rfl
    have hc : (s.cohWrite none l).ctxs = s.ctxs := by rw [h]; rfl
    unfold State.checkPlace
    split <;> exact ⟨hd, hc⟩

theorem takePacket_waits {s : State} {fn : Nat} (h : (s.fn fn).slots = 0 ∨ (s.fn fn).head = (s.fn fn).tail ∨ (s.fn fn).flrBusy = true) :
    s.takePacket fn = s := if_pos h

/-- The packet at the head of a function's inbox (R342). -/
def headPacket (s : State) (fn : Nat) : List Byte :=
  rdBytes s.host ((s.fn fn).inboxBase.toNat / 64 * 64 + 64 * ((s.fn fn).head.toNat % (s.fn fn).slots)) 64

section
variable {s : State} {fn : Nat} (hslots : (s.fn fn).slots ≠ 0)
include hslots

theorem takePacket_submits (hht : (s.fn fn).head ≠ (s.fn fn).tail) (hflr : (s.fn fn).flrBusy = false) :
    s.takePacket fn = match s.submit fn none (headPacket s fn) with
      | (.full, _) => s
      | (_, s) => s.modFn fn fun f => { f with head := f.head + 1 } := by
  unfold State.takePacket
  dsimp only
  rw [if_neg (by simp [hslots, hht, hflr])] <;> rfl

theorem writeTail_fn (hflr : (s.fn fn).flrBusy = false) (tail : BitVec 16) : (s.writeTail fn tail).fn fn =
    if (s.fn fn).slots < (tail - (s.fn fn).head).toNat then
      { s.fn fn with tail := (s.fn fn).head + BitVec.ofNat 16 ((tail - (s.fn fn).head).toNat % (s.fn fn).slots), lnchErr := true }
    else { s.fn fn with tail } := by
  unfold State.writeTail
  rw [fn_modFn, if_neg (by simp [hslots, hflr])]
end

/-- The oldest overflow descriptor of its die goes on chip (R360). -/
theorem drainOverflow_moves {s : State} {die ctx : Nat} {rest : List Nat} {desc : BitVec 256} {more : List (BitVec 256)}
    (hroom : (s.die die).queue.length + (s.die die).freed + 256 < 4096) (hd : (s.ctx ctx).ovfDies = die :: rest) (ha : s.ovfAll ctx = desc :: more) :
    let t := s.drainOverflow die ctx
    (t.die die).queue = (s.die die).queue ++ [Child.ofDesc desc] ∧ (t.ctx ctx).ovfDies = rest := by
  unfold State.drainOverflow
  dsimp only
  rw [if_neg (by omega), hd, ha]
  dsimp only [List.head?]
  rw [if_neg (not_not.2 rfl)]
  obtain ⟨hdies, hctxs⟩ := objWrite_keeps s ctx (s.ovfObj ctx) 0 (leBytes 8 (s.ovfHead ctx + 1))
  generalize s.objWrite ctx (s.ovfObj ctx) 0 (leBytes 8 (s.ovfHead ctx + 1)) = u at *
  rw [die_modDie]
  refine ⟨?_, ?_⟩
  · exact congrArg (fun t => (tabGet ({} : Die) t die).queue ++ [Child.ofDesc desc]) hdies
  · rw [ctx_modDie, ctx_modCtx]
    exact (congrArg (fun t => (tabGet ({} : Context) t ctx).ovfDies.drop 1) hctxs).trans (by rw [show tabGet ({} : Context) s.ctxs ctx = s.ctx ctx from rfl, hd]; rfl)

/-- Settles O42. -/
theorem inboxOverflowWatchdogAndDeadlineHappenings : Obligations.InboxOverflowWatchdogAndDeadlineHappenings := by
  unfold Obligations.InboxOverflowWatchdogAndDeadlineHappenings
  intro s hs
  refine ⟨fun fn => ?_, fun die ctx => ?_, fun c => ⟨fun hbud hcount hsub htt => ?_, fun h => ?_⟩, fun lid => ⟨fun h => ?_, fun hact hdln hel hrem hmiss => ?_⟩⟩
  · intro f
    refine ⟨fun h => ?_, fun hslots hht hflr => ?_, fun tail hslots hflr => ?_⟩
    · refine Eq.trans (b := answer (s.takePacket fn)) rfl ?_
      rw [takePacket_waits h]
      exact answer_whole hs
    · intro p
      have hp : p = headPacket s fn := rfl
      clear_value p
      subst hp
      intro hcode
      have hgo := takePacket_submits hslots hht hflr
      refine ⟨fun hroom => ?_, fun hroom hn => ?_⟩
      · rw [submit_full hcode hroom] at hgo
        exact (congrArg answer hgo).trans (answer_whole hs)
      · rw [submit_entered hcode hroom] at hgo
        obtain ⟨hb, hf⟩ := enterAt_keeps (s := s) (lid := s.freeEntries.headD 0) (fn := fn) (p := headPacket s fn) (spec := false) (slot := 0) (succ := 0) hn
        have hl := enterAt_launch (s := s) (lid := s.freeEntries.headD 0) (fn := fn) (p := headPacket s fn) (spec := false) (slot := 0) (succ := 0) hn
        refine ⟨_, (congrArg answer hgo).trans (answer_whole (hb.trans hs)), ?_, (congrArg Launch.active hl), congrArg Launch.packet hl⟩
        rw [fn_modFn]
        exact congrArg (fun t => (tabGet ({} : HostFn) t fn).head + 1) hf
    · have hfn := writeTail_fn hslots hflr tail
      refine ⟨s.writeTail fn tail, answer_whole hs, fun h => ?_, fun h => ?_⟩
      · rw [hfn, if_neg (Nat.not_lt.2 h)]
        exact ⟨rfl, rfl⟩
      · rw [hfn, if_pos h]
        exact ⟨rfl, rfl⟩
  · intro used
    refine ⟨fun h => ?_, fun d rest desc more hroom hd ha => ⟨fun hne => ?_, fun he hb => ?_⟩⟩
    · refine Eq.trans (b := answer (s.drainOverflow die ctx)) rfl ?_
      have h' : 4096 ≤ (s.die die).queue.length + (s.die die).freed + 256 := h
      unfold State.drainOverflow
      dsimp only
      rw [if_pos (by omega)]
      exact answer_whole hs
    · refine Eq.trans (b := answer (s.drainOverflow die ctx)) rfl ?_
      have h' : (s.die die).queue.length + (s.die die).freed + 256 < 4096 := hroom
      unfold State.drainOverflow
      dsimp only
      rw [if_neg (by omega), hd, ha]
      dsimp only [List.head?]
      rw [if_pos hne]
      exact answer_whole hs
    · subst he
      exact ⟨_, answer_whole hb, drainOverflow_moves hroom hd ha⟩
  · refine Eq.trans (b := answer (s.watchdog c)) rfl ?_
    unfold State.watchdog
    rw [if_pos ⟨hbud, hcount, hsub, htt⟩]
    exact answer_whole ((takeFault_broken _ _ _ _ _ _).trans hs)
  · refine Eq.trans (b := answer (s.watchdog c)) rfl ?_
    unfold State.watchdog
    rw [if_neg (by tauto)]
    exact answer_whole hs
  · refine Eq.trans (b := answer (s.missDeadline lid)) rfl ?_
    unfold State.missDeadline
    rw [if_neg (by simp [h])]
    exact answer_whole hs
  · have hgo : s.missDeadline lid = ((s.modLaunch lid fun l => { l with miss := true }).notice
        { kind := 5, lid, ctx := (s.launch lid).ctx }).msix (s.launch lid).fn 2 := by
      unfold State.missDeadline
      exact if_pos ⟨hact, hdln, hel, hrem, by rw [hmiss]; rfl⟩
    obtain ⟨hb, -, -, -, -, hl, -⟩ := notice_keeps (s.modLaunch lid fun l => { l with miss := true }) { kind := 5, lid, ctx := (s.launch lid).ctx }
    refine ⟨_, (congrArg answer hgo).trans (answer_whole (hb.trans hs)), ?_, ?_⟩
    · refine (congrArg (fun t => (tabGet ({} : Launch) t lid).miss) hl).trans ?_
      exact congrArg Launch.miss (launch_modLaunch s lid _)
    · unfold State.msix
      rw [fn_modFn]
      dsimp only
      rw [BitVec.getLsbD_or, show (BitVec.ofNat 4 (2 ^ 2)).getLsbD 2 = true by decide, Bool.or_true]

end Sys2Proof.Laws
end

section
/-! PROOF. Seasons: URG_FORMS, season requests, entries and ramps (R385 to R389). -/
namespace Sys2Proof.Laws
open Sys2Proof.Machine

theorem form_modForm (s : State) (n : Nat) (f : Form → Form) : (s.modForm n f).form n = f (s.form n) := tabGet_put_same _ _ _ _

/-! ## URG_FORMS (R389) -/

/-- States that agree on all that ramps asked for leave alone. -/
def RampsOnly (s t : State) : Prop := t = { s with dies := t.dies }

theorem rampsOnly_askRamp (s : State) (r : Ramp) : RampsOnly s (s.askRamp r) := rfl
theorem RampsOnly.foldl {α : Type} {f : State → α → State} (hf : ∀ s x, RampsOnly s (f s x)) (l : List α) (s : State) :
    RampsOnly s (l.foldl f s) := by
  induction l generalizing s with
  | nil => rfl
  | cons x l ih =>
    have h1 := ih (f s x)
    have h2 := hf s x
    rw [List.foldl_cons]
    unfold RampsOnly at *
    rw [h1, h2]
theorem RampsOnly.formAwake {s t : State} (h : RampsOnly s t) (f : Nat) : t.formAwake f = s.formAwake f := by
  rw [h]
  rfl

theorem getLsbD_setBits (l : List Nat) (b : BitVec 32) {f : Nat} (hf : f < 32) :
    (l.foldl (fun b f => b ||| BitVec.ofNat 32 (2 ^ f)) b).getLsbD f = (b.getLsbD f || decide (f ∈ l)) := by
  induction l generalizing b with
  | nil => simp
  | cons g l ih =>
    rw [List.foldl_cons, ih, BitVec.getLsbD_or, BitVec.getLsbD_ofNat, Nat.testBit_two_pow]
    by_cases h : g = f
    · simp [h, hf]
    · simp [h, Ne.symm h]

theorem urgSettle_bit (s : State) {f : Nat} (hf : f < 32) :
    s.urgSettle.urgForms.getLsbD f = (s.urgForms.getLsbD f || (s.urgWanted.getLsbD f && s.formAwake f)) := by
  unfold State.urgSettle
  dsimp only
  rw [BitVec.getLsbD_or, getLsbD_setBits _ _ hf]
  simp [hf]

/-- The ramps that a write of URG_FORMS asks for (R389). -/
theorem writeUrg_eq (s : State) (mask : BitVec 32) :
    ∃ t, RampsOnly { s with urgForms := s.urgForms &&& mask, urgWanted := mask &&& ~~~s.urgForms } t ∧ s.writeUrg mask = t.urgSettle := by
  refine ⟨_, ?_, rfl⟩
  refine RampsOnly.foldl (fun u f => ?_) _ _
  have hform : RampsOnly u (if (u.form f).season == .summer then u else u.askRamp { core := 4 * f, form := true, units := 8, reserve := true }) := by
    split_ifs <;> rfl
  refine Eq.trans (RampsOnly.foldl (fun v i => RampsOnly.foldl (fun w g => rampsOnly_askRamp _ _) _ _) _ _) ?_
  rw [hform]
theorem writeUrg_bit (s : State) (mask : BitVec 32) {f : Nat} (hf : f < 32) :
    (s.writeUrg mask).urgForms.getLsbD f = (mask.getLsbD f && (s.urgForms.getLsbD f || s.formAwake f)) := by
  obtain ⟨t, ht, hw⟩ := writeUrg_eq s mask
  have hawake : t.formAwake f = s.formAwake f := (ht.formAwake f).trans rfl
  rw [hw, urgSettle_bit t hf, hawake, show t.urgForms = s.urgForms &&& mask by rw [ht], show t.urgWanted = mask &&& ~~~s.urgForms by rw [ht],
    BitVec.getLsbD_and, BitVec.getLsbD_and, BitVec.getLsbD_not]
  cases mask.getLsbD f <;> cases s.urgForms.getLsbD f <;> simp [hf]
theorem die_urgSettle (s : State) (d : Nat) : s.urgSettle.die d = s.die d := rfl
theorem writeUrg_broken (s : State) (mask : BitVec 32) : (s.writeUrg mask).broken = s.broken := by
  obtain ⟨t, ht, hw⟩ := writeUrg_eq s mask
  rw [hw]
  exact show t.broken = _ by rw [ht]

/-! ## Season requests (R386, R387) -/

section
variable {s : State} {c : Nat}

theorem seasonSettle_idle (h : (s.core c).seasonRes.getLsbD 3 = false) : s.seasonSettle c = s := by
  unfold State.seasonSettle
  exact if_neg (by rw [h]; decide)
theorem seasonSettle_broken : (s.seasonSettle c).broken = s.broken := by
  unfold State.seasonSettle
  dsimp only
  split_ifs <;> rfl
theorem seasonSettle_core (h : (s.core c).seasonRes.getLsbD 3 = true) : let left := s.seasonLack c (s.core c).seasonReq (s.core c).seasonLeft
    (s.seasonSettle c).core c = { s.core c with seasonLeft := left, seasonRes := if left = 0 then 0 else (s.core c).seasonRes } := by
  unfold State.seasonSettle
  dsimp only
  rw [if_pos h, State.core_modCore_same]

theorem seasonSettle_sh : (s.seasonSettle c).sh c = s.sh c := by
  cases h : (s.core c).seasonRes.getLsbD 3 with
  | false => rw [seasonSettle_idle h]
  | true => exact (congrArg Core.sh (seasonSettle_core h)).trans rfl

/-- Units only leave a request. -/
theorem seasonLack_among (v : Word) (units : BitVec 7) {n : Nat} (h : (s.seasonLack c v units).getLsbD n = true) : units.getLsbD n = true := by
  unfold State.seasonLack at h
  dsimp only at h
  have hkeep : ∀ (p : Nat → Bool) (l : List Nat) (b : BitVec 7),
      (l.foldl (fun b n => if p n then b &&& ~~~(BitVec.ofNat 7 (2 ^ n)) else b) b).getLsbD n = true → b.getLsbD n = true := by
    intro p l
    induction l with
    | nil => exact fun b h => h
    | cons m l ih =>
      intro b h
      have h' := ih _ h
      dsimp only at h'
      by_cases hm : p m = true
      · rw [if_pos hm, BitVec.getLsbD_and, Bool.and_eq_true] at h'
        exact h'.1
      · rwa [if_neg hm] at h'
  exact hkeep _ _ _ h

/-- A core whose request a write has taken. -/
def requested (s : State) (c : Nat) (v : Word) : State :=
  s.modCore c fun x => { x with seasonReq := v, seasonRes := 8, seasonLeft := srUnits v }

theorem seasonRequest_pending {v : Word} (h : (s.core c).seasonRes.getLsbD 3 = true) : s.seasonRequest c v = s := if_pos (.inr h)
section
variable {v : Word} (hc : c < 128) (hp : (s.core c).seasonRes.getLsbD 3 = false)
include hc hp

theorem free_of_season : ¬ (128 ≤ c ∨ (s.core c).seasonRes.getLsbD 3 = true) := by
  rw [hp]
  rintro (h | h)
  · omega
  · exact nomatch h
theorem seasonRequest_bad (hb : srBad v = true) : s.seasonRequest c v = s.modCore c fun x => { x with seasonRes := 1 } := by
  unfold State.seasonRequest
  dsimp only
  rw [if_neg (free_of_season hc hp), if_pos hb]
  rfl
theorem seasonRequest_urgent (hb : srBad v = false) (ht : srTarget v ≠ 0) (hu : s.urgForms.getLsbD (formOf c) = true) :
    s.seasonRequest c v = s.modCore c fun x => { x with seasonRes := 2 } := by
  unfold State.seasonRequest
  dsimp only
  rw [if_neg (free_of_season hc hp), if_neg (by rw [hb]; decide), if_pos ⟨ht, hu⟩]
  rfl
theorem seasonRequest_taken (hb : srBad v = false) (hu : s.urgForms.getLsbD (formOf c) = false) :
    (srTarget v = 2 → s.seasonRequest c v = (requested s c v).seasonSettle c) ∧
    (srTarget v = 3 → s.seasonRequest c v = ([0, 1, 2, 3].foldl (fun (u : State) i => u.modCore (4 * formOf c + i) Core.request)
      (requested s c v)).seasonSettle c) ∧
    (srTarget v = 0 → srForm v = true → (s.form (formOf c)).season ≠ .summer →
      s.seasonRequest c v = ((requested s c v).askRamp { core := 4 * formOf c, form := true, units := 8 }).seasonSettle c) := by
  unfold State.seasonRequest
  dsimp only
  rw [if_neg (free_of_season hc hp), if_neg (by rw [hb]; decide), if_neg (by rw [hu]; exact fun h => nomatch h.2)]
  refine ⟨fun ht => ?_, fun ht => ?_, fun ht hf hs => ?_⟩
  · rw [if_neg (by omega), if_neg (by omega)]
    rfl
  · rw [if_neg (by omega), if_pos ht]
    rfl
  · rw [if_pos ht, if_pos hf]
    exact congrArg (fun u => State.seasonSettle u c) (if_neg fun h => hs (beq_iff_eq.1 h))
end
end

/-! ## Entries and ramps (R385, R388) -/

/-- An engine that may enter WINTER. -/
def mayRest (g : Engine) : Bool := (g.season == .summer || g.season == .autumn) && g.queue.isEmpty && g.run.isNone && g.wake == 0

theorem engine_setEngine_same (x : Shared) (e : Nat) (g : Engine) : (x.setEngine e g).engine e = g := tabGet_put_same _ _ _ _
theorem engine_setEngine_other (x : Shared) {d e : Nat} (g : Engine) (h : e ≠ d) : (x.setEngine d g).engine e = x.engine e :=
  tabGet_put_other ({} : Engine) x.engines _ h

/-- The engines of a request that may enter WINTER do. -/
def restEngine (y : Shared) (e : Nat) : Shared := if mayRest (y.engine e) then y.setEngine e { y.engine e with season := .winter } else y

theorem restEngine_other (x : Shared) {d e : Nat} (h : e ≠ d) : (restEngine x d).engine e = x.engine e := by
  unfold restEngine
  split_ifs
  · exact engine_setEngine_other x _ h
  · rfl
theorem restEngines_other (l : List Nat) (x : Shared) {e : Nat} (h : e ∉ l) : (l.foldl restEngine x).engine e = x.engine e := by
  induction l generalizing x with
  | nil => rfl
  | cons d l ih =>
    rw [List.foldl_cons, ih _ fun hl => h (.tail _ hl), restEngine_other x fun hd => h (by rw [hd]; exact .head _)]
theorem restEngines_rests (l : List Nat) (x : Shared) {e : Nat} (hl : l.Nodup) (he : e ∈ l) (hg : mayRest (x.engine e) = true) :
    ((l.foldl restEngine x).engine e).season = .winter := by
  induction l generalizing x with
  | nil => exact absurd he (by simp)
  | cons d l ih =>
    obtain ⟨hd, hl⟩ := List.nodup_cons.1 hl
    rw [List.foldl_cons]
    by_cases h : e = d
    · subst h
      rw [restEngines_other l _ hd]
      unfold restEngine
      rw [if_pos hg, engine_setEngine_same]
    · exact ih _ hl ((List.mem_cons.1 he).resolve_left h) (by rw [restEngine_other x h]; exact hg)

section
variable {s : State} {c : Nat}

/-- Engines of a core that rest at a request (R385). -/
theorem enterSeason_engines (hp : (s.core c).seasonRes.getLsbD 3 = true) (ht : srTarget (s.core c).seasonReq = 2)
    (hf : srForm (s.core c).seasonReq = false) (hu : (s.urgForms.getLsbD (formOf c) || s.urgWanted.getLsbD (formOf c)) = false) :
    (s.enterSeason c).broken = s.broken ∧ (s.enterSeason c).sh c = (srEngines (s.core c).seasonReq).foldl restEngine (s.sh c) := by
  rw [Bool.or_eq_false_iff] at hu
  unfold State.enterSeason
  dsimp only
  rw [if_neg (by simp [hp, ht]), if_neg (by simp [hu.1, hu.2]), if_neg (by rw [hf]; decide)]
  rw [seasonSettle_broken, seasonSettle_sh]
  refine ⟨rfl, ?_⟩
  unfold State.sh
  rw [State.core_modCore_same]
  dsimp only
  rw [State.core_modSh_same]
  rfl

theorem putSeason_keeps (r : Ramp) (v : Season) : (s.putSeason r v).broken = s.broken ∧ (s.putSeason r v).dies = s.dies := by
  unfold State.putSeason
  split_ifs <;> exact ⟨rfl, rfl⟩
/-- A ramp's unit takes its season. -/
theorem putSeason_takes (r : Ramp) (v : Season) : (r.form = true → ((s.putSeason r v).form (formOf r.core)).season = v) ∧
    (r.form = false → (((s.putSeason r v).sh r.core).engine r.eng).season = v) := by
  unfold State.putSeason
  refine ⟨fun h => ?_, fun h => ?_⟩
  · rw [if_pos h, form_modForm]
  · rw [if_neg (by rw [h]; decide), sh_modSh_same, engine_modEngine_same]
end

/-- Settles O43. -/
theorem seasonHappenings : Obligations.SeasonHappenings := by
  unfold Obligations.SeasonHappenings
  intro s hs
  refine ⟨fun mask => ⟨s.writeUrg mask, answer_whole ((writeUrg_broken s mask).trans hs), fun f hf => writeUrg_bit s mask hf⟩, fun c v => ?_,
    fun c => ?_, fun die => ⟨fun h => ?_, fun r h => ?_, fun h => ?_, fun r h => ?_⟩⟩
  · intro x pending hc
    have hgo {t : State} (h : s.seasonRequest c v = t) (ht : t.broken = none) : exec (.seasonReqSummer c v) s = .next t ∧
        exec (.seasonReqWinter c v) s = .next t ∧ exec (.seasonReqMidwinter c v) s = .next t :=
      ⟨(congrArg answer h).trans (answer_whole ht), (congrArg answer h).trans (answer_whole ht), (congrArg answer h).trans (answer_whole ht)⟩
    refine ⟨fun hp => hgo (seasonRequest_pending hp) hs, fun hp hb => hgo (seasonRequest_bad hc hp hb) hs,
      fun hp hb ht hu => (hgo (seasonRequest_urgent hc hp hb ht hu) hs).2.1, fun hp hb hu => ?_, ?_⟩
    · obtain ⟨h2, h3, h0⟩ := seasonRequest_taken hc hp hb hu
      refine ⟨fun ht => (hgo (h2 ht) ?_).2.1, fun ht => (hgo (h3 ht) ?_).2.2, fun ht hf hsum => (hgo (h0 ht hf hsum) ?_).1⟩
      · exact seasonSettle_broken.trans hs
      · exact seasonSettle_broken.trans ((modCores_keeps (fun i => 4 * formOf c + i) Core.request [0, 1, 2, 3] (requested s c v)).1.trans hs)
      · exact seasonSettle_broken.trans hs
    · intro left
      refine ⟨fun hp hl => ?_, fun hp hl => ?_, fun n _ h => seasonLack_among _ _ h⟩
      · rw [seasonSettle_core hp]
        exact if_pos hl
      · rw [seasonSettle_core hp]
        exact ⟨if_neg hl, rfl⟩
  · intro x
    have hgo {t : State} (h : s.enterSeason c = t) (ht : t.broken = none) : exec (.seasonEntry c) s = .next t :=
      (congrArg answer h).trans (answer_whole ht)
    refine ⟨fun hp => hgo ?_ hs, ?_⟩
    · unfold State.enterSeason
      rw [if_pos (.inl (by rw [hp]; rfl)), seasonSettle_idle hp]
    · intro urgent
      refine ⟨fun hp ht hu => hgo ?_ hs, fun hp ht hf hu => ?_⟩
      · unfold State.enterSeason
        rw [if_neg (not_or.2 ⟨by rw [show (s.core c).seasonRes.getLsbD 3 = true from hp]; decide, ht⟩),
          if_pos (Bool.or_eq_true_iff.1 hu)]
      · obtain ⟨hb, hsh⟩ := enterSeason_engines hp ht hf hu
        refine ⟨_, hgo rfl (hb.trans hs), ?_⟩
        intro e he g hseason hq hr hw
        rw [hsh]
        refine restEngines_rests _ _ (List.nodup_range.filter _) he ?_
        unfold mayRest
        rw [show ((s.sh c).engine e).queue = [] from hq, show ((s.sh c).engine e).run = none from hr, show ((s.sh c).engine e).wake = 0 from hw]
        rcases hseason with h | h <;> rw [show ((s.sh c).engine e).season = _ from h] <;> rfl
  · refine Eq.trans (b := answer (s.startRamp die)) rfl ?_
    unfold State.startRamp
    rw [h]
    exact answer_whole hs
  · have hgo : s.startRamp die = (s.putSeason r .spring).modDie die fun d => { d with ramps := d.ramps.map fun x => if x.same r then
        { x with running := true, ticks := if r.form && (s.form (formOf r.core)).season == .midwinter then 1000 else 40 } else x } := by
      unfold State.startRamp
      rw [h]
    obtain ⟨hform, heng⟩ := putSeason_takes (s := s) r .spring
    exact ⟨_, (congrArg answer hgo).trans (answer_whole ((putSeason_keeps r .spring).1.trans hs)), hform, heng⟩
  · refine Eq.trans (b := answer (s.endRamp die)) rfl ?_
    have hf : (s.die die).ramps.find? (fun r => r.running && r.ticks == 0) = none :=
      List.find?_eq_none.2 fun r hr => by rcases h r hr with h | h <;> simp [h]
    unfold State.endRamp
    rw [hf]
    exact answer_whole hs
  · have hgo : s.endRamp die = ((s.putSeason r .summer).modDie die fun d => { d with ramps := d.ramps.filter fun x => !(x.same r) }).urgSettle := by
      unfold State.endRamp
      rw [h]
    obtain ⟨hb, hd⟩ := putSeason_keeps (s := s) r .summer
    obtain ⟨hform, heng⟩ := putSeason_takes (s := s) r .summer
    refine ⟨_, (congrArg answer hgo).trans (answer_whole (hb.trans hs)), hform, heng, ?_⟩
    rw [die_urgSettle, die_modDie]
    exact congrArg (fun t => (tabGet ({} : Die) t die).ramps.filter fun x => !(x.same r)) hd

end Sys2Proof.Laws
end

section
/-! PROOF. Form currents, throttling, thermal ceilings and trips, peer ceilings and memory temperature (R377 to R393). -/
namespace Sys2Proof.Laws
open Sys2Proof.Machine

/-! ## Bit fields -/

theorem getLsbD_putBits {n : Nat} (x : BitVec n) {lo w v k : Nat} (hk : k < n) :
    (putBits x lo w v).getLsbD k = if lo ≤ k ∧ k < lo + w then v.testBit (k - lo) else x.getLsbD k := by
  unfold putBits
  simp only [BitVec.getLsbD_or, BitVec.getLsbD_and, BitVec.getLsbD_not, BitVec.getLsbD_ofNat, hk, decide_true, Bool.true_and,
    Nat.testBit_mul_two_pow, Nat.testBit_two_pow_sub_one, Nat.testBit_mod_two_pow]
  by_cases h1 : lo ≤ k <;> by_cases h2 : k < lo + w
  · have : k - lo < w := by omega
    simp [h1, h2, this]
  · have : ¬ k - lo < w := by omega
    simp [h1, h2, this]
  · simp [h1]
  · simp [h1]

theorem slice_putBits {n : Nat} (x : BitVec n) {lo w v u : Nat} (hn : lo + w ≤ n) (hu : u ≤ w) :
    slice (putBits x lo w v).toNat lo u = v % 2 ^ u := by
  refine Nat.eq_of_testBit_eq fun i => ?_
  unfold slice
  rw [Nat.testBit_mod_two_pow, Nat.testBit_div_two_pow, Nat.testBit_mod_two_pow]
  by_cases hi : i < u
  · rw [← BitVec.getLsbD, getLsbD_putBits x (by omega), if_pos ⟨by omega, by omega⟩, show i + lo - lo = i by omega]
  · simp [hi]

/-- The highest bit of a byte whose lower seven bits hold m. -/
theorem testBit_byte {m : Nat} (hm : m < 128) (b : Bool) : (m + 128 * b2n b).testBit 7 = b := by
  have := Nat.testBit_two_pow_mul_add (b2n b) (show m < 2 ^ 7 from hm) 7
  rw [Nat.add_comm, show 128 = 2 ^ 7 from rfl, this]
  cases b <;> rfl

theorem memTemp_keeps (s : State) {ch temp : Nat} (hch : ch < 16) : let t := s.memTemp ch temp
    slice t.memTherm.toNat (8 * ch) 7 = min 127 temp ∧ (85 < temp → t.memTherm.getLsbD (8 * ch + 7) = true) ∧
      (temp ≤ 85 → s.memTherm.getLsbD (8 * ch + 7) = false → t.memTherm.getLsbD (8 * ch + 7) = false) ∧
      ∀ k, k < 128 → (k < 8 * ch ∨ 8 * ch + 8 ≤ k) → t.memTherm.getLsbD k = s.memTherm.getLsbD k := by
  unfold State.memTemp
  dsimp only
  generalize (if temp ≤ 82 then tabGet 0 s.coolReads ch + 1 else 0) = cool
  have hlow : min 127 temp < 128 := by omega
  have hbit (hot : Bool) : (putBits s.memTherm (8 * ch) 8 (min 127 temp + 128 * b2n hot)).getLsbD (8 * ch + 7) = hot := by
    rw [getLsbD_putBits _ (by omega), if_pos ⟨by omega, by omega⟩, show 8 * ch + 7 - 8 * ch = 7 by omega, testBit_byte hlow]
  refine ⟨?_, fun h => ?_, fun h hw => ?_, fun k hk h => ?_⟩
  · rw [slice_putBits _ (by omega) (by omega), show 2 ^ 7 = 128 from rfl, Nat.add_mul_mod_self_left, Nat.mod_eq_of_lt hlow]
  · rw [hbit]
    simp [h]
  · rw [hbit, hw]
    simp [h]
  · rw [getLsbD_putBits _ hk, if_neg (by omega)]

/-! ## Ceiling steps (R390) -/

/-- The best of a list is of it, and no other of the list has a lower rank. -/
theorem best_least {α : Type} [Preorder α] {before : Nat → Nat → Bool} (rank : Nat → α) (h1 : ∀ a b, before a b = true → rank a ≤ rank b)
    (h2 : ∀ a b, before a b = false → rank b ≤ rank a) : ∀ l : List Nat, l ≠ [] → ∃ f, best before l = some f ∧ f ∈ l ∧ ∀ g ∈ l, rank f ≤ rank g
  | [x], _ => ⟨x, rfl, .head _, fun g hg => by rw [List.mem_singleton.1 hg]⟩
  | x :: y :: l, _ => by
    obtain ⟨f, hf, hmem, hle⟩ := best_least rank h1 h2 (y :: l) (List.cons_ne_nil _ _)
    rw [best, hf]
    dsimp only
    cases hb : before f x with
    | true =>
      refine ⟨f, rfl, .tail _ hmem, fun g hg => ?_⟩
      rcases List.mem_cons.1 hg with rfl | hg
      · exact h1 f g hb
      · exact hle g hg
    | false =>
      refine ⟨x, rfl, .head _, fun g hg => ?_⟩
      rcases List.mem_cons.1 hg with rfl | hg
      · exact le_refl _
      · exact (h2 f x hb).trans (hle g hg)

/-- The order in which the forms of a die are lowered. -/
def lowersFirst (s : State) (a b : Nat) : Bool :=
  (s.form b).prio < (s.form a).prio || ((s.form a).prio == (s.form b).prio && (s.ceil b < s.ceil a || (s.ceil a == s.ceil b && a < b)))
theorem lowersFirst_true {s : State} {a b : Nat} (h : lowersFirst s a b = true) : (s.form b).prio ≤ (s.form a).prio := by
  unfold lowersFirst at h
  simp only [Bool.or_eq_true, Bool.and_eq_true, decide_eq_true_eq, beq_iff_eq] at h
  omega
theorem lowersFirst_false {s : State} {a b : Nat} (h : lowersFirst s a b = false) : (s.form a).prio ≤ (s.form b).prio := by
  unfold lowersFirst at h
  simp only [Bool.or_eq_false_iff, decide_eq_false_iff_not] at h
  omega

/-- The forms of a die. -/
theorem mem_dieForms {die f : Nat} : f ∈ (List.range 16).map (fun i => 16 * die + i) ↔ 16 * die ≤ f ∧ f < 16 * die + 16 := by
  rw [List.mem_map]
  constructor
  · rintro ⟨i, hi, rfl⟩
    have := List.mem_range.1 hi
    omega
  · exact fun h => ⟨f - 16 * die, List.mem_range.2 (by omega), by omega⟩

section
variable {s : State} {die : Nat}

theorem die_sendAll (s : State) (m : List Byte) (d : Nat) : (s.sendAll m).die d = s.die d := rfl
theorem die_keeperVector (s : State) (d : Nat) : s.keeperVector.die d = s.die d := rfl
theorem form_modForm_other (s : State) {n m : Nat} (f : Form → Form) (h : m ≠ n) : (s.modForm n f).form m = s.form m :=
  tabGet_put_other ({} : Form) s.forms _ h
theorem form_modDie (s : State) (d : Nat) (f : Die → Die) (n : Nat) : (s.modDie d f).form n = s.form n := rfl

/-- A step down takes a form of the least urgent class that can go lower. -/
theorem ceilingStep_lowers {f0 : Nat} (h0 : 16 * die ≤ f0 ∧ f0 < 16 * die + 16) (hc : 0 < s.ceil f0) :
    ∃ f, s.ceilingStep die false = s.modForm f (fun x => { x with ceil := s.ceil f - 1 }) ∧ 0 < s.ceil f ∧ 16 * die ≤ f ∧ f < 16 * die + 16 ∧
      ∀ g, 16 * die ≤ g → g < 16 * die + 16 → 0 < s.ceil g → (s.form g).prio ≤ (s.form f).prio := by
  have hne : ((List.range 16).map fun i => 16 * die + i).filter (fun f => 0 < s.ceil f) ≠ [] :=
    List.ne_nil_of_mem (List.mem_filter.2 ⟨mem_dieForms.2 h0, by simpa using hc⟩)
  obtain ⟨f, hf, hmem, hle⟩ := best_least (before := lowersFirst s) (fun f => OrderDual.toDual (s.form f).prio)
    (fun a b h => lowersFirst_true h) (fun a b h => lowersFirst_false h) _ hne
  obtain ⟨hin, hpos⟩ := List.mem_filter.1 hmem
  refine ⟨f, ?_, by simpa using hpos, (mem_dieForms.1 hin).1, (mem_dieForms.1 hin).2, fun g hg1 hg2 hg =>
    hle g (List.mem_filter.2 ⟨mem_dieForms.2 ⟨hg1, hg2⟩, by simpa using hg⟩)⟩
  unfold lowersFirst at hf
  unfold State.ceilingStep
  dsimp only
  rw [if_neg (by decide), hf]
  rfl
/-- A step up takes a form of the most urgent class that can go higher. -/
theorem ceilingStep_raises {f0 : Nat} (h0 : 16 * die ≤ f0 ∧ f0 < 16 * die + 16) (hc : (s.form f0).ceil < 48) :
    ∃ f, s.ceilingStep die true = s.modForm f (fun x => { x with ceil := x.ceil + 1 }) ∧ (s.form f).ceil < 48 ∧ 16 * die ≤ f ∧ f < 16 * die + 16 ∧
      ∀ g, 16 * die ≤ g → g < 16 * die + 16 → (s.form g).ceil < 48 → (s.form f).prio ≤ (s.form g).prio := by
  have hne : ((List.range 16).map fun i => 16 * die + i).filter (fun f => (s.form f).ceil < 48) ≠ [] :=
    List.ne_nil_of_mem (List.mem_filter.2 ⟨mem_dieForms.2 h0, by simpa using hc⟩)
  obtain ⟨f, hf, hmem, hle⟩ := best_least (before := fun a b => lowersFirst s b a) (fun f => (s.form f).prio)
    (fun a b h => lowersFirst_true h) (fun a b h => lowersFirst_false h) _ hne
  obtain ⟨hin, hlow⟩ := List.mem_filter.1 hmem
  refine ⟨f, ?_, by simpa using hlow, (mem_dieForms.1 hin).1, (mem_dieForms.1 hin).2, fun g hg1 hg2 hg =>
    hle g (List.mem_filter.2 ⟨mem_dieForms.2 ⟨hg1, hg2⟩, by simpa using hg⟩)⟩
  unfold lowersFirst at hf
  unfold State.ceilingStep
  dsimp only
  rw [if_pos rfl, hf]
  rfl
end

/-! ## The end of a tick (R377 to R383) -/

/-- A step of the throttle that sixteen calm ticks take back (R383). -/
theorem relaxForm_form (s : State) (form : Nat) : (s.relaxForm form).broken = s.broken ∧ (s.relaxForm form).form form =
    if 16 ≤ (s.form form).calm ∧ (s.form form).relaxed = false ∧ (s.die (dieOf (4 * form))).excess = false then
      { s.form form with thr := (s.form form).thr - 1, relaxed := true } else s.form form := by
  unfold State.relaxForm
  dsimp only
  simp only [Bool.not_eq_true']
  split_ifs
  · exact ⟨rfl, form_modForm _ _ _⟩
  · exact ⟨rfl, rfl⟩

theorem modCoresBy_keep (g : Nat → Nat) (f : Nat → Core → Core) : ∀ (l : List Nat) (s : State),
    let t := l.foldl (fun (s : State) i => s.modCore (g i) (f i)) s
    t.broken = s.broken ∧ t.forms = s.forms ∧ t.dies = s.dies
  | [], _ => ⟨rfl, rfl, rfl⟩
  | i :: l, s => modCoresBy_keep g f l (s.modCore (g i) (f i))

/-- What the currents of a form call for at the end of a tick, before its throttle relaxes. -/
def tickedForm (f : Form) (tot : List Nat) (full : BitVec 4) : Form :=
  let r := imbalance tot
  let peak := peakOf r.2
  let step := (decide (f.lim ≤ peak) && (f.action == 1 || (f.action == 2 && f.hot && f.full))) || decide (100 ≤ peak)
  { f with imb := imbWord r.1 r.2, thr := min 48 (f.thr + b2n step), hot := decide (f.lim ≤ peak), full := full != 0,
           calm := if 2 * peak < f.lim then f.calm + 1 else 0, relaxed := false, ticked := false }

theorem stepCount (f : Form) (peak : Nat) :
    b2n ((decide (f.lim ≤ peak) && (f.action == 1 || (f.action == 2 && f.hot && f.full))) || decide (100 ≤ peak)) =
      if 100 ≤ peak ∨ (f.lim ≤ peak ∧ (f.action = 1 ∨ (f.action = 2 ∧ f.hot = true ∧ f.full = true))) then 1 else 0 := by
  unfold b2n
  refine if_congr ?_ rfl rfl
  simp only [Bool.or_eq_true, Bool.and_eq_true, decide_eq_true_eq, beq_iff_eq]
  tauto

theorem tickedForm_fields (f : Form) (tot : List Nat) (full : BitVec 4) :
    let mean : Nat := tot.foldl (· + ·) 0 / 4
    let devs : List Int := tot.map fun (x : Nat) => ((x : Int) - (mean : Int)).tdiv 10
    let step := 100 ≤ peakOf devs ∨ (f.lim ≤ peakOf devs ∧ (f.action = 1 ∨ (f.action = 2 ∧ f.hot = true ∧ f.full = true)))
    let v := tickedForm f tot full
    v.imb = imbWord mean devs ∧ v.calm = (if 2 * peakOf devs < f.lim then f.calm + 1 else 0) ∧ v.ticked = false ∧
      v.thr = min 48 (f.thr + (if step then 1 else 0)) := by
  intro mean devs step v
  have hr : imbalance tot = (mean, devs) := rfl
  clear_value mean devs
  unfold v tickedForm
  rw [hr]
  exact ⟨rfl, rfl, rfl, congrArg (fun n => min 48 (f.thr + n)) (stepCount f (peakOf devs))⟩

theorem imbalanceTick_form (s : State) (form : Nat) (work filler : List Nat) (full : BitVec 4) :
    let v := tickedForm (s.form form) ((List.range 4).map fun i => work.getD i 0 + filler.getD i 0) full
    let t := s.imbalanceTick form work filler full
    t.broken = s.broken ∧ t.form form = if 16 ≤ v.calm ∧ (s.die (dieOf (4 * form))).excess = false then
      { v with thr := v.thr - 1, relaxed := true } else v := by
  intro v
  unfold State.imbalanceTick
  dsimp only
  have htot : (List.map (fun i => work.getD i 0) (List.range 4)).zipWith (· + ·) (List.map (fun i => filler.getD i 0) (List.range 4)) =
      (List.range 4).map fun i => work.getD i 0 + filler.getD i 0 := rfl
  rw [htot]
  generalize hu : List.foldl _ s (List.range 4) = u
  have hkeep : u.broken = s.broken ∧ u.forms = s.forms ∧ u.dies = s.dies := hu ▸ modCoresBy_keep _ _ (List.range 4) s
  obtain ⟨hb, hf, hd⟩ := hkeep
  have hform : u.form form = s.form form := congrArg (fun t => tabGet ({} : Form) t form) hf
  have hdie : u.die (dieOf (4 * form)) = s.die (dieOf (4 * form)) := congrArg (fun t => tabGet ({} : Die) t (dieOf (4 * form))) hd
  generalize hv : u.modForm form _ = w
  have hw : w.form form = v := by
    rw [← hv, form_modForm, hform]
    rfl
  have hwd : w.die (dieOf (4 * form)) = s.die (dieOf (4 * form)) := by
    rw [← hdie, ← hv]
    rfl
  obtain ⟨hrb, hrf⟩ := relaxForm_form w form
  refine ⟨hrb.trans (hv ▸ hb), hrf.trans ?_⟩
  rw [hw, hwd]
  exact if_congr (by rw [show v.relaxed = false from rfl]; tauto) rfl rfl

/-- Settles O44. -/
theorem imbalanceHeatAndPeerCeilings : Obligations.ImbalanceHeatAndPeerCeilings := by
  unfold Obligations.ImbalanceHeatAndPeerCeilings
  intro s hs
  refine ⟨fun form work filler full hform => ?_, fun form => ?_, fun die f0 => ?_, fun die => ?_, fun port code => ?_,
    fun ch temp hch => ⟨s.memTemp ch temp, (congrArg answer (if_pos hch)).trans (answer_whole hs), memTemp_keeps s hch⟩⟩
  · intro f tot mean devs step calm relaxes
    refine ⟨fun ht => ?_, fun ht => ?_⟩
    · refine (congrArg answer ((if_neg (by omega)).trans (if_neg ?_))).trans (answer_whole hs)
      rw [show (s.form form).ticked = false from ht]
      decide
    · obtain ⟨hb, hf⟩ := imbalanceTick_form s form work filler full
      refine ⟨s.imbalanceTick form work filler full, ?_, ?_⟩
      · exact (congrArg answer ((if_neg (by omega)).trans (if_pos ht))).trans (answer_whole (hb.trans hs))
      · obtain ⟨himb, hcalm, hticked, hthr⟩ := tickedForm_fields f tot full
        have hf' : (s.imbalanceTick form work filler full).form form = if relaxes then
            { tickedForm (s.form form) tot full with thr := (tickedForm (s.form form) tot full).thr - 1, relaxed := true }
            else tickedForm (s.form form) tot full := hf
        rw [hf']
        by_cases hr : relaxes
        · rw [if_pos hr, if_pos hr]
          exact ⟨himb, hcalm, hticked, congrArg (fun n => n - 1) hthr⟩
        · rw [if_neg hr, if_neg hr]
          exact ⟨himb, hcalm, hticked, hthr.trans (Nat.sub_zero _).symm⟩
  · intro f hrel hcalm hex
    refine (congrArg answer (if_pos ⟨hcalm, ?_, ?_⟩)).trans (answer_whole hs)
    · rw [show (s.form form).relaxed = false from hrel]
      rfl
    · rw [hex]
      rfl
  · intro d
    have hgo (raise : Bool) : exec (.thermalCeilingStep die raise) s = answer (
      if die < 2 ∧ !d.moved ∧ (if raise then 1024 ≤ d.cool else d.excess) then
        (s.ceilingStep die raise).modDie die fun d => { d with moved := true } else s) := rfl
    refine ⟨fun h => ?_, fun hdie hm hex h1 h2 hc => ?_, fun h => ?_, fun hdie hm hcool h1 h2 hc => ?_⟩
    · refine (hgo false).trans ((congrArg answer (if_neg ?_)).trans (answer_whole hs))
      rcases h with h | h <;> rw [h] <;> simp
    · obtain ⟨f, hf, hpos, hlo, hhi, hall⟩ := ceilingStep_lowers ⟨h1, h2⟩ hc
      refine ⟨f, (s.modForm f fun x => { x with ceil := s.ceil f - 1 }).modDie die fun d => { d with moved := true }, ?_, ?_, ?_, hlo, hhi,
        fun g hg => ?_, hall⟩
      · rw [hgo, if_pos ⟨hdie, by rw [hm]; rfl, hex⟩, hf]
        exact answer_whole hs
      · rw [form_modDie, form_modForm]
        exact Nat.sub_add_cancel hpos
      · rw [die_modDie]
      · rw [form_modDie, form_modForm_other _ _ hg]
    · refine (hgo true).trans ((congrArg answer (if_neg ?_)).trans (answer_whole hs))
      rcases h with h | h
      · rw [h]
        simp
      · rintro ⟨-, -, h'⟩
        exact absurd h' (Nat.not_le.2 h)
    · obtain ⟨f, hf, hlow, hlo, hhi, hall⟩ := ceilingStep_raises ⟨h1, h2⟩ hc
      refine ⟨f, (s.modForm f fun x => { x with ceil := x.ceil + 1 }).modDie die fun d => { d with moved := true }, ?_, ?_, ?_, hlo, hhi, hlow,
        fun g hg => ?_, hall⟩
      · rw [hgo, if_pos ⟨hdie, by rw [hm]; rfl, hcool⟩, hf]
        exact answer_whole hs
      · rw [form_modDie, form_modForm]
      · rw [die_modDie]
      · rw [form_modDie, form_modForm_other _ _ hg]
  · intro d
    refine ⟨fun hdie ht => ?_, fun ht => ?_, fun h => ?_, fun ht htick => ?_⟩
    · have ht' : (s.die die).trip = false := ht
      refine ⟨(s.modDie die fun d => { d with thermAllow := 500, trip := true }).keeperVector.slowDown die,
        (congrArg answer (if_pos ⟨hdie, by rw [ht']; rfl⟩)).trans (answer_whole hs), ?_, ?_, ?_, ?_⟩
      · unfold State.slowDown
        rw [die_modDie, die_sendAll, die_keeperVector, die_modDie]
      · unfold State.slowDown
        rw [die_modDie, die_sendAll, die_keeperVector, die_modDie]
      · refine (congrArg (fun f : HostFn => f.msix.getLsbD 3) (fn_modFn (s.modDie die fun d => { d with thermAllow := 500, trip := true }) 0
          fun f => { f with msix := f.msix ||| BitVec.ofNat 4 (2 ^ 3) })).trans ?_
        dsimp only
        rw [BitVec.getLsbD_or, show (BitVec.ofNat 4 (2 ^ 3)).getLsbD 3 = true by decide, Bool.or_true]
      · exact (List.length_append).trans (by rw [List.length_map]; rfl)
    · exact ⟨(s.modDie die fun d => { d with trip := false }).sendAll [0], (congrArg answer (if_pos ht)).trans (answer_whole hs),
        by rw [die_sendAll, die_modDie], rfl⟩
    · refine (congrArg answer (if_neg ?_)).trans (answer_whole hs)
      rintro ⟨h1, h2⟩
      rcases h with h | h
      · exact Bool.noConfusion (h.symm.trans h1)
      · exact absurd h2 (Nat.not_le.2 h)
    · refine ⟨s.slowDown die, (congrArg answer (if_pos ⟨ht, htick⟩)).trans (answer_whole hs), ?_, ?_⟩
      · unfold State.slowDown
        rw [die_modDie]
      · exact (List.length_append).trans (by rw [List.length_map])
  · exact ⟨fun h => (congrArg answer (if_pos h)).trans (answer_whole hs), fun h => (congrArg answer (if_neg (by rw [h]; decide))).trans (answer_whole hs),
      answer_whole hs, fun h => (congrArg answer (if_pos h)).trans (answer_whole hs),
      fun h => (congrArg answer (if_neg (Bool.not_eq_true _ ▸ h))).trans (answer_whole hs)⟩

end Sys2Proof.Laws
end

section
/-! PROOF. Operations that keep the canonical form of the memories and the queue of table commands: caches, launches and tasks. -/
namespace Sys2Proof.Laws
open Sys2Proof.Machine

/-- The queue of table commands stands, and the memories keep their canonical form. -/
def Mild (s t : State) : Prop := t.otQueue = s.otQueue ∧ (MemOk s → MemOk t)

theorem Mild.refl (s : State) : Mild s s := ⟨rfl, id⟩
theorem Mild.trans {s t u : State} (h1 : Mild s t) (h2 : Mild t u) : Mild s u := ⟨h2.1.trans h1.1, h2.2 ∘ h1.2⟩
/-- The memories and the queue of table commands. -/
def memories (s : State) : Memory × Memory × Tab Bool × Memory × List OtCmd := (s.dev, s.host, s.devTags, s.regMem, s.otQueue)
/-- An update that leaves the memories alone. -/
theorem Mild.same {s t : State} (h : memories t = memories s) : Mild s t := by
  simp only [memories, Prod.mk.injEq] at h
  obtain ⟨hdev, hhost, htags, hreg, hqueue⟩ := h
  exact ⟨hqueue, fun h => h.same hdev hhost htags hreg⟩
theorem Mild.foldl {α : Type} {f : State → α → State} (hf : ∀ s x, Mild s (f s x)) (l : List α) (s : State) : Mild s (l.foldl f s) := by
  induction l generalizing s with
  | nil => exact .refl s
  | cons x l ih => exact (hf s x).trans (ih _)
theorem Mild.ite {s t u : State} {p : Prop} [Decidable p] (ht : Mild s t) (hu : Mild s u) : Mild s (if p then t else u) := by
  split_ifs
  · exact ht
  · exact hu
/-- What writes memory and CACHE alone leaves the queue of table commands. -/
theorem CacheOnly.mild {s t : State} (h : CacheOnly s t) (hm : MemOk s → MemOk t) : Mild s t := ⟨by rw [h.others]; rfl, hm⟩
theorem MemoryOnly.mild {s t : State} (h : MemoryOnly s t) (hm : MemOk s → MemOk t) : Mild s t := h.cacheOnly.mild hm

section
variable (s : State)

theorem mild_modCore (c : Nat) (f : Core → Core) : Mild s (s.modCore c f) := .same (by rfl)
theorem mild_modSh (c : Nat) (f : Shared → Shared) : Mild s (s.modSh c f) := .same (by rfl)
theorem mild_modStream (c n : Nat) (f : Stream → Stream) : Mild s (s.modStream c n f) := .same (by rfl)
theorem mild_modDie (d : Nat) (f : Die → Die) : Mild s (s.modDie d f) := .same (by rfl)
theorem mild_modForm (n : Nat) (f : Form → Form) : Mild s (s.modForm n f) := .same (by rfl)
theorem mild_modLaunch (n : Nat) (f : Launch → Launch) : Mild s (s.modLaunch n f) := .same (by rfl)
theorem mild_modCtx (n : Nat) (f : Context → Context) : Mild s (s.modCtx n f) := .same (by rfl)
theorem mild_modFn (n : Nat) (f : HostFn → HostFn) : Mild s (s.modFn n f) := .same (by rfl)
theorem mild_modSensor (n : Nat) (f : Sensor → Sensor) : Mild s (s.modSensor n f) := .same (by rfl)
theorem mild_modGroup (n : Nat) (f : RollGroup → RollGroup) : Mild s (s.modGroup n f) := .same (by rfl)
theorem mild_noteStall (x : StallAt) : Mild s (s.noteStall x) := .ite (.refl s) (.same (by rfl))
theorem mild_heal (p : Mark → Bool) : Mild s (s.heal p) := by
  unfold State.heal
  split
  · exact .refl s
  · exact .same (by rfl)
theorem mild_notice (n : Notice) : Mild s (s.notice n) := ⟨by unfold State.notice; split_ifs <;> rfl, memOk_notice n⟩
theorem mild_msix (fn v : Nat) : Mild s (s.msix fn v) := .same (by rfl)
theorem mild_takeFault (c : Nat) (st : Option Nat) (cls : Nat) (info : Word) (after : Bool) : Mild s (s.takeFault c st cls info after) := .ite (.same (by rfl)) (.same (by rfl))
theorem mild_tileWrite (c : Nat) (h : Handle) (off : Nat) (bs : List Byte) : Mild s (s.tileWrite c h off bs) := by
  unfold State.tileWrite
  split
  · exact .refl s
  · exact (mild_modSh s c _).trans (mild_heal _ _)
theorem mild_elemWrite (c : Nat) (h : Handle) (bs : List Byte) : Mild s (s.elemWrite c h bs) := by
  unfold State.elemWrite
  split
  · exact .refl s
  · exact (mild_modSh s c _).trans (mild_heal _ _)
theorem mild_sweepTiles (c : Nat) : Mild s (s.sweepTiles c) := by
  unfold State.sweepTiles
  dsimp only
  refine Mild.trans (Mild.foldl ?_ _ s) (.ite (.refl _) (mild_modCtx _ _ _))
  exact fun s t => mild_modSh s c _
theorem mild_translate (c ctx obj a : Nat) : Mild s (s.translate c ctx obj a).2 := by
  unfold State.translate
  split
  · exact .refl s
  · split
    · exact mild_modCore s c _
    · split
      · exact .refl s
      · exact .same (by rfl)
theorem mild_checkPlace (l : List (Bool × Nat)) : Mild s (s.checkPlace l) := by
  unfold State.checkPlace
  split
  · exact .same (by rfl)
  · exact .refl s

/-! ## CACHE and provisional data -/

theorem mild_putTag (id : Option Ident) (host : Bool) (g : Nat) (v : Bool) : Mild s (s.putTag id host g v) :=
  (memoryOnly_putTag s id host g v).mild (memOk_putTag id host g v)
theorem mild_touchL2 (a : Nat) (st : SectorState) : Mild s (s.touchL2 a st) := (memoryOnly_touchL2 s a st).mild (memOk_touchL2 a st)
theorem mild_cohWrite (id : Option Ident) (l : List (Bool × Nat × Byte)) : Mild s (s.cohWrite id l) :=
  (memoryOnly_cohWrite s id l).mild (memOk_cohWrite id l)
theorem mild_commit (i : Ident) : Mild s (s.commit i) := (memoryOnly_commit s i).mild (memOk_commit i)
theorem mild_discardAll (gone : Ident → Bool) : Mild s (s.discardAll gone) := .same (by rfl)
theorem mild_writeBack (c k : Nat) : Mild s (s.writeBack c k) := (cacheOnly_writeBack s c k).mild (memOk_writeBack c k)
theorem mild_writeBackAll (c stor : Nat) : Mild s (s.writeBackAll c stor) := (cacheOnly_writeBackAll s c stor).mild (memOk_writeBackAll c stor)
theorem mild_releaseCache (c agent stor : Nat) : Mild s (s.releaseCache c agent stor) :=
  (cacheOnly_releaseCache s c agent stor).mild (memOk_releaseCache c agent stor)
theorem mild_acquireCache (c agent stor : Nat) : Mild s (s.acquireCache c agent stor) :=
  (cacheOnly_acquireCache s c agent stor).mild (memOk_acquireCache c agent stor)
theorem mild_flushCache (c : Nat) : Mild s (s.flushCache c) := (mild_writeBackAll s c 0).trans (mild_modCore _ _ _)
theorem mild_dropLine (c n : Nat) : Mild s (s.dropLine c n) := (cacheOnly_dropLine s c n).mild (memOk_dropLine c n)
theorem mild_coreRead (c agent : Nat) (l : List (Bool × Nat)) : Mild s (s.coreRead c agent l).2 :=
  (cacheOnly_coreRead c agent l s).mild (memOk_coreRead c agent l)
theorem mild_endIdem (c : Nat) : Mild s (s.endIdem c) := by
  unfold State.endIdem
  split
  · exact .ite (((mild_writeBackAll s c 0).trans (mild_commit _ _)).trans (mild_modCore _ _ _)) (.refl s)
  · exact .refl s
theorem mild_coreWrite (c agent : Nat) (l : List (Bool × Nat × Byte)) (tag : Bool) : Mild s (s.coreWrite c agent l tag) := by
  refine ⟨?_, memOk_coreWrite c agent l tag⟩
  have h := cacheOnly_coreWrite s c agent l tag
  have hq : (s.coreWrite c agent l tag).otQueue = (if l.any (·.1) then s.endIdem c else s).otQueue := by
    rw [h.others]
    rfl
  rw [hq]
  split_ifs
  · exact (mild_endIdem s c).1
  · rfl
theorem mild_passCache (c : Nat) (l : List (Bool × Nat)) : Mild s (s.passCache c l) :=
  Mild.foldl (fun u k => .ite ((mild_writeBack u c k).trans (mild_modCore _ _ _)) (.refl u)) _ s
theorem mild_objWrite (ctx obj off : Nat) (bs : List Byte) : Mild s (s.objWrite ctx obj off bs) :=
  .ite (mild_noteStall s _) ((mild_cohWrite s none _).trans (mild_checkPlace _ _))

/-! ## Launches and the tasks of a core -/

theorem mild_completionRecord (p : List Byte) (state code tasks : Nat) : Mild s (s.completionRecord p state code tasks) :=
  (mild_objWrite s _ _ _ _).trans (mild_msix _ _ _)
theorem mild_freeLaunch (lid state : Nat) : Mild s (s.freeLaunch lid state) := mild_modLaunch s lid _
theorem mild_completeLaunch (lid : Nat) : Mild s (s.completeLaunch lid) :=
  ((mild_completionRecord s _ _ _ _).trans (mild_notice _ _)).trans (mild_freeLaunch _ _ _)
theorem mild_countEnd (lid : Nat) (faulted : Bool) : Mild s (s.countEnd lid faulted) :=
  (mild_modLaunch s lid _).trans (.ite (mild_completeLaunch _ lid) (.refl _))
theorem mild_enterAt (lid fn : Nat) (p : List Byte) (spec : Bool) (slot succ : Nat) : Mild s (s.enterAt lid fn p spec slot succ) :=
  (Mild.same (t := State.tickSeq _) (by rfl)).trans (.ite (mild_completeLaunch _ lid) (.refl _))
theorem mild_refuse (fn : Nat) (own : Option Nat) (p : List Byte) (code : Nat) : Mild s (s.refuse fn own p code) :=
  .ite (mild_completionRecord s _ _ _ _) ((mild_notice s _).trans (.ite (mild_modFn _ _ _) (.refl _)))
theorem mild_submit (fn : Nat) (own : Option Nat) (p : List Byte) : Mild s (s.submit fn own p).2 := by
  unfold State.submit
  dsimp only
  split_ifs
  · exact mild_refuse s _ _ _ _
  · exact .refl s
  · exact mild_enterAt s _ _ _ _ _ _
theorem mild_swapCheck (f : Nat) : Mild s (s.swapCheck f) := .ite (.same (by rfl)) (.refl s)
theorem mild_unbind (c : Nat) : Mild s (s.unbind c) := (Mild.same (t := State.modCore _ c _) (by rfl)).trans (mild_swapCheck _ _)
theorem mild_releaseTiles (c : Nat) : Mild s (s.releaseTiles c) := mild_modCtx s _ _
theorem mild_dropTask (c : Nat) : Mild s (s.dropTask c) := (Mild.same (t := State.modCore _ c _) (by rfl)).trans (mild_unbind _ c)
theorem mild_ovfPut (ctx : Nat) (l : List (BitVec 256)) (dies : List Nat) : Mild s (s.ovfPut ctx l dies) :=
  ((Mild.foldl (fun s _ => mild_objWrite s _ _ _ _) _ s).trans (mild_objWrite _ _ _ _ _)).trans (mild_modCtx _ _ _)
theorem mild_dropChildren (lid : Nat) : Mild s (s.dropChildren lid) := by
  unfold State.dropChildren
  dsimp only
  generalize hu : List.foldl _ s [0, 1] = u
  have h : Mild s u := hu ▸ Mild.foldl (fun s d => mild_modDie s d _) [0, 1] s
  refine h.trans (.ite (mild_modCtx u _ _) ?_)
  exact (mild_modCtx u _ _).trans (mild_ovfPut _ _ _ _)
theorem mild_clearSlots (ctx lid gen : Nat) : Mild s (s.clearSlots ctx lid gen) := Mild.foldl (fun s _ => mild_objWrite s _ _ _ _) _ s
theorem mild_stopSpec (lid : Nat) : Mild s (s.stopSpec lid) := by
  unfold State.stopSpec
  dsimp only
  have h := (Mild.foldl (fun s c => mild_dropTask s c) (s.coresOf lid) s).trans (mild_dropChildren _ lid)
  generalize ((s.coresOf lid).foldl (fun (s : State) c => s.dropTask c) s).dropChildren lid = u at *
  refine h.trans (Mild.trans ?_ (mild_discardAll _ _))
  exact (Mild.same (t := State.modCtx _ _ _) (by rfl)).trans (mild_clearSlots _ _ _ _)
theorem mild_squash (lid : Nat) (record : Bool) : Mild s (s.squash lid record) :=
  ((mild_stopSpec s lid).trans (.ite (mild_completionRecord _ _ _ _ _) (.refl _))).trans (mild_freeLaunch _ _ _)
theorem mild_spill (lid : Nat) : Mild s (s.spill lid) := (mild_stopSpec s lid).trans (mild_modLaunch _ _ _)
theorem mild_limitProv (c : Nat) : Mild s (s.limitProv c) := by
  unfold State.limitProv
  split
  · exact .refl s
  · dsimp only
    split_ifs
    · split
      · exact mild_spill s _
      · exact mild_endIdem s c
    · exact .refl s
theorem mild_clearCache (c : Nat) : Mild s (s.clearCache c) := ((mild_writeBackAll s c 0).trans (mild_modCore _ _ _)).trans (mild_limitProv _ c)
theorem mild_endTask (c : Nat) (t : Task) : Mild s (s.endTask c t) :=
  (Mild.ite (mild_commit s _) (.refl s)).trans ((mild_releaseTiles _ c).trans (mild_unbind _ c))
theorem mild_retireTask (c : Nat) : Mild s (s.retireTask c) := by
  refine (mild_clearCache s c).trans ?_
  unfold State.retireTask
  generalize s.clearCache c = u
  dsimp only
  split
  · exact .refl u
  · exact ((mild_notice u _).trans (mild_endTask _ c _)).trans (mild_countEnd _ _ _)
theorem mild_abandonTask (c : Nat) : Mild s (s.abandonTask c) := by
  refine (mild_clearCache s c).trans ?_
  unfold State.abandonTask
  generalize s.clearCache c = u
  dsimp only
  split
  · exact .refl u
  · exact (mild_endTask u c _).trans (mild_countEnd _ _ _)
theorem mild_win (lid : Nat) : Mild s (s.win lid) := by
  unfold State.win
  dsimp only
  refine (mild_commit s (.spec (s.launch lid).ctx (s.launch lid).slot (s.launch lid).succ)).trans ?_
  generalize s.commit (.spec (s.launch lid).ctx (s.launch lid).slot (s.launch lid).succ) = u
  generalize hv : List.foldl _ u (u.coresOf lid) = v
  have h1 : Mild u v := hv ▸ Mild.foldl (fun s c => mild_modCore s c _) _ u
  generalize hw : List.foldl _ v [0, 1] = w
  have h2 : Mild v w := hw ▸ Mild.foldl (fun s d => mild_modDie s d _) _ v
  refine (h1.trans h2).trans (Mild.trans ?_ (.ite (mild_completeLaunch _ lid) (.refl _)))
  exact .same (by rfl)
theorem mild_launchRelease : Mild s s.launchRelease := (mild_endIdem s _).trans (mild_writeBackAll _ _ _)
theorem mild_enterBoth (ctx : Nat) (p q : List Byte) : Mild s (s.enterBoth ctx p q).2 := by
  unfold State.enterBoth
  dsimp only
  generalize (if (s.ctx ctx).specs.getLsbD 0 then 1 else 0) = slot
  split_ifs
  · exact .refl s
  · exact .refl s
  · exact mild_refuse s _ _ _ _
  · exact mild_refuse s _ _ _ _
  · exact .refl s
  · dsimp only
    refine Mild.trans ?_ (mild_modCtx _ _ _)
    refine Mild.trans ?_ (mild_enterAt _ _ _ _ _ _ _)
    exact mild_enterAt s _ _ _ _ _ _
theorem mild_decide (ctx slot succ : Nat) : Mild s (s.decide ctx slot succ).2 := by
  have hsquash : Mild s (match s.specEntry ctx slot (1 - succ) with
      | some lid => s.squash lid true
      | none => s.discard (.spec ctx slot (1 - succ))) := by
    split
    · exact mild_squash s _ _
    · exact mild_discardAll s _
  unfold State.decide
  dsimp only
  refine Mild.trans (t := (match State.specEntry _ ctx slot succ with
      | some lid => ((State.launch _ lid).spilled, State.win _ lid)
      | none => (false, State.commit _ (.spec ctx slot succ))).2) ?_ (mild_modCtx _ _ _)
  split
  · exact hsquash.trans (mild_win _ _)
  · exact hsquash.trans (mild_commit _ _)
end

end Sys2Proof.Laws
end

section
/-! PROOF. Operations that keep the canonical form of the memories and the queue of table commands: the engines LD, MX, EP and CP. -/
namespace Sys2Proof.Laws
open Sys2Proof.Machine

/-- An attempt of an engine that goes on keeps the form and the queue. -/
def EngMild (s : State) : Eng → Prop
  | .go t => Mild s t
  | _ => True

theorem EngMild.eng (s : State) (x : EngStop) : EngMild s x.eng := by cases x <;> exact trivial
theorem EngMild.trans {s t : State} {e : Eng} (h : Mild s t) (he : EngMild t e) : EngMild s e := by
  cases e with
  | go u => exact h.trans he
  | wait => exact trivial
  | stall => exact trivial
  | fault cls info => exact trivial
theorem EngMild.ite {s : State} {p : Prop} [Decidable p] {d e : Eng} (hd : EngMild s d) (he : EngMild s e) :
    EngMild s (if p then d else e) := by
  split_ifs
  · exact hd
  · exact he

section
variable {s : State}

/-! ## Bytes of objects -/

theorem mild_translateAll {c ctx obj : Nat} {ps : List Nat} {x : List (Bool × Nat) × State} (h : s.translateAll c ctx obj ps = .ok x) :
    Mild s x.2 := by
  induction ps generalizing s x with
  | nil =>
    cases h
    exact .refl s
  | cons p t ih =>
    rw [State.translateAll] at h
    split at h
    · next hp =>
      split at h
      · next y hy =>
        cases h
        have ht := ih hy
        exact (congrArg Prod.snd hp ▸ mild_translate s c ctx obj p).trans ht
      · cases h
    · cases h
theorem mild_engAddr {c e reg : Nat} {cap : Cap} {write : Bool} {ps : List Nat} {x : List (Bool × Nat) × State}
    (h : s.engAddr c e reg cap write ps = .ok x) : Mild s x.2 := by
  unfold State.engAddr at h
  split at h
  · next r hr =>
    cases h
    exact (mild_translateAll hr).trans (mild_checkPlace _ _)
  · cases h
  · cases h
  · cases h
theorem mild_engRead {c e reg : Nat} {cap : Cap} {ps : List Int} {x : List Byte × State} (h : s.engRead c e reg cap ps = .ok x) :
    Mild s x.2 := by
  unfold State.engRead at h
  split at h
  · cases h
  · split at h
    · cases h
    · next l u hu =>
      split at h
      · cases h
      · cases h
        exact (mild_engAddr hu).trans (mild_coreRead _ _ _ _)
theorem mild_engWrite {c e reg : Nat} {cap : Cap} {p : Int} {bs : List Byte} {t : State} (h : s.engWrite c e reg cap p bs = .ok t) :
    Mild s t := by
  unfold State.engWrite at h
  split at h
  · cases h
  · split at h
    · cases h
    · next l u hu =>
      cases h
      exact (mild_engAddr hu).trans (mild_coreWrite _ _ _ _ _)
theorem mild_nearRead {c reg : Nat} {cap : Cap} {p : Int} {n : Nat} {x : List Byte × State} (h : s.nearRead c reg cap p n = .ok x) :
    Mild s x.2 := by
  unfold State.nearRead at h
  split at h
  · cases h
  · next l u hu =>
    split at h
    · cases h
    · cases h
      exact (mild_engAddr hu).trans (mild_coreRead _ _ _ _)
theorem mild_nearWrite {c reg : Nat} {cap : Cap} {p : Int} {bs : List Byte} {t : State} (h : s.nearWrite c reg cap p bs = .ok t) :
    Mild s t := by
  unfold State.nearWrite at h
  split at h
  · cases h
  · next l u hu =>
    cases h
    exact (mild_engAddr hu).trans (mild_coreWrite _ _ _ _ _)
theorem mild_endRead {c : Nat} {e : CopyEnd} {p : Int} {len : Nat} {x : List Byte × State} (h : s.endRead c e p len = .ok x) : Mild s x.2 := by
  cases e with
  | cap reg k => exact mild_engRead h
  | tile n k =>
    cases h
    exact .refl s
theorem mild_endWrite {c : Nat} {e : CopyEnd} {p : Int} {bs : List Byte} {t : State} (h : s.endWrite c e p bs = .ok t) : Mild s t := by
  cases e with
  | cap reg k => exact mild_engWrite h
  | tile n k =>
    cases h
    exact mild_tileWrite s _ _ _ _
theorem mild_moveBytes {c : Nat} {src dst : CopyEnd} {p q : Int} {len : Nat} {t : State} (h : s.moveBytes c src dst p q len = .ok t) :
    Mild s t := by
  unfold State.moveBytes at h
  split at h
  · cases h
  · next bs u hu => exact (mild_endRead hu).trans (mild_endWrite h)

variable (s)

theorem mild_finishCommand (c e : Nat) : Mild s (s.finishCommand c e) := mild_modSh s c _
theorem mild_engFault (c : Nat) (k : Cmd) (cls : Nat) (info : Word) : Mild s (s.engFault c k cls info) := mild_takeFault s _ _ _ _ _
theorem mild_runFault (c e : Nat) (k : Cmd) (cls : Nat) (info : Word) : Mild s (s.runFault c e k cls info) :=
  (mild_modSh s c _).trans (mild_engFault _ _ _ _ _)
theorem mild_countFlight (c : Nat) (fl : Flags) (f : Core → Core) : Mild s (if fl = 0 then s else s.modCore c f) :=
  .ite (.refl s) (mild_modCore s c f)

/-! ## LD, MX and EP -/

theorem mild_startAstage (c : Nat) (k : Cmd) (cn : Nat) : EngMild s (s.startAstage c k cn) := by
  unfold State.startAstage
  dsimp only
  split
  · exact trivial
  · split_ifs
    · exact trivial
    · split
      · exact trivial
      · exact mild_modSh s c _
theorem mild_advanceAstage (c : Nat) (r : Run) (cn kn : Nat) : EngMild s (s.advanceAstage c r cn kn) := by
  unfold State.advanceAstage
  dsimp only
  refine .ite trivial ?_
  split
  · exact EngMild.eng s _
  · next hu =>
    refine .ite ?_ ?_
    · exact (mild_engRead hu).trans (((mild_modSh _ c _).trans (mild_heal _ _)).trans (mild_finishCommand _ c 0))
    · exact (mild_engRead hu).trans (((mild_modSh _ c _).trans (mild_heal _ _)).trans (mild_modSh _ c _))
theorem mild_claimSlot (c : Nat) (r : Run) : Mild s (s.claimSlot c r) := .ite (mild_modSh s c _) (.refl s)
theorem mild_startDeckld (c : Nat) (k : Cmd) (cn units : Nat) : EngMild s (s.startDeckld c k cn units) := by
  unfold State.startDeckld
  dsimp only
  split_ifs
  · exact trivial
  · exact (mild_modSh s c _).trans (mild_finishCommand _ c 0)
  · exact trivial
  · split
    · exact trivial
    · exact (mild_modSh s c _).trans (mild_modSh _ c _)
theorem mild_advanceDeckld (c : Nat) (r : Run) (cn units : Nat) : EngMild s (s.advanceDeckld c r cn units) := by
  unfold State.advanceDeckld
  dsimp only
  split
  · exact EngMild.eng s _
  · next hu =>
    refine .ite ?_ ?_
    · exact (mild_engRead hu).trans (((mild_modSh _ c _).trans (mild_heal _ _)).trans (mild_finishCommand _ c 0))
    · exact (mild_engRead hu).trans (((mild_modSh _ c _).trans (mild_heal _ _)).trans (mild_modSh _ c _))
theorem mild_startMma (c : Nat) (k : Cmd) (op : BitVec 8) (opens : Bool) (gang kc : Nat) : EngMild s (s.startMma c k op opens gang kc) := by
  unfold State.startMma
  dsimp only
  split
  · exact trivial
  · exact .ite trivial (mild_modSh s c _)
theorem mild_kStep (c : Nat) (r : Run) (op : BitVec 8) (opens : Bool) (gang : Nat) : EngMild s (s.kStep c r op opens gang) := by
  unfold State.kStep
  dsimp only
  refine .ite trivial (.ite trivial (.ite trivial ?_))
  refine EngMild.trans ?_ (mild_countFlight _ c _ _)
  exact ((mild_modSh s c _).trans (mild_modCore _ c _)).trans (.ite (mild_heal _ _) (.refl _))
theorem mild_finishMma (c : Nat) (r : Run) (close last : BitVec 1) : Mild s (s.finishMma c r close last) :=
  (mild_modSh s c _).trans (mild_finishCommand _ c 2)
theorem mild_startEprun (c : Nat) (k : Cmd) (hn : Nat) : EngMild s (s.startEprun c k hn) := by
  unfold State.startEprun
  dsimp only
  split
  · exact trivial
  · refine .ite trivial (.ite trivial ?_)
    split
    · exact trivial
    · refine .ite trivial (.ite trivial ?_)
      split
      · exact trivial
      · exact .ite trivial (mild_modSh s c _)
theorem mild_advanceEprun (c : Nat) (r : Run) (hn : Nat) : Mild s (s.advanceEprun c r hn) := by
  unfold State.advanceEprun
  dsimp only
  refine (Mild.foldl (fun u (p : Nat × List Byte) => mild_tileWrite u c _ p.1 p.2) _ s).trans (.ite (mild_modSh _ c _) ?_)
  exact ((mild_modSh _ c _).trans (mild_finishCommand _ c 3)).trans (mild_countFlight _ c _ _)
theorem mild_atOnce (c e : Nat) (k : Cmd) (f : Shared → Shared) : EngMild s (s.atOnce c e k f) :=
  (mild_modSh s c _).trans (mild_finishCommand _ c e)
theorem mild_startGo (c e : Nat) (k : Cmd) (src : Port) : EngMild s (s.startGo c e k src) := mild_atOnce s c e k _
theorem mild_startPop (c : Nat) (k : Cmd) : EngMild s (s.startPop c k) := .ite trivial (.ite trivial (mild_atOnce s c 3 k _))
theorem mild_startDiscard (c : Nat) (k : Cmd) : EngMild s (s.startDiscard c k) := .ite trivial (mild_atOnce s c 3 k _)
theorem mild_startEpcfg (c : Nat) (k : Cmd) (f : BitVec 96 → BitVec 96) : EngMild s (s.startEpcfg c k f) := mild_atOnce s c 3 k _

/-! ## CP -/

theorem mild_finishTag (c : Nat) (k : Cmd) : Mild s (s.finishTag c k) := (mild_modSh s c _).trans (mild_finishCommand _ c 4)
theorem mild_tagFlags (c : Nat) (k : Cmd) (fl : Flags) : Mild s (s.tagFlags c k fl) := mild_countFlight s c fl _
theorem mild_finishJob (c : Nat) (k : Cmd) (fl : Flags) : Mild s (s.finishJob c k fl) :=
  ((mild_writeBackAll s c 0).trans (mild_finishTag _ c k)).trans (mild_tagFlags _ c k fl)
theorem mild_startCopy (c : Nat) (k : Cmd) (dk sk : Bool) (dst src : Nat) : EngMild s (s.startCopy c k dk sk dst src) := by
  unfold State.startCopy
  dsimp only
  split
  · exact trivial
  · split
    · exact trivial
    · exact mild_modSh s c _
theorem mild_advanceCopy (c : Nat) (r : Run) (dk sk : Bool) (dst src : Nat) : EngMild s (s.advanceCopy c r dk sk dst src) := by
  unfold State.advanceCopy
  dsimp only
  refine .ite (mild_finishTag s c _) ?_
  split
  · exact EngMild.eng s _
  · next hu => exact EngMild.trans (mild_moveBytes hu) (.ite (mild_finishTag _ c _) (mild_modSh _ c _))
theorem mild_startCopyp (c : Nat) (k : Cmd) (hn : Nat) : EngMild s (s.startCopyp c k hn) := by
  unfold State.startCopyp
  dsimp only
  split
  · exact trivial
  · exact .ite trivial (.ite trivial (mild_modSh s c _))
theorem mild_endMarker (c : Nat) (r : Run) : EngMild s (s.endMarker c r) := by
  unfold State.endMarker
  dsimp only
  split
  · exact mild_finishCommand s c 4
  · exact .ite trivial ((mild_modSh s c _).trans (mild_finishCommand _ c 4))
theorem mild_patternDone (c : Nat) (r : Run) (marker : Bool) : Mild s (s.patternDone c r marker) :=
  .ite (mild_modSh s c _) (mild_finishTag s c _)
theorem mild_advanceCopyp (c : Nat) (r : Run) : EngMild s (s.advanceCopyp c r) := by
  unfold State.advanceCopyp
  dsimp only
  refine .ite (mild_patternDone s c r _) ?_
  split
  · exact trivial
  · split
    · exact trivial
    · split
      · exact EngMild.eng s _
      · next hu => exact EngMild.trans (mild_moveBytes hu) (.ite (mild_modSh _ c _) (mild_patternDone _ c _ _))
theorem mild_startJob (c : Nat) (k : Cmd) (hn : Nat) : EngMild s (s.startJob c k hn) := by
  unfold State.startJob
  dsimp only
  refine .ite trivial ?_
  split
  · exact trivial
  · refine .ite trivial (.ite trivial (.ite trivial ?_))
    split
    · exact trivial
    · exact (mild_acquireCache s c 4 0).trans (mild_modSh _ c _)
theorem mild_cardEnd (c : Nat) (r : Run) : EngMild s (s.cardEnd c r) := by
  unfold State.cardEnd
  dsimp only
  refine .ite (mild_finishJob s c _ 0) ?_
  split
  · exact EngMild.eng s _
  · next hu => exact (mild_engWrite hu).trans (mild_finishJob _ c _ _)
theorem mild_advanceJob (c : Nat) (r : Run) : EngMild s (s.advanceJob c r) := by
  unfold State.advanceJob
  dsimp only
  refine .ite (.ite (mild_finishJob s c _ 0) ?_) (.ite ?_ (.ite ?_ (.ite (mild_cardEnd s c r) trivial)))
  · split
    · exact EngMild.eng s _
    · next hu =>
      refine .ite ?_ ?_
      · exact (mild_moveBytes hu).trans (mild_finishJob _ c _ 0)
      · exact (mild_moveBytes hu).trans (mild_modSh _ c _)
  · split
    · exact EngMild.eng s _
    · next hu => exact (mild_endRead hu).trans (mild_modSh _ c _)
  · exact Mild.same (s := s) (by rfl)
theorem mild_startNear (c : Nat) (k : Cmd) (hn : Nat) : EngMild s (s.startNear c k hn) := by
  unfold State.startNear
  dsimp only
  split
  · exact trivial
  · refine .ite trivial (.ite trivial ?_)
    split
    · exact trivial
    · split
      · exact trivial
      · exact .ite trivial (.ite trivial (mild_modSh s c _))
end

end Sys2Proof.Laws
end

section
/-! PROOF. Operations that keep the canonical form of the memories and the queue of table commands: NEAR, DA and the happenings of
the engines. -/
namespace Sys2Proof.Laws
open Sys2Proof.Machine

section
variable {s : State}

theorem EngMild.of_go {e : Eng} {t : State} (h : EngMild s e) (ht : e = .go t) : Mild s t := by
  subst ht
  exact h

/-! ## NEAR -/

/-- A gather of elements goes on from the state that its last read has left. -/
def GatherMild (s : State) : Except EngStop (List Byte × State) → Prop
  | .ok x => Mild s x.2
  | .error _ => True

theorem gatherMild_foldl {c reg : Nat} {cap : Cap} {win : Int} (js : List Nat) (q : Except EngStop (List Byte × State)) (hq : GatherMild s q) :
    GatherMild s (js.foldl (fun (q : Except EngStop (List Byte × State)) j => match q with
      | .error e => .error e
      | .ok (l, s) => match s.nearRead c reg cap (win + (4 * j : Nat)) 4 with
        | .error e => .error e
        | .ok (v, s) => .ok (l ++ v, s)) q) := by
  induction js generalizing q with
  | nil => exact hq
  | cons j js ih =>
    refine ih _ ?_
    cases q with
    | error e => exact trivial
    | ok x =>
      dsimp only
      split
      · exact trivial
      · next hu =>
        have hread := mild_nearRead hu
        exact Mild.trans hq hread

variable (s)

theorem mild_nearStep (c : Nat) (r : Run) : EngMild s (s.nearStep c r) := by
  unfold State.nearStep
  dsimp only
  split
  · exact EngMild.eng s _
  · next bs u hu =>
    have hread := mild_nearRead hu
    refine EngMild.trans hread ?_
    dsimp only
    split
    · split
      · exact trivial
      · generalize hg : List.foldl _ _ _ = g
        have hgather : GatherMild u g := hg ▸ gatherMild_foldl _ _ (Mild.refl u)
        cases g with
        | error e => exact EngMild.eng u _
        | ok x =>
          dsimp only
          split
          · exact EngMild.eng u _
          · next hw => exact (Mild.trans hgather (mild_nearWrite hw)).trans (mild_modSh _ c _)
    · exact mild_modSh u c _
    · exact mild_modSh u c _
    · split
      · exact EngMild.eng u _
      · next hr =>
        split
        · exact EngMild.eng u _
        · next hw => exact ((mild_nearRead hr).trans (mild_nearWrite hw)).trans (mild_modSh _ c _)
    · exact mild_modSh u c _
theorem mild_freeBytes (n : Nat) : Mild s (s.freeBytes n).2 := by
  induction n generalizing s with
  | zero => exact .refl s
  | succ n ih => exact Mild.trans (.same (t := s.takeFree.2) (by rfl)) (ih _)
theorem mild_nearEnd (c : Nat) (r : Run) : EngMild s (s.nearEnd c r) := by
  unfold State.nearEnd
  dsimp only
  split
  · exact EngMild.eng s _
  · next hw =>
    refine (Mild.trans ?_ (mild_nearWrite hw)).trans ((mild_finishTag _ c _).trans (mild_tagFlags _ c _ _))
    split
    · exact .refl s
    · exact .refl s
    · exact mild_freeBytes s _
    · exact .refl s
    · exact .refl s

/-! ## DA -/

theorem mild_startPatch (c : Nat) (k : Cmd) (hn : Nat) (keep : Bool) : EngMild s (s.startPatch c k hn keep) := by
  unfold State.startPatch
  dsimp only
  refine .ite trivial ?_
  split
  · exact trivial
  · exact .ite trivial (mild_modSh s c _)
theorem mild_startCellw (c : Nat) (k : Cmd) (item : Nat) : EngMild s (s.startCellw c k item) := .ite trivial (mild_modSh s c _)
theorem mild_startStepdom (c : Nat) (k : Cmd) (d kind : Nat) : EngMild s (s.startStepdom c k d kind) :=
  .ite trivial (.ite trivial (mild_atOnce s c 5 k _))
theorem mild_startDasave (c : Nat) (k : Cmd) (hn : Nat) : EngMild s (s.startDasave c k hn) := by
  unfold State.startDasave
  split
  · exact trivial
  · exact mild_modSh s c _
theorem mild_startDaload (c : Nat) (k : Cmd) (hn : Nat) : EngMild s (s.startDaload c k hn) := by
  unfold State.startDaload
  dsimp only
  refine .ite trivial ?_
  split
  · exact trivial
  · exact .ite trivial (mild_modSh s c _)
theorem mild_finishDa (c : Nat) (r : Run) : Mild s (s.finishDa c r) := by
  have hput (f : Shared → Shared) : Mild s ((s.modSh c f).finishCommand c 5) := (mild_modSh s c f).trans (mild_finishCommand _ c 5)
  unfold State.finishDa
  dsimp only
  split
  · exact (hput _).trans (mild_heal _ _)
  · exact hput _
  · exact (mild_elemWrite s c _ _).trans (mild_finishCommand _ c 5)
  · exact (hput _).trans (mild_heal _ _)
  · exact mild_finishCommand s c 5

/-! ## Starting, advancing and finishing a command -/

theorem mild_startCmd (c e : Nat) (k : Cmd) : EngMild s (s.startCmd c e k) := by
  unfold State.startCmd
  refine .ite trivial (.ite trivial ?_)
  split
  · exact mild_startGo s c e k _
  · exact mild_startAstage s c k _
  · exact mild_startDeckld s c k _ _
  · exact mild_atOnce s c 2 k _
  · exact mild_startMma s c k _ _ _ _
  · exact mild_startMma s c k _ _ _ _
  · exact mild_startPop s c k
  · exact mild_startDiscard s c k
  · exact mild_startEpcfg s c k _
  · exact mild_startEpcfg s c k _
  · exact mild_startEpcfg s c k _
  · exact mild_startEpcfg s c k _
  · exact mild_startEpcfg s c k _
  · exact mild_startEprun s c k _
  · exact mild_startCopy s c k _ _ _ _
  · exact mild_startCopyp s c k _
  · exact mild_startJob s c k _
  · exact mild_startNear s c k _
  · exact mild_startPatch s c k _ _
  · exact mild_startCellw s c k _
  · exact mild_startStepdom s c k _ _
  · exact mild_startDasave s c k _
  · exact mild_startDaload s c k _
  · exact trivial
theorem mild_advanceCmd (c e : Nat) (r : Run) : EngMild s (s.advanceCmd c e r) := by
  unfold State.advanceCmd
  split
  · exact mild_advanceAstage s c r _ _
  · exact mild_advanceDeckld s c r _ _
  · exact .ite trivial (mild_finishMma s c r _ _)
  · exact .ite trivial (mild_finishMma s c r _ _)
  · exact mild_advanceEprun s c r _
  · exact mild_advanceCopy s c r _ _ _ _
  · exact .ite trivial (mild_advanceCopyp s c r)
  · exact mild_advanceJob s c r
  · exact trivial
  · exact .ite (mild_finishDa s c r) trivial
theorem mild_engineFinish (c e : Nat) : Mild s (s.engineFinish c e) := by
  unfold State.engineFinish
  split
  · exact .refl s
  · next r _ =>
    refine .ite (.refl s) ?_
    have h := mild_advanceCmd s c e r
    split
    · next t ht =>
      rw [ht] at h
      exact .ite h (.refl s)
    · exact .refl s
theorem mild_due (l : List Instr) : Mild s { s with due := l } := .same (by rfl)
/-- An advance adds to the happenings that are due, or leaves them. -/
theorem mild_advanceEngine (c e : Nat) (r : Run) : Mild s (s.advanceEngine c e r) := by
  unfold State.advanceEngine
  extract_lets v q
  have hclaim : Mild s v := by
    dsimp only [v]
    split
    · exact mild_claimSlot s c r
    · exact .refl s
  refine hclaim.trans ?_
  clear_value q v
  split
  · exact .ite (.refl v) (mild_runFault v c e _ _ _)
  · refine .ite (.ite (mild_due v _) (.refl v)) ?_
    have h := mild_advanceCmd v c e q
    split
    · split
      · exact .ite (mild_due v _) (.refl v)
      · exact .refl v
    · exact mild_noteStall v _
    · exact mild_runFault v c e _ _ _
    · next t ht =>
      rw [ht] at h
      split
      · exact mild_due v _
      · exact .ite (Mild.trans h (mild_due t _)) h
theorem mild_engineStart (c e : Nat) : Mild s (s.engineStart c e) := by
  unfold State.engineStart
  dsimp only
  refine .ite (.refl s) ?_
  split
  · exact .refl s
  · next k _ hq =>
    split
    · exact .refl s
    · exact mild_noteStall s _
    · exact mild_engFault s c k _ _
    · next t ht =>
      have h : Mild s t := by
        refine EngMild.of_go ?_ ht
        split
        · exact trivial
        · exact mild_startCmd s c e k
      split
      · exact .ite (Mild.trans h (mild_advanceEngine t c e _)) h
      · exact h
theorem mild_tickEngine (c e : Nat) : Mild s (s.tickEngine c e) := by
  unfold State.tickEngine
  refine .ite (.refl s) ?_
  split
  · exact .refl s
  · split
    · exact .refl s
    · exact mild_advanceEngine s c e _
    · exact .ite ((mild_modSh s c _).trans (mild_advanceEngine _ c e _)) (mild_modSh s c _)
theorem mild_kStepNow (c : Nat) : Mild s (s.kStepNow c) := by
  unfold State.kStepNow
  split
  · exact .refl s
  · next r _ =>
    refine .ite (.refl s) ?_
    extract_lets o
    have h : EngMild s o := by
      dsimp only [o]
      split
      · exact mild_kStep s c r _ _ _
      · exact mild_kStep s c r _ _ _
      · exact trivial
    clear_value o
    cases o with
    | wait => exact .refl s
    | stall => exact .refl s
    | fault cls info => exact mild_runFault s c 2 _ _ _
    | go t =>
      dsimp only
      split
      · exact .ite (Mild.trans h (mild_due t _)) h
      · exact h
theorem mild_markerNow (c : Nat) : Mild s (s.markerNow c) := by
  unfold State.markerNow
  split
  · exact .refl s
  · next r _ =>
    split
    · refine .ite (.refl s) ?_
      have h := mild_endMarker s c r
      split
      · next ht => exact (ht ▸ h : EngMild s (.go _))
      · exact .refl s
    · exact .refl s
theorem mild_nearPart (c : Nat) : Mild s (s.nearPart c) := by
  unfold State.nearPart
  split
  · exact .refl s
  · next r _ =>
    split
    · refine .ite (.refl s) ?_
      dsimp only
      have h : EngMild s (if nrCnt (r.data.take 64) ≤ r.progress then s.nearEnd c r else s.nearStep c r) :=
        .ite (mild_nearEnd s c r) (mild_nearStep s c r)
      generalize (if nrCnt (r.data.take 64) ≤ r.progress then s.nearEnd c r else s.nearStep c r) = o at h ⊢
      cases o with
      | wait => exact .refl s
      | stall => exact mild_noteStall s _
      | fault cls info => exact mild_runFault s c 4 _ _ _
      | go t => exact h
    · exact .refl s
theorem mild_serveEngine (c e : Nat) : Mild s (s.serveEngine c e) := by
  unfold State.serveEngine
  split
  · exact mild_engineStart s c e
  · split
    · exact .ite (mild_nearPart s c) (.refl s)
    · exact .ite (mild_advanceEngine s c e _) (.refl s)
theorem mild_peerMessage (port peer : Nat) (data : List Byte) : Mild s (s.peerMessage port peer data) := by
  unfold State.peerMessage
  refine .ite (.refl s) ?_
  split
  · exact .refl s
  · next c r _ =>
    dsimp only
    refine .ite (mild_modSh s c _) ?_
    have h := mild_cardEnd s c (r.hear peer data)
    split
    · next ht => exact (ht ▸ h : EngMild s (.go _))
    · exact mild_modSh s c _
    · exact (mild_modSh s c _).trans (mild_noteStall _ _)
    · exact (mild_modSh s c _).trans (mild_runFault _ c 4 _ _ _)
theorem mild_engineAutumn (c e : Nat) : Mild s (s.engineAutumn c e) := mild_modSh s c _
theorem mild_domainSteps (c : Nat) : Mild s (s.domainSteps c) := by
  unfold State.domainSteps
  dsimp only
  refine Mild.foldl (fun u d => ?_) _ s
  split
  · exact mild_takeFault u c _ _ _ _
  · exact mild_takeFault u c _ _ _ _
  · exact mild_modSh u c _
theorem mild_refTrigger (c d : Nat) : Mild s (s.refTrigger c d) := .ite (.refl s) (mild_modSh s c _)
theorem mild_engTrigger (c d : Nat) : Mild s (s.engTrigger c d) := mild_modSh s c _
theorem mild_shrinkCache (c : Nat) : Mild s (s.shrinkCache c) := (mild_writeBackAll s c 0).trans (mild_modCore _ c _)
theorem mild_poolStep (c : Nat) : Mild s (s.poolStep c) := by
  unfold State.poolStep
  dsimp only
  refine .ite (.refl s) ?_
  split
  · exact (mild_shrinkCache s c).trans (mild_modSh _ c _)
  · exact mild_modSh s c _
  · exact mild_modSh s c _
  · exact .ite (mild_modSh s c _) (.refl s)
  · exact mild_modSh s c _
theorem mild_markBad (p : Nat) : Mild s (s.markBad p) := by
  unfold State.markBad
  dsimp only
  split
  · exact mild_modSh s _ _
  · exact .same (by rfl)
  · exact .same (by rfl)
  · split
    · exact .same (by rfl)
    · exact .refl s
theorem mild_consumed {t : State} (h : Mild s t) (w : Nat × Instr) : Mild s (t.consumed s w) := by
  unfold State.consumed
  split
  · exact .ite (h.trans (mild_takeFault t _ _ _ _ _)) h
  · exact h
end

end Sys2Proof.Laws
end

section
/-! PROOF. Operations that keep the canonical form of the memories and the queue of table commands: accesses, snapshots, saves and
restores. -/
namespace Sys2Proof.Laws
open Sys2Proof.Machine

section
variable (s : State)

/-! ## Accesses -/

theorem mild_setAcc (c : Nat) (a : Access) : Mild s (s.setAcc c a) := mild_modCore s c _
theorem mild_dropAcc (c id : Nat) : Mild s (s.dropAcc c id) := mild_modCore s c _
theorem mild_holdAcc (c : Nat) (a : Access) (cls : Nat) (info : Word) : Mild s (s.holdAcc c a cls info) :=
  (mild_setAcc s c _).trans (mild_takeFault _ _ _ _ _ _)
/-- The state that a translation leaves, of whatever outcome. -/
def XlatMild {α β : Type} (s : State) : Except (α × State) (β × State) → Prop
  | .ok x => Mild s x.2
  | .error x => Mild s x.2
theorem xlatMild_translateAll (c ctx obj : Nat) (ps : List Nat) : ∀ s : State, match s.translateAll c ctx obj ps with
    | .ok x => Mild s x.2
    | .error x => Mild s x.2.2 := by
  induction ps with
  | nil => exact Mild.refl
  | cons p t ih =>
    intro s
    have hp := mild_translate s c ctx obj p
    have ht := ih (s.translate c ctx obj p).2
    rw [State.translateAll]
    generalize s.translate c ctx obj p = x at hp ht ⊢
    obtain ⟨y, u⟩ := x
    dsimp only at hp ht
    cases y with
    | ok host pa =>
      dsimp only
      generalize u.translateAll c ctx obj t = z at ht ⊢
      cases z with
      | ok z => exact hp.trans ht
      | error z => exact hp.trans ht
    | migrating => exact hp
    | absent page => exact hp
    | fault cause => exact hp
theorem xlatMild_placePieces (c ctx obj : Nat) (l : List Piece) : ∀ s : State, XlatMild s (s.placePieces c ctx obj l) := by
  induction l with
  | nil => exact Mild.refl
  | cons p t ih =>
    intro s
    have hp := xlatMild_translateAll c ctx obj ((List.range p.size).map fun i => p.pos + i) s
    rw [State.placePieces]
    generalize s.translateAll c ctx obj ((List.range p.size).map fun i => p.pos + i) = x at hp ⊢
    cases x with
    | error x => exact hp
    | ok x =>
      have ht := ih x.2
      dsimp only
      generalize State.placePieces x.2 c ctx obj t = z at ht ⊢
      cases z with
      | ok z => exact Mild.trans hp ht
      | error z => exact Mild.trans hp ht
theorem mild_translateAcc (c : Nat) (a : Access) : Mild s (s.translateAcc c a) := by
  unfold State.translateAcc
  refine .ite (.refl s) ?_
  split
  · exact mild_holdAcc s c a _ _
  · have h := xlatMild_placePieces c (s.task c).ctx a.cap.obj a.pieces s
    generalize s.placePieces c (s.task c).ctx a.cap.obj a.pieces = x at h ⊢
    rcases x with ⟨y, u⟩ | ⟨l, u⟩
    · cases y with
      | ok host pa => exact h
      | migrating => exact Mild.trans h (mild_noteStall u _)
      | absent page => exact Mild.trans h (mild_holdAcc u c a _ _)
      | fault cause => exact Mild.trans h (mild_holdAcc u c a _ _)
    · exact Mild.trans h ((mild_setAcc u c _).trans (mild_checkPlace _ _))
theorem mild_flushAcc (c : Nat) (a : Access) : Mild s (s.flushAcc c a) := by
  unfold State.flushAcc
  dsimp only
  split
  · exact mild_holdAcc s c a _ _
  · exact Mild.trans (.ite (mild_modCore s c _) (Mild.foldl (fun u k => mild_writeBack u c k) _ s)) (mild_dropAcc _ c _)
theorem mild_beforeRelease (c : Nat) (a : Access) : Mild s (s.beforeRelease c a) :=
  .ite (Mild.trans (.ite (mild_endIdem s c) (.refl s)) (mild_releaseCache _ c _ _)) (.refl s)
theorem mild_afterAcquire (c : Nat) (a : Access) : Mild s (s.afterAcquire c a) := .ite (mild_acquireCache s c _ _) (.refl s)
theorem mild_takeFree : Mild s s.takeFree.2 := .same (by rfl)
theorem mild_returnLoad (c : Nat) (a : Access) (val : BitVec 1024) (tag : Bool) (flags : BitVec 6) : Mild s (s.returnLoad c a val tag flags) := by
  unfold State.returnLoad
  dsimp only
  split
  · refine Mild.trans (((?_ : Mild s _).trans (mild_takeFree _)).trans (mild_takeFree _)) (mild_modCore _ c _)
    exact (mild_takeFree s).trans (mild_takeFree _)
  · exact mild_modCore s c _
theorem mild_performLoad (c : Nat) (a : Access) : Mild s (s.performLoad c a) := by
  unfold State.performLoad
  extract_lets u
  have hu : Mild s u := .ite (mild_passCache s c _) (.refl s)
  refine hu.trans ?_
  clear_value u
  split
  · exact mild_holdAcc _ c a _ _
  · exact ((mild_coreRead _ c _ _).trans (mild_dropAcc _ c _)).trans ((mild_returnLoad _ c a _ _ _).trans (mild_afterAcquire _ c a))
theorem mild_performStore (c : Nat) (a : Access) : Mild s (s.performStore c a) := by
  unfold State.performStore
  extract_lets u v tag
  have hu : Mild s u := mild_beforeRelease s c a
  have hv : Mild u v := .ite (mild_passCache u c _) (.refl u)
  exact ((hu.trans hv).trans (mild_coreWrite v c a.agent a.writes tag)).trans (mild_dropAcc _ c a.id)
theorem mild_performAtomic (c : Nat) (a : Access) : Mild s (s.performAtomic c a) := by
  unfold State.performAtomic
  dsimp only
  refine (mild_passCache s c a.places).trans ?_
  generalize s.passCache c a.places = u
  split
  · exact mild_holdAcc u c a _ _
  · refine (Mild.trans (Mild.trans ?_ (mild_dropAcc _ c a.id)) (mild_returnLoad _ c a _ _ _)).trans (mild_afterAcquire _ c a)
    have hend (v : State) : Mild v (if a.places.any (·.1) then v.endIdem c else v) := .ite (mild_endIdem v c) (.refl v)
    have hread := ((mild_beforeRelease u c a).trans (hend _)).trans (mild_coreRead _ c 2 a.places)
    split
    · exact hread.trans (mild_coreWrite _ c 2 _ _)
    · exact hread
theorem mild_performTile (c : Nat) (a : Access) : Mild s (s.performTile c a) := by
  unfold State.performTile
  dsimp only
  refine .ite ?_ ((mild_tileWrite s c _ _ _).trans (mild_dropAcc _ c _))
  split
  · exact mild_holdAcc s c a _ _
  · exact (mild_dropAcc s c _).trans (mild_returnLoad _ c a _ _ _)
theorem mild_performPref (c : Nat) (a : Access) (token : Nat) : Mild s (s.performPref c a token) :=
  (Mild.foldl (fun u _ => mild_touchL2 u _ _) _ s).trans ((mild_dropAcc _ c _).trans (mild_modCore _ c _))
theorem mild_countMiss (c : Nat) (a : Access) : Mild s (s.countMiss c a) := .ite (mild_modCore s c _) (.refl s)
theorem mild_performAcc (c id : Nat) : Mild s (s.performAcc c id) := by
  unfold State.performAcc
  split
  · exact .refl s
  · next a _ =>
    refine .ite (.refl s) ?_
    dsimp only
    refine (mild_translateAcc s c a).trans ?_
    generalize s.translateAcc c a = u
    split
    · exact .refl u
    · next b _ =>
      refine (mild_countMiss u c b).trans ?_
      generalize u.countMiss c b = v
      split
      · exact mild_performTile v c b
      · exact mild_performTile v c b
      · exact .ite (mild_performLoad v c b) (.refl v)
      · exact .ite (mild_performLoad v c b) (.refl v)
      · exact .ite (mild_performLoad v c b) (.refl v)
      · exact .ite (mild_performStore v c b) (.refl v)
      · exact .ite (mild_performStore v c b) (.refl v)
      · exact .ite (mild_performStore v c b) (.refl v)
      · exact .ite (mild_performAtomic v c b) (.refl v)
      · exact .ite (mild_performAtomic v c b) (.refl v)
      · exact .ite (mild_performPref v c b _) (.refl v)
      · exact .refl v
theorem mild_performIf (c id : Nat) (p : AccKind → Bool) : Mild s (s.performIf c id p) := by
  unfold State.performIf
  split
  · exact .ite (mild_performAcc s c id) (.refl s)
  · exact .refl s
theorem mild_publish (c : Nat) (a : Access) (d : BitVec 256) : Mild s (s.publish c a d) := by
  unfold State.publish
  dsimp only
  refine (mild_dropAcc s c a.id).trans (.ite (mild_modDie _ _ _) (.ite (.refl _) ?_))
  exact (mild_objWrite _ _ _ _ _).trans ((mild_objWrite _ _ _ _ _).trans (mild_modCtx _ _ _))
theorem mild_landRelease (c : Nat) (a : Access) : Mild s (s.landRelease c a) := by
  unfold State.landRelease
  refine .ite (.refl s) ?_
  dsimp only
  refine (mild_beforeRelease s c a).trans ?_
  generalize s.beforeRelease c a = u
  split
  · exact (mild_dropAcc u c a.id).trans (mild_modSh _ c _)
  · exact (mild_dropAcc u c a.id).trans (mild_modSh _ c _)
  · exact (mild_dropAcc u c a.id).trans (.ite (mild_modCore _ c _) (.refl _))
  · exact mild_publish u c a _
  · exact .refl u
theorem mild_landIf (c id : Nat) (p : AccKind → Bool) : Mild s (s.landIf c id p) := by
  unfold State.landIf
  split
  · exact .ite (mild_landRelease s c _) (.refl s)
  · exact .refl s
theorem mild_prefetchDone (c token : Nat) : Mild s (s.prefetchDone c token) := by
  unfold State.prefetchDone
  split
  · exact mild_performAcc s c _
  · exact .refl s
theorem mild_hostErrorEngine (c e : Nat) : Mild s (s.hostErrorEngine c e) := by
  unfold State.hostErrorEngine
  dsimp only
  split
  · exact .refl s
  · split
    · exact mild_runFault s c _ _ _ _
    · exact .refl s
theorem mild_hostError (c id : Nat) : Mild s (s.hostError c id) := by
  unfold State.hostError
  split
  · exact .ite (mild_holdAcc s c _ _ _) (.refl s)
  · refine .ite (mild_hostErrorEngine s c id) (.ite ?_ (.ite (mild_takeFault s _ _ _ _ _) (.refl s)))
    exact .ite (mild_takeFault s _ _ _ _ _) (.refl s)
theorem mild_endOrder (c : Nat) (a : Access) {f : State → State} (hf : ∀ u, Mild u (f u)) : Mild s (s.endOrder c a f) :=
  .ite (mild_setAcc s c _) (hf s)
theorem mild_autoAccess (c id : Nat) : Mild s (s.autoAccess c id) := by
  unfold State.autoAccess
  split
  · exact .refl s
  · next a _ =>
    extract_lets late
    have hdrop (p : Prop) [Decidable p] : Mild s (if p then s.endOrder c a fun s => s.dropAcc c id else s) :=
      .ite (mild_endOrder s c a fun u => mild_dropAcc u c id) (.refl s)
    have hflush (p : Prop) [Decidable p] : Mild s (if p then s.endOrder c a fun s => s.flushAcc c a else s) :=
      .ite (mild_endOrder s c a fun u => mild_flushAcc u c a) (.refl s)
    have hperf (p : Prop) [Decidable p] : Mild s (if p then s.performAcc c id else s) := .ite (mild_performAcc s c id) (.refl s)
    refine .ite (.refl s) ?_
    generalize a.kind = k
    cases k with
    | rendezvous => exact hdrop _
    | mark => exact hdrop _
    | fence =>
      refine .ite (mild_endOrder s c a fun u => ?_) (.refl s)
      exact ((mild_beforeRelease u c a).trans (mild_dropAcc _ c id)).trans (mild_afterAcquire _ c a)
    | flush => exact hflush _
    | inval => exact hflush _
    | pushRel => exact mild_landRelease s c a
    | postRel => exact mild_landRelease s c a
    | ccRel => exact mild_landRelease s c a
    | spawnPub => exact mild_landRelease s c a
    | tileLoad => exact hperf _
    | tileStore => exact hperf _
    | load => exact hperf _
    | store => exact hperf _
    | gather => exact hperf _
    | scatter => exact hperf _
    | capLoad => exact hperf _
    | capStore => exact hperf _
    | atomic => exact hperf _
    | atomicF => exact hperf _
    | prefetch => exact hperf _
theorem mild_autoAll (c : Nat) : Mild s (s.autoAll c) := Mild.foldl (fun u id => mild_autoAccess u c id) _ s
theorem mild_urgeTiles (c : Nat) : Mild s (s.urgeTiles c) := by
  unfold State.urgeTiles
  split
  · exact mild_modCore s c _
  · exact .refl s
theorem mild_memoryCycle (c : Nat) : Mild s (s.memoryCycle c) :=
  (((mild_urgeTiles s c).trans (mild_autoAll _ c)).trans (mild_modCore _ c _)).trans (mild_limitProv _ c)
theorem mild_drainAll (c : Nat) : Mild s (s.drainAll c) := ((mild_modCore s c _).trans (mild_autoAll _ c)).trans (mild_limitProv _ c)
theorem mild_fillBlock (c n block : Nat) : Mild s (s.fillBlock c n block) := by
  unfold State.fillBlock
  refine .ite (.refl s) ?_
  extract_lets k p
  split
  · exact mild_takeFault s _ _ _ _ _
  · exact mild_takeFault s _ _ _ _ _
  · exact mild_noteStall s _
  · rename_i u _ _
    have hu : Mild s u := .ite (.refl s) (mild_writeBackAll s c 3)
    refine hu.trans ?_
    clear_value u
    split
    · exact mild_takeFault _ _ _ _ _ _
    · exact mild_modStream _ c n _
theorem mild_park (c : Nat) : Mild s (s.park c) := (mild_modCore s c _).trans (Mild.foldl (fun u a => mild_performTile u c a) _ _)

/-! ## Snapshots -/

theorem mild_snapWrite (c off : Nat) (bs : List Byte) : Mild s (s.snapWrite c off bs) := by
  unfold State.snapWrite
  extract_lets x old bytes bad y now plain
  split_ifs
  · exact Mild.same (s := s) (by rfl)
  · exact mild_modCore s c _
theorem mild_snapAccess (c : Nat) (f : Flight) : Mild s (s.snapAccess c f).2 := by
  unfold State.snapAccess
  dsimp only
  split
  · exact .refl s
  · exact .ite (.same (by rfl)) (.refl s)
  · exact .ite (.same (by rfl)) (.refl s)
  · exact .refl s
theorem mild_snapAll (c : Nat) : Mild s (s.snapAll c) :=
  Mild.foldl (fun u f => (mild_snapAccess u c f).trans (mild_modCore _ c _)) _ s
theorem mild_snapStart : Mild s s.snapStart := Mild.foldl mild_snapAll _ s
theorem mild_snapEnd : Mild s s.snapEnd := by
  refine .ite (.refl s) (Mild.trans (.same (t := { s with snapDue := [] }) (by rfl)) (Mild.foldl (fun u w => ?_) _ _))
  exact .ite (mild_snapWrite u _ _ _) (.refl u)

/-! ## Saves and restores -/

theorem mild_touchLines (pa n : Nat) : Mild s ((List.range n).foldl (fun (s : State) i => s.touchL2 (pa + 32 * i) .dirty) s) :=
  Mild.foldl (fun u _ => mild_touchL2 u _ _) _ s
theorem mild_objPutImage (ctx obj off len : Nat) (m : Memory) : Mild s (s.objPutImage ctx obj off len m) := by
  refine ⟨?_, memOk_objPutImage ctx obj off len m⟩
  unfold State.objPutImage
  split
  · rfl
  · next d hd =>
    extract_lets size
    split_ifs
    · rfl
    · generalize (List.range _).map _ = l
      clear hd
      induction l generalizing s with
      | nil => rfl
      | cons i l ih =>
        refine (ih _).trans ?_
        dsimp only
        split
        · exact (mild_touchLines _ _ _).1
        · rfl
theorem mild_saveTask (c : Nat) : Mild s (s.saveTask c) := by
  unfold State.saveTask
  dsimp only
  refine (mild_clearCache s c).trans ?_
  generalize s.clearCache c = u
  refine .ite (.refl u) ?_
  refine Mild.trans ?_ (mild_unbind _ c)
  refine Mild.trans ?_ (mild_modDie _ _ _)
  refine Mild.trans ?_ (mild_modCore _ c _)
  refine Mild.trans ?_ (mild_notice _ _)
  refine Mild.trans (Mild.trans ?_ (mild_objWrite _ _ _ _ _)) (.same (by rfl))
  exact Mild.foldl (fun v p => mild_objPutImage v _ _ _ _ _) _ u
theorem mild_contextSave (c : Nat) : Mild s (s.contextSave c) := .ite (.ite (mild_noteStall s _) (mild_saveTask s c)) (.refl s)
theorem mild_takeRequest (c : Nat) : Mild s (s.takeRequest c) := by
  unfold State.takeRequest
  dsimp only
  refine .ite ?_ (.refl s)
  split
  · exact (mild_park s c).trans (mild_modCore _ c _)
  · exact .refl s
theorem mild_changeOwner (c ctx : Nat) : Mild s (s.changeOwner c ctx) :=
  ((mild_heal s _).trans (mild_flushCache _ c)).trans (mild_modCore _ c _)
theorem mild_talloc (c hn : Nat) (v : Word) : Mild s (s.talloc c hn v) := (mild_modSh s c _).trans (.ite (mild_modCtx _ _ _) (.refl _))
theorem mild_bindHandles (c : Nat) (scr : Memory) : Mild s (s.bindHandles c scr) := by
  unfold State.bindHandles
  generalize List.range 64 = l
  have h (r : State × Nat) : Mild s r.1 → Mild s (l.foldl (fun (r : State × Nat) h =>
    let s := r.1
    let d := ((s.sh c).handle h).desc
    if !dValid d then r
    else
      let v := d &&& (0x5FFFFFFFE0000000 : Word)
      let bytes := footUnits v * 32
      if dTstore v then
        if s.tallocCode c 64 v = 0 then (s.talloc c h v, r.2) else (s.modSh c fun x => x.setHandle h {}, r.2)
      else
        let s := s.talloc c h v
        let n := ((s.sh c).handle h).tile
        (s.modSh c fun x => x.setTile n { x.tile n with bytes := window scr r.2 bytes 0 }, r.2 + bytes)) r).1 := by
    induction l generalizing r with
    | nil => exact id
    | cons h l ih =>
      intro hr
      refine ih _ (hr.trans ?_)
      dsimp only
      split_ifs
      · exact .refl _
      · exact mild_talloc _ c h _
      · exact mild_modSh _ c _
      · exact (mild_talloc _ c h _).trans (mild_modSh _ c _)
  exact h (s, 0) (.refl s)
theorem mild_startStreams (c : Nat) (p : List Byte) : Mild s (s.startStreams c p) := mild_modCore s c _
theorem mild_bindFresh (c : Nat) (k : Task) (wdb : BitVec 32) : Mild s (s.bindFresh c k wdb) := by
  refine Mild.trans ?_ (mild_bindHandles _ c _)
  exact (mild_changeOwner s c k.ctx).trans (.same (by rfl))
theorem mild_bindSaved (c : Nat) (k : Task) (wdb : BitVec 32) (slot : Nat) : Mild s (s.bindSaved c k wdb slot) := by
  refine Mild.trans ?_ (mild_objWrite _ _ _ _ _)
  exact (mild_changeOwner s c k.ctx).trans (.same (by rfl))
theorem mild_restoreTask (c : Nat) : Mild s (s.restoreTask c) := by
  unfold State.restoreTask
  split
  · exact .refl s
  · next k _ =>
    extract_lets u wdb v
    have hu : Mild s u := mild_modDie s _ _
    have hv : Mild u v := by
      dsimp only [v]
      split
      · exact mild_bindSaved u c _ _ _
      · exact mild_bindFresh u c _ _
    exact (hu.trans hv).trans (mild_modCore v c _)
theorem mild_contextRestore (c : Nat) : Mild s (s.contextRestore c) := .ite (.ite (mild_noteStall s _) (mild_restoreTask s c)) (.refl s)
theorem mild_enqueueEngine (c : Nat) (save : Bool) : Mild s (s.enqueueEngine c save) := mild_modDie s _ _
theorem mild_askRamp (r : Ramp) : Mild s (s.askRamp r) := mild_modDie s _ _
theorem mild_activate (c : Nat) (r : BitVec 128) : Mild s (s.activate c r) :=
  (mild_modCore s c _).trans (.ite (.refl _) ((mild_modCore _ c _).trans (mild_enqueueEngine _ c _)))
theorem mild_swap (f : Nat) : Mild s (s.swap f) := by
  unfold State.swap
  dsimp only
  refine .ite (.refl s) (Mild.trans ?_ (mild_notice _ _))
  refine Mild.trans ?_ (Mild.foldl (fun u c => mild_activate u c _) _ _)
  exact (mild_modForm s f _).trans (.ite (mild_askRamp _ _) (.refl _))
theorem mild_ttCommitNow : Mild s s.ttCommitNow := by
  unfold State.ttCommitNow
  dsimp only
  refine Mild.trans (.same (t := { s with ttResult := BitVec.ofNat 3 s.commitCode }) (by rfl)) (.ite (.refl _) ?_)
  refine Mild.trans ?_ (mild_swapCheck _ _)
  exact (mild_modForm _ _ _).trans (.ite (Mild.foldl (fun u i => mild_modCore u _ _) _ _) (.refl _))
theorem mild_popChild (c : Nat) : Mild s (s.popChild c) := by
  unfold State.popChild
  refine .ite (.refl s) ?_
  split
  · exact .refl s
  · exact ((mild_modDie s _ _).trans (mild_modCore _ c _)).trans (mild_enqueueEngine _ c _)
theorem mild_drainOverflow (die ctx : Nat) : Mild s (s.drainOverflow die ctx) := by
  unfold State.drainOverflow
  dsimp only
  refine .ite (.refl s) ?_
  split
  · exact .ite (.refl s) (((mild_objWrite s _ _ _ _).trans (mild_modCtx _ _ _)).trans (mild_modDie _ _ _))
  · exact .refl s
theorem mild_writeTail (fn : Nat) (tail : BitVec 16) : Mild s (s.writeTail fn tail) := mild_modFn s fn _
theorem mild_takePacket (fn : Nat) : Mild s (s.takePacket fn) := by
  unfold State.takePacket
  dsimp only
  refine .ite (.refl s) ?_
  split
  · exact .refl s
  · next hp =>
    have h := mild_submit s fn none (s.hostBytes ((s.fn fn).inboxBase.toNat / 64 * 64 + 64 * ((s.fn fn).head.toNat % (s.fn fn).slots)) 64)
    rw [hp] at h
    exact h.trans (mild_modFn _ fn _)
theorem mild_watchdog (c : Nat) : Mild s (s.watchdog c) := .ite (mild_takeFault s _ _ _ _ _) (.refl s)
theorem mild_missDeadline (lid : Nat) : Mild s (s.missDeadline lid) :=
  .ite (((mild_modLaunch s lid _).trans (mild_notice _ _)).trans (mild_msix _ _ _)) (.refl s)

/-! ## What has stalled -/

theorem mild_serveStall (x : StallAt) : Mild s (s.serveStall x) := by
  cases x with
  | access c id => exact mild_performAcc s c id
  | engine c e => exact mild_serveEngine s c e
  | fill c n b => exact mild_fillBlock s c n b
  | image c => exact (mild_contextSave s c).trans (mild_contextRestore _ c)
  | write ctx obj off bs => exact mild_objWrite s ctx obj off bs
end

end Sys2Proof.Laws
end

section
/-! PROOF. Table commands and shoot-downs: O45. -/
namespace Sys2Proof.Laws
open Sys2Proof.Machine

section
variable {s : State}

/-- A key that no entry has reads the default. -/
theorem tabGet_absent {α : Type} (d : α) {t : Tab α} {k : Nat} (h : ∀ u ∈ t, u.1 ≠ k) : tabGet d t k = d := by
  induction t with
  | nil => rfl
  | cons u t ih => exact (if_neg (h u List.mem_cons_self)).trans (ih fun v hv => h v (List.mem_cons_of_mem _ hv))

/-! ## The queue of table commands -/

/-- With no command queued, nothing starts. -/
theorem otStart_empty (h : s.otQueue = []) (fuel : Nat) : s.otStart fuel = s := by
  cases fuel with
  | zero => rfl
  | succ n =>
    rw [State.otStart]
    split
    · rfl
    · next hq =>
      rw [h] at hq
      cases hq
/-- A head command that awaits acknowledgements keeps the ones behind it waiting. -/
theorem otStart_waits {o : OtCmd} {rest : List OtCmd} (h : s.otQueue = o :: rest) (hw : o.waits.isSome = true) (fuel : Nat) :
    s.otStart fuel = s := by
  cases fuel with
  | zero => rfl
  | succ n =>
    rw [State.otStart]
    split
    · rfl
    · next p t hq =>
      rw [h] at hq
      cases hq
      exact if_pos hw
/-- The last command of the queue finishes: nothing starts after it. -/
theorem otDone_last {o : OtCmd} (h : s.otQueue = [o]) (code fuel : Nat) : (s.otDone o code).otStart fuel = s.otDone o code :=
  otStart_empty (congrArg (List.drop 1) h) fuel
theorem fn_otDone (o : OtCmd) (code : Nat) :
    (s.otDone o code).fn o.fn = { s.fn o.fn with otBusy := false, otCode := BitVec.ofNat 2 code } :=
  fn_modFn s o.fn fun f => { f with otBusy := false, otCode := BitVec.ofNat 2 code }
/-- A failing command finishes at its start. -/
theorem otStart_fails {o : OtCmd} (h : s.otQueue = [o]) (hw : o.waits = none) (hc : s.otCheck o ≠ 0) (fuel : Nat) :
    s.otStart (fuel + 1) = s.otDone o (s.otCheck o) := by
  rw [State.otStart]
  split
  · next hq =>
    rw [h] at hq
    cases hq
  · next p t hq =>
    rw [h] at hq
    cases hq
    rw [if_neg (by rw [hw]; decide)]
    exact (if_pos hc).trans (otDone_last h _ _)
/-- A DIRTY finishes at its start. -/
theorem otStart_dirty {o : OtCmd} (h : s.otQueue = [o]) (hw : o.waits = none) (hc : s.otCheck o = 0) (hop : o.op = 2) (fuel : Nat)
    (hq : (s.otDirty o).otQueue = [o]) : s.otStart (fuel + 1) = (s.otDirty o).otDone o 0 := by
  rw [State.otStart]
  split
  · next hq =>
    rw [h] at hq
    cases hq
  · next p t hq' =>
    rw [h] at hq'
    cases hq'
    rw [if_neg (by rw [hw]; decide)]
    exact (if_neg (not_not_intro hc)).trans ((if_pos hop).trans (otDone_last hq 0 _))
/-- A command that none of the receivers acknowledges at once awaits them all. -/
theorem otStart_asks {o : OtCmd} (h : s.otQueue = [o]) (hw : o.waits = none) (hc : s.otCheck o = 0) (hop : o.op ≠ 2) (fuel : Nat)
    {u : State} (hu : (if o.op = 1 then s.putEntry o fun e => e ||| 2 else s) = u) (hp : u.patience = 0) (ha : ∀ r, u.ackAtOnce r = false) :
    s.otStart (fuel + 1) = { u with otQueue := [{ o with waits := some shootDownReceivers }] } := by
  rw [State.otStart]
  split
  · next hq =>
    rw [h] at hq
    cases hq
  · next p t hq =>
    rw [h] at hq
    cases hq
    rw [if_neg (by rw [hw]; decide)]
    refine (if_neg (not_not_intro hc)).trans ((if_neg hop).trans ?_)
    dsimp only
    rw [hu, if_pos hp]
    have hnone : shootDownReceivers.filter (State.ackAtOnce { u with otQueue := [{ o with waits := some shootDownReceivers }] }) = [] :=
      List.filter_eq_nil_iff.2 fun r _ hr => Bool.noConfusion ((ha r).symm.trans hr)
    rw [hnone]
    exact otStart_waits (o := { o with waits := some shootDownReceivers }) rfl rfl fuel

/-! ## A write to OT_CMD -/

/-- The command that a write to OT_CMD gives. -/
def otCmdOf (s : State) (fn : Nat) (v : Word) : OtCmd :=
  { fn, op := slice v.toNat 60 4, ctx := slice v.toNat 56 4, obj := slice v.toNat 32 24, page := slice v.toNat 0 20,
    waits := none, arg := (s.fn fn).otArg }
/-- The state with that command in an empty queue. -/
def otAsked (s : State) (fn : Nat) (v : Word) : State :=
  { s.modFn fn (fun f => { f with otBusy := true }) with otQueue := [otCmdOf s fn v] }

theorem writeOtCmd_busy {fn : Nat} (h : (s.fn fn).otBusy = true) (v : Word) : s.writeOtCmd fn v = s := if_pos (.inl h)
theorem writeOtCmd_starts {fn : Nat} (h : (s.fn fn).otBusy = false) (hfn : fn < 5) (hq : s.otQueue = []) (v : Word) :
    s.writeOtCmd fn v = (otAsked s fn v).otStart 8 := by
  have hc : ¬ ((s.fn fn).otBusy = true ∨ 5 ≤ fn) := by
    rintro (hbusy | hlarge)
    · exact Bool.noConfusion (h.symm.trans hbusy)
    · omega
  refine (if_neg hc).trans ?_
  exact congrArg (fun l => State.otStart { s.modFn fn (fun f => { f with otBusy := true }) with otQueue := l ++ [otCmdOf s fn v] } 8) hq
theorem otCheck_otAsked (fn : Nat) (v : Word) (o : OtCmd) : (otAsked s fn v).otCheck o = s.otCheck o := rfl
theorem fn_otAsked (fn : Nat) (v : Word) : (otAsked s fn v).fn fn = { s.fn fn with otBusy := true } :=
  fn_modFn s fn fun f => { f with otBusy := true }
/-- Writing an entry's flag changes memory alone. -/
theorem memoryOnly_putEntry (o : OtCmd) (f : Nat → Nat) : MemoryOnly s (s.putEntry o f) := by
  unfold State.putEntry
  split
  · exact .refl s
  · exact memoryOnly_cohWrite s none _
theorem broken_otDirty (o : OtCmd) : (s.otDirty o).broken = s.broken := by
  unfold State.otDirty
  split
  · rfl
  · rfl
theorem otQueue_otDirty (o : OtCmd) : (s.otDirty o).otQueue = s.otQueue := by
  unfold State.otDirty
  split
  · rfl
  · rfl
/-- DIRTY leaves no bit of its 2 MiB set. -/
theorem dirtyUnits_otDirty {o : OtCmd} {d : BitVec 128} (hd : s.descr o.ctx o.obj = some d) {i : Nat} (hi : i < 512) :
    tabGet false (s.otDirty o).dirtyUnits (s.pageEntry d o.page / 2 ^ 21 * 512 + i) = false := by
  unfold State.otDirty
  rw [hd]
  dsimp only [State.modFn]
  generalize (List.foldl _ s.dirtyUnits _) = units
  rw [show s.pageEntry d o.page / 2 ^ 21 * 2 ^ 21 / 4096 = s.pageEntry d o.page / 2 ^ 21 * 512 by omega]
  generalize s.pageEntry d o.page / 2 ^ 21 * 512 = base
  refine tabGet_absent false fun u hu => ?_
  have hout := (List.mem_filter.1 hu).2
  simp only [Bool.not_eq_true', Bool.and_eq_false_iff, decide_eq_false_iff_not] at hout
  omega

/-! ## Acknowledgements and copies -/

theorem cacheOnly_writeBacks (r : Nat) (ks : List Nat) : CacheOnly s (ks.foldl (fun (s : State) k => s.writeBack r k) s) :=
  CacheOnly.foldl (fun u k => cacheOnly_writeBack u r k) ks s
theorem broken_purge (o : OtCmd) (r : Nat) : (s.purge o r).broken = s.broken := by
  unfold State.purge
  split_ifs
  · rfl
  · dsimp only
    generalize hu : List.foldl _ s _ = u
    have hb : u.broken = s.broken := (hu ▸ cacheOnly_writeBacks r _ : CacheOnly s u).broken
    split_ifs
    · exact hb
    · exact hb
/-- What a purge leaves of a command's page is not translated. -/
theorem acc_purge {o : OtCmd} {r : Nat} (hr : r < 128) {a : Access} (ha : a ∈ ((s.purge o r).core r).acc) :
    o.meets (s.task r).ctx (s.pgOf o.ctx o.obj) a = false := by
  unfold State.purge at ha
  rw [if_neg (by omega)] at ha
  dsimp only at ha
  generalize hu : List.foldl _ s _ = u at ha
  split_ifs at ha with hnone
  · simp only [Bool.and_eq_true, Bool.not_eq_true', List.any_eq_false] at hnone
    exact Bool.eq_false_iff.2 (hnone.2 a ha)
  · rw [State.core_modCore_same] at ha
    obtain ⟨b, -, rfl⟩ := List.mem_map.1 ha
    split_ifs with hb
    · rfl
    · exact Bool.eq_false_iff.2 hb
theorem takeAck_ignored {o : OtCmd} {rest : List OtCmd} {w : List Nat} {r : Nat} (hq : s.otQueue = o :: rest) (hw : o.waits = some w)
    (h : r ∉ w ∨ s.canAck o r = false) : s.takeAck r = s := by
  unfold State.takeAck
  rw [hq]
  dsimp only
  rw [hw]
  refine if_pos ?_
  rcases h with h | h
  · simp [h]
  · simp [h]
/-- An acknowledgement of a receiver that can give it. -/
theorem takeAck_taken {o : OtCmd} {rest : List OtCmd} {w : List Nat} {r : Nat} (hq : s.otQueue = o :: rest) (hw : o.waits = some w)
    (hr : r ∈ w) (hcan : s.canAck o r = true) : s.takeAck r =
      let u : State := { s.purge o r with otQueue := { o with waits := some (w.erase r) } :: rest }
      if !(w.erase r).isEmpty then u else if o.op = 0 then u.otDone o 0 else { u with due := u.due ++ [.migrationCopy] } := by
  unfold State.takeAck
  rw [hq]
  dsimp only
  rw [hw]
  exact if_neg (by simp [hr, hcan])
theorem mild_movePage (o : OtCmd) : Mild s (s.movePage o) := by
  refine ⟨?_, memOk_movePage o⟩
  unfold State.movePage
  split
  · rfl
  · dsimp only
    refine ((memoryOnly_putEntry o _).mild (memOk_putEntry o _)).1.trans ?_
    split_ifs
    · rfl
    · unfold State.moveLines
      dsimp only
      exact (Mild.foldl (fun u l => Mild.foldl (fun v x => mild_touchL2 v _ _) _ u) _ _).1
end

/-- Settles O45: each command, acknowledgement and copy by the rule of its case; a copy's retries keep the queue. -/
theorem tableCommandsAndShootDowns : Obligations.TableCommandsAndShootDowns := by
  unfold Obligations.TableCommandsAndShootDowns
  intro s hb
  refine ⟨fun fn v => ?_, fun r o rest w hq hw => ?_, fun o hq hop hw => ?_, fun c id => rfl, fun x => ⟨_, rfl, ?_, ?_⟩,
    fun ctx obj off bs h => if_pos h, fun c o a hc ha => acc_purge hc ha⟩
  · intro o
    refine ⟨fun h => ⟨?_, ?_, ?_⟩, fun h hfn hq => ⟨fun hc => ?_, fun hc hp ha => ⟨fun hop => ?_, fun hop => ?_⟩, fun hc hop d hd => ?_⟩⟩
    · exact (congrArg answer (writeOtCmd_busy h v)).trans (answer_whole hb)
    · exact (congrArg answer (writeOtCmd_busy h v)).trans (answer_whole hb)
    · exact (congrArg answer (writeOtCmd_busy h v)).trans (answer_whole hb)
    · have ht := (writeOtCmd_starts h hfn hq v).trans (otStart_fails (s := otAsked s fn v) (o := o) rfl rfl hc 7)
      refine ⟨_, (congrArg answer ht).trans (answer_whole hb), rfl, ?_, ?_⟩
      · exact congrArg HostFn.otBusy (fn_otDone _ _)
      · exact congrArg HostFn.otCode (fn_otDone _ _)
    · have ht := (writeOtCmd_starts h hfn hq v).trans (otStart_asks (s := otAsked s fn v) (o := o) rfl rfl hc (by omega) 7 (if_neg (by omega)) hp ha)
      refine ⟨_, (congrArg answer ht).trans (answer_whole hb), ?_, rfl⟩
      exact congrArg HostFn.otBusy (fn_otAsked fn v)
    · have hm : MemoryOnly (otAsked s fn v) ((otAsked s fn v).putEntry o fun e => e ||| 2) := memoryOnly_putEntry o _
      generalize hu : (otAsked s fn v).putEntry o (fun e => e ||| 2) = u at hm
      have hp' : u.patience = 0 := by
        rw [hm]
        exact hp
      have ha' (r : Nat) : u.ackAtOnce r = false := by
        rw [hm]
        exact ha r
      have hb' : u.broken = none := by
        rw [hm]
        exact hb
      have ht := (writeOtCmd_starts h hfn hq v).trans (otStart_asks (s := otAsked s fn v) (o := o) rfl rfl hc (by omega) 7 ((if_pos hop).trans hu) hp' ha')
      refine ⟨_, (congrArg answer ht).trans (answer_whole hb'), ?_, rfl⟩
      have hf : u.fn fn = (otAsked s fn v).fn fn := by
        rw [hm]
        rfl
      exact congrArg HostFn.otBusy (hf.trans (fn_otAsked fn v))
    · have ht := (writeOtCmd_starts h hfn hq v).trans (otStart_dirty (s := otAsked s fn v) (o := o) rfl rfl hc hop 7 (otQueue_otDirty o))
      refine ⟨_, (congrArg answer ht).trans (answer_whole ((broken_otDirty o).trans hb)), ?_, ?_, ?_, fun i hi => ?_⟩
      · exact congrArg HostFn.otBusy (fn_otDone _ _)
      · exact congrArg HostFn.otCode (fn_otDone _ _)
      · exact congrArg (List.drop 1) (otQueue_otDirty (s := otAsked s fn v) o)
      · exact dirtyUnits_otDirty (s := otAsked s fn v) hd hi
  · refine ⟨fun h => ?_, fun hr hcan hne => ?_, fun hr hcan he hop => ?_⟩
    · have ht : (s.takeAck r).otStart 8 = s := by
        rw [takeAck_ignored hq hw h]
        exact otStart_waits hq (by rw [hw]; rfl) 8
      exact (congrArg answer ht).trans (answer_whole hb)
    · have ht : (s.takeAck r).otStart 8 = { s.purge o r with otQueue := { o with waits := some (w.erase r) } :: rest } := by
        rw [takeAck_taken hq hw hr hcan]
        dsimp only
        rw [if_pos (by simpa using hne)]
        exact otStart_waits (o := { o with waits := some (w.erase r) }) rfl rfl 8
      exact (congrArg answer ht).trans (answer_whole ((broken_purge o r).trans hb))
    · have ht : (s.takeAck r).otStart 8 = { s.purge o r with
          otQueue := { o with waits := some (w.erase r) } :: rest, due := (s.purge o r).due ++ [.migrationCopy] } := by
        rw [takeAck_taken hq hw hr hcan]
        dsimp only
        rw [if_neg (by simp [he]), if_neg (by omega)]
        exact otStart_waits (o := { o with waits := some (w.erase r) }) rfl rfl 8
      exact ⟨_, (congrArg answer ht).trans (answer_whole ((broken_purge o r).trans hb)), List.mem_append_right _ (List.mem_singleton_self _)⟩
  · intro moved tried hb'
    have hqueue : tried.otQueue = [o] := by
      have hserve : Mild { moved with stalls := [] } tried := Mild.foldl mild_serveStall moved.stalls _
      exact hserve.1.trans ((mild_movePage o).1.trans hq)
    have ht : s.migrate = tried.otDone o 0 := by
      unfold State.migrate
      rw [hq]
      dsimp only
      rw [if_neg fun h => h.elim (fun h => h hop) fun h => h hw]
      exact otDone_last hqueue 0 8
    refine ⟨_, (congrArg answer ht).trans (answer_whole hb'), ?_, ?_, ?_, rfl⟩
    · exact congrArg (List.drop 1) hqueue
    · exact congrArg HostFn.otBusy (fn_otDone _ _)
    · exact congrArg HostFn.otCode (fn_otDone _ _)
  · unfold State.noteStall
    split_ifs <;> rfl
  · unfold State.noteStall
    split_ifs with h h' h'
    · rfl
    · exact absurd (List.contains_iff_mem.1 h) h'
    · exact absurd (List.contains_iff_mem.2 h') h
    · rfl

end Sys2Proof.Laws
end

section
/-! PROOF. Writes to the register windows: O47. -/
namespace Sys2Proof.Laws
open Sys2Proof.Machine

theorem regAt_outside {off base step n : Nat} (h : off < base ∨ base + step * n ≤ off) : regAt off base step n = none :=
  if_neg (by omega)
/-- The first word of entry i of a table of registers. -/
theorem regAt_entry {base step n i : Nat} (hs : 0 < step) (hi : i < n) : regAt (base + step * i) base step n = some (i, 0) := by
  have hlt : step * i < step * n := (Nat.mul_lt_mul_left hs).2 hi
  refine (if_pos ⟨Nat.le_add_right _ _, by omega⟩).trans ?_
  rw [Nat.add_sub_cancel_left, Nat.mul_div_cancel_left _ hs, Nat.mul_mod_right]

section
variable (s : State) (val : BitVec 128)

theorem writeRegistrar_clkSet {c : Nat} (hc : c < 128) :
    s.writeRegistrar (0x1400 + 8 * c) val = s.modCore c fun x => { x with clkSet := clkSetOf (val.setWidth 64) } := by
  unfold State.writeRegistrar
  rw [regAt_outside (base := 0x10) (by omega), regAt_entry (base := 0x1400) (by decide) hc]
  rfl
theorem writeRegistrar_floor {f : Nat} (hf : f < 32) :
    s.writeRegistrar (0x2200 + 8 * f) val = s.modForm f fun x => { x with floor := min 48 (slice (val.setWidth 64).toNat 24 6) } := by
  unfold State.writeRegistrar
  rw [regAt_outside (base := 0x10) (by omega), regAt_outside (base := 0x1400) (by omega), regAt_outside (base := 0x1800) (by omega),
    regAt_outside (base := 0x2100) (by omega), regAt_entry (base := 0x2200) (by decide) hf]
  rfl
theorem writeKeeper_thermAllow {d : Nat} (hd : d < 2) :
    s.writeKeeper (0x8000 + 8 * d) val = s.modDie d fun x => { x with thermAllow := (val.setWidth 64).toNat % 1024 } := by
  unfold State.writeKeeper
  rw [regAt_entry (base := 0x8000) (by decide) hd]
  rfl
/-- The physical function's window holds CTX_CFG of every context. -/
theorem writeFn_ctxCfg {c : Nat} (hc : c < 16) : s.writeFn 0 (0x20000 + 8 * c) val = s.writeCtxCfg c (val.setWidth 64) := by
  have hpf : s.writePf (0x20000 + 8 * c) val = s.writeCtxCfg c (val.setWidth 64) := by
    unfold State.writePf
    rw [regAt_entry (base := 0x20000) (by decide) hc]
    rfl
  refine Eq.trans ?_ hpf
  unfold State.writeFn
  rw [if_neg (by decide), regAt_outside (base := 0x1000) (by omega), regAt_outside (base := 0x10000) (by omega)]
  dsimp only
  split
  · omega
  · omega
  · omega
  · omega
  · omega
  · omega
  · rfl
end

/-- Settles O47: each window finds the register of the offset and writes its field. -/
theorem registerWindowWrites : Obligations.RegisterWindowWrites := by
  unfold Obligations.RegisterWindowWrites
  intro s val hb
  refine ⟨fun fn hfn => ⟨?_, ?_⟩, fun off hp => ?_, fun c hc hp => ?_, fun f hf hp => ?_, fun d hd => ?_, fun c hc hbusy => ?_⟩
  · exact (congrArg answer (if_neg (by omega))).trans (answer_whole hb)
  · exact (congrArg answer (if_neg (by omega))).trans (answer_whole hb)
  · exact (congrArg answer (if_neg (by rw [hp]; decide))).trans (answer_whole hb)
  · exact (congrArg answer ((if_pos hp).trans (writeRegistrar_clkSet s val hc))).trans (answer_whole hb)
  · exact (congrArg answer ((if_pos hp).trans (writeRegistrar_floor s val hf))).trans (answer_whole hb)
  · exact (congrArg answer (writeKeeper_thermAllow s val hd)).trans (answer_whole hb)
  · exact (congrArg answer ((writeFn_ctxCfg s val hc).trans (if_pos hbusy))).trans (answer_whole hb)

end Sys2Proof.Laws
end

section
/-! PROOF. Packets of a camera: O48. -/
namespace Sys2Proof.Laws
open Sys2Proof.Machine

/-! ## Waking a chain -/

theorem sensor_modSensor_same (s : State) (n : Nat) (f : Sensor → Sensor) : (s.modSensor n f).sensor n = f (s.sensor n) :=
  tabGet_put_same _ _ _ _
theorem sensor_modSensor_other (s : State) {n m : Nat} (f : Sensor → Sensor) (h : m ≠ n) : (s.modSensor n f).sensor m = s.sensor m :=
  tabGet_put_other _ _ _ h
/-- Waking a chain adds to the happenings that are due, and does no more. -/
theorem kick_due (s : State) (port : Nat) : s.kick port = { s with due := (s.kick port).due } := by
  unfold State.kick
  generalize List.range 4 = l
  induction l generalizing s with
  | nil => rfl
  | cons i l ih =>
    rw [List.foldl_cons]
    dsimp only
    split_ifs
    · exact ih _
    · exact ih _
theorem kick_sensor (s : State) (port n : Nat) : (s.kick port).sensor n = s.sensor n := by
  rw [kick_due]
  rfl
theorem kick_broken (s : State) (port : Nat) : (s.kick port).broken = s.broken := by
  rw [kick_due]
theorem atStream_sensor (s : State) (n : Nat) (f : Sensor → Sensor) : (s.atStream n f).sensor n = f (s.sensor n) :=
  (kick_sensor _ _ n).trans (sensor_modSensor_same s n f)
theorem atStream_broken (s : State) (n : Nat) (f : Sensor → Sensor) : (s.atStream n f).broken = s.broken := kick_broken _ _

/-! ## Frames and rows of a stream -/

section
variable {x : Sensor} {f : OpenFrame}

theorem miss_opened (h : x.opened = some f) (j : Nat) : (x.miss j).opened = some { f with nextRow := max f.nextRow j } := by
  unfold Sensor.miss
  rw [h]
theorem miss_missing (h : x.opened = some f) (j : Nat) : (x.miss j).missing = min 65535 (x.missing + (j - f.nextRow)) := by
  unfold Sensor.miss
  rw [h]
  exact congrArg (fun k => min 65535 (x.missing + k)) ((List.length_map _).trans List.length_range)
theorem close_none (h : x.opened = none) : x.close = x := by
  unfold Sensor.close
  rw [h]
/-- A frame that closes counts, with its missing rows. -/
theorem close_some (h : x.opened = some f) : x.close = { x.miss x.rpf with opened := none, closed := x.closed + 1 } := by
  unfold Sensor.close
  rw [h]
theorem miss_keeps (x : Sensor) (j : Nat) : (x.miss j).frames = x.frames ∧ (x.miss j).scfg = x.scfg := by
  unfold Sensor.miss
  split
  · exact ⟨rfl, rfl⟩
  · exact ⟨rfl, rfl⟩
theorem close_frames (x : Sensor) : x.close.frames = x.frames := by
  unfold Sensor.close
  split
  · rfl
  · exact (miss_keeps x _).1
theorem close_scfg (x : Sensor) : x.close.scfg = x.scfg := by
  unfold Sensor.close
  split
  · rfl
  · exact (miss_keeps x _).2
theorem openFrame_opened (x : Sensor) (time : Word) : (x.openFrame time).opened = some { frame := x.frames, lastStamp := x.stamp time } := by
  have hs : x.close.stamp time = x.stamp time := by
    unfold Sensor.stamp
    rw [close_scfg]
  unfold Sensor.openFrame
  dsimp only
  rw [close_frames, hs]
theorem openFrame_frames (x : Sensor) (time : Word) : (x.openFrame time).frames = (x.frames + 1) % 2 ^ 32 :=
  congrArg (fun n => (n + 1) % 2 ^ 32) (close_frames x)
theorem openFrame_closed (x : Sensor) (time : Word) : (x.openFrame time).closed = x.close.closed := rfl
theorem openFrame_missing (x : Sensor) (time : Word) : (x.openFrame time).missing = x.close.missing := rfl
/-- A line out of sequence is discarded. -/
theorem lineStart_discards (h : x.opened = some f) {line : Nat} (hl : line ≤ f.lastLine ∨ x.rpf < line) :
    x.lineStart line = { x with drop := bump x.drop, opened := some { f with announced := none, skipNext := true } } := by
  unfold Sensor.lineStart
  rw [h]
  exact if_pos hl
/-- A line in sequence announces its row and reveals the ones before it. -/
theorem lineStart_announces (h : x.opened = some f) {line : Nat} (hl : f.lastLine < line) (hr : line ≤ x.rpf) :
    x.lineStart line = { x.miss (line - 1) with
      opened := some { f with nextRow := max f.nextRow (line - 1), lastLine := line, announced := some (line - 1), skipNext := false } } := by
  unfold Sensor.lineStart
  rw [h]
  refine (if_neg (by omega)).trans ?_
  dsimp only
  rw [miss_opened h]
  rfl
/-- An announced row that is not the last one of its frame enters the input. -/
theorem rowArrives_enters (h : x.opened = some f) {j : Nat} (ha : f.announced = some j) (hj : j + 1 ≠ x.rpf) (time : Word) (bad : Bool)
    (samples : List (BitVec 16)) : x.rowArrives time bad false samples = { x with
      input := x.input ++ [{
        frame := f.frame, row := j, cls := if bad then 2 else 0, stamp := x.stamp time, samples := if bad then [] else samples.take 8192 }]
      corrupt := if bad then bump x.corrupt else x.corrupt
      opened := some { f with nextRow := j + 1, announced := none, lastStamp := x.stamp time } } := by
  unfold Sensor.rowArrives
  rw [h]
  dsimp only
  rw [ha]
  exact if_neg hj
end

/-! ## Packets -/

section
variable {s : State} {port vc n : Nat}

theorem camera_stream (hp : port < 16) (h : s.streamAt port vc = some n) (f : Sensor → Sensor) : s.camera port vc f = s.atStream n f := by
  unfold State.camera
  rw [if_pos hp, h]
theorem camera_none (h : s.streamAt port vc = none) (f : Sensor → Sensor) : s.camera port vc f = s := by
  unfold State.camera
  rw [h, ite_self]
/-- A packet of a running stream acts on its sensor. -/
theorem camera_answers (hb : s.broken = none) (hp : port < 16) (h : s.streamAt port vc = some n) (f : Sensor → Sensor) :
    ∃ t, answer (s.camera port vc f) = .next t ∧ t.sensor n = f (s.sensor n) :=
  ⟨_, (congrArg answer (camera_stream hp h f)).trans (answer_whole ((atStream_broken s n f).trans hb)), atStream_sensor s n f⟩
end

/-- Settles O48: each packet is an update of its stream's sensor, and a chain that wakes changes no sensor. -/
theorem cameraPackets : Obligations.CameraPackets := by
  unfold Obligations.CameraPackets
  intro s port vc n hb hp
  refine ⟨fun ecc h => ?_, fun crc samples => ?_, fun h => ?_⟩
  · have hnone (f : Sensor → Sensor) : (if ecc = true then s else s.camera port vc f) = s := by
      rcases h with he | hn
      · exact if_pos he
      · rw [camera_none hn, ite_self]
    refine ⟨?_, ?_, fun line => ?_, fun kind crc samples => ?_⟩
    · exact (congrArg answer (hnone _)).trans (answer_whole hb)
    · exact (congrArg answer (hnone _)).trans (answer_whole hb)
    · exact (congrArg answer (hnone _)).trans (answer_whole hb)
    · refine (congrArg answer ?_).trans (answer_whole hb)
      rcases h with he | hn
      · exact if_pos (.inl he)
      · rw [camera_none hn, ite_self]
  · exact (congrArg answer (if_pos (.inr rfl))).trans (answer_whole hb)
  · intro x
    have packet (f : Sensor → Sensor) := camera_answers hb hp h f
    refine ⟨fun ho => ?_, fun f ho => ⟨?_, ?_, fun line hl => ?_, fun line hl hr => ?_, fun j kind samples hk ha hj hroom => ?_⟩⟩
    · obtain ⟨t, ht, hx⟩ := packet fun x => x.openFrame s.time
      refine ⟨t, ht, ?_, ?_, ?_⟩
      · rw [hx, openFrame_opened]
      · rw [hx, openFrame_frames]
      · rw [hx, openFrame_closed, close_none ho]
    · obtain ⟨t, ht, hx⟩ := packet fun x => x.openFrame s.time
      refine ⟨t, ht, ?_, ?_, ?_, ?_⟩
      · rw [hx, openFrame_opened]
      · rw [hx, openFrame_frames]
      · rw [hx, openFrame_closed, close_some ho]
      · rw [hx, openFrame_missing, close_some ho]
        exact miss_missing ho _
    · obtain ⟨t, ht, hx⟩ := packet Sensor.close
      refine ⟨t, ht, ?_, ?_, ?_⟩
      · rw [hx, close_some ho]
      · rw [hx, close_some ho]
      · rw [hx, close_some ho]
        exact miss_missing ho _
    · obtain ⟨t, ht, hx⟩ := packet fun x => x.lineStart line
      refine ⟨t, ht, ?_, ?_⟩
      · rw [hx, lineStart_discards ho hl]
        rfl
      · rw [hx, lineStart_discards ho hl]
    · obtain ⟨t, ht, hx⟩ := packet fun x => x.lineStart line
      refine ⟨t, _, ht, (congrArg Sensor.opened hx).trans (congrArg Sensor.opened (lineStart_announces ho hl hr)), rfl, rfl, ?_⟩
      rw [hx, lineStart_announces ho hl hr]
      exact miss_missing ho _
    · have hfull : (64 ≤ s.buffered port : Bool) = false := decide_eq_false (by omega)
      have arrives (bad : Bool) : ∃ t, exec (.csi2LongPacket port vc kind false bad samples) s = .next t ∧
          t.sensor n = x.rowArrives s.time bad false (csiSamples kind samples) := by
        obtain ⟨t, ht, hx⟩ := packet fun x => x.rowArrives s.time bad (64 ≤ s.buffered port) (csiSamples kind samples)
        refine ⟨t, (congrArg answer (if_neg ?_)).trans ht, hx.trans ?_⟩
        · rintro (h | h)
          · exact Bool.noConfusion h
          · exact hk h
        · exact congrArg (fun full => x.rowArrives s.time bad full (csiSamples kind samples)) hfull
      refine ⟨?_, ?_⟩
      · obtain ⟨t, ht, hx⟩ := arrives false
        rw [rowArrives_enters ho ha hj] at hx
        exact ⟨t, _, ht, congrArg Sensor.input hx, congrArg Sensor.opened hx, rfl⟩
      · obtain ⟨t, ht, hx⟩ := arrives true
        rw [rowArrives_enters ho ha hj] at hx
        exact ⟨t, ht, congrArg Sensor.input hx, congrArg Sensor.corrupt hx⟩

end Sys2Proof.Laws
end

section
/-! PROOF. Rows of a lidar: the refutation of O49. -/
namespace Sys2Proof.Laws
open Sys2Proof.Machine

/-- The first row of a new frame that finds the buffer of its port full opens no frame. -/
theorem lidar_full {s : State} {port n : Nat} {p : List Byte} (hport : 16 ≤ port) (hlen : 16 ≤ p.length)
    (hcrc : (Config.headerCrc (p.take 14)).toNat = bytesNat p 14 2) (hs : s.streamAt port 0 = some n)
    (hnew : (s.sensor n).lframe ≠ some (bytesNat p 0 4)) (hline : ¬ (s.sensor n).rpf < bytesNat p 4 2 + 1) (hfull : 64 ≤ s.buffered port) :
    ((s.lidar port p).sensor n).opened = (s.sensor n).opened ∧ (s.lidar port p).broken = s.broken := by
  unfold State.lidar
  extract_lets lframe line data bad
  rw [if_neg (by rw [hcrc]; omega), if_pos hport, hs]
  dsimp only
  refine ⟨?_, atStream_broken s n _⟩
  rw [atStream_sensor, if_neg fun h => hline h.2, if_pos ⟨hnew, decide_eq_true hfull⟩]

/-- A payload whose header has the check that it must have. -/
def checkedRow : List Byte := List.replicate 14 0 ++ leBytes 2 (Config.headerCrc (List.replicate 14 0)).toNat
/-- A running lidar stream of port 16 with six rows a frame, whose port's buffer is full. -/
def crowdedSensor : Sensor := { scfg := 0x8001, ran := BitVec.ofNat 128 (5 * 2 ^ 35), input := List.replicate 64 { frame := 0, row := 0 } }
def crowded : State := { State.reset with sensors := [(0, crowdedSensor)] }

theorem headerCrc_checkedRow : (Config.headerCrc (checkedRow.take 14)).toNat = bytesNat checkedRow 14 2 := by
  have hdrop : (checkedRow.drop 14).take 2 = leBytes 2 (Config.headerCrc (List.replicate 14 0)).toNat := rfl
  rw [bytesNat, hdrop, leNat_leBytes]
  exact (Nat.mod_eq_of_lt (Config.headerCrc (List.replicate 14 0)).isLt).symm

/-- Refutes O49: where the buffer of the port is full, the first row of a new frame is dropped and opens none. -/
theorem not_lidarDeadlinesRowsAndPublication : ¬ Obligations.LidarDeadlinesRowsAndPublication := by
  intro h
  obtain ⟨t, f, ht, hopen, -⟩ := ((h crowded rfl).2.1 16 0 checkedRow (by decide) (by decide) (by decide) headerCrc_checkedRow (by decide)
    (by decide) rfl).2 (by decide)
  obtain ⟨hnone, hb⟩ := lidar_full (s := crowded) (port := 16) (n := 0) (p := checkedRow) (by decide) (by decide) headerCrc_checkedRow
    (by decide) (by decide) (by decide) (by decide)
  have hnext : exec (.lidarFrame 16 ⟨crowded.boot.stations.getD (16 - 16) 0, 0x88B5, false⟩ checkedRow) crowded =
      .next (crowded.lidar 16 checkedRow) := (congrArg answer (if_neg (by decide))).trans (answer_whole (hb.trans rfl))
  cases ht.symm.trans hnext
  cases hopen.symm.trans hnone

end Sys2Proof.Laws
end

section
/-! PROOF. Streams that are enabled and disabled, and the tick of the roll-call groups: O50. -/
namespace Sys2Proof.Laws
open Sys2Proof.Machine

/-- An entry of a table whose values all change by a function that keeps the default. -/
theorem tabGet_mapped {α : Type} (d : α) {f : α → α} (hd : f d = d) (t : Tab α) (k : Nat) :
    tabGet d (t.map fun x => (x.1, f x.2)) k = f (tabGet d t k) := by
  induction t with
  | nil => exact hd.symm
  | cons x t ih =>
    by_cases h : x.1 = k
    · exact (if_pos h).trans (congrArg f (if_pos h).symm)
    · exact (if_neg h).trans (ih.trans (congrArg f (if_neg h).symm))

/-! ## Streams -/

/-- The sensors and the roll-call groups stand. -/
def SensorsStand (s t : State) : Prop := t.sensors = s.sensors ∧ t.groups = s.groups ∧ t.broken = s.broken

theorem SensorsStand.refl (s : State) : SensorsStand s s := ⟨rfl, rfl, rfl⟩
theorem SensorsStand.trans {s t u : State} (h1 : SensorsStand s t) (h2 : SensorsStand t u) : SensorsStand s u :=
  ⟨h2.1.trans h1.1, h2.2.1.trans h1.2.1, h2.2.2.trans h1.2.2⟩
theorem SensorsStand.foldl {α : Type} {f : State → α → State} (hf : ∀ s x, SensorsStand s (f s x)) (l : List α) (s : State) :
    SensorsStand s (l.foldl f s) := by
  induction l generalizing s with
  | nil => exact .refl s
  | cons x l ih => exact (hf s x).trans (ih _)
theorem SensorsStand.sensor {s t : State} (h : SensorsStand s t) (n : Nat) : t.sensor n = s.sensor n := congrArg (fun x => tabGet ({} : Sensor) x n) h.1
theorem modLbp_sensorsStand (s : State) (l : Nat) (f : Lbp → Lbp) : SensorsStand s (s.modLbp l f) := ⟨rfl, rfl, rfl⟩

section
variable (s : State) (n : Nat) (v : BitVec 128)

/-- The stream that an enable writes: it begins anew, with its counts and the tiles that are still pinned. -/
def enabled (x : Sensor) : Sensor :=
  { scfg := v, ran := v, skip := x.skip, drop := x.drop, corrupt := x.corrupt, missing := x.missing,
    tiles := (x.tiles.filter fun k => s.pinned (k.2.name n k.1)).map fun k => (k.1, { k.2 with live := false }) }

/-- An enable writes its stream and withdraws its offers. -/
theorem enableStream_writes : ∃ u, SensorsStand (s.modSensor n (enabled s n v)) u ∧
    s.enableStream n v = { u with groups := u.groups.map fun g => (g.1, g.2.withdraw fun t => t.stream == n) } :=
  ⟨_, SensorsStand.foldl (fun u i => modLbp_sensorsStand u (4 * (u.sensor n).port + i) fun b =>
    { b with last := tabDel b.last n, wait := tabDel b.wait n }) (List.range 4) _, rfl⟩
theorem enableStream_sensor : (s.enableStream n v).sensor n = enabled s n v (s.sensor n) := by
  obtain ⟨u, hu, he⟩ := enableStream_writes s n v
  rw [he]
  exact (hu.sensor n).trans (sensor_modSensor_same s n _)
theorem enableStream_broken : (s.enableStream n v).broken = s.broken := by
  obtain ⟨u, hu, he⟩ := enableStream_writes s n v
  rw [he]
  exact hu.2.2
theorem member_withdraw (g : RollGroup) (gone : SensorTile → Bool) (m : Nat) : (g.withdraw gone).member m =
    { g.member m with offers := (g.member m).offers.filter fun o => !gone o.tile, held := (g.member m).held.filter fun t => !gone t } :=
  tabGet_mapped ({} : Member) (f := fun m => { m with offers := m.offers.filter fun o => !gone o.tile, held := m.held.filter fun t => !gone t })
    rfl g.members m
theorem enableStream_group (g : Nat) : (s.enableStream n v).group g = (s.group g).withdraw fun t => t.stream == n := by
  obtain ⟨u, hu, he⟩ := enableStream_writes s n v
  rw [he]
  refine (tabGet_mapped ({} : RollGroup) (f := fun g => g.withdraw fun t => t.stream == n) rfl u.groups g).trans ?_
  exact congrArg (fun t => (tabGet ({} : RollGroup) t g).withdraw fun t => t.stream == n) hu.2.1

/-- The stream that a disable leaves. -/
def disabled (x : Sensor) (drop : Nat) : Sensor :=
  { x with scfg := putBits x.scfg 0 1 0, drop, opened := none, input := [], chain := [], out := [], rows := [] }

/-- The accepted rows of a stream that a disable drops. -/
def rowsLost (x : Sensor) : Nat := (x.input.filter fun r => r.cls != 1).length + (x.rows.filter fun r => r.2.cls != 1).length
/-- A disable writes its stream, stops the runs of it and leaves its held offers unmade. -/
theorem disableStream_writes :
    ∃ u f, SensorsStand (s.modSensor n fun x => disabled x (min 65535 (x.drop + rowsLost (s.sensor n)))) u ∧
    s.disableStream n = State.kick { u with groups := u.groups.map f } (s.sensor n).port := by
  refine ⟨_, _, ?_, rfl⟩
  refine SensorsStand.foldl (fun u i => ?_) _ _
  dsimp only
  split_ifs
  · exact ⟨rfl, rfl, rfl⟩
  · exact ⟨rfl, rfl, rfl⟩
theorem disableStream_sensor : ∃ drop, (s.disableStream n).sensor n = disabled (s.sensor n) drop := by
  obtain ⟨u, f, hu, hd⟩ := disableStream_writes s n
  rw [hd, kick_sensor]
  exact ⟨_, (hu.sensor n).trans (sensor_modSensor_same s n _)⟩
theorem disableStream_broken : (s.disableStream n).broken = s.broken := by
  obtain ⟨u, f, hu, hd⟩ := disableStream_writes s n
  rw [hd, kick_broken]
  exact hu.2.2
end

/-! ## Groups -/

theorem rollPoison_unmarked {s : State} (h : s.marks = []) : s.rollPoison = s := by
  unfold State.rollPoison
  dsimp only
  rw [h]
  rfl
/-- Sensors may differ, and nothing else. -/
def SensorsOnly (s t : State) : Prop := t = { s with sensors := t.sensors }

theorem SensorsOnly.trans {s t u : State} (h1 : SensorsOnly s t) (h2 : SensorsOnly t u) : SensorsOnly s u := by
  rw [SensorsOnly, h2, h1]
theorem SensorsOnly.foldl {α : Type} {f : State → α → State} (hf : ∀ s x, SensorsOnly s (f s x)) (l : List α) (s : State) :
    SensorsOnly s (l.foldl f s) := by
  induction l generalizing s with
  | nil => exact rfl
  | cons x l ih => exact (hf s x).trans (ih _)
theorem rollPoison_sensors (s : State) : SensorsOnly s s.rollPoison := by
  refine SensorsOnly.foldl (fun u m => ?_) _ s
  split
  · split_ifs
    · exact rfl
    · exact rfl
  · exact rfl
theorem tick_unarmed {g : RollGroup} {time : Int} (h : g.ref = none) : g.tick time = g := if_pos (by rw [h]; rfl)
/-- A group whose members hold no offer has none to make, and is not armed. -/
theorem offerHeld_empty (s : State) : s.offerHeld {} = {} := by
  unfold State.offerHeld
  extract_lets ready
  generalize List.range 8 = l
  induction l with
  | nil => rfl
  | cons m l ih =>
    rw [List.foldl_cons]
    exact ih
theorem withdraw_empty (gone : SensorTile → Bool) : ({} : RollGroup).withdraw gone = {} := rfl
theorem ref_empty : ({} : RollGroup).ref = none := rfl
/-- Every group is evaluated on what its held offers and the withdrawals leave. -/
theorem rollCall_group (s : State) (n : Nat) : s.rollCall.group n =
    ((s.rollPoison.offerHeld (s.group n)).withdraw fun x =>
      match s.rollPoison.ringTile x with | some k => !k.2.live | none => true).tick s.time.toNat := by
  have hu := rollPoison_sensors s
  have ht : s.rollPoison.time = s.time := by
    rw [hu]
  have hg : s.rollPoison.groups = s.groups := by
    rw [hu]
  unfold State.rollCall State.group
  dsimp only
  rw [ht, hg]
  refine tabGet_mapped ({} : RollGroup) (f := fun g => ((s.rollPoison.offerHeld g).withdraw fun x =>
    match s.rollPoison.ringTile x with | some k => !k.2.live | none => true).tick s.time.toNat) ?_ s.groups n
  rw [offerHeld_empty, withdraw_empty]
  exact tick_unarmed ref_empty
theorem rollCall_broken (s : State) : s.rollCall.broken = s.broken := by
  unfold State.rollCall
  rw [rollPoison_sensors]

section
variable {g : RollGroup} {time : Int}

/-- An open set that no member holds back any longer is released. -/
theorem tick_releases {m : Nat} {r : Offer} (h : g.ref = some m) (ho : g.opened = some r)
    (hs : ((List.range 8).all fun j => (g.member j).settled r.time time) = true) :
    (g.tick time).opened = g.heldRef ∧ (g.tick time).heldRef = none ∧
    (g.tick time).queue = (if 4 ≤ g.queue.length then g.queue.drop 1 else g.queue) ++
      [{ tref := r.time, entries := (List.range 8).map fun j => (g.member j).entry r.time }] := by
  have hall : (((List.range 8).map g.member).all fun m => m.settled r.time time) = true := List.all_map.trans hs
  unfold RollGroup.tick
  rw [if_neg (by rw [h]; exact Bool.false_ne_true), ho]
  dsimp only
  rw [if_neg (by rw [hall]; decide), List.map_map]
  exact ⟨rfl, rfl, rfl⟩
end

/-- Settles O50: an enable and a disable write their sensor, and a tick maps every group. -/
theorem streamsEnableDisableAndGroupsTick : Obligations.StreamsEnableDisableAndGroupsTick := by
  unfold Obligations.StreamsEnableDisableAndGroupsTick
  intro s hb
  refine ⟨fun n v hn => ⟨fun hen hv hl => ?_, fun hen hv hl => ?_, fun hen hv => ?_, fun w hw => ?_⟩, ⟨rollPoison_unmarked, _,
    (congrArg answer rfl).trans (answer_whole ((rollCall_broken s).trans hb)), rollCall_group s⟩,
    fun g time => ⟨tick_unarmed, fun m r h ho hs => tick_releases h ho hs⟩⟩
  · have ht : s.writeScfg n v = s.enableStream n v := by
      unfold State.writeScfg
      rw [if_neg (by omega), if_neg (by rw [hen]; decide), if_neg (by rw [hv]; decide), if_pos hl]
    refine ⟨_, (congrArg answer ht).trans (answer_whole ((enableStream_broken s n v).trans hb)), ?_⟩
    rw [enableStream_sensor]
    refine ⟨rfl, rfl, rfl, rfl, rfl, fun k hk => ?_, fun g m o ho => ?_⟩
    · obtain ⟨j, -, rfl⟩ := List.mem_map.1 hk
      rfl
    · rw [enableStream_group, member_withdraw] at ho
      simpa using (List.mem_filter.1 ho).2
  · have ht : s.writeScfg n v = s.modSensor n fun x => { x with scfg := putBits (scfgFields v) 0 1 0 } := by
      unfold State.writeScfg
      rw [if_neg (by omega), if_neg (by rw [hen]; decide), if_neg (by rw [hv]; decide), if_neg (by rw [hl]; decide)]
    refine ⟨_, (congrArg answer ht).trans (answer_whole hb), ?_⟩
    rw [sensor_modSensor_same]
    exact getLsbD_putBits _ (by decide)
  · have ht : s.writeScfg n v = s.disableStream n := by
      unfold State.writeScfg
      rw [if_neg (by omega), if_pos hen, if_neg (by rw [hv]; decide)]
    obtain ⟨drop, hx⟩ := disableStream_sensor s n
    refine ⟨_, (congrArg answer ht).trans (answer_whole ((disableStream_broken s n).trans hb)), ?_⟩
    rw [hx]
    exact ⟨getLsbD_putBits _ (by decide), rfl, rfl, rfl⟩
  · refine ⟨_, (congrArg answer (if_pos ⟨hn, hw⟩)).trans (answer_whole hb), ?_⟩
    rw [sensor_modSensor_same]
    rfl

end Sys2Proof.Laws
end

section
/-! PROOF. Replays, soft errors, FF_CTL and the debug port: O51. -/
namespace Sys2Proof.Laws
open Sys2Proof.Machine

section
variable {s : State} {c : Nat}

/-! ## Timing errors and soft errors -/

theorem timingError_stream {n : Nat} (hn : n < 10) (hr : (s.core c).tt = .run) (hs : (s.stream c n).started = true)
    (he : (s.stream c n).ended = false) : s.timingError c n none =
      if 15 ≤ (s.stream c n).replays then
        (s.modStream c n fun t => { t with replay := true, replays := 0 }).takeFault c (some n) 9 (softInfo 7 0 false) true
      else s.modStream c n fun t => { t with replay := true, replays := t.replays + 1 } := by
  refine (if_pos hn).trans (if_neg ?_)
  rintro (h | h | h)
  · exact h hr
  · exact Bool.noConfusion ((congrArg (!·) hs).symm.trans h)
  · exact Bool.noConfusion (he.symm.trans h)
theorem softError_running (hc : c < 128) (hr : (s.core c).tt = .run) (st : Option Nat) (store : BitVec 4) (number : BitVec 8) (commit : Bool) :
    s.softError c st store number commit = s.takeFault c st 9 (softInfo store.toNat number.toNat commit) true :=
  (if_neg fun h => absurd (of_decide_eq_true h) (by omega)).trans (if_pos (by rw [hr]; rfl))
/-- A find that names a marked word marks it. -/
theorem markBad_mark {p : Nat} {m : Mark} (h : markOf p = some m) : s.markBad p = { s with marks := s.marks.filter (· ≠ m) ++ [m] } := by
  have hkind : p % 16 ≠ 7 ∧ p % 16 ≠ 8 ∧ p % 16 ≠ 9 := by
    refine ⟨fun h0 => ?_, fun h0 => ?_, fun h0 => ?_⟩
    · rw [markOf, h0] at h
      cases h
    · rw [markOf, h0] at h
      cases h
    · rw [markOf, h0] at h
      cases h
  unfold State.markBad
  dsimp only
  split
  · next h7 => exact absurd h7 hkind.1
  · next h8 => exact absurd h8 hkind.2.1
  · next h9 => exact absurd h9 hkind.2.2
  · rw [h]
theorem markOf_zero : markOf 0 = none := rfl

/-! ## Consumed poison -/

variable {t : State} {n : Nat} {i : Instr}

theorem consumed_clean (h : s.wordPoison (n, i) = none) : t.consumed s (n, i) = t := by
  unfold State.consumed
  rw [h]
theorem consumed_guardedOff (h : s.guardHolds (n, i) = false) : t.consumed s (n, i) = t := by
  unfold State.consumed
  split
  · exact if_neg fun hg => Bool.noConfusion (h.symm.trans hg.1)
  · rfl
theorem consumed_issued {info : Word} (hp : s.wordPoison (n, i) = some info) (hg : s.guardHolds (n, i) = true)
    (hv : (t.stream s.curCore n).verdict = .issued) : t.consumed s (n, i) = t.takeFault s.curCore (some n) 9 info true := by
  unfold State.consumed
  rw [hp]
  exact if_pos ⟨hg, .inl hv⟩
/-- A word that reads a cell whose word is the one marked consumes it. -/
theorem wordPoison_cellr {h : Hdr} {gd : BitVec 6} {item : BitVec 4} {cn : BitVec 8} (hm : s.marks = [.cell s.curCore cn.toNat])
    (hp : takesFrom (.cellr h gd item cn) = []) : s.wordPoison (n, .cellr h gd item cn) = some (softInfo 5 cn.toNat false) := by
  have hcell : s.findMark (fun m => m == .cell s.curCore cn.toNat) = some (softInfo 5 cn.toNat false) := by
    unfold State.findMark
    rw [hm, List.find?_cons_of_pos (by simp)]
    rfl
  have hreg (f : Nat → Nat → Nat → Bool) : s.findMark (fun m => match m with | .vreg d st r => f d st r | _ => false) = none := by
    unfold State.findMark
    rw [hm]
    rfl
  unfold State.wordPoison
  dsimp only
  rw [hp]
  dsimp only [List.find?_nil]
  rw [if_neg (by rw [hm]; exact Bool.false_ne_true)]
  refine Eq.trans ?_ hcell
  exact congrArg (fun o : Option Word => o.or (s.findMark fun m => m == .cell s.curCore cn.toNat)) (hreg _)

/-! ## FF_CTL -/

theorem CacheOnly.launches {s t : State} (h : CacheOnly s t) : t.launches = s.launches := by
  rw [h.others]
  rfl
theorem endIdem_launches (s : State) (c : Nat) : (s.endIdem c).launches = s.launches := by
  unfold State.endIdem
  split
  · next k _ =>
    split_ifs
    · exact ((cacheOnly_writeBackAll s c 0).trans (memoryOnly_commit (s.writeBackAll c 0) (.idem k.ctx k.lid k.gen k.index)).cacheOnly).launches
    · rfl
  · rfl
/-- What a core's CACHE holds goes, with the task still bound where it is not speculative. -/
theorem clearCache_keeps {k : Task} (hk : (s.core c).task = some k) (hspec : k.spec = false) : let u := s.clearCache c
    u.launches = s.launches ∧ u.broken = s.broken ∧ ∃ k', (u.core c).task = some k' ∧ k'.lid = k.lid := by
  have hw := cacheOnly_writeBackAll s c 0
  have hwk : ((s.writeBackAll c 0).core c).task = some k := by
    rw [hw.cores c]
    exact hk
  have hwl := hw.launches
  have hwb := hw.broken
  unfold State.clearCache
  generalize s.writeBackAll c 0 = v at hwk hwl hwb
  generalize hu : v.modCore c (fun x => { x with cache := [] }) = u
  have huk : (u.core c).task = some k := by
    rw [← hu, State.core_modCore_same]
    exact hwk
  have hul : u.launches = s.launches := by
    rw [← hu]
    exact hwl
  have hub : u.broken = s.broken := by
    rw [← hu]
    exact hwb
  intro w
  have hsame : w = u ∨ w = u.endIdem c := by
    dsimp only [w]
    unfold State.limitProv
    split
    · exact .inl rfl
    · next j hj =>
      dsimp only
      split_ifs
      · have hid : k.ident = some j := by
          unfold State.identOf at hj
          rw [huk] at hj
          exact hj
        unfold Task.ident at hid
        by_cases hi : k.idem = true
        · rw [if_pos hi] at hid
          cases hid
          exact .inr rfl
        · rw [if_neg hi, if_neg (by rw [hspec]; exact Bool.false_ne_true)] at hid
          cases hid
      · exact .inl rfl
  rcases hsame with h | h
  · rw [h]
    exact ⟨hul, hub, k, huk, rfl⟩
  · rw [h]
    refine ⟨(endIdem_launches u c).trans hul, (endIdem_broken _ _).trans hub, ?_⟩
    unfold State.endIdem
    rw [huk]
    dsimp only
    split_ifs
    · rw [State.core_modCore_same]
      exact ⟨_, rfl, rfl⟩
    · exact ⟨k, huk, rfl⟩
theorem unbind_launches (s : State) (c : Nat) : (s.unbind c).launches = s.launches ∧ (s.unbind c).prov = s.prov ∧
    (s.unbind c).returned = s.returned := by
  unfold State.unbind State.swapCheck
  dsimp only
  split_ifs
  · exact ⟨rfl, rfl, rfl⟩
  · exact ⟨rfl, rfl, rfl⟩
theorem endTask_keeps (s : State) (c : Nat) (k : Task) : let u := s.endTask c k
    u.launches = s.launches ∧ u.broken = s.broken ∧ (u.core c).task = none := by
  unfold State.endTask
  extract_lets v u
  have hv : MemoryOnly s v := by
    dsimp only [v]
    split_ifs
    · exact memoryOnly_commit s _
    · exact .refl s
  obtain ⟨hb, -, ht⟩ := unbind_keeps (v.releaseTiles c) c
  refine ⟨(unbind_launches _ c).1.trans ?_, hb.trans ?_, ht⟩
  · rw [hv]
    rfl
  · exact hv.cacheOnly.broken
/-- An end that leaves tasks of the launch counts it, and no more. -/
theorem countEnd_more {lid : Nat} (h : 2 ≤ (s.launch lid).remain) (faulted : Bool) : s.countEnd lid faulted = s.modLaunch lid fun l =>
    { l with remain := l.remain - 1, retired := l.retired + (if faulted then 0 else 1), faulted := l.faulted || faulted } := by
  refine if_neg fun hn => ?_
  have hr := hn.2.1
  rw [launch_modLaunch] at hr
  dsimp only at hr
  omega
/-- The task that an ABANDON ends is counted as FAULTED, and not as retired. -/
theorem abandonTask_counts {k : Task} (hk : (s.core c).task = some k) (hspec : k.spec = false) (hr : 2 ≤ (s.launch k.lid).remain) :
    let t := s.abandonTask c
    t.broken = s.broken ∧ (t.core c).task = none ∧ (t.launch k.lid).remain + 1 = (s.launch k.lid).remain ∧
    (t.launch k.lid).faulted = true ∧ (t.launch k.lid).retired = (s.launch k.lid).retired := by
  obtain ⟨hul, hub, k', huk, hlid⟩ := clearCache_keeps hk hspec
  unfold State.abandonTask
  generalize s.clearCache c = u at hul hub huk
  dsimp only
  rw [huk]
  dsimp only
  obtain ⟨hel, heb, het⟩ := endTask_keeps u c k'
  have hlaunch : (u.endTask c k').launch k'.lid = s.launch k.lid := by
    rw [hlid]
    exact congrArg (fun l => tabGet ({} : Launch) l k.lid) (hel.trans hul)
  rw [countEnd_more (by rw [hlaunch]; exact hr)]
  rw [← hlid] at hlaunch hr ⊢
  rw [launch_modLaunch, hlaunch]
  dsimp only
  refine ⟨heb.trans hub, het, ?_, Bool.or_true _, rfl⟩
  omega
theorem dropTask_keeps (s : State) (c : Nat) : let u := s.dropTask c
    u.launches = s.launches ∧ u.prov = s.prov ∧ u.broken = s.broken ∧ (u.core c).task = none := by
  obtain ⟨hl, hp, -⟩ := unbind_launches ((State.releaseTiles (s.modDie (dieOf c) fun d => { d with order := d.order.filter (·.1 ≠ c) }) c).modCore c
    fun x => { x with cache := [] }) c
  obtain ⟨hb, -, ht⟩ := unbind_keeps ((State.releaseTiles (s.modDie (dieOf c) fun d => { d with order := d.order.filter (·.1 ≠ c) }) c).modCore c
    fun x => { x with cache := [] }) c
  exact ⟨hl, hp, hb, ht⟩

/-! ## The debug port -/

/-- A stream that a fold over streams lets go stands unhalted after it. -/
theorem unhalted_foldl (l : List Nat) (n : Nat) (x : Core) (h : n ∈ l ∨ (x.stream n).halted = false) :
    ((l.foldl (fun (y : Core) m => y.modStream m fun t => { t with halted := false }) x).stream n).halted = false := by
  induction l generalizing x with
  | nil => simpa using h
  | cons m l ih =>
    refine ih _ ?_
    by_cases hm : n = m
    · refine .inr ?_
      subst hm
      exact congrArg Stream.halted (tabGet_put_same ({} : Stream) x.streams n _)
    · refine h.imp (fun h => (List.mem_cons.1 h).resolve_left hm) fun h => ?_
      exact (congrArg Stream.halted (tabGet_put_other ({} : Stream) x.streams _ hm)).trans h
end

/-- The registrar's window holds FF_CTL of every core. -/
theorem writeRegistrar_ffCtl (s : State) {c : Nat} (hc : c < 128) (val : BitVec 128) :
    s.writeRegistrar (0x4018 + 0x80 * c) val = s.writeFfCtl c none ((val.setWidth 64 : Word).toNat % 2 ^ 32) := by
  have hat : regAt (0x4018 + 0x80 * c) 0x4000 0x80 128 = some (c, 0x18) := by
    refine (if_pos (by omega)).trans ?_
    rw [show (0x4018 + 0x80 * c - 0x4000) / 0x80 = c by omega, show (0x4018 + 0x80 * c - 0x4000) % 0x80 = 0x18 by omega]
  unfold State.writeRegistrar
  rw [regAt_outside (base := 0x10) (by omega), regAt_outside (base := 0x1400) (by omega), regAt_outside (base := 0x1800) (by omega),
    regAt_outside (base := 0x2100) (by omega), regAt_outside (base := 0x2200) (by omega), regAt_outside (base := 0x3000) (by omega), hat]
  rfl

/-- Settles O51: each happening by the branch that its hypotheses choose. -/
theorem replaysSoftErrorsFaultControlAndDebug : Obligations.ReplaysSoftErrorsFaultControlAndDebug := by
  unfold Obligations.ReplaysSoftErrorsFaultControlAndDebug
  intro c s hb hc
  refine ⟨fun n hn hr hs he => ⟨fun hlt => ?_, fun heq => ?_⟩, fun st store number commit hr => ?_, fun n hn => ?_, fun p m hm => ?_,
    fun t n i hcur => ⟨consumed_clean, consumed_guardedOff, fun info hp hg hv => ?_, fun d cell hm hp hcell => ?_⟩,
    fun w => ⟨fun h => ⟨?_, ?_, ?_⟩, fun h => ⟨?_, fun hrem hspec hlag hpub => ?_, fun hcause => ?_, fun hcause => ?_⟩⟩, fun hp hw => ?_,
    fun x f v => ⟨rfl, rfl⟩, fun n hn => ⟨fun h => ?_, fun h => ?_, fun h => ?_, fun h => ?_⟩⟩
  · exact (congrArg answer ((if_pos hc).trans ((timingError_stream hn hr hs he).trans (if_neg (by omega))))).trans (answer_whole hb)
  · exact (congrArg answer ((if_pos hc).trans ((timingError_stream hn hr hs he).trans (if_pos (by omega))))).trans
      (answer_whole ((takeFault_broken _ _ _ _ _ _).trans hb))
  · exact (congrArg answer (softError_running hc hr st store number commit)).trans (answer_whole ((takeFault_broken _ _ _ _ _ _).trans hb))
  · refine (congrArg answer ((if_pos hn).trans ?_)).trans (answer_whole hb)
    rw [Nat.mod_eq_of_lt hn]
  · have hpos : p ≠ 0 := by
      rintro rfl
      cases markOf_zero.symm.trans hm
    refine (congrArg answer ((if_neg (by omega)).trans ?_)).trans (answer_whole hb)
    rw [Nat.mul_mod_right, Nat.mul_div_cancel_left p (by decide), markBad_mark hm]
    rfl
  · subst hcur
    exact consumed_issued hp hg hv
  · obtain ⟨h, gd, item, cn, rfl, rfl, rfl⟩ := hcell
    rw [← hcur] at hm
    exact wordPoison_cellr hm hp
  · exact (congrArg answer (if_neg (by rw [h]; exact Bool.false_ne_true))).trans (answer_whole hb)
  · exact (congrArg answer (if_neg (by rw [h]; exact Bool.false_ne_true))).trans (answer_whole hb)
  · exact (congrArg answer (if_neg fun hn => Bool.noConfusion (h.symm.trans hn.1))).trans (answer_whole hb)
  · exact (congrArg answer (if_pos h)).trans (answer_whole hb)
  · obtain ⟨k, hk⟩ : ∃ k, (s.core c).task = some k := by
      have hsome : (s.core c).task.isSome = true := by
        unfold State.ctlTaken at h
        simp only [Bool.and_eq_true] at h
        exact h.1.2
      exact Option.isSome_iff_exists.1 hsome
    have htask : s.task c = k := by
      unfold State.task
      rw [hk]
      rfl
    rw [htask] at hrem hspec ⊢
    have hgo : s.ctlAbandon c w = s.abandonTask c := by
      have hnone : (s.core c).acc.filter (fun a => a.kind.spawns) = [] :=
        List.filter_eq_nil_iff.2 fun a ha hs => Bool.noConfusion ((hpub a ha).symm.trans hs)
      unfold State.ctlAbandon
      rw [if_pos h]
      dsimp only
      have hlag' : ¬ (s.core c).lagging = true := by
        rw [hlag]
        exact Bool.false_ne_true
      rw [if_neg hlag', if_neg hlag']
      unfold State.publishAll
      rw [hnone]
      rfl
    obtain ⟨hub, hut, hur, huf, hue⟩ := abandonTask_counts hk hspec hrem
    exact ⟨_, (congrArg answer hgo).trans (answer_whole (hub.trans hb)), hut, hur, huf, hue⟩
  · exact (congrArg answer (if_neg fun hn => Bool.noConfusion (hcause.symm.trans hn.2))).trans (answer_whole hb)
  · obtain ⟨hl, hp, hub, ht⟩ := dropTask_keeps (s.discard (.idem (s.task c).ctx (s.task c).lid (s.task c).gen (s.task c).index)) c
    exact ⟨_, (congrArg answer (if_pos ⟨h, hcause⟩)).trans (answer_whole (hub.trans hb)), ht, hp, hl, rfl⟩
  · refine (congrArg answer ((if_pos hp).trans ((writeRegistrar_ffCtl s hc 1).trans (if_pos ⟨hw, .inl ?_⟩)))).trans (answer_whole hb)
    decide
  · refine (congrArg answer ((if_neg (by omega)).trans ?_)).trans (answer_whole hb)
    rcases h with h | h
    · rw [h]
    · rw [h]
  · refine (congrArg answer ((if_neg (by omega)).trans ?_)).trans (answer_whole hb)
    rcases h with h | h
    · rw [h]
    · rw [h]
  · refine (congrArg answer (if_pos (.inr ?_))).trans (answer_whole hb)
    simpa using h
  · refine ⟨_, (congrArg answer (if_neg ?_)).trans (answer_whole hb), ?_⟩
    · rintro (h10 | hbad)
      · omega
      · rw [h] at hbad
        exact Bool.noConfusion hbad
    · unfold State.stream
      rw [State.core_modCore_same]
      refine unhalted_foldl _ n _ (.inl (List.mem_filter.2 ⟨?_, ?_⟩))
      · have hall : allStreams = List.range 10 := by decide
        rw [hall]
        exact List.mem_range.2 hn
      · simp

end Sys2Proof.Laws
end

section
/-! PROOF. The fault frame, the stop of a core and RESUME: O52. -/
namespace Sys2Proof.Laws
open Sys2Proof.Machine

/-! ## Folds over the streams of a core -/

/-- A fold over streams writes the table of streams, and nothing else. -/
theorem modStreams_streams (f : Nat → Stream → Stream) (l : List Nat) (x : Core) :
    l.foldl (fun (y : Core) n => y.modStream n (f n)) x = { x with streams := (l.foldl (fun (y : Core) n => y.modStream n (f n)) x).streams } := by
  induction l generalizing x with
  | nil => rfl
  | cons n l ih => exact ih _
theorem stream_modStream (x : Core) (m : Nat) (f : Stream → Stream) (n : Nat) :
    (x.modStream m f).stream n = if n = m then f (x.stream n) else x.stream n := by
  split_ifs with h
  · subst h
    exact tabGet_put_same ({} : Stream) x.streams n _
  · exact tabGet_put_other ({} : Stream) x.streams _ h
/-- Each stream of a list without repetition is written once. -/
theorem modStreams_stream (f : Nat → Stream → Stream) {l : List Nat} (hl : l.Nodup) (x : Core) (n : Nat) :
    (l.foldl (fun (y : Core) m => y.modStream m (f m)) x).stream n = if n ∈ l then f n (x.stream n) else x.stream n := by
  induction l generalizing x with
  | nil => exact (if_neg List.not_mem_nil).symm
  | cons m l ih =>
    obtain ⟨hm, hl⟩ := List.nodup_cons.1 hl
    rw [List.foldl_cons, ih hl, stream_modStream]
    by_cases hn : n = m
    · subst hn
      rw [if_neg hm, if_pos rfl, if_pos List.mem_cons_self]
    · rw [if_neg hn]
      simp only [List.mem_cons, hn, false_or]

/-! ## The frame -/

section
variable (x : Core) (st : Option Nat) (cls : Nat) (info : Word) (after : Bool)

theorem takeFault_streams : (x.takeFault st cls info after).streams = x.streams := by
  unfold Core.takeFault
  dsimp only
  split_ifs <;> rfl
/-- What every fault adds to `trapped`. -/
def trappedBy : Bool := x.trapped || !after || cls == 10 || cls == 11
/-- A frame that does not report a fault notes an after-issue one as lost. -/
def losing (f : FaultFrame) : FaultFrame :=
  if after then { f with cause := f.cause ||| BitVec.ofNat 64 (lostBit st * 2 ^ 21) } else f

theorem takeFault_first (hs : x.stopping = false) (hv : x.frame.valid = false) : x.takeFault st cls info after =
    { x with trapped := trappedBy x cls after, frame := x.frame.record cls st info after (x.task.getD {}).idem 0, stopping := true } := by
  refine (if_neg ?_).trans (if_pos ?_)
  · exact fun h => Bool.false_ne_true (hv.symm.trans (Bool.and_eq_true_iff.1 h).2)
  · exact congrArg (!·) hs
theorem takeFault_stopped (hs : x.stopping = false) (hv : x.frame.valid = true) : x.takeFault st cls info after =
    { x with trapped := trappedBy x cls after, frame := losing st after x.frame } :=
  if_pos (Bool.and_eq_true_iff.2 ⟨congrArg (!·) hs, hv⟩)
theorem stopping_not (hs : x.stopping = true) : (!x.stopping) = false := congrArg (!·) hs
theorem takeFault_later (hs : x.stopping = true) (hr : x.frame.rank ≤ faultRank cls st) : x.takeFault st cls info after =
    { x with trapped := trappedBy x cls after, frame := losing st after x.frame } := by
  have hn := stopping_not x hs
  refine (if_neg fun h => ?_).trans ((if_neg fun h => ?_).trans (if_neg ?_))
  · exact Bool.noConfusion (hn.symm.trans (Bool.and_eq_true_iff.1 h).1)
  · exact Bool.noConfusion (hn.symm.trans h)
  · exact Nat.not_lt.2 hr
theorem takeFault_better (hs : x.stopping = true) (hr : faultRank cls st < x.frame.rank) (ha : x.frame.cause.getLsbD 13 = false) :
    x.takeFault st cls info after = { x with
      trapped := trappedBy x cls after
      frame := x.frame.record cls st info after (x.task.getD {}).idem (lostOf x.frame ||| 0) } := by
  have hn := stopping_not x hs
  refine (if_neg fun h => ?_).trans ((if_neg fun h => ?_).trans ((if_pos hr).trans ?_))
  · exact Bool.noConfusion (hn.symm.trans (Bool.and_eq_true_iff.1 h).1)
  · exact Bool.noConfusion (hn.symm.trans h)
  · exact congrArg (fun n => { x with
      trapped := trappedBy x cls after
      frame := x.frame.record cls st info after (x.task.getD {}).idem (lostOf x.frame ||| n) })
      (if_neg fun h => Bool.false_ne_true (ha.symm.trans h))
end

/-- FF_CAUSE as a sum of its bits. -/
theorem causeWord_eq (cls : Nat) (after idem : Bool) (lost : Nat) : causeWord cls after idem lost =
    BitVec.ofNat 64 (cls + 2 ^ 12 + (if after then 2 ^ 13 else 0) + (if idem then 2 ^ 14 else 0) + lost * 2 ^ 21) := by
  cases after <;> cases idem <;> rfl
theorem lostBit_at (st : Option Nat) : lostBit st * 2 ^ 21 = 2 ^ (match st with | some n => 22 + n | none => 21) := by
  cases st with
  | none => rfl
  | some n =>
    have hn : n + 1 + 21 = 22 + n := by omega
    exact (Nat.pow_add 2 (n + 1) 21).symm.trans (congrArg (2 ^ ·) hn)

/-! ## The stop and RESUME -/

/-- A core as its stop leaves it (R449, R450). -/
def Core.stopped (x : Core) : Core := { x with
  tt := .faulted, stopping := false, preempt := false, yielding := false
  frame := { x.frame with pcs := x.streams.filterMap fun p => if p.2.pc = 0 then none else some (p.1, p.2.pc % 1024), rank := 0 } }

theorem stopCore_core (s : State) (c : Nat) : (s.stopCore c).core c = Core.stopped (s.core c) := by
  unfold State.stopCore State.msix State.notice
  dsimp only
  split_ifs <;> exact State.core_modCore_same s c Core.stopped

/-- An engine as RESUME leaves it: a failed command may go on. -/
def resumedEngine (g : Nat × Engine) : Nat × Engine :=
  (g.1, { g.2 with run := g.2.run.map fun r => { r with failed := false } })
/-- What RESUME makes of a core beside its streams. -/
def Core.resumed (x y : Core) : Core := { y with
  ffl := { x.frame with pcs := [] }, fflPc := x.resume.fflPc, frame := {}, tt := .run
  sh := { y.sh with engines := y.sh.engines.map resumedEngine }
  acc := x.acc.map fun a => { a with held := false, translated := a.translated && !a.held } }
/-- A stream as RESUME leaves it (R455). -/
def resumedStream (x : Core) (n : Nat) (t : Stream) : Stream :=
  if t.ended then t else { t with pc := x.frame.pcOf n, idleLoaded := false, verdict := .none }

theorem resume_eq (x : Core) :
    x.resume = Core.resumed x ((List.range 10).foldl (fun y n => y.modStream n (resumedStream x n)) x) := by
  have hengines : (fun g : Nat × Engine => (g.1, { g.2 with run := match g.2.run with
      | some r => some { r with failed := false }
      | none => none })) = resumedEngine := by
    funext g
    unfold resumedEngine
    cases g.2.run <;> rfl
  unfold Core.resumed
  rw [← hengines]
  rfl
theorem resume_keeps (x : Core) : x.resume = Core.resumed x { x with streams := x.resume.streams } :=
  (resume_eq x).trans (congrArg (Core.resumed x) (modStreams_streams (resumedStream x) (List.range 10) x))
theorem resume_stream (x : Core) (n : Nat) : x.resume.stream n = if n < 10 ∧ (x.stream n).ended = false
    then { x.stream n with pc := x.frame.pcOf n, idleLoaded := false, verdict := .none } else x.stream n := by
  refine (modStreams_stream (resumedStream x) List.nodup_range x n).trans ?_
  by_cases hn : n < 10
  · cases he : (x.stream n).ended with
    | false => exact (if_pos (List.mem_range.2 hn)).trans ((if_neg (by rw [he]; exact Bool.false_ne_true)).trans (if_pos ⟨hn, rfl⟩).symm)
    | true => exact (if_pos (List.mem_range.2 hn)).trans ((if_pos he).trans (if_neg fun h => Bool.false_ne_true h.2.symm).symm)
  · exact (if_neg fun h => hn (List.mem_range.1 h)).trans (if_neg fun h => hn h.1).symm

/-- Settles O52: the branches of a fault's entry, the stop's update and RESUME's fold over the streams. -/
theorem faultFrameStopAndResume : Obligations.FaultFrameStopAndResume := by
  unfold Obligations.FaultFrameStopAndResume
  refine ⟨fun x st cls info after => ?_, fun n m cls hc hn hm => ⟨?_, ?_, ?_⟩, fun s c st cls info hc => ⟨?_, fun n => ?_⟩, fun s c => ?_,
    fun x => ?_⟩
  · intro y cause lostAt trapped lost kept framed
    have hkept : { x with trapped := trappedBy x cls after, frame := losing st after x.frame } = kept := by
      have hl : losing st after x.frame = { x.frame with cause := lost } := by
        unfold losing
        dsimp only [lost]
        rw [lostBit_at]
        split_ifs <;> rfl
      exact congrArg (fun f => { x with trapped := trappedBy x cls after, frame := f }) hl
    refine ⟨fun hs hv => ?_, fun hs hv => (takeFault_stopped x st cls info after hs hv).trans hkept,
      fun hs hr => (takeFault_later x st cls info after hs hr).trans hkept, fun hs hr ha => ?_⟩
    · refine (takeFault_first x st cls info after hs hv).trans ?_
      unfold FaultFrame.record
      rw [causeWord_eq, Nat.zero_mul]
      rfl
    · refine (takeFault_better x st cls info after hs hr ha).trans ?_
      unfold FaultFrame.record
      rw [causeWord_eq, Nat.or_zero]
      exact congrArg (fun b => { framed (BitVec.ofNat 64 (cause + slice x.frame.cause.toNat 21 11 * 2 ^ 21)) with stopping := b }) hs
  · unfold faultRank
    rw [if_pos rfl, if_neg hc]
    exact Nat.lt_add_right n (by decide)
  · unfold faultRank
    rw [if_neg hc, if_neg hc]
    exact Nat.add_lt_add_left hn 2
  · unfold faultRank
    rw [if_neg hc, if_neg (by decide)]
    exact Nat.add_lt_add_left hm 2 |>.trans (by decide)
  · rw [takeFault_core s c st cls info true hc]
    refine (State.core_modCore_same s c _).trans ?_
    cases st <;> rfl
  · rw [takeFault_core s c (some n) cls info false hc]
    refine (congrArg (Core.stream · n) (State.core_modCore_same s c _)).trans ?_
    refine (stream_modStream ((s.core c).takeFault (some n) cls info false) n (fun t => { t with verdict := .faulted }) n).trans
      ((if_pos rfl).trans ?_)
    exact congrArg (fun l => { tabGet ({} : Stream) l n with verdict := .faulted }) (takeFault_streams (s.core c) (some n) cls info false)
  · dsimp only
    rw [stopCore_core]
    exact ⟨rfl, rfl, rfl, rfl, rfl, rfl, rfl, rfl, rfl, fun p hp hz => List.mem_filterMap.2 ⟨p, hp, if_neg hz⟩⟩
  · intro y
    have hy : y = _ := resume_keeps x
    exact ⟨congrArg Core.tt hy, congrArg Core.frame hy, congrArg Core.ffl hy, (congrArg Core.flight hy).trans rfl, (congrArg Core.sh hy).trans rfl, congrArg Core.acc hy,
      resume_stream x⟩

end Sys2Proof.Laws
end

section
/-! PROOF. Where a result lands: O53. -/
namespace Sys2Proof.Laws
open Sys2Proof.Machine

/-! ## What a write of a result leaves in each table -/

section
variable {α : Type} [DecidableEq α] (d : α) (t : Tab α)

/-- A table after one entry was set. -/
theorem tabGet_set (k : Nat) (v : α) (n : Nat) : tabGet d (tabSet d t k v) n = if n = k then v else tabGet d t n := by
  split_ifs with h
  · subst h
    exact tabGet_set_same d t n v
  · exact tabGet_set_other d t v h
end

/-- A destination that is one register, seen from register n. -/
theorem ite_eq_of_iff {α : Sort _} {p q : Prop} [Decidable p] [Decidable q] (h : p ↔ q) (a b : α) : (if p then a else b) = if q then a else b := by
  by_cases hp : p
  · rw [if_pos hp, if_pos (h.1 hp)]
  · rw [if_neg hp, if_neg fun hq => hp (h.2 hq)]

section
variable (t : Stream) (d : Dest) (val : BitVec 1024) (tag : Bool)

theorem write_g (n : Nat) : tabGet 0 (t.write d val tag).g n = if d = .g n then val.setWidth 64 else tabGet 0 t.g n := by
  cases d with
  | g m => exact (tabGet_set 0 t.g m _ n).trans (ite_eq_of_iff ⟨fun h => congrArg Dest.g h.symm, fun h => (Dest.g.inj h).symm⟩ _ _)
  | _ => rfl
theorem write_k (n : Nat) : tabGet 0 (t.write d val tag).k n = if d = .k n then val.setWidth 32 else tabGet 0 t.k n := by
  cases d with
  | k m => exact (tabGet_set 0 t.k m _ n).trans (ite_eq_of_iff ⟨fun h => congrArg Dest.k h.symm, fun h => (Dest.k.inj h).symm⟩ _ _)
  | _ => rfl
theorem write_lc (n : Nat) : tabGet 0 (t.write d val tag).lc n = if d = .lc n then val.setWidth 32 else tabGet 0 t.lc n := by
  cases d with
  | lc m => exact (tabGet_set 0 t.lc m _ n).trans (ite_eq_of_iff ⟨fun h => congrArg Dest.lc h.symm, fun h => (Dest.lc.inj h).symm⟩ _ _)
  | _ => rfl
theorem write_c (n : Nat) : tabGet {} (t.write d val tag).c n = if d = .c n then ⟨val.setWidth 128, tag⟩ else tabGet {} t.c n := by
  cases d with
  | c m => exact (tabGet_set {} t.c m _ n).trans (ite_eq_of_iff ⟨fun h => congrArg Dest.c h.symm, fun h => (Dest.c.inj h).symm⟩ _ _)
  | _ => rfl
theorem write_link : (t.write d val tag).link = if d = .link then val.setWidth 256 else t.link := by
  cases d <;> rfl
theorem write_keeps : t.write d val tag = { t with
    g := (t.write d val tag).g, k := (t.write d val tag).k, lc := (t.write d val tag).lc, c := (t.write d val tag).c
    link := (t.write d val tag).link, v := (t.write d val tag).v } := by
  cases d <;> rfl
end

/-- One register of a line: 384 and above are no registers (R275). -/
def linePart (val : BitVec 1024) (v : Tab Vec) (r i : Nat) : Tab Vec :=
  if 384 ≤ r then v else tabSet 0 v r ((val >>> (256 * i)).setWidth 256)

theorem linePart_get (val : BitVec 1024) (v : Tab Vec) (r i : Nat) {n : Nat} (hn : n < 384) :
    tabGet 0 (linePart val v r i) n = if n = r then (val >>> (256 * i)).setWidth 256 else tabGet 0 v n := by
  unfold linePart
  split_ifs with hr h h
  · omega
  · rfl
  · rw [tabGet_set, if_pos h]
  · rw [tabGet_set, if_neg h]
theorem write_line (t : Stream) (a b e f : Nat) (val : BitVec 1024) (tag : Bool) {n : Nat} (hn : n < 384) :
    tabGet 0 (t.write (.line a b e f) val tag).v n =
      if n = f then (val >>> (256 * 3)).setWidth 256 else if n = e then (val >>> (256 * 2)).setWidth 256
      else if n = b then (val >>> (256 * 1)).setWidth 256 else if n = a then (val >>> (256 * 0)).setWidth 256 else tabGet 0 t.v n := by
  refine (linePart_get val (linePart val (linePart val (linePart val t.v a 0) b 1) e 2) f 3 hn).trans ?_
  rw [linePart_get _ _ _ _ hn, linePart_get _ _ _ _ hn, linePart_get _ _ _ _ hn]

/-! ## The destination that a port names (R49, R75, R77) -/

/-- The destination of a port that is seen as v. -/
def destOfView (t : Stream) (id : Nat) : Encoding.PortView → Dest
  | .v n => .v (physV t.rrbV n)
  | .g n => .g n
  | .k n => if n = 63 then .none else .k (physK t.rrbK n)
  | .q n => .q n id
  | .link _ => .link
  | .c n => .c n
  | .special n => if 0x2C4 ≤ n ∧ n ≤ 0x2C7 then .lc (n - 0x2C4) else .none
  | _ => .none

theorem destOf_view (t : Stream) {p : Port} (id : Nat) {v : Encoding.PortView} (h : Encoding.view p = v) : destOf t p id = destOfView t id v := by
  subst h
  unfold destOf destOfView
  cases Encoding.view p <;> rfl

/-! ## A result lands -/

theorem shadow_eq (x : Core) (f : Flight) : ∃ acc flight, x.shadow f = { x with acc := acc, flight := flight } := by
  unfold Core.shadow
  split
  · exact ⟨x.acc, x.flight, rfl⟩
  · exact ⟨x.acc, x.flight, rfl⟩
  · dsimp only
    split_ifs
    · exact ⟨_, _, rfl⟩
    · exact ⟨x.acc, x.flight, rfl⟩

/-- A stream that has taken a result. -/
def Stream.landed (t : Stream) (f : Flight) : Stream := ((t.write f.dest f.val f.tag).writeLatch f.unit f.val f.tag).addFlags f.flags
/-- The shared records of a core whose queue has taken a result. -/
def Shared.landed (x : Shared) (f : Flight) : Shared := match f.dest with
  | .q n id => x.setQueue n ((x.queue n).fill id (f.val.setWidth 256))
  | _ => x
/-- A core that has taken a result. -/
def Core.landed (x : Core) (f : Flight) : Core :=
  let y := x.modStream f.stream (Stream.landed · f)
  (match f.dest with
    | .q n id => { y with sh := y.sh.setQueue n ((y.sh.queue n).fill id (f.val.setWidth 256)) }
    | _ => y).shadow f

theorem core_landed (x : Core) (f : Flight) : ∃ acc flight, Core.landed x f =
    { x.modStream f.stream (Stream.landed · f) with sh := Shared.landed x.sh f, acc := acc, flight := flight } := by
  obtain ⟨acc, flight, h⟩ := shadow_eq { x.modStream f.stream (Stream.landed · f) with sh := Shared.landed x.sh f } f
  refine ⟨acc, flight, Eq.trans ?_ h⟩
  unfold Core.landed Shared.landed
  cases f.dest <;> rfl
/-- The marks that a result heals (R466). -/
def healedBy (c : Nat) (f : Flight) : Mark → Bool
  | .vreg d st n => d == c && st == f.stream && (match f.dest with | .v k => k == n | .line a b e g => [a, b, e, g].contains n | _ => false)
  | _ => false

/-- What a result's landing leaves, but for the fault of its flags. -/
def State.landed (s : State) (c : Nat) (f : Flight) : State := (s.modCore c (Core.landed · f)).heal (healedBy c f)

theorem landFlight_eq (s : State) (c : Nat) (f : Flight) : s.landFlight c f =
    if (((State.landed s c f).core c).task.isSome || isLbp c) && enabledFlags ((State.landed s c f).stream c f.stream).status f.flags != 0
    then (State.landed s c f).takeFault c (some f.stream) 7 (f.flags.setWidth 64) true else State.landed s c f := rfl

/-! ## What the landing leaves -/

theorem mem_heal_marks (s : State) (p : Mark → Bool) (m : Mark) : m ∈ (s.heal p).marks ↔ m ∈ s.marks ∧ p m = false := by
  unfold State.heal
  split
  · next h => simp [h]
  · simp

section
variable {s : State} {c : Nat} {f : Flight}

theorem landed_core : ∃ acc flight, (State.landed s c f).core c =
    { (s.core c).modStream f.stream (Stream.landed · f) with sh := Shared.landed (s.core c).sh f, acc := acc, flight := flight } := by
  obtain ⟨acc, flight, h⟩ := core_landed (s.core c) f
  exact ⟨acc, flight, ((heal_core _ _ c).trans (State.core_modCore_same s c _)).trans h⟩
theorem landed_stream (m : Nat) : (State.landed s c f).stream c m = if m = f.stream then Stream.landed (s.stream c m) f else s.stream c m := by
  obtain ⟨acc, flight, h⟩ := landed_core (s := s) (c := c) (f := f)
  refine (congrArg (Core.stream · m) h).trans ?_
  exact stream_modStream (s.core c) f.stream (Stream.landed · f) m
theorem landed_marks {m : Mark} : m ∈ (State.landed s c f).marks ↔ m ∈ s.marks ∧ healedBy c f m = false :=
  mem_heal_marks (s.modCore c (Core.landed · f)) (healedBy c f) m

/-- What an enabled flag's fault adds beside the core's frame (R110). -/
theorem landFlight_cases (hc : c < 128) :
    (enabledFlags ((State.landed s c f).stream c f.stream).status f.flags = 0 ∨ ((State.landed s c f).core c).task = none) ∧ s.landFlight c f = State.landed s c f ∨
    (enabledFlags ((State.landed s c f).stream c f.stream).status f.flags ≠ 0 ∧ ((State.landed s c f).core c).task.isSome = true) ∧
      s.landFlight c f = (State.landed s c f).modCore c fun x => x.takeFault (some f.stream) 7 (f.flags.setWidth 64) true := by
  have hl : isLbp c = false := decide_eq_false (Nat.not_le.2 hc)
  rw [landFlight_eq, hl, Bool.or_false]
  split_ifs with h
  · obtain ⟨ht, he⟩ := Bool.and_eq_true_iff.1 h
    exact .inr ⟨⟨bne_iff_ne.1 he, ht⟩, takeFault_after hl⟩
  · refine .inl ⟨?_, rfl⟩
    by_cases he : enabledFlags ((State.landed s c f).stream c f.stream).status f.flags = 0
    · exact .inl he
    · refine .inr (Option.not_isSome_iff_eq_none.1 fun ht => h ?_)
      rw [ht, Bool.true_and]
      exact bne_iff_ne.2 he
end

/-- A fault of the flags leaves the streams, the shared records, memory and the marks as they were. -/
theorem landFlight_keeps (s : State) {c : Nat} (f : Flight) (hc : c < 128) :
    (∀ m, (s.landFlight c f).stream c m = (State.landed s c f).stream c m) ∧ (s.landFlight c f).sh c = (State.landed s c f).sh c ∧
    (s.landFlight c f).dev = s.dev ∧ (s.landFlight c f).host = s.host ∧ (s.landFlight c f).marks = (State.landed s c f).marks := by
  have hk : (State.landed s c f).dev = s.dev ∧ (State.landed s c f).host = s.host := by
    unfold State.landed State.heal
    split <;> exact ⟨rfl, rfl⟩
  obtain ⟨hdev, hhost⟩ := hk
  obtain ⟨-, h⟩ | ⟨-, h⟩ := landFlight_cases (s := s) (f := f) hc
  · rw [h]
    exact ⟨fun _ => rfl, rfl, hdev, hhost, rfl⟩
  · rw [h]
    have hcore := State.core_modCore_same (State.landed s c f) c fun x => x.takeFault (some f.stream) 7 (f.flags.setWidth 64) true
    obtain ⟨fr, stop, trap, hx⟩ := core_takeFault ((State.landed s c f).core c) (some f.stream) 7 (f.flags.setWidth 64) true
    have hcore := hcore.trans hx
    exact ⟨fun m => (congrArg (Core.stream · m) hcore).trans rfl, (congrArg Core.sh hcore).trans rfl, hdev, hhost, rfl⟩

section
variable (t : Stream) (f : Flight)

theorem writeLatch_keeps (u : Nat) (val : BitVec 1024) (tag : Bool) :
    t.writeLatch u val tag = { t with latch := (t.writeLatch u val tag).latch, cuTag := (t.writeLatch u val tag).cuTag } := by
  unfold Stream.writeLatch
  dsimp only
  split_ifs <;> rfl
/-- A result writes its register, its latch and the flags of STATUS, each on its own. -/
theorem landed_eq : Stream.landed t f = { t.write f.dest f.val f.tag with
    latch := (t.writeLatch f.unit f.val f.tag).latch, cuTag := (t.writeLatch f.unit f.val f.tag).cuTag
    status := t.status ||| f.flags.setWidth 32 } := by
  unfold Stream.landed Stream.addFlags
  rw [writeLatch_keeps, write_keeps]
  unfold Stream.writeLatch
  dsimp only
  split_ifs <;> rfl
theorem landed_status : (Stream.landed t f).status = t.status ||| f.flags.setWidth 32 := congrArg Stream.status (landed_eq t f)
theorem landed_latch (n : Nat) :
    tabGet 0 (Stream.landed t f).latch n = if n = f.unit ∧ n < 9 then f.val.setWidth 256 else tabGet 0 t.latch n := by
  have hl : (Stream.landed t f).latch = if 9 ≤ f.unit then t.latch else tabSet 0 t.latch f.unit (f.val.setWidth 256) := by
    refine (congrArg Stream.latch (landed_eq t f)).trans ?_
    unfold Stream.writeLatch
    dsimp only
    split_ifs <;> rfl
  rw [hl]
  by_cases hu : 9 ≤ f.unit
  · rw [if_pos hu, if_neg]
    omega
  · rw [if_neg hu, tabGet_set]
    exact ite_eq_of_iff ⟨fun h => ⟨h, by omega⟩, And.left⟩ _ _
end

/-- The flags that a landing raises do not touch the enables that judge it. -/
theorem enabledFlags_or (w : BitVec 32) (f : Flags) : enabledFlags (w ||| f.setWidth 32) f = enabledFlags w f := by
  unfold enabledFlags
  ext i hi
  simp only [BitVec.getElem_and, BitVec.getElem_setWidth, BitVec.getLsbD_ushiftRight, BitVec.getLsbD_or, BitVec.getLsbD_setWidth]
  rw [BitVec.getLsbD_of_ge f (16 + i) (by omega), Bool.and_false, Bool.or_false]

theorem landFlight_landed (s : State) {c : Nat} (f : Flight) (hc : c < 128) :
    (s.landFlight c f).stream c f.stream = Stream.landed (s.stream c f.stream) f :=
  ((landFlight_keeps s f hc).1 f.stream).trans ((landed_stream f.stream).trans (if_pos rfl))
theorem landFlight_g (s : State) {c : Nat} {f : Flight} {n : Nat} (hc : c < 128) (hd : f.dest = .g n) :
    tabGet 0 ((s.landFlight c f).stream c f.stream).g n = f.val.setWidth 64 := by
  rw [landFlight_landed s f hc, landed_eq]
  exact (write_g _ f.dest f.val f.tag n).trans (if_pos hd)

/-- The class that a cause word carries. -/
theorem causeWord_class {cls : Nat} {after idem : Bool} (h : cls < 256) : slice (causeWord cls after idem 0).toNat 0 8 = cls := by
  rw [causeWord_eq]
  unfold slice
  cases after <;> cases idem <;> simp <;> omega

/-- Where a result's flags are not enabled, or its task has retired, no fault comes; else class 7 takes the frame of a running core. -/
theorem landFlight_fault (s : State) {c : Nat} (f : Flight) (hc : c < 128) (hs : (s.core c).stopping = false) (hv : (s.core c).frame.valid = false) :
    (enabledFlags (s.stream c f.stream).status f.flags = 0 ∨ (s.core c).task = none → ((s.landFlight c f).core c).stopping = false) ∧
    (enabledFlags (s.stream c f.stream).status f.flags ≠ 0 → (s.core c).task.isSome = true →
      ((s.landFlight c f).core c).stopping = true ∧ ((s.landFlight c f).core c).frame.info = f.flags.setWidth 64 ∧
      slice ((s.landFlight c f).core c).frame.cause.toNat 0 8 = 7) := by
  have hen : enabledFlags ((State.landed s c f).stream c f.stream).status f.flags = enabledFlags (s.stream c f.stream).status f.flags := by
    rw [landed_stream, if_pos rfl, landed_status, enabledFlags_or]
  obtain ⟨acc, flight, hl⟩ := landed_core (s := s) (c := c) (f := f)
  have htask : ((State.landed s c f).core c).task = (s.core c).task := (congrArg Core.task hl).trans rfl
  have hstop : ((State.landed s c f).core c).stopping = false := (congrArg Core.stopping hl).trans hs
  have hvalid : ((State.landed s c f).core c).frame.valid = false := (congrArg (fun x : Core => x.frame.valid) hl).trans hv
  obtain ⟨hno, h⟩ | ⟨⟨he, ht⟩, h⟩ := landFlight_cases (s := s) (f := f) hc
  · rw [hen, htask] at hno
    rw [h]
    refine ⟨fun _ => hstop, fun he ht => ?_⟩
    obtain hno | hno := hno
    · exact absurd hno he
    · rw [hno] at ht
      exact Bool.noConfusion ht
  · rw [hen] at he
    rw [htask] at ht
    rw [h]
    refine ⟨fun hno => ?_, fun _ _ => ?_⟩
    · obtain hno | hno := hno
      · exact absurd hno he
      · rw [hno] at ht
        exact Bool.noConfusion ht
    · rw [State.core_modCore_same, takeFault_first _ _ _ _ _ hstop hvalid]
      exact ⟨rfl, rfl, causeWord_class (by decide)⟩

/-- ZERO reads 0 in every stream (R77). -/
theorem portValue_zero (s : State) (c st : Nat) : portValue s c st 0x2C0 = 0 := by
  have hz : specialOf s c st 0x2C0 = 0 := by
    unfold specialOf
    simp
  exact congrArg (BitVec.setWidth 256) hz

/-- A result one cycle nearer to its landing. -/
def Flight.nearer (f : Flight) : Flight := { f with left := f.left - 1 }
/-- A core that is not in SAVE lands its results in issue order. -/
theorem land_eq {s : State} {c : Nat} (htt : (s.core c).tt ≠ .save) (hne : (s.core c).flight ≠ []) : s.land c =
    ((((s.core c).flight.map Flight.nearer).filter fun f => f.left == 0).foldr insertFlight []).foldl (fun (s : State) f => s.landFlight c f)
      (s.modCore c fun x => { x with flight := ((s.core c).flight.map Flight.nearer).filter fun f => !(f.left == 0) }) := by
  have hm : ((s.core c).tt != .save) = true := bne_iff_ne.2 htt
  refine (if_neg fun h => hne (List.isEmpty_iff.1 h)).trans ?_
  simp only [hm, Bool.true_or, if_true, Bool.and_true]
  rfl
/-- Results that do not land come nearer. -/
theorem land_flight {s : State} {c : Nat} (htt : (s.core c).tt ≠ .save) (hl : ∀ f ∈ (s.core c).flight, 2 ≤ f.left) :
    ((s.land c).core c).flight = (s.core c).flight.map Flight.nearer := by
  by_cases hne : (s.core c).flight = []
  · have hs : s.land c = s := if_pos (List.isEmpty_iff.2 hne)
    rw [hs, hne]
    rfl
  · have hleft : ∀ f ∈ (s.core c).flight.map Flight.nearer, (f.left == 0) = false := fun f hf => by
      obtain ⟨g, hg, rfl⟩ := List.mem_map.1 hf
      have h2 := hl g hg
      exact beq_eq_false_iff_ne.2 (show g.left - 1 ≠ 0 by omega)
    have hnone : ((s.core c).flight.map Flight.nearer).filter (fun f => f.left == 0) = [] :=
      List.filter_eq_nil_iff.2 fun f hf => by rw [hleft f hf]; exact Bool.false_ne_true
    have hall : ((s.core c).flight.map Flight.nearer).filter (fun f => !(f.left == 0)) = (s.core c).flight.map Flight.nearer :=
      List.filter_eq_self.2 fun f hf => by rw [hleft f hf]; rfl
    rw [land_eq htt hne, hnone, hall]
    exact congrArg Core.flight (State.core_modCore_same s c fun x => { x with flight := (s.core c).flight.map Flight.nearer })

/-- Settles O53: the table a result writes by its destination, and the fault's entry after it; two results of one register land in issue order. -/
theorem resultsLandInTheirDestinations : Obligations.ResultsLandInTheirDestinations := by
  unfold Obligations.ResultsLandInTheirDestinations
  refine ⟨fun t p id => ⟨fun n h => destOf_view t id h, fun n h h63 => (destOf_view t id h).trans (if_neg h63), fun n h => destOf_view t id h,
      fun n h => destOf_view t id h, fun n h => destOf_view t id h, fun h => ⟨destOf_view t id h, rfl⟩,
      fun n hn h => (destOf_view t id h).trans ?_⟩,
    fun t s c st id => ⟨rfl, ?_, rfl⟩, fun t d val tag => ?_, fun s c f hc => ?_, fun s c hc htt => ⟨fun hl => ?_, fun f hf hl => ?_, ?_⟩⟩
  · refine (if_pos (by omega)).trans (congrArg Dest.lc ?_)
    omega
  · exact portValue_zero s c st
  · refine ⟨write_g t d val tag, write_k t d val tag, write_lc t d val tag, write_c t d val tag, write_link t d val tag, fun n hn => ?_,
      write_keeps t d val tag⟩
    cases d with
    | v m => exact tabGet_set 0 t.v m _ n
    | line a b e f => exact write_line t a b e f val tag hn
    | _ => rfl
  · intro t x u
    obtain ⟨hstream, hsh, hdev, hhost, hmarks⟩ := landFlight_keeps s f hc
    have hu : u = Stream.landed t f := landFlight_landed s f hc
    have hw : u = { t.write f.dest f.val f.tag with
        latch := (t.writeLatch f.unit f.val f.tag).latch, cuTag := (t.writeLatch f.unit f.val f.tag).cuTag
        status := t.status ||| f.flags.setWidth 32 } := hu.trans (landed_eq t f)
    refine ⟨fun n hd => ?_, fun n hd => ?_, fun n hd => ?_, fun n => ?_, congrArg Stream.status hw, fun m hm => ?_, fun n id hd => ?_, hdev, hhost,
      fun m hm => ?_, fun n hd hm => ?_, fun hs hv => landFlight_fault s f hc hs hv⟩
    · exact landFlight_g s hc hd
    · refine (congrArg (fun y : Stream => tabGet 0 y.v n) hw).trans ?_
      rw [hd]
      exact tabGet_set_same 0 t.v n _
    · exact (congrArg (fun y : Stream => tabGet {} y.c n) hw).trans ((write_c t f.dest f.val f.tag n).trans (if_pos hd))
    · exact (congrArg (fun y : Stream => tabGet 0 y.latch n) hu).trans (landed_latch t f n)
    · exact (hstream m).trans ((landed_stream m).trans (if_neg hm))
    · obtain ⟨acc, flight, hl⟩ := landed_core (s := s) (c := c) (f := f)
      refine (congrArg (fun y : Shared => y.queue n) (hsh.trans (congrArg Core.sh hl))).trans ?_
      unfold Shared.landed
      rw [hd]
      exact tabGet_set_same ({} : Queue) _ n _
    · rw [hmarks] at hm
      exact (landed_marks.1 hm).1
    · rw [hmarks] at hm
      have hh := (landed_marks.1 hm).2
      unfold healedBy at hh
      rw [hd] at hh
      simp at hh
  · exact land_flight htt hl
  · have hz : (Flight.nearer f).left = 0 := congrArg (· - 1) hl
    have hn : Flight.nearer f = { f with left := 0 } := congrArg (fun n => { f with left := n }) hz
    rw [land_eq htt (by rw [hf]; exact List.cons_ne_nil f []), hf]
    simp only [List.map_cons, List.map_nil, hn]
    rfl
  · intro f g n hfg hf hg hid hst hdf hdg
    have hnf : Flight.nearer f = { f with left := 0 } := congrArg (fun n => { f with left := n }) (congrArg (· - 1) hf)
    have hng : Flight.nearer g = { g with left := 0 } := congrArg (fun n => { g with left := n }) (congrArg (· - 1) hg)
    have hbefore : flightBefore { g with left := 0 } { f with left := 0 } = false := by
      simpa [flightBefore] using hid
    have hsorted : insertFlight { f with left := 0 } [{ g with left := 0 }] = [{ f with left := 0 }, { g with left := 0 }] :=
      if_neg (by rw [hbefore]; exact Bool.false_ne_true)
    rw [land_eq htt (by rw [hfg]; exact List.cons_ne_nil f [g]), hfg]
    simp only [List.map_cons, List.map_nil, hnf, hng]
    refine (congrArg (fun l : List Flight => tabGet 0 ((l.foldl (fun (s : State) f => s.landFlight c f)
      (s.modCore c fun x => { x with flight := [] })).stream c g.stream).g n) hsorted).trans ?_
    exact landFlight_g _ (f := { g with left := 0 }) hc hdg

end Sys2Proof.Laws
end

section
/-! PROOF. What a word's issue leaves alone: memory, register files, STATUS, FFL and DBG. The operations that words are made of. -/
namespace Sys2Proof.Laws
open Sys2Proof.Machine

/-! ## Cores that keep their registers -/

/-- A core keeps what results are written into, STATUS, the FFL registers and DBG. -/
structure CalmCore (x y : Core) : Prop where
  regs : (y.ffl, y.fflPc, y.dbg) = (x.ffl, x.fflPc, x.dbg)
  streams : ∀ n, ((y.stream n).files, (y.stream n).status) = ((x.stream n).files, (x.stream n).status)

theorem CalmCore.refl (x : Core) : CalmCore x x := ⟨rfl, fun _ => rfl⟩
theorem CalmCore.trans {x y z : Core} (h : CalmCore x y) (k : CalmCore y z) : CalmCore x z :=
  ⟨k.regs.trans h.regs, fun n => (k.streams n).trans (h.streams n)⟩
/-- An update of a core's other parts. -/
theorem CalmCore.same {x y : Core} (h : (y.streams, y.ffl, y.fflPc, y.dbg) = (x.streams, x.ffl, x.fflPc, x.dbg)) : CalmCore x y :=
  ⟨congrArg Prod.snd h, fun n => congrArg (fun l : Tab Stream => ((tabGet {} l n : Stream).files, (tabGet {} l n : Stream).status)) (congrArg Prod.fst h)⟩
theorem CalmCore.modStream {f : Stream → Stream} (x : Core) (n : Nat) (hf : ∀ t, ((f t).files, (f t).status) = (t.files, t.status)) :
    CalmCore x (x.modStream n f) := by
  refine ⟨rfl, fun m => ?_⟩
  rw [stream_modStream]
  split_ifs
  · exact hf _
  · rfl
theorem CalmCore.takeFault (x : Core) (st : Option Nat) (cls : Nat) (info : Word) (after : Bool) : CalmCore x (x.takeFault st cls info after) := by
  obtain ⟨frame, stop, trap, h⟩ := core_takeFault x st cls info after
  rw [h]
  exact .same rfl

/-! ## States whose cores do -/

/-- Every core keeps its registers. -/
def Calm (s t : State) : Prop := ∀ c, CalmCore (s.core c) (t.core c)
/-- Every core keeps its registers, and memory its bytes and tags. -/
def Still (s t : State) : Prop := memories t = memories s ∧ Calm s t

theorem Calm.refl (s : State) : Calm s s := fun _ => .refl _
theorem Calm.trans {s t u : State} (h : Calm s t) (k : Calm t u) : Calm s u := fun c => (h c).trans (k c)
theorem Calm.same {s t : State} (h : (t.cores, t.rest) = (s.cores, s.rest)) : Calm s t := fun c =>
  .same (congrArg (fun p : Tab Core × Core => ((tabGet p.2 p.1 c).streams, (tabGet p.2 p.1 c).ffl, (tabGet p.2 p.1 c).fflPc, (tabGet p.2 p.1 c).dbg)) h)
theorem CacheOnly.calm {s t : State} (h : CacheOnly s t) : Calm s t := fun c => by
  rw [h.cores c]
  exact .same rfl
theorem calm_modCore {f : Core → Core} (s : State) (c : Nat) (hf : ∀ x, CalmCore x (f x)) : Calm s (s.modCore c f) := fun d => by
  by_cases hd : d = c
  · subst hd
    rw [State.core_modCore_same]
    exact hf _
  · rw [State.core_modCore_other s f hd]
    exact .refl _

theorem Still.calm {s t : State} (h : Still s t) : Calm s t := h.2
theorem Still.refl (s : State) : Still s s := ⟨rfl, .refl s⟩
theorem Still.trans {s t u : State} (h : Still s t) (k : Still t u) : Still s u := ⟨k.1.trans h.1, h.2.trans k.2⟩
theorem Still.mild {s t : State} (h : Still s t) : Mild s t := .same h.1
/-- An update beside the cores and the memories. -/
theorem Still.same {s t : State} (h : (memories t, t.cores, t.rest) = (memories s, s.cores, s.rest)) : Still s t :=
  ⟨congrArg Prod.fst h, .same (congrArg Prod.snd h)⟩
theorem Still.ite {s : State} {p : Prop} [Decidable p] {t u : State} (ht : Still s t) (hu : Still s u) : Still s (if p then t else u) := by
  split
  · exact ht
  · exact hu
theorem Still.foldl {α : Type} {f : State → α → State} (hf : ∀ s x, Still s (f s x)) (l : List α) (s : State) : Still s (l.foldl f s) := by
  induction l generalizing s with
  | nil => exact .refl s
  | cons x l ih => exact (hf s x).trans (ih _)
theorem still_modCore {f : Core → Core} (s : State) (c : Nat) (hf : ∀ x, CalmCore x (f x)) : Still s (s.modCore c f) := ⟨rfl, calm_modCore s c hf⟩
theorem still_modStream {f : Stream → Stream} (s : State) (c n : Nat) (hf : ∀ t, ((f t).files, (f t).status) = (t.files, t.status)) :
    Still s (s.modStream c n f) := still_modCore s c fun x => .modStream x n hf
theorem still_modSh (s : State) (c : Nat) (f : Shared → Shared) : Still s (s.modSh c f) := still_modCore s c fun _ => .same rfl
theorem still_share (s : State) (f : Shared → Shared) : Still s (s.share f) := still_modSh s s.curCore f
theorem still_field (s : State) (f : Dda → Dda) : Still s (s.field f) := still_share s _
theorem still_modOwn {f : Stream → Stream} (s : State) (hf : ∀ t, ((f t).files, (f t).status) = (t.files, t.status)) : Still s (s.modOwn f) :=
  still_modStream s _ _ hf
theorem still_modCur {f : Core → Core} (s : State) (hf : ∀ x, CalmCore x (f x)) : Still s (s.modCur f) := still_modCore s _ hf
theorem still_tickSeq (s : State) : Still s s.tickSeq := .same rfl
theorem still_takeFree (s : State) : Still s s.takeFree.2 := .same rfl
theorem still_heal (s : State) (p : Mark → Bool) : Still s (s.heal p) := by
  unfold State.heal
  split
  · exact .refl s
  · exact .same rfl

theorem still_takeFault (s : State) (c : Nat) (st : Option Nat) (cls : Nat) (info : Word) (after : Bool) : Still s (s.takeFault c st cls info after) := by
  unfold State.takeFault
  split
  · exact Still.trans (.same rfl) (still_modStream _ c 0 fun _ => rfl)
  · refine still_modCore s c fun x => ?_
    dsimp only
    split
    · split
      · exact .takeFault x _ cls info after
      · exact (CalmCore.takeFault x _ cls info after).trans (.modStream _ _ fun _ => rfl)
    · exact .takeFault x _ cls info after

/-! ## Reading ports and delivering results -/

theorem still_read (s : State) (p : Port) : Still s (s.read p).2 := by
  unfold State.read
  dsimp only
  split
  · exact still_modSh s _ _
  · exact .refl s
theorem still_readInt (s : State) (p : Port) : Still s (s.readInt p).2 := still_read s p
theorem still_storeData (s : State) (w : BitVec 3) (p : Port) : Still s (storeData s w p).2 := by
  unfold storeData
  split
  · exact .refl s
  · exact still_read s p

section
variable (s : State) (unit lat : Nat) (p : Port) (val : BitVec 1024)

theorem still_deliverTo (flags : BitVec 6) (tag : Bool) : Still s (s.deliverTo unit lat p val flags tag) := by
  unfold State.deliverTo
  dsimp only
  refine (still_tickSeq s).trans ?_
  split
  · refine (still_modSh _ _ _).trans (.ite (.refl _) (still_modCore _ _ fun _ => .same rfl))
  · exact still_modCore _ _ fun _ => .same rfl
theorem still_reserveTo : Still s (s.reserveTo unit lat p val) := by
  unfold State.reserveTo
  dsimp only
  refine (still_tickSeq s).trans (Still.trans ?_ (still_modCore _ _ fun _ => .same rfl))
  split
  · exact still_modSh _ _ _
  · exact .refl _
end
theorem still_deliverG (s : State) (lat : Nat) (gd : BitVec 6) (v : Word) : Still s (s.deliverG lat gd v) := still_deliverTo s 15 lat _ _ _ _
theorem still_enter (s : State) (a : Access) (w : BitVec 3) (p : Option Port) : Still s (s.enter a w p) := by
  unfold State.enter
  dsimp only
  refine (still_tickSeq s).trans (Still.trans ?_ (still_modCore _ _ fun _ => .same rfl))
  split
  · exact still_modSh _ _ _
  · exact .refl _
theorem still_rendezvous (s : State) (mask : BitVec 4) : Still s (s.rendezvous mask) := still_enter s _ _ _

/-! ## The life of a word -/

theorem still_block (s : State) (c st : Nat) : Still s (s.block c st) := still_modStream s c st fun _ => rfl
theorem still_retire (s : State) (c st next : Nat) (taken : Bool) : Still s (s.retire c st next taken) :=
  still_modStream s c st fun _ => by cases taken <;> rfl
theorem still_popAll (s : State) (c : Nat) (i : Instr) : Still s (s.popAll c i) := still_modSh s c _

/-- A relation between a state and what a word makes of it, that holds of every update of the shared life of a word. -/
structure Frame (R : State → State → Prop) : Prop where
  trans : ∀ {s t u}, R s t → R t u → R s u
  still : ∀ {s t}, Still s t → R s t
theorem frame_still : Frame Still := ⟨Still.trans, id⟩
theorem frame_calm : Frame Calm := ⟨Calm.trans, Still.calm⟩
theorem frame_mild : Frame Mild := ⟨Mild.trans, Still.mild⟩

/-- The state of every answer of a word's body is in the relation. -/
def Out.Keeps (R : State → State → Prop) (s : State) : Out → Prop
  | .done t => R s t
  | .goto t _ => R s t
  | .wait t => R s t
  | .trap t _ _ => R s t

section
variable {R : State → State → Prop} (hR : Frame R) {s t : State} {i : Instr}
include hR

theorem finishWord_keeps {o : Out} (ho : Out.Keeps R s o) (h : finishWord i s o = .next t) : R s t := by
  have hastray : R s ((s.popAll s.curCore i).takeFault s.curCore (some s.curStream) 1 (illegalInfo (Encoding.opcode i)) false) :=
    hR.still ((still_popAll s _ i).trans (still_takeFault _ _ _ _ _ _))
  unfold finishWord at h
  dsimp only at h
  cases o with
  | done u =>
    dsimp only at h
    split at h
    · cases h
      exact hR.trans ho (hR.still (still_retire u _ _ _ _))
    · split at h
      · cases h
        exact hastray
      · cases h
        exact hR.trans ho (hR.still (still_retire u _ _ _ _))
  | goto u n =>
    dsimp only at h
    split at h
    · cases h
      exact hastray
    · cases h
      exact hR.trans ho (hR.still (still_retire u _ _ _ _))
  | wait u =>
    cases h
    exact hR.trans ho (hR.still (still_block u _ _))
  | trap u cls info =>
    cases h
    exact hR.trans ho (hR.still (still_takeFault u _ _ _ _ _))
theorem guardedOff_keeps (h : guardedOff i s = .next t) : R s t := by
  unfold guardedOff at h
  dsimp only at h
  split at h
  · cases h
    exact hR.still (still_takeFault s _ _ _ _ _)
  · cases h
    exact hR.still (still_retire s _ _ _ _)
theorem issueWord_keeps {body : State → Out} (hb : Out.Keeps R s (body s)) (h : issueWord i s body = .next t) : R s t := by
  unfold issueWord at h
  dsimp only at h
  split at h
  · cases h
    exact hR.still (.refl s)
  · split at h
    · cases h
      exact hR.still (still_takeFault s _ _ _ _ _)
    · split at h
      · exact guardedOff_keeps hR h
      · split at h
        · cases h
          exact hR.still (still_block s _ _)
        · split at h
          · refine finishWord_keeps hR ?_ h
            split
            · next u hu =>
              rw [hu] at hb
              exact hb
            · exact hR.still (still_popAll s _ i)
          · exact finishWord_keeps hR hb h
end

end Sys2Proof.Laws
end

section
/-! PROOF. The bodies of words, up to the tile accesses, leave memory and registers alone. -/
namespace Sys2Proof.Laws
open Sys2Proof.Machine

/-- A word's meaning is the life of a word around a body whose answers are in the relation. -/
def Gives (R : State → State → Prop) (i : Instr) (s : State) (o : Host.Outcome State Fault Refusal) : Prop :=
  ∃ body, o = issueWord i s body ∧ Out.Keeps R s (body s)

theorem Gives.of {R : State → State → Prop} {i : Instr} {s : State} {body : State → Out} (h : Out.Keeps R s (body s)) :
    Gives R i s (issueWord i s body) := ⟨body, rfl, h⟩
theorem Gives.keeps {R : State → State → Prop} (hR : Frame R) {i : Instr} {s t : State} {o : Host.Outcome State Fault Refusal}
    (h : Gives R i s o) (ho : o = .next t) : R s t := by
  obtain ⟨body, hb, hk⟩ := h
  exact issueWord_keeps hR hk (hb.symm.trans ho)

section
variable {h : Hdr} {s : State} {i : Instr} {d a b src off : Port} {unit lat ty op : Nat}

/-! ## Scalar, vector and predicate words -/

theorem gives_nop : Gives Still (.nop h) s (execNop h s) := .of (Still.refl s)
theorem gives_binary {f : Word → Word → Word} : Gives Still i s (binaryWord i unit lat d a b f s) :=
  .of ((still_readInt s a).trans ((still_readInt _ b).trans (still_deliverTo _ _ _ _ _ _ _)))
theorem gives_unary {f : Word → Word} : Gives Still i s (unaryWord i unit lat d a f s) :=
  .of ((still_readInt s a).trans (still_deliverTo _ _ _ _ _ _ _))
theorem gives_vec1 {f : Vec → Vec × Flags} : Gives Still i s (vec1 i unit lat d a f s) :=
  .of ((still_read s a).trans (still_deliverTo _ _ _ _ _ _ _))
theorem gives_vec2 {f : Vec → Vec → Vec × Flags} : Gives Still i s (vec2 i unit lat d a b f s) :=
  .of ((still_read s a).trans ((still_read _ b).trans (still_deliverTo _ _ _ _ _ _ _)))
theorem gives_ldi {imm : BitVec 27} : Gives Still (.ldi h d imm) s (execLdi h d imm s) := .of (still_deliverTo s _ _ _ _ _ _)
theorem gives_ldih {imm : BitVec 27} : Gives Still (.ldih h d imm) s (execLdih h d imm s) := .of (still_deliverTo s _ _ _ _ _ _)
theorem gives_mov : Gives Still (.mov h d a) s (execMov h d a s) := by
  refine .of ?_
  dsimp only
  split
  · exact still_deliverTo s _ _ _ _ _ _
  · exact (still_read s a).trans (still_deliverTo _ _ _ _ _ _ _)
theorem gives_cap {f : Cap → Word → Except CapCause Cap} : Gives Still i s (capWord i d a b f s) := by
  refine .of ?_
  dsimp only
  split
  · exact still_readInt s b
  · exact (still_readInt s b).trans (still_deliverTo _ _ _ _ _ _ _)
theorem gives_capget {fld : BitVec 3} : Gives Still (.capget h d a fld) s (execCapget h d a fld s) := by
  refine .of ?_
  dsimp only
  split
  · exact (still_takeFree s).trans (still_deliverTo _ _ _ _ _ _ _)
  · exact still_deliverTo s _ _ _ _ _ _

/-! ## Commands to engines -/

theorem counts_keep {α : Type} (n : Nat) (l : List α) (t : Stream) :
    ((l.foldl (fun u _ => u.count n) t).files, (l.foldl (fun u _ => u.count n) t).status) = (t.files, t.status) := by
  induction l generalizing t with
  | nil => rfl
  | cons x l ih => exact ih (t.count n)
theorem keeps_sendCommands (s : State) (cmds : List (Nat × Cmd)) : Out.Keeps Still s (sendCommands i s cmds) := by
  unfold sendCommands
  dsimp only
  split
  · exact Still.refl s
  · refine (still_tickSeq s).trans ((still_modSh _ _ _).trans (still_modStream _ _ _ fun t => counts_keep 7 cmds t))
/-- What a body answers from a state that the words before it have left still. -/
theorem Out.Keeps.of_still {t : State} {o : Out} (h : Still s t) (ho : Out.Keeps Still t o) : Out.Keeps Still s o := by
  cases o <;> exact Still.trans h ho
theorem gives_command {engs : List Nat} {body : State → Out} (hb : Out.Keeps Still s (body s)) : Gives Still i s (commandWord i engs s body) := by
  refine .of ?_
  dsimp only
  split
  · exact Still.refl s
  · exact hb
theorem gives_plain {eng : Nat} {hs : List Nat} : Gives Still i s (plainCommand i eng hs s) := gives_command (keeps_sendCommands s _)
theorem gives_src {eng : Nat} {hs : List Nat} : Gives Still i s (srcCommand i eng src hs s) :=
  gives_command (.of_still (still_read s src) (keeps_sendCommands _ _))
theorem gives_tag {tag : BitVec 6} {op : BitVec 8} {hs : List Nat} {takes : Bool} {f : State → Vec × State} (hf : Still s (f s).2) :
    Gives Still i s (tagCommand i op tag hs takes f s) := by
  refine gives_command ?_
  dsimp only
  split
  · exact hf
  · split
    · next t ht =>
      have hsent : Out.Keeps Still s (.done t) := by
        rw [← ht]
        exact .of_still hf (keeps_sendCommands _ _)
      refine Still.trans (t := t) hsent ((still_share t _).trans (.ite (still_modStream _ _ _ fun _ => rfl) (.refl _)))
    · exact .of_still hf (keeps_sendCommands _ _)

/-! ## Nests, formats, ring and records -/

theorem gives_nestw {tbl : BitVec 2} {lvl : BitVec 3} : Gives Still (.nestw h tbl lvl src) s (execNestw h tbl lvl src s) := by
  refine .of ?_
  dsimp only
  split
  · exact (still_read s src).trans (still_share _ _)
  · exact still_read s src
theorem gives_nestr {gd : BitVec 6} {tbl : BitVec 2} {lvl : BitVec 3} {copy half : BitVec 1} :
    Gives Still (.nestr h gd tbl lvl copy half) s (execNestr h gd tbl lvl copy half s) := .of (still_deliverG s _ _ _)
theorem gives_nstat {gd : BitVec 6} {tbl : BitVec 2} {sel : BitVec 3} : Gives Still (.nstat h gd tbl sel) s (execNstat h gd tbl sel s) := by
  refine .of ?_
  dsimp only
  split
  · split
    · exact (still_takeFree s).trans (still_deliverG _ _ _ _)
    · exact still_deliverG s _ _ _
  · split <;> exact still_deliverG s _ _ _
theorem gives_go {mask : BitVec 4} : Gives Still (.go h mask src) s (execGo h mask src s) := by
  refine gives_command ?_
  dsimp only
  split
  · exact still_read s src
  · exact .of_still (still_read s src) (keeps_sendCommands _ _)
theorem gives_fmtw {idx : BitVec 4} : Gives Still (.fmtw h idx src) s (execFmtw h idx src s) := by
  refine .of ?_
  dsimp only
  split
  · exact (still_readInt s src).trans (still_share _ _)
  · exact still_readInt s src
theorem gives_fmtsel {en : BitVec 1} {lvl : BitVec 3} : Gives Still (.fmtsel h en lvl) s (execFmtsel h en lvl s) := .of (still_share s _)
theorem gives_ringcfg {gd : BitVec 6} {sn dn : BitVec 4} : Gives Still (.ringcfg h gd sn dn) s (execRingcfg h gd sn dn s) :=
  .of ((Still.ite (still_share s _) (.refl s)).trans (still_deliverG _ _ _ _))
theorem gives_rhead {gd : BitVec 6} : Gives Still (.rhead h gd) s (execRhead h gd s) := .of (still_deliverG s _ _ _)
theorem gives_ccnt {gd : BitVec 6} {eng : BitVec 3} : Gives Still (.ccnt h gd eng) s (execCcnt h gd eng s) := .of (still_deliverG s _ _ _)
theorem gives_ccons {eng : BitVec 3} {n : BitVec 8} : Gives Still (.ccons h eng n) s (execCcons h eng n s) := by
  refine .of ?_
  split
  · exact Still.refl s
  · split
    · exact Still.refl s
    · exact still_share s _
theorem gives_cdisc {eng : BitVec 3} {n : BitVec 8} : Gives Still (.cdisc h eng n) s (execCdisc h eng n s) := by
  refine .of ?_
  split
  · exact Still.refl s
  · exact still_share s _
theorem gives_cdiscAll {eng : BitVec 3} : Gives Still (.cdiscAll h eng) s (execCdiscAll h eng s) := .of (still_share s _)
theorem gives_pace {eng : BitVec 3} {gap : BitVec 13} : Gives Still (.pace h eng gap) s (execPace h eng gap s) := .of (still_share s _)

/-! ## The integrator field -/

theorem gives_cellr {gd : BitVec 6} {item : BitVec 4} {cell : BitVec 8} : Gives Still (.cellr h gd item cell) s (execCellr h gd item cell s) :=
  .of (still_deliverG s _ _ _)
theorem gives_step {dom : BitVec 2} {n : BitVec 8} : Gives Still (.step h dom n) s (execStep h dom n s) := by
  refine .of ?_
  split
  · exact Still.refl s
  · exact still_field s _
theorem gives_darun {stop run : BitVec 4} : Gives Still (.darun h stop run) s (execDarun h stop run s) := .of (still_field s _)
theorem gives_dainj {chan : BitVec 4} : Gives Still (.dainj h chan src) s (execDainj h chan src s) := .of ((still_readInt s src).trans (still_field _ _))
theorem gives_datap {gd : BitVec 6} {clr : BitVec 1} {cell : BitVec 8} : Gives Still (.datap h gd clr cell) s (execDatap h gd clr cell s) :=
  .of ((Still.ite (still_field s _) (.refl s)).trans (still_deliverG _ _ _ _))
theorem gives_dastat {gd : BitVec 6} {clr : BitVec 1} {sel : BitVec 3} : Gives Still (.dastat h gd clr sel) s (execDastat h gd clr sel s) :=
  .of ((Still.ite (still_field s _) (.refl s)).trans (still_deliverG _ _ _ _))

/-! ## Accesses -/

section
variable {cn : BitVec 5} {w : BitVec 3} {ord : BitVec 2} {ag stor : BitVec 3}

theorem gives_ld : Gives Still (.ld h d cn off w ord ag stor) s (execLd h d cn off w ord ag stor s) := by
  refine .of ?_
  dsimp only
  split
  · exact still_readInt s off
  · exact (still_readInt s off).trans (still_enter _ _ _ _)
theorem gives_st : Gives Still (.st h d cn off w ord ag stor) s (execSt h d cn off w ord ag stor s) := by
  refine .of ?_
  dsimp only
  have hread : Still s (((if Encoding.isC d then ((capOf s s.curCore s.curStream d).bits.setWidth 1024, s) else storeData s w d).2).readInt off).2 := by
    refine Still.trans ?_ (still_readInt _ off)
    split
    · exact .refl s
    · exact still_storeData s w d
  split
  · exact Still.refl s
  · split
    · exact hread
    · split
      · exact hread
      · exact hread.trans (still_enter _ _ _ _)
theorem gives_gath : Gives Still (.gath h d cn off w ord ag stor) s (execGath h d cn off w ord ag stor s) := by
  refine .of ?_
  dsimp only
  split
  · exact still_read s off
  · split
    · exact (still_read s off).trans (still_reserveTo _ _ _ _ _)
    · exact (still_read s off).trans (still_enter _ _ _ _)
theorem gives_scat : Gives Still (.scat h d cn off w ord ag stor) s (execScat h d cn off w ord ag stor s) := by
  refine .of ?_
  dsimp only
  have hread : Still s ((s.read d).2.read off).2 := (still_read s d).trans (still_read _ off)
  split
  · exact Still.refl s
  · split
    · exact hread
    · exact hread.trans (.foldl (fun t l => still_enter t _ _ _) _ _)
theorem keeps_atomicBody {t : State} {kind : AccKind} (ht : Still s t) : Out.Keeps Still s (atomicBody s d cn w ord ag stor t kind) := by
  unfold atomicBody
  dsimp only
  split
  · exact ht
  · exact ht.trans (still_enter t _ _ _)
theorem gives_amo {opn : BitVec 10} : Gives Still (.amo h d cn opn w ord ag stor) s (execAmo h d cn opn w ord ag stor s) := by
  refine .of ?_
  split
  · exact Still.refl s
  · exact keeps_atomicBody (.refl s)
theorem gives_cas : Gives Still (.cas h d cn off w ord ag stor) s (execCas h d cn off w ord ag stor s) := by
  refine .of ?_
  dsimp only
  split
  · exact Still.refl s
  · exact keeps_atomicBody (still_readInt s off)
theorem gives_amof {opn : BitVec 10} : Gives Still (.amof h d cn opn w ord ag stor) s (execAmof h d cn opn w ord ag stor s) := by
  refine .of ?_
  split
  · exact Still.refl s
  · exact keeps_atomicBody (.refl s)
theorem gives_fence : Gives Still (.fence h ord ag stor) s (execFence h ord ag stor s) := by
  refine .of ?_
  split
  · exact Still.refl s
  · exact still_enter s _ _ _
theorem gives_mark : Gives Still (.mark h ag stor) s (execMark h ag stor s) := .of (still_enter s _ _ _)
theorem keeps_cacheBody {right : Nat} {kind : AccKind} : Out.Keeps Still s (cacheBody s cn off right kind) := by
  unfold cacheBody
  dsimp only
  split
  · exact still_readInt s off
  · split
    · exact still_readInt s off
    · exact (still_readInt s off).trans (still_enter _ _ _ _)
theorem gives_cflush : Gives Still (.cflush h cn off) s (execCflush h cn off s) := .of keeps_cacheBody
theorem gives_cinv : Gives Still (.cinv h cn off) s (execCinv h cn off s) := .of keeps_cacheBody
theorem gives_pref : Gives Still (.pref h d cn off) s (execPref h d cn off s) := by
  refine .of ?_
  dsimp only
  split
  · exact still_readInt s off
  · refine (still_readInt s off).trans (((still_modCore _ s.curCore ?_).trans (.ite (still_enter _ _ _ _) (.refl _))).trans
      (still_deliverTo _ _ _ _ _ _ _))
    exact fun _ => .same rfl
theorem gives_prefw : Gives Still (.prefw h d a) s (execPrefw h d a s) := by
  refine .of ?_
  dsimp only
  split
  · exact Still.refl s
  · exact (still_readInt s a).trans (still_deliverTo _ _ _ _ _ _ _)
theorem gives_ldt {hn gc : BitVec 6} : Gives Still (.ldt h hn gc d w) s (execLdt h hn gc d w s) := by
  refine .of ?_
  dsimp only
  split
  · split
    · exact Still.refl s
    · split
      · exact Still.refl s
      · exact still_deliverTo s _ _ _ _ _ _
  · split
    · exact Still.refl s
    · exact still_enter s _ _ _
theorem gives_stt {hn gc : BitVec 6} : Gives Still (.stt h hn gc d w) s (execStt h hn gc d w s) := by
  refine .of ?_
  dsimp only
  split
  · split
    · exact still_storeData s w d
    · split
      · exact still_storeData s w d
      · exact (still_storeData s w d).trans (.same rfl)
  · split
    · exact still_storeData s w d
    · exact (still_storeData s w d).trans (still_enter _ _ _ _)
end
end

end Sys2Proof.Laws
end

section
/-! PROOF. The bodies of the other words leave memory and registers alone. -/
namespace Sys2Proof.Laws
open Sys2Proof.Machine

theorem Out.Keeps.ite {R : State → State → Prop} {s : State} {p : Prop} [Decidable p] {o q : Out} (ho : Out.Keeps R s o) (hq : Out.Keeps R s q) :
    Out.Keeps R s (if p then o else q) := by
  split
  · exact ho
  · exact hq

/-! ## Handles and tiles -/

theorem still_talloc (s : State) (c hn : Nat) (v : Word) : Still s (s.talloc c hn v) := by
  unfold State.talloc
  dsimp only
  exact (still_modSh s c _).trans (.ite (.same rfl) (.refl _))
theorem still_freeHandle (s : State) (c h : Nat) : Still s (s.freeHandle c h) := by
  unfold State.freeHandle
  dsimp only
  exact .ite (.refl s) (still_modSh s c _)
theorem still_tileWrite (s : State) (c : Nat) (h : Handle) (off : Nat) (bs : List Byte) : Still s (s.tileWrite c h off bs) := by
  unfold State.tileWrite
  split
  · exact .refl s
  · exact (still_modSh s c _).trans (still_heal _ _)
theorem still_bindTile (s : State) (c hn : Nat) (t : SensorTile) : Still s (s.bindTile c hn t) := still_modSh s c _
theorem still_bindTiles (s : State) (c hb : Nat) (l : List (Nat × SensorTile)) :
    Still s (l.foldl (fun (s : State) x => s.bindTile c (hb + x.1) x.2) s) := by
  induction l generalizing s with
  | nil => exact .refl s
  | cons x l ih => exact (still_bindTile s c (hb + x.1) x.2).trans (ih _)
theorem still_modGroup (s : State) (n : Nat) (f : RollGroup → RollGroup) : Still s (s.modGroup n f) := .same rfl

section
variable {h : Hdr} {s : State} {d a b src : Port} {gd : BitVec 6}

theorem gives_talloc {hn : BitVec 6} : Gives Still (.talloc h gd hn src) s (execTalloc h gd hn src s) := by
  refine .of ?_
  dsimp only
  split
  · exact still_readInt s src
  · exact (still_readInt s src).trans ((Still.ite (still_talloc _ _ _ _) (.refl _)).trans (still_deliverG _ _ _ _))
theorem gives_tfree {hn : BitVec 6} : Gives Still (.tfree h hn) s (execTfree h hn s) := .of (still_freeHandle s _ _)
theorem gives_tinfo {hn : BitVec 6} : Gives Still (.tinfo h gd hn) s (execTinfo h gd hn s) := .of (still_deliverG s _ _ _)

/-! ## Tags, pool roles and footprints -/

theorem gives_twaitany : Gives Still (.twaitany h gd src) s (execTwaitany h gd src s) := by
  refine .of ?_
  dsimp only
  split
  · exact still_readInt s src
  · split
    · exact Still.refl s
    · exact (still_readInt s src).trans (still_deliverG _ _ _ _)
theorem gives_twaitall : Gives Still (.twaitall h src) s (execTwaitall h src s) := by
  refine .of ?_
  dsimp only
  split
  · exact still_readInt s src
  · exact Still.refl s
theorem gives_tffr : Gives Still (.tffr h gd src) s (execTffr h gd src s) := .of ((still_readInt s src).trans (still_deliverG _ _ _ _))
theorem gives_tclr : Gives Still (.tclr h src) s (execTclr h src s) := .of ((still_readInt s src).trans (still_share _ _))
theorem gives_poolset : Gives Still (.poolset h gd src) s (execPoolset h gd src s) := by
  refine .of ?_
  dsimp only
  split
  · exact still_readInt s src
  · exact (still_readInt s src).trans ((still_share _ _).trans (still_deliverG _ _ _ _))
theorem gives_poolqOcc : Gives Still (.poolqOcc h gd) s (execPoolqOcc h gd s) := .of (still_deliverG s _ _ _)
theorem gives_poolqTkt : Gives Still (.poolqTkt h gd src) s (execPoolqTkt h gd src s) := .of ((still_readInt s src).trans (still_deliverG _ _ _ _))
theorem gives_foot {cn : BitVec 5} {acc : BitVec 2} : Gives Still (.foot h cn src acc) s (execFoot h cn src acc s) := by
  refine .of ?_
  dsimp only
  split
  · exact still_readInt s src
  · split
    · exact still_readInt s src
    · exact (still_readInt s src).trans (still_modStream _ _ _ fun _ => rfl)

/-! ## Queues, events and barriers -/

theorem gives_push {qn : BitVec 5} {ag stor : BitVec 3} : Gives Still (.push h qn src ag stor) s (execPush h qn src ag stor s) := by
  refine .of ?_
  dsimp only
  split
  · exact Still.refl s
  · split
    · exact (still_read s src).trans (still_share _ _)
    · exact (still_read s src).trans ((still_enter _ _ _ _).trans (still_share _ _))
theorem gives_qstatQ {n : BitVec 5} : Gives Still (.qstatQ h d n) s (execQstatQ h d n s) := .of (still_deliverTo s _ _ _ _ _ _)
theorem gives_qstatE {n : BitVec 5} : Gives Still (.qstatE h d n) s (execQstatE h d n s) := .of (still_deliverTo s _ _ _ _ _ _)
theorem gives_qdrainQ {n : BitVec 5} : Gives Still (.qdrainQ h gd n) s (execQdrainQ h gd n s) := .of ((still_share s _).trans (still_deliverG _ _ _ _))
theorem gives_qdrainE {n : BitVec 5} : Gives Still (.qdrainE h gd n) s (execQdrainE h gd n s) := .of ((still_share s _).trans (still_deliverG _ _ _ _))
theorem gives_post {en : BitVec 5} {n : BitVec 8} : Gives Still (.post h en n) s (execPost h en n s) := .of (still_enter s _ _ _)
theorem gives_await {en : BitVec 5} {n : BitVec 8} : Gives Still (.await h en n) s (execAwait h en n s) := by
  refine .of ?_
  split
  · exact Still.refl s
  · exact still_share s _
theorem gives_awaitn : Gives Still (.awaitn h gd src) s (execAwaitn h gd src s) := by
  refine .of ?_
  dsimp only
  split
  · exact still_readInt s src
  · split
    · exact Still.refl s
    · exact (still_readInt s src).trans ((still_share _ _).trans (still_deliverG _ _ _ _))
theorem gives_bar {bid : BitVec 3} {mask : BitVec 4} : Gives Still (.bar h bid mask) s (execBar h bid mask s) := by
  refine .of ?_
  dsimp only
  split
  · exact (still_share s _).trans (still_rendezvous _ _)
  · split
    · exact Still.refl s
    · split
      · exact Still.refl s
      · exact still_share s _

/-! ## Sensors, roll-call and time -/

theorem gives_rowwait {sn : BitVec 6} : Gives Still (.rowwait h sn src) s (execRowwait h sn src s) := by
  refine .of ?_
  dsimp only
  split
  · exact still_readInt s src
  · split
    · exact still_readInt s src
    · split
      · exact still_readInt s src
      · exact Still.refl s
theorem gives_rowget {sn : BitVec 6} : Gives Still (.rowget h gd sn) s (execRowget h gd sn s) := by
  refine .of ?_
  split
  · exact Still.refl s
  · exact still_deliverG s _ _ _
theorem gives_frmgetCnt {sn : BitVec 6} : Gives Still (.frmgetCnt h gd sn) s (execFrmgetCnt h gd sn s) := by
  refine .of ?_
  split
  · exact Still.refl s
  · exact still_deliverG s _ _ _
theorem gives_frmgetStamp {sn : BitVec 6} : Gives Still (.frmgetStamp h gd sn) s (execFrmgetStamp h gd sn s) := by
  refine .of ?_
  split
  · exact Still.refl s
  · exact still_deliverG s _ _ _
theorem gives_stbind {hn sn : BitVec 6} : Gives Still (.stbind h hn sn src gd) s (execStbind h hn sn src gd s) := by
  refine .of ?_
  dsimp only
  split
  · exact still_readInt s src
  · split
    · exact still_readInt s src
    · refine (still_readInt s src).trans (Still.trans (.ite ?_ (.refl _)) (still_deliverG _ _ _ _))
      exact (still_bindTile _ _ _ _).trans (still_modCore _ _ fun _ => .same rfl)
theorem gives_rccfg {grp : BitVec 4} {m : BitVec 3} : Gives Still (.rccfg h grp src m) s (execRccfg h grp src m s) := by
  refine .of ?_
  dsimp only
  split
  · exact still_read s src
  · split
    · exact still_read s src
    · split
      · exact still_read s src
      · exact (still_read s src).trans (still_modGroup _ _ _)
theorem gives_rcsub {hn : BitVec 6} {grp : BitVec 4} {m : BitVec 3} : Gives Still (.rcsub h hn grp m) s (execRcsub h hn grp m s) := by
  refine .of ?_
  dsimp only
  split
  · exact Still.refl s
  · split
    · exact Still.refl s
    · split
      · exact Still.refl s
      · split
        · exact Still.refl s
        · split
          · exact still_modGroup s _ _
          · exact still_modGroup s _ _
          · exact Still.refl s
theorem gives_rcget {hb hr : BitVec 6} {grp : BitVec 4} : Gives Still (.rcget h gd hb hr grp) s (execRcget h gd hb hr grp s) := by
  refine .of ?_
  dsimp only
  split
  · exact Still.refl s
  · split
    · exact Still.refl s
    · split
      · exact Still.refl s
      · split
        · exact Still.refl s
        · split
          · exact Still.refl s
          · split
            · exact still_deliverG s _ _ _
            · split
              · exact still_deliverG s _ _ _
              · exact (still_bindTiles s s.curCore hb.toNat _).trans
                  ((still_tileWrite _ _ _ _ _).trans ((still_modGroup _ _ _).trans (still_deliverG _ _ _ _)))
theorem gives_timeget : Gives Still (.timeget h d) s (execTimeget h d s) := .of (still_deliverTo s _ _ _ _ _ _)
theorem gives_timegetSt : Gives Still (.timegetSt h d) s (execTimegetSt h d s) := .of (still_deliverTo s _ _ _ _ _ _)

/-! ## Control -/

theorem gives_br {disp : BitVec 31} : Gives Still (.br h disp) s (execBr h disp s) := .of (Still.refl s)
theorem gives_bri : Gives Still (.bri h a) s (execBri h a s) := .of (still_readInt s a)
theorem gives_briRel : Gives Still (.briRel h a) s (execBriRel h a s) := .of (still_readInt s a)
theorem gives_call {gn : BitVec 6} {disp : BitVec 31} : Gives Still (.call h gn disp) s (execCall h gn disp s) :=
  .of ((still_deliverG s _ _ _).trans (still_modOwn _ fun _ => rfl))
theorem gives_ret : Gives Still (.ret h a) s (execRet h a s) := .of ((still_readInt s a).trans (still_modOwn _ fun _ => rfl))
theorem gives_loop {n : BitVec 2} {disp : BitVec 31} : Gives Still (.loop h n disp) s (execLoop h n disp s) := by
  refine .of ?_
  split <;> exact Still.refl s
theorem gives_lclose {n : BitVec 2} {disp : BitVec 31} : Gives Still (.lclose h n disp) s (execLclose h n disp s) := by
  refine .of ?_
  dsimp only
  have hclose {v : BitVec 1024} : Still s (if s.curStream < 4 then (s.deliverTo 15 1 (BitVec.ofNat 11 (0x2C4 + n.toNat)) v).modOwn Stream.rotate
      else s.deliverTo 15 1 (BitVec.ofNat 11 (0x2C4 + n.toNat)) v) :=
    .ite ((still_deliverTo s _ _ _ _ _ _).trans (still_modOwn _ fun _ => rfl)) (still_deliverTo s _ _ _ _ _ _)
  split <;> exact hclose
theorem gives_rrbset {ek ev : BitVec 1} : Gives Still (.rrbset h a b ek ev) s (execRrbset h a b ek ev s) := by
  refine .of ?_
  dsimp only
  have hx : Still s (if ev = 1 then s.readInt a else (0, s)).2 := by
    split
    · exact still_readInt s a
    · exact .refl s
  have hy : Still s (if ek = 1 then (if ev = 1 then s.readInt a else (0, s)).2.readInt b else (0, (if ev = 1 then s.readInt a else (0, s)).2)).2 := by
    split
    · exact hx.trans (still_readInt _ b)
    · exact hx
  refine .ite hy (Still.trans hy (still_modOwn _ ?_))
  exact fun _ => rfl
theorem gives_fork : Gives Still (.fork h) s (execFork h s) := .of (Still.ite (still_modCur s fun _ => .same (by rfl)) (.refl s))
theorem gives_joinCc {cc : BitVec 3} {mask : BitVec 4} : Gives Still (.joinCc h cc mask) s (execJoinCc h cc mask s) := by
  refine .of ?_
  dsimp only
  split
  · exact (still_share s _).trans (still_rendezvous _ _)
  · split
    · split
      · exact still_rendezvous s _
      · exact Still.refl s
    · split
      · exact Still.refl s
      · split
        · exact (still_share s _).trans ((still_modCur _ fun _ => .same (by rfl)).trans (still_rendezvous _ _))
        · exact still_share s _
theorem gives_ccset {val : BitVec 1} {cc : BitVec 3} : Gives Still (.ccset h val cc) s (execCcset h val cc s) := by
  refine .of ?_
  split
  · exact still_modCur s fun _ => .same rfl
  · exact still_enter s _ _ _
theorem gives_ccwait {val : BitVec 1} {cc : BitVec 3} : Gives Still (.ccwait h val cc) s (execCcwait h val cc s) := by
  refine .of ?_
  split <;> exact Still.refl s
theorem gives_start : Gives Still (.start h) s (execStart h s) := by
  refine .of ?_
  dsimp only
  split
  · exact still_modCur s fun _ => .same rfl
  · split
    · split
      · exact still_modOwn s fun _ => rfl
      · exact Still.refl s
    · split
      · exact still_modCur s fun _ => .same rfl
      · exact still_modOwn s fun _ => rfl
theorem gives_endStream : Gives Still (.endStream h) s (execEndStream h s) := .of (still_modOwn s fun _ => rfl)
theorem gives_yieldCore : Gives Still (.yieldCore h) s (execYieldCore h s) := .of (still_modCur s fun _ => .same rfl)
theorem gives_sleep {en : BitVec 5} : Gives Still (.sleep h en) s (execSleep h en s) := by
  refine .of ?_
  dsimp only
  split
  · exact Still.ite (still_modOwn s fun _ => by rfl) (still_modOwn s fun _ => by rfl)
  · split
    · exact still_modOwn s fun _ => rfl
    · split
      · exact still_modOwn s fun _ => rfl
      · exact (still_share s _).trans (still_modOwn _ fun _ => rfl)
theorem gives_tdone : Gives Still (.tdone h) s (execTdone h s) := .of ((still_modCur s fun _ => .same (by rfl)).trans (still_modOwn _ fun _ => by rfl))
theorem gives_twaitIdle {eng : BitVec 3} : Gives Still (.twaitIdle h eng) s (execTwaitIdle h eng s) := by
  refine .of ?_
  split <;> exact Still.refl s

/-! ## System words -/

theorem gives_trap {code : BitVec 16} : Gives Still (.trap h code) s (execTrap h code s) := .of (still_takeFault s _ _ _ _ _)
theorem gives_brk : Gives Still (.brk h) s (execBrk h s) := by
  refine .of ?_
  dsimp only
  split
  · exact still_modCur s fun _ => .same rfl
  · exact still_takeFault s _ _ _ _ _
theorem gives_csrr {csr : BitVec 9} : Gives Still (.csrr h d csr) s (execCsrr h d csr s) := .of (still_deliverTo s _ _ _ _ _ _)
theorem gives_idget {sel : BitVec 3} : Gives Still (.idget h d sel) s (execIdget h d sel s) := .of (still_deliverTo s _ _ _ _ _ _)
theorem gives_clkget {sel : BitVec 2} : Gives Still (.clkget h d sel) s (execClkget h d sel s) := .of (still_deliverTo s _ _ _ _ _ _)
theorem gives_perfr {n : BitVec 9} {clr : BitVec 1} : Gives Still (.perfr h d n clr) s (execPerfr h d n clr s) :=
  .of ((Still.ite (.refl s) (.ite (still_modOwn s fun _ => by rfl) (still_modCur s fun _ => .same (by rfl)))).trans (still_deliverTo _ _ _ _ _ _ _))
theorem gives_ifence : Gives Still (.ifence h) s (execIfence h s) := .of (still_modOwn s fun _ => rfl)
theorem keeps_snapWord {t : State} {kind : Nat} {sel : Word} {data : Vec} (ht : Still s t) : Out.Keeps Still s (snapWord t d kind sel data) :=
  ht.trans ((still_reserveTo t _ _ _ _).trans (still_modCur _ fun _ => .same rfl))
theorem gives_snaprD : Gives Still (.snaprD h d a) s (execSnaprD h d a s) := .of (keeps_snapWord (still_readInt s a))
theorem gives_snaprV : Gives Still (.snaprV h d a) s (execSnaprV h d a s) := .of (keeps_snapWord (still_readInt s a))
theorem gives_snaprSt : Gives Still (.snaprSt h d a) s (execSnaprSt h d a s) := .of (keeps_snapWord (still_readInt s a))
theorem gives_snapwD : Gives Still (.snapwD h d a b) s (execSnapwD h d a b s) := .of (keeps_snapWord ((still_readInt s a).trans (still_readInt _ b)))
theorem gives_snapwV : Gives Still (.snapwV h d a b) s (execSnapwV h d a b s) := .of (keeps_snapWord ((still_readInt s a).trans (still_read _ b)))
end

end Sys2Proof.Laws
end

section
/-! PROOF. Words leave memory and registers alone at their issue: O59 and O60; and every word keeps the form of memory. -/
namespace Sys2Proof.Laws
open Sys2Proof.Machine

section
variable {i : Instr} {s : State} {d a b : Port} {unit lat ty : Nat}

theorem gives_k1 {f : Word → BitVec 32} : Gives Still i s (kWord1 i d a f s) := by
  unfold kWord1
  exact gives_unary
theorem gives_k2 {f : BitVec 32 → BitVec 32 → BitVec 32} : Gives Still i s (kWord2 i d a b f s) := by
  unfold kWord2
  exact gives_binary
theorem gives_lane1 {f : Nat → Nat × Flags} : Gives Still i s (laneWord1 i unit lat d a ty f s) := by
  unfold laneWord1
  exact gives_vec1
theorem gives_lane2 {f : Nat → Nat → Nat × Flags} : Gives Still i s (laneWord2 i unit lat d a b ty f s) := by
  unfold laneWord2
  exact gives_vec2
theorem gives_lane3 {f : Nat → Nat → Nat → Nat × Flags} : Gives Still i s (laneWord3 i unit lat d a b ty f s) := by
  unfold laneWord3
  exact gives_vec2
theorem gives_float {f : Fmt → FVal → Nat × Flags} : Gives Still i s (floatWord i lat d a ty f s) := by
  unfold floatWord
  exact gives_lane1
theorem gives_dot {per : Nat} : Gives Still i s (dotWord i d a b ty per s) := by
  unfold dotWord
  exact gives_vec2
theorem gives_perm {pick : Vec → Nat → Option Nat} : Gives Still i s (permWord i d a b ty pick s) := by
  unfold permWord
  exact gives_vec2
end

/-- A word that moves no CACHE sectors and writes no STATUS answers a still state. -/
theorem word_still {i : Instr} {s : State} (hi : (Encoding.hdr i).isSome = true) (hp : publishes i = false) (hw : writesStatus i = false) :
    Gives Still i s (exec i s) := by
  cases i with
  | add h d a b ty => exact show Gives Still _ s (execAdd h d a b ty s) from gives_binary
  | sub h d a b ty => exact show Gives Still _ s (execSub h d a b ty s) from gives_binary
  | mul h d a b ty => exact show Gives Still _ s (execMul h d a b ty s) from gives_binary
  | mulh h d a b ty => exact show Gives Still _ s (execMulh h d a b ty s) from gives_binary
  | mulhn h d a b ty => exact show Gives Still _ s (execMulhn h d a b ty s) from gives_binary
  | div h d a b ty => exact show Gives Still _ s (execDiv h d a b ty s) from gives_binary
  | divn h d a b ty => exact show Gives Still _ s (execDivn h d a b ty s) from gives_binary
  | rem h d a b ty => exact show Gives Still _ s (execRem h d a b ty s) from gives_binary
  | remn h d a b ty => exact show Gives Still _ s (execRemn h d a b ty s) from gives_binary
  | and h d a b ty => exact show Gives Still _ s (execAnd h d a b ty s) from gives_binary
  | or h d a b ty => exact show Gives Still _ s (execOr h d a b ty s) from gives_binary
  | xor h d a b ty => exact show Gives Still _ s (execXor h d a b ty s) from gives_binary
  | andn h d a b ty => exact show Gives Still _ s (execAndn h d a b ty s) from gives_binary
  | shl h d a b ty => exact show Gives Still _ s (execShl h d a b ty s) from gives_binary
  | shr h d a b ty => exact show Gives Still _ s (execShr h d a b ty s) from gives_binary
  | sar h d a b ty => exact show Gives Still _ s (execSar h d a b ty s) from gives_binary
  | rot h d a b ty => exact show Gives Still _ s (execRot h d a b ty s) from gives_binary
  | cmp h d a b cond wd => exact show Gives Still _ s (execCmp h d a b cond wd s) from gives_binary
  | min h d a b ty => exact show Gives Still _ s (execMin h d a b ty s) from gives_binary
  | max h d a b ty => exact show Gives Still _ s (execMax h d a b ty s) from gives_binary
  | minn h d a b ty => exact show Gives Still _ s (execMinn h d a b ty s) from gives_binary
  | maxn h d a b ty => exact show Gives Still _ s (execMaxn h d a b ty s) from gives_binary
  | sel h d a b k => exact show Gives Still _ s (execSel h d a b k s) from gives_binary
  | clz h d a ty => exact show Gives Still _ s (execClz h d a ty s) from gives_unary
  | popc h d a ty => exact show Gives Still _ s (execPopc h d a ty s) from gives_unary
  | capadd h d a b n => exact show Gives Still _ s (execCapadd h d a b n s) from gives_cap
  | capsetWin h d a b => exact show Gives Still _ s (execCapsetWin h d a b s) from gives_cap
  | capsetRights h d a b => exact show Gives Still _ s (execCapsetRights h d a b s) from gives_cap
  | capsetCur h d a b => exact show Gives Still _ s (execCapsetCur h d a b s) from gives_cap
  | capsetUntag h d a b => exact show Gives Still _ s (execCapsetUntag h d a b s) from gives_cap
  | vadd h d a b ty => exact show Gives Still _ s (execVadd h d a b ty s) from gives_lane2
  | vsub h d a b ty => exact show Gives Still _ s (execVsub h d a b ty s) from gives_lane2
  | vmul h d a b ty => exact show Gives Still _ s (execVmul h d a b ty s) from gives_lane2
  | vmulh h d a b ty => exact show Gives Still _ s (execVmulh h d a b ty s) from gives_lane2
  | vdiv h d a b ty => exact show Gives Still _ s (execVdiv h d a b ty s) from gives_lane2
  | vmin h d a b ty => exact show Gives Still _ s (execVmin h d a b ty s) from gives_lane2
  | vmax h d a b ty => exact show Gives Still _ s (execVmax h d a b ty s) from gives_lane2
  | vand h d a b ty => exact show Gives Still _ s (execVand h d a b ty s) from gives_lane2
  | vor h d a b ty => exact show Gives Still _ s (execVor h d a b ty s) from gives_lane2
  | vxor h d a b ty => exact show Gives Still _ s (execVxor h d a b ty s) from gives_lane2
  | vshl h d a b ty => exact show Gives Still _ s (execVshl h d a b ty s) from gives_lane2
  | vshr h d a b ty => exact show Gives Still _ s (execVshr h d a b ty s) from gives_lane2
  | vsar h d a b ty => exact show Gives Still _ s (execVsar h d a b ty s) from gives_lane2
  | vclmul h d a b ty => exact show Gives Still _ s (execVclmul h d a b ty s) from gives_lane2
  | vmulw h d a b ty => exact show Gives Still _ s (execVmulw h d a b ty s) from gives_vec2
  | vcmp h d a b md => exact show Gives Still _ s (execVcmp h d a b md s) from gives_vec2
  | vsel h d a b ty => exact show Gives Still _ s (execVsel h d a b ty s) from gives_vec2
  | vmerge h d a b ty => exact show Gives Still _ s (execVmerge h d a b ty s) from gives_vec2
  | vreds h d a b ty => exact show Gives Still _ s (execVreds h d a b ty s) from gives_vec2
  | vredx h d a b ty => exact show Gives Still _ s (execVredx h d a b ty s) from gives_vec2
  | vscan h d a b ty => exact show Gives Still _ s (execVscan h d a b ty s) from gives_vec2
  | vpack h d a b ty => exact show Gives Still _ s (execVpack h d a b ty s) from gives_vec2
  | vunpk h d a b ty => exact show Gives Still _ s (execVunpk h d a b ty s) from gives_vec2
  | vqnt h d a b ty => exact show Gives Still _ s (execVqnt h d a b ty s) from gives_vec2
  | vdqnt h d a b ty => exact show Gives Still _ s (execVdqnt h d a b ty s) from gives_vec2
  | vfma h d a b ty => exact show Gives Still _ s (execVfma h d a b ty s) from gives_lane3
  | vfms h d a b ty => exact show Gives Still _ s (execVfms h d a b ty s) from gives_lane3
  | vfnma h d a b ty => exact show Gives Still _ s (execVfnma h d a b ty s) from gives_lane3
  | vsqrt h d a ty => exact show Gives Still _ s (execVsqrt h d a ty s) from gives_float
  | vrcp h d a ty => exact show Gives Still _ s (execVrcp h d a ty s) from gives_float
  | vrsq h d a ty => exact show Gives Still _ s (execVrsq h d a ty s) from gives_float
  | vexp2 h d a ty => exact show Gives Still _ s (execVexp2 h d a ty s) from gives_lane1
  | vlog2 h d a ty => exact show Gives Still _ s (execVlog2 h d a ty s) from gives_lane1
  | vabs h d a ty => exact show Gives Still _ s (execVabs h d a ty s) from gives_lane1
  | vneg h d a ty => exact show Gives Still _ s (execVneg h d a ty s) from gives_lane1
  | vpopc h d a ty => exact show Gives Still _ s (execVpopc h d a ty s) from gives_lane1
  | vclz h d a ty => exact show Gives Still _ s (execVclz h d a ty s) from gives_lane1
  | vround h d a ty => exact show Gives Still _ s (execVround h d a ty s) from gives_lane1
  | vdot4 h d a b ty => exact show Gives Still _ s (execVdot4 h d a b ty s) from gives_dot
  | vdot2 h d a b ty => exact show Gives Still _ s (execVdot2 h d a b ty s) from gives_dot
  | vperm h d a b ty => exact show Gives Still _ s (execVperm h d a b ty s) from gives_perm
  | vshuf h d a b ty => exact show Gives Still _ s (execVshuf h d a b ty s) from gives_perm
  | vbcast h d a b ty => exact show Gives Still _ s (execVbcast h d a b ty s) from gives_perm
  | vslide h d a b ty => exact show Gives Still _ s (execVslide h d a b ty s) from gives_perm
  | vcompr h d a b ty => exact show Gives Still _ s (execVcompr h d a b ty s) from gives_perm
  | vexpnd h d a b ty => exact show Gives Still _ s (execVexpnd h d a b ty s) from gives_perm
  | viota h d a ty => exact show Gives Still _ s (execViota h d a ty s) from gives_vec1
  | vcvt h d a st ty => exact show Gives Still _ s (execVcvt h d a st ty s) from gives_vec1
  | kand h d a b => exact show Gives Still _ s (execKand h d a b s) from gives_k2
  | kor h d a b => exact show Gives Still _ s (execKor h d a b s) from gives_k2
  | kxor h d a b => exact show Gives Still _ s (execKxor h d a b s) from gives_k2
  | knot h d a => exact show Gives Still _ s (execKnot h d a s) from gives_k1
  | kpopc h d a => exact show Gives Still _ s (execKpopc h d a s) from gives_k1
  | kfirst h d a => exact show Gives Still _ s (execKfirst h d a s) from gives_k1
  | kmov h d a => exact show Gives Still _ s (execKmov h d a s) from gives_k1
  | kmovFirst h d a => exact show Gives Still _ s (execKmovFirst h d a s) from gives_k1
  | mma h close last gang kc => exact show Gives Still _ s (execMma h close last gang kc s) from gives_plain
  | mmac h close last gang kc => exact show Gives Still _ s (execMmac h close last gang kc s) from gives_plain
  | rpop h => exact show Gives Still _ s (execRpop h s) from gives_plain
  | rdiscard h => exact show Gives Still _ s (execRdiscard h s) from gives_plain
  | epcfgAct h act => exact show Gives Still _ s (execEpcfgAct h act s) from gives_plain
  | epcfgBias h hn en => exact show Gives Still _ s (execEpcfgBias h hn en s) from gives_plain
  | epcfgScale h hn en => exact show Gives Still _ s (execEpcfgScale h hn en s) from gives_plain
  | eprun h hn => exact show Gives Still _ s (execEprun h hn s) from gives_plain
  | decksel h units => exact show Gives Still _ s (execDecksel h units s) from gives_plain
  | dasave h hn => exact show Gives Still _ s (execDasave h hn s) from gives_plain
  | daload h hn => exact show Gives Still _ s (execDaload h hn s) from gives_plain
  | epcfgLo h src => exact show Gives Still _ s (execEpcfgLo h src s) from gives_src
  | epcfgHi h src => exact show Gives Still _ s (execEpcfgHi h src s) from gives_src
  | deckld h cn src units => exact show Gives Still _ s (execDeckld h cn src units s) from gives_src
  | astage h cn kn src => exact show Gives Still _ s (execAstage h cn kn src s) from gives_src
  | patch h hn src keep => exact show Gives Still _ s (execPatch h hn src keep s) from gives_src
  | cellw h src item cell => exact show Gives Still _ s (execCellw h src item cell s) from gives_src
  | stepdom h dom src kind => exact show Gives Still _ s (execStepdom h dom src kind s) from gives_src
  | nop => exact gives_nop
  | ldi => exact gives_ldi
  | ldih => exact gives_ldih
  | mov => exact gives_mov
  | capget => exact gives_capget
  | nestw => exact gives_nestw
  | nestr => exact gives_nestr
  | go => exact gives_go
  | nstat => exact gives_nstat
  | fmtw => exact gives_fmtw
  | fmtsel => exact gives_fmtsel
  | ringcfg => exact gives_ringcfg
  | rhead => exact gives_rhead
  | ccnt => exact gives_ccnt
  | ccons => exact gives_ccons
  | cdisc => exact gives_cdisc
  | cdiscAll => exact gives_cdiscAll
  | pace => exact gives_pace
  | cellr => exact gives_cellr
  | step => exact gives_step
  | darun => exact gives_darun
  | dainj => exact gives_dainj
  | datap => exact gives_datap
  | dastat => exact gives_dastat
  | ld => exact gives_ld
  | st => exact gives_st
  | ldt => exact gives_ldt
  | stt => exact gives_stt
  | gath => exact gives_gath
  | scat => exact gives_scat
  | amo => exact gives_amo
  | cas => exact gives_cas
  | amof => exact gives_amof
  | fence => exact gives_fence
  | mark => exact gives_mark
  | talloc => exact gives_talloc
  | tfree => exact gives_tfree
  | tinfo => exact gives_tinfo
  | copy h tag dk dst src sk sn => exact show Gives Still _ s (execCopy h tag dk dst src sk sn s) from gives_tag (still_read s _)
  | copyp h tag hn => exact show Gives Still _ s (execCopyp h tag hn s) from gives_tag (.refl s)
  | twaitany => exact gives_twaitany
  | twaitall => exact gives_twaitall
  | tffr => exact gives_tffr
  | tclr => exact gives_tclr
  | pref => exact gives_pref
  | prefw => exact gives_prefw
  | poolset => exact gives_poolset
  | poolqOcc => exact gives_poolqOcc
  | poolqTkt => exact gives_poolqTkt
  | cflush => exact gives_cflush
  | cinv => exact gives_cinv
  | foot => exact gives_foot
  | job h tag hn => exact show Gives Still _ s (execJob h tag hn s) from gives_tag (.refl s)
  | near h tag hn => exact show Gives Still _ s (execNear h tag hn s) from gives_tag (.refl s)
  | push => exact gives_push
  | post => exact gives_post
  | await => exact gives_await
  | awaitn => exact gives_awaitn
  | bar => exact gives_bar
  | rowwait => exact gives_rowwait
  | rowget => exact gives_rowget
  | frmgetCnt => exact gives_frmgetCnt
  | frmgetStamp => exact gives_frmgetStamp
  | rcsub => exact gives_rcsub
  | rcget => exact gives_rcget
  | rccfg => exact gives_rccfg
  | timeget => exact gives_timeget
  | timegetSt => exact gives_timegetSt
  | qstatQ => exact gives_qstatQ
  | qstatE => exact gives_qstatE
  | stbind => exact gives_stbind
  | qdrainQ => exact gives_qdrainQ
  | qdrainE => exact gives_qdrainE
  | br => exact gives_br
  | bri => exact gives_bri
  | briRel => exact gives_briRel
  | call => exact gives_call
  | ret => exact gives_ret
  | loop => exact gives_loop
  | lclose => exact gives_lclose
  | rrbset => exact gives_rrbset
  | fork => exact gives_fork
  | joinCc => exact gives_joinCc
  | ccset => exact gives_ccset
  | ccwait => exact gives_ccwait
  | start => exact gives_start
  | endStream => exact gives_endStream
  | yieldCore => exact gives_yieldCore
  | sleep => exact gives_sleep
  | twaitIdle => exact gives_twaitIdle
  | tdone => exact gives_tdone
  | trap => exact gives_trap
  | brk => exact gives_brk
  | snaprD => exact gives_snaprD
  | snaprV => exact gives_snaprV
  | snaprSt => exact gives_snaprSt
  | snapwD => exact gives_snapwD
  | snapwV => exact gives_snapwV
  | csrr => exact gives_csrr
  | idget => exact gives_idget
  | clkget => exact gives_clkget
  | perfr => exact gives_perfr
  | ifence => exact gives_ifence
  | pop | spawn | launch | spec | decide | twaitLaunch => cases hp
  | csrw => cases hw
  | reservedOpcode | engineCommandStart | engineCommandFinish | kStep | engineAutumnEntry | domainStep | domainReferenceTrigger |
    domainEngineTrigger | copypEndMarker | poolRequestStep | loadDataReturn | atomicReturn | addressTranslation | pushEntryPoppable |
    postAdditionLands | ccsetValueLands | instructionBufferFill | watchdogExpiry | deadlineMiss | formSwap | contextSave | contextRestore |
    dieQueuePop | frameDeadline | lbpRowRun | rowPublish | storePerformed | nearPartDone | prefetchComplete | timingErrorReplay |
    softErrorConsumed | keeperScrub | ffCtlResume | ffCtlAbandon | ffCtlAbort | debugHaltRequest | debugResume | inboxTail | launchPacketEntry |
    ttCommit | overflowDrain | urgForms | seasonReqSummer | seasonReqWinter | seasonReqMidwinter | seasonEntry | springRampStart |
    springRampDone | formImbalanceTick | throttleRelax | thermalCeilingStep | thermalTrip | thermalTripRelease | slowDownNoticeRepeat |
    slowDownNotice | releaseNotice | peerCeilingExpiry | memTempRead | otCmdInval | otCmdMigrate | otCmdDirty | shootDownAck | migrationCopy |
    functionLevelReset | flrDone | deviceReset | attCmd | attestationReportDone | hostLinkError | scfgEnable | scfgDisable | serrCtlClr |
    csi2FrameStart | csi2FrameEnd | csi2LineStart | csi2LongPacket | lidarFrame | rollCallTick | timeSyncMessage | registerWrite |
    talothPortTraining | talothJobPeerMessage => cases hi
/-! ## CSRW -/

/-- A still state, but for STATUS of one stream. -/
structure StillBut (c n : Nat) (s t : State) : Prop where
  memory : memories t = memories s
  regs : ∀ d, ((t.core d).ffl, (t.core d).fflPc, (t.core d).dbg) = ((s.core d).ffl, (s.core d).fflPc, (s.core d).dbg)
  files : ∀ d m, (t.stream d m).files = (s.stream d m).files
  status : ∀ d m, d ≠ c ∨ m ≠ n → (t.stream d m).status = (s.stream d m).status

theorem Still.but {s t : State} (h : Still s t) (c n : Nat) : StillBut c n s t :=
  ⟨h.1, fun d => (h.2 d).regs, fun d m => congrArg Prod.fst ((h.2 d).streams m), fun d m _ => congrArg Prod.snd ((h.2 d).streams m)⟩
theorem frame_stillBut (c n : Nat) : Frame (StillBut c n) where
  trans h k := ⟨k.memory.trans h.memory, fun d => (k.regs d).trans (h.regs d), fun d m => (k.files d m).trans (h.files d m),
    fun d m hd => (k.status d m hd).trans (h.status d m hd)⟩
  still h := h.but c n
theorem stream_modStream_at (s : State) (c n : Nat) (f : Stream → Stream) (d m : Nat) :
    (s.modStream c n f).stream d m = if d = c ∧ m = n then f (s.stream d m) else s.stream d m := by
  by_cases hd : d = c
  · subst hd
    refine (congrArg (Core.stream · m) (State.core_modCore_same s d fun x => x.modStream n f)).trans ((stream_modStream (s.core d) n f m).trans ?_)
    exact ite_eq_of_iff ⟨fun h => ⟨rfl, h⟩, And.right⟩ _ _
  · exact (congrArg (Core.stream · m) (State.core_modCore_other s (fun x => x.modStream n f) hd)).trans (if_neg fun h => hd h.1).symm
theorem stillBut_modStream (s : State) (c n : Nat) {f : Stream → Stream} (hf : ∀ t, (f t).files = t.files) : StillBut c n s (s.modStream c n f) where
  memory := rfl
  regs d := by
    by_cases hd : d = c
    · subst hd
      exact (congrArg (fun x : Core => (x.ffl, x.fflPc, x.dbg)) (State.core_modCore_same s d fun x => x.modStream n f)).trans rfl
    · exact congrArg (fun x : Core => (x.ffl, x.fflPc, x.dbg)) (State.core_modCore_other s (fun x => x.modStream n f) hd)
  files d m := by
    rw [stream_modStream_at]
    split_ifs
    · exact hf _
    · rfl
  status d m h := by
    rw [stream_modStream_at, if_neg fun k => h.elim (· k.1) (· k.2)]
theorem readInt_modOwn (s : State) (p : Port) (f : Stream → Stream) : (s.readInt p).2.modOwn f = (s.readInt p).2.modStream s.curCore s.curStream f := by
  unfold State.readInt State.read
  dsimp only
  split <;> rfl
theorem gives_csrw {h : Hdr} {s : State} {d b : Port} {csr : BitVec 9} {opn : BitVec 2} :
    Gives (StillBut s.curCore s.curStream) (.csrw h d csr b opn) s (execCsrw h d csr b opn s) := by
  have hR := frame_stillBut s.curCore s.curStream
  refine .of ?_
  dsimp only
  rw [readInt_modOwn]
  exact hR.trans (hR.still (still_readInt s b)) (hR.trans (stillBut_modStream _ _ _ fun _ => by rfl) (hR.still (still_deliverTo _ _ _ _ _ _ _)))

/-! ## Words that acquire and release -/

/-- Every core keeps its registers, and memory its form. -/
def Tame (s t : State) : Prop := Calm s t ∧ Mild s t

theorem Still.tame {s t : State} (h : Still s t) : Tame s t := ⟨h.calm, h.mild⟩
theorem Tame.refl (s : State) : Tame s s := (Still.refl s).tame
theorem Tame.trans {s t u : State} (h : Tame s t) (k : Tame t u) : Tame s u := ⟨h.1.trans k.1, h.2.trans k.2⟩
theorem Tame.ite {s : State} {p : Prop} [Decidable p] {t u : State} (ht : Tame s t) (hu : Tame s u) : Tame s (if p then t else u) := by
  split
  · exact ht
  · exact hu
theorem frame_tame : Frame Tame := ⟨Tame.trans, Still.tame⟩

section
variable (s : State)

theorem tame_acquireCache (c agent stor : Nat) : Tame s (s.acquireCache c agent stor) :=
  ⟨(cacheOnly_acquireCache s c agent stor).calm, mild_acquireCache s c agent stor⟩
theorem tame_writeBackAll (c stor : Nat) : Tame s (s.writeBackAll c stor) := ⟨(cacheOnly_writeBackAll s c stor).calm, mild_writeBackAll s c stor⟩
theorem tame_commit (i : Ident) : Tame s (s.commit i) := ⟨(memoryOnly_commit s i).cacheOnly.calm, mild_commit s i⟩
theorem tame_endIdem (c : Nat) : Tame s (s.endIdem c) := by
  unfold State.endIdem
  split
  · refine .ite ((tame_writeBackAll s c 0).trans ((tame_commit _ _).trans (still_modCore _ c ?_).tame)) (.refl s)
    exact fun _ => .same rfl
  · exact .refl s
theorem tame_notice (n : Notice) : Tame s (s.notice n) := by
  refine ⟨?_, mild_notice s n⟩
  unfold State.notice
  split_ifs <;> exact .same rfl
theorem still_noteStall (x : StallAt) : Still s (s.noteStall x) := .ite (.refl s) (.same (by rfl))
theorem calm_checkPlace (l : List (Bool × Nat)) : Calm s (s.checkPlace l) := by
  unfold State.checkPlace
  split
  · exact .same rfl
  · exact .refl s
theorem tame_objWrite (ctx obj off : Nat) (bs : List Byte) : Tame s (s.objWrite ctx obj off bs) := by
  refine ⟨?_, mild_objWrite s ctx obj off bs⟩
  unfold State.objWrite
  dsimp only
  split
  · exact (still_noteStall s _).calm
  · exact (memoryOnly_cohWrite s none _).cacheOnly.calm.trans (calm_checkPlace _ _)
theorem tame_completionRecord (p : List Byte) (state code tasks : Nat) : Tame s (s.completionRecord p state code tasks) :=
  (tame_objWrite s _ _ _ _).trans (Still.same (by rfl)).tame
theorem tame_completeLaunch (lid : Nat) : Tame s (s.completeLaunch lid) :=
  (tame_completionRecord s _ _ _ _).trans ((tame_notice _ _).trans (Still.same (by rfl)).tame)
theorem tame_enterAt (lid fn : Nat) (p : List Byte) (spec : Bool) (slot succ : Nat) : Tame s (s.enterAt lid fn p spec slot succ) := by
  unfold State.enterAt
  dsimp only
  refine (Still.same (t := State.tickSeq (s.modLaunch lid _)) (by rfl)).tame.trans (.ite (tame_completeLaunch _ lid) (.refl _))
theorem still_modCtx (n : Nat) (f : Context → Context) : Still s (s.modCtx n f) := .same (by rfl)
theorem tame_refuse (fn : Nat) (own : Option Nat) (p : List Byte) (code : Nat) : Tame s (s.refuse fn own p code) := by
  unfold State.refuse
  dsimp only
  exact .ite (tame_completionRecord s _ _ _ _) ((tame_notice s _).trans (.ite (Still.same (by rfl)).tame (.refl _)))
theorem tame_submit (fn : Nat) (own : Option Nat) (p : List Byte) : Tame s (s.submit fn own p).2 := by
  unfold State.submit
  dsimp only
  split
  · exact tame_refuse s fn own p _
  · split
    · exact .refl s
    · exact tame_enterAt s _ _ _ _ _ _
theorem tame_launchRelease : Tame s s.launchRelease := (tame_endIdem s _).trans (tame_writeBackAll _ _ _)
theorem tame_enterBoth (ctx : Nat) (p q : List Byte) : Tame s (s.enterBoth ctx p q).2 := by
  unfold State.enterBoth
  dsimp only
  split
  · exact .refl s
  · split
    · exact .refl s
    · split
      · exact tame_refuse s _ _ _ _
      · split
        · exact tame_refuse s _ _ _ _
        · generalize (if (s.ctx ctx).specs.getLsbD 0 then 1 else 0 : Nat) = slot
          split
          · exact .refl s
          · dsimp only
            refine Tame.trans ?_ (still_modCtx _ ctx _).tame
            refine Tame.trans ?_ (tame_enterAt _ _ _ _ _ _ _)
            exact tame_enterAt s _ _ _ _ _ _
theorem still_modLaunch (n : Nat) (f : Launch → Launch) : Still s (s.modLaunch n f) := .same (by rfl)
theorem still_modDie (n : Nat) (f : Die → Die) : Still s (s.modDie n f) := .same (by rfl)
theorem still_placeChild (c : Nat) (d : BitVec 256) (code : Nat) : Still s (s.placeChild c d code) := by
  unfold State.placeChild
  dsimp only
  refine Still.trans ?_ ((still_modLaunch _ (chLid d) _).trans (still_enter _ _ _ _))
  split
  · exact still_modDie s _ _
  · exact still_modCtx s _ _
end

section
variable {h : Hdr} {s : State} {gd : BitVec 6} {d src : Port}

theorem gives_pop {qn : BitVec 5} {ag stor : BitVec 3} : Gives Tame (.pop h qn d ag stor) s (execPop h qn d ag stor s) := by
  refine .of ?_
  dsimp only
  split
  · exact Tame.refl s
  · exact (still_share s _).tame.trans ((tame_acquireCache _ _ _ _).trans (still_deliverTo _ _ _ _ _ _ _).tame)
theorem gives_spawn : Gives Tame (.spawn h gd src) s (execSpawn h gd src s) := by
  refine .of ?_
  dsimp only
  have hread : Tame s (s.read src).2 := (still_read s src).tame
  split
  · exact Tame.refl s
  · split
    · exact hread
    · split
      · exact hread
      · split
        · exact hread
        · exact hread.trans ((tame_endIdem _ _).trans ((Tame.ite (still_placeChild _ _ _ _).tame (.refl _)).trans (still_deliverG _ _ _ _).tame))
theorem gives_launch {hn : BitVec 6} : Gives Tame (.launch h gd hn) s (execLaunch h gd hn s) := by
  refine .of ?_
  dsimp only
  split
  · exact Tame.refl s
  · split
    · exact Tame.refl s
    · split
      · exact Tame.refl s
      · exact (tame_launchRelease s).trans ((tame_submit _ _ _ _).trans (still_deliverG _ _ _ _).tame)
theorem gives_spec {hn : BitVec 6} : Gives Tame (.spec h gd hn) s (execSpec h gd hn s) := by
  refine .of ?_
  dsimp only
  split
  · exact Tame.refl s
  · split
    · exact Tame.refl s
    · split
      · exact Tame.refl s
      · exact (tame_launchRelease s).trans ((tame_enterBoth _ _ _ _).trans (still_deliverG _ _ _ _).tame)
theorem gives_twaitLaunch : Gives Tame (.twaitLaunch h gd src) s (execTwaitLaunch h gd src s) := by
  refine .of ?_
  dsimp only
  split
  · exact (still_readInt s src).tame
  · split
    · exact Tame.refl s
    · exact (still_readInt s src).tame.trans ((tame_acquireCache _ _ _ _).trans (still_deliverG _ _ _ _).tame)
theorem gives_decide {slot succ : BitVec 1} : Gives Mild (.decide h gd slot succ) s (execDecide h gd slot succ s) := by
  refine .of ?_
  dsimp only
  split
  · exact Mild.refl s
  · split
    · exact (still_deliverG s _ _ _).mild
    · exact (mild_decide s _ _ _).trans (still_deliverG _ _ _ _).mild
end

/-! ## Every word -/

section
variable {i : Instr} {s t : State}

/-- A word that does not write STATUS leaves every register where it is not DECIDE. -/
theorem word_calm (hi : (Encoding.hdr i).isSome = true) (hd : decides i = false) (hw : writesStatus i = false) (h : exec i s = .next t) : Calm s t := by
  cases hp : publishes i with
  | false => exact ((word_still hi hp hw).keeps frame_still h).calm
  | true =>
    cases i with
    | pop => exact (gives_pop.keeps frame_tame h).1
    | spawn => exact (gives_spawn.keeps frame_tame h).1
    | launch => exact (gives_launch.keeps frame_tame h).1
    | spec => exact (gives_spec.keeps frame_tame h).1
    | twaitLaunch => exact (gives_twaitLaunch.keeps frame_tame h).1
    | decide => cases hd
    | _ => cases hp
/-- Every word keeps the form of memory. -/
theorem word_mild (hi : (Encoding.hdr i).isSome = true) (h : exec i s = .next t) : Mild s t := by
  cases hp : publishes i with
  | false =>
    cases hw : writesStatus i with
    | false => exact ((word_still hi hp hw).keeps frame_still h).mild
    | true =>
      cases i with
      | csrw => exact .same (gives_csrw.keeps (frame_stillBut _ _) h).memory
      | _ => cases hw
  | true =>
    cases i with
    | pop => exact (gives_pop.keeps frame_tame h).2
    | spawn => exact (gives_spawn.keeps frame_tame h).2
    | launch => exact (gives_launch.keeps frame_tame h).2
    | spec => exact (gives_spec.keeps frame_tame h).2
    | twaitLaunch => exact (gives_twaitLaunch.keeps frame_tame h).2
    | decide => exact gives_decide.keeps frame_mild h
    | _ => cases hp
/-- CSRW changes STATUS of its own stream alone. -/
theorem csrw_but (hw : writesStatus i = true) (h : exec i s = .next t) : StillBut s.curCore s.curStream s t := by
  cases i with
  | csrw => exact gives_csrw.keeps (frame_stillBut _ _) h
  | _ => cases hw
end

/-- Settles O59: the body of every word but six is a chain of updates beside memory. -/
theorem wordsLeaveMemoryAtTheirIssue : Obligations.WordsLeaveMemoryAtTheirIssue := by
  unfold Obligations.WordsLeaveMemoryAtTheirIssue
  intro i h s t hi hp ht
  have hsome : (Encoding.hdr i).isSome = true := by rw [hi]; rfl
  have hm : memories t = memories s := by
    cases hw : writesStatus i with
    | false => exact ((word_still hsome hp hw).keeps frame_still ht).1
    | true => exact (csrw_but hw ht).memory
  have hdev : t.dev = s.dev := congrArg Prod.fst hm
  have hhost : t.host = s.host := congrArg (·.2.1) hm
  exact ⟨fun a => by rw [hdev], fun a => by rw [hhost], hdev, hhost, congrArg (·.2.2.1) hm⟩

/-- Settles O60: the body of every word but DECIDE is a chain of updates beside the files, STATUS, FFL and DBG, and CSRW writes its own STATUS. -/
theorem wordsLeaveRegistersAtTheirIssue : Obligations.WordsLeaveRegistersAtTheirIssue := by
  unfold Obligations.WordsLeaveRegistersAtTheirIssue
  intro i h s t hi hd ht c n
  have hsome : (Encoding.hdr i).isSome = true := by rw [hi]; rfl
  cases hw : writesStatus i with
  | false =>
    obtain ⟨hregs, hstreams⟩ := word_calm hsome hd hw ht c
    exact ⟨congrArg Prod.fst (hstreams n), fun _ => congrArg Prod.snd (hstreams n), congrArg Prod.fst hregs, congrArg (·.2.1) hregs,
      congrArg (·.2.2) hregs⟩
  | true =>
    obtain ⟨-, hregs, hfiles, hstatus⟩ := csrw_but hw ht
    exact ⟨hfiles c n, fun hq => hstatus c n (hq.resolve_left Bool.noConfusion), congrArg Prod.fst (hregs c), congrArg (·.2.1) (hregs c),
      congrArg (·.2.2) (hregs c)⟩

end Sys2Proof.Laws
end

section
/-! PROOF. The power rules and the sensor path leave memory in its form. -/
namespace Sys2Proof.Laws
open Sys2Proof.Machine

section
variable (s : State)

theorem mild_modLbp (n : Nat) (f : Lbp → Lbp) : Mild s (s.modLbp n f) := .same (by rfl)
theorem mild_keeperVector : Mild s s.keeperVector := mild_msix s 0 3
theorem mild_owe (l : List Instr) : Mild s (s.owe l) := .ite (.refl s) (.same (by rfl))

/-! ## Imbalance, heat and peers -/

theorem mild_relaxForm (form : Nat) : Mild s (s.relaxForm form) := .ite (mild_modForm s form _) (.refl s)
theorem mild_imbalanceTick (form : Nat) (work filler : List Nat) (full : BitVec 4) : Mild s (s.imbalanceTick form work filler full) := by
  unfold State.imbalanceTick
  dsimp only
  exact (Mild.foldl (fun s i => mild_modCore s (4 * form + i) _) _ s).trans ((mild_modForm _ form _).trans (mild_relaxForm _ form))
theorem mild_meterTick : Mild s s.meterTick := by
  have hdies : Mild s ([0, 1].foldl (fun (t : State) d => t.modDie d fun x => x.heat (s.diePower d)) s) := .foldl (fun t d => mild_modDie t d _) _ s
  have hforms (l : List Nat) (t : State) : Mild t (l.foldl (fun (t : State) f => t.modForm f fun x =>
      { x with work := (s.meter f).1, reading := none, ticked := true }) t) := .foldl (fun t f => mild_modForm t f _) l t
  exact hdies.trans ((hforms _ _).trans (.same (by rfl)))
theorem mild_ceilingStep (die : Nat) (raise : Bool) : Mild s (s.ceilingStep die raise) := by
  unfold State.ceilingStep
  dsimp only
  split
  · exact .refl s
  · exact mild_modForm s _ _
theorem mild_sendAll (m : List Byte) : Mild s (s.sendAll m) := .same (by rfl)
theorem mild_slowDown (die : Nat) : Mild s (s.slowDown die) := (mild_sendAll s _).trans (mild_modDie _ die _)
theorem mild_repeatNotice (die : Nat) : Mild s (s.repeatNotice die) := .ite (mild_slowDown s die) (.refl s)
theorem mild_peerExpiry (port : Nat) : Mild s (s.peerExpiry port) := .ite (.same (by rfl)) (.refl s)
theorem mild_memTemp (ch temp : Nat) : Mild s (s.memTemp ch temp) := .same (by rfl)

/-! ## Seasons -/

theorem mild_putSeason (r : Ramp) (v : Season) : Mild s (s.putSeason r v) := .ite (mild_modForm s _ _) (mild_modSh s _ _)
theorem mild_startRamp (die : Nat) : Mild s (s.startRamp die) := by
  unfold State.startRamp
  split
  · exact .refl s
  · exact (mild_putSeason s _ _).trans (mild_modDie _ die _)
theorem mild_urgSettle : Mild s s.urgSettle := .same (by rfl)
theorem mild_endRamp (die : Nat) : Mild s (s.endRamp die) := by
  unfold State.endRamp
  split
  · exact .refl s
  · exact (mild_putSeason s _ _).trans ((mild_modDie _ die _).trans (mild_urgSettle _))
theorem mild_askRamps (l : Tab Engine) (r : Nat × Engine → Ramp) : Mild s (l.foldl (fun (s : State) g => s.askRamp (r g)) s) :=
  .foldl (fun s g => mild_askRamp s (r g)) l s
theorem mild_writeUrg (mask : BitVec 32) : Mild s (s.writeUrg mask) := by
  unfold State.writeUrg
  dsimp only
  refine Mild.trans (Mild.same (t := { s with urgForms := s.urgForms &&& mask, urgWanted := mask &&& ~~~s.urgForms }) (by rfl)) ?_
  refine Mild.trans (Mild.foldl (fun s f => ?_) _ _) (mild_urgSettle _)
  refine Mild.trans (Mild.ite (.refl s) (mild_askRamp s _)) (.foldl (fun s i => ?_) _ _)
  exact mild_askRamps s _ _
theorem mild_seasonSettle (c : Nat) : Mild s (s.seasonSettle c) := .ite (mild_modCore s c _) (.refl s)
theorem mild_requests (l : List Nat) (f : Nat → Nat) : Mild s (l.foldl (fun (s : State) i => s.modCore (f i) Core.request) s) :=
  .foldl (fun s i => mild_modCore s (f i) _) l s
theorem mild_seasonRound : Mild s s.seasonRound := by
  unfold State.seasonRound
  refine .foldl (fun s c => ?_) _ s
  dsimp only
  refine (mild_seasonSettle s c).trans ?_
  split
  · exact mild_requests _ _ _
  · exact .refl _
theorem mild_coldCores (l : List Nat) : Mild s (l.foldl (fun (s : State) n => (s.flushCache n).modCore n fun y => { y with otc := [] }) s) :=
  .foldl (fun s n => (mild_flushCache s n).trans (mild_modCore _ n _)) l s
theorem mild_bareCores (l : List Nat) :
    Mild s (l.foldl (fun (s : State) n => s.modCore n fun y => { y with sh := { y.sh with deck := [], deckV := false } }) s) :=
  .foldl (fun s n => mild_modCore s n _) l s
theorem mild_enterSeason (c : Nat) : Mild s (s.enterSeason c) := by
  unfold State.enterSeason
  dsimp only
  refine .ite (mild_seasonSettle s c) (.ite (mild_modCore s c _) (.ite (.ite ?_ (.refl s)) ?_))
  · refine Mild.trans ?_ (mild_seasonSettle _ c)
    refine Mild.trans ?_ (mild_modForm _ _ _)
    split
    · refine Mild.trans ?_ (mild_bareCores _ _)
      exact mild_coldCores s _
    · exact mild_coldCores s _
  · exact (mild_modSh s c _).trans ((mild_modCore _ c _).trans (mild_seasonSettle _ c))
theorem mild_wakeEngine (c e : Nat) : Mild s (match ((s.sh c).engine e).season with
    | .winter => s.askRamp { core := c, eng := e, units := engineUnits e }
    | .autumn => s.modSh c fun y => y.modEngine e fun g => if g.wake = 0 then { g with wake := 13, idleFor := 0 } else g
    | _ => s) := by
  split
  · exact mild_askRamp s _
  · exact mild_modSh s c _
  · exact .refl s
theorem mild_seasonRequest (c : Nat) (v : Word) : Mild s (s.seasonRequest c v) := by
  unfold State.seasonRequest
  extract_lets x done u f w
  refine .ite (.refl s) (.ite (mild_modCore s c _) (.ite (mild_modCore s c _) ?_))
  have hu : Mild s u := mild_modCore s c _
  have hw : Mild u w := by
    refine .ite (.ite (.ite (.refl u) (mild_askRamp u _)) ?_) (.ite (mild_requests u _ _) (.refl u))
    exact .foldl (fun s e => mild_wakeEngine s c e) _ u
  exact hu.trans (hw.trans (mild_seasonSettle w c))
theorem mild_seasonCycle (c : Nat) : Mild s (s.seasonCycle c) := by
  unfold State.seasonCycle
  refine .foldl (fun s e => ?_) _ s
  dsimp only
  split
  · exact .ite (.refl s) (mild_askRamp s _)
  · exact .ite (mild_modSh s c _) (.refl s)
  · exact .refl s
theorem mild_powerTick : Mild s s.powerTick := by
  unfold State.powerTick
  extract_lets s1 s2 s3 s4 s5 clear
  have h1 : Mild s s1 := .foldl (fun t d => mild_modDie t d _) _ s
  have h2 : Mild s1 s2 := .same (by rfl)
  have h3 : Mild s2 s3 := .same (by rfl)
  have h4 : Mild s3 s4 := .foldl (fun t d => (Mild.foldl (fun t _ => mild_endRamp t d) _ t).trans (mild_repeatNotice _ d)) _ s3
  have h5 : Mild s4 s5 := (Mild.foldl (fun t p => mild_peerExpiry t p) _ s4).trans (mild_meterTick _)
  clear_value s5
  exact h1.trans (h2.trans (h3.trans (h4.trans (h5.trans (.same (by rfl))))))
end

end Sys2Proof.Laws
end

section
/-! PROOF. The sensor path leaves memory in its form. -/
namespace Sys2Proof.Laws
open Sys2Proof.Machine

section
variable (s : State)

theorem mild_kick (port : Nat) : Mild s (s.kick port) := by
  unfold State.kick
  exact .foldl (fun s i => .ite (.same (by rfl)) (.refl s)) _ s
theorem mild_emit (l n frame row : Nat) (bytes : List Byte) : Mild s (s.emit l n frame row bytes) :=
  .ite (mild_modSensor s n _) (.same (by rfl))
theorem mild_endRun (l : Nat) : Mild s (s.endRun l) := by
  unfold State.endRun
  extract_lets b i x s1 u s2 n key info bytes good s3 rows s4 s5
  have h1 : Mild s s1 := mild_modLbp s l _
  have h2 : Mild s1 s2 := .ite (.same (by rfl)) (.refl s1)
  have h3 : Mild s2 s3 := .ite (mild_modSensor s2 _ _) (.refl s2)
  have h4 : Mild s3 s4 := mild_modLbp s3 l _
  have h5 : Mild s2 s5 := .ite (.refl s2) (h3.trans (.ite (mild_modLbp s3 l _) (h4.trans (.foldl (fun t r => mild_emit t _ _ _ _ _) rows s4))))
  exact h1.trans (h2.trans (h5.trans (mild_kick s5 _)))
theorem mild_runRow (l : Nat) : Mild s (s.runRow l) := by
  unfold State.runRow
  split
  · exact .refl s
  · split
    · exact .refl s
    · next n r x _ =>
      extract_lets s1 s2 k
      have h1 : Mild s s1 := mild_modSensor s n _
      have h2 : Mild s1 s2 := mild_modLbp s1 l _
      refine h1.trans (h2.trans (.ite (Mild.trans ?_ (mild_endRun _ l)) (.same (by rfl))))
      exact mild_modLbp s2 l _
theorem mild_atStream (n : Nat) (f : Sensor → Sensor) : Mild s (s.atStream n f) := (mild_modSensor s n f).trans (mild_kick _ _)
theorem mild_camera (port vc : Nat) (f : Sensor → Sensor) : Mild s (s.camera port vc f) := by
  unfold State.camera
  split
  · exact mild_atStream s _ f
  · exact .refl s
theorem mild_lidar (port : Nat) (p : List Byte) : Mild s (s.lidar port p) := by
  unfold State.lidar
  dsimp only
  split
  · exact .refl s
  · split
    · exact .refl s
    · exact mild_atStream s _ _
theorem mild_frameDeadline (n : Nat) : Mild s (s.frameDeadline n) := .ite (mild_atStream s n _) (.refl s)
theorem mild_sensorTick : Mild s s.sensorTick := .same (by rfl)

/-! ## Offers and publication -/

theorem mild_rollPoison : Mild s s.rollPoison := by
  unfold State.rollPoison
  refine .foldl (fun s m => ?_) _ s
  split
  · exact .ite (mild_modSensor s _ _) (.refl s)
  · exact .refl s
theorem mild_loseBinds (t : SensorTile) : Mild s (s.loseBinds t) := .ite (.same (by rfl)) (.refl s)
theorem mild_offerTile (t : SensorTile) : Mild s (s.offerTile t) := .same (by rfl)
theorem mild_rowAdvance (n : Nat) (frame : BitVec 32) (row : BitVec 16) : Mild s (s.rowAdvance n frame row) := .same (by rfl)
theorem mild_publishRow (n : Nat) : Mild s (s.publishRow n) := by
  unfold State.publishRow
  extract_lets x
  split
  · exact .refl s
  · next o rest _ =>
    extract_lets
    rename_i s1 _ _ _ s2 s3 s4
    have h1 : Mild s s1 := .ite (mild_loseBinds s _) (.refl s)
    have h2 : Mild s1 s2 := mild_modSensor s1 n _
    have h3 : Mild s2 s3 := mild_heal s2 _
    have h4 : Mild s3 s4 := mild_rowAdvance s3 n _ _
    exact h1.trans (h2.trans (h3.trans (h4.trans (.ite (mild_offerTile s4 _) (.refl s4)))))
theorem mild_rollCall : Mild s s.rollCall := (mild_rollPoison s).trans (.same (by rfl))

/-! ## Configuration -/

theorem mild_enableStream (n : Nat) (v : BitVec 128) : Mild s (s.enableStream n v) := by
  unfold State.enableStream
  extract_lets x tiles s1 s2
  have h1 : Mild s s1 := mild_modSensor s n _
  have h2 : Mild s1 s2 := .foldl (fun t i => mild_modLbp t _ _) _ s1
  clear_value s2
  exact h1.trans (h2.trans (.same (by rfl)))
theorem mild_stopLbp (n l : Nat) : Mild s (if (s.lbp l).running && (s.lbp l).stream == n then
      (s.modLbp l fun b => { b with running := false }).modCore (128 + l) fun y => { y with flight := [] } else s) :=
  .ite ((mild_modLbp s l _).trans (mild_modCore _ _ _)) (.refl s)
theorem mild_disableStream (n : Nat) : Mild s (s.disableStream n) := by
  unfold State.disableStream
  extract_lets x lost s1 s2 s3
  have h1 : Mild s s1 := mild_modSensor s n _
  have h2 : Mild s1 s2 := .foldl (fun t i => (mild_modLbp t _ _).trans (mild_stopLbp _ n (4 * x.port + i))) _ s1
  have h3 : Mild s2 s3 := by
    clear_value s2
    exact .same (by rfl)
  exact h1.trans (h2.trans (h3.trans (mild_kick s3 _)))
theorem mild_writeScfg (n : Nat) (v : BitVec 128) : Mild s (s.writeScfg n v) := by
  unfold State.writeScfg
  dsimp only
  exact .ite (.refl s) (.ite (.ite (.refl s) (mild_disableStream s n)) (.ite (mild_modSensor s n _)
    (.ite (mild_enableStream s n v) (mild_modSensor s n _))))
theorem mild_writeSerrCtl (n : Nat) (v : Word) : Mild s (s.writeSerrCtl n v) := .ite (mild_modSensor s n _) (.refl s)
end

end Sys2Proof.Laws
end

section
/-! PROOF. Recovery, the host and its windows leave memory in its form. -/
namespace Sys2Proof.Laws
open Sys2Proof.Machine

/-! ## Keeping the form alone -/

/-- Memory keeps its canonical form. -/
def Sound (s t : State) : Prop := MemOk s → MemOk t

theorem Mild.sound {s t : State} (h : Mild s t) : Sound s t := h.2
theorem Sound.refl (s : State) : Sound s s := id
theorem Sound.trans {s t u : State} (h : Sound s t) (k : Sound t u) : Sound s u := k ∘ h
theorem Sound.same {s t : State} (h : (t.dev, t.host, t.devTags, t.regMem) = (s.dev, s.host, s.devTags, s.regMem)) : Sound s t := by
  simp only [Prod.mk.injEq] at h
  obtain ⟨hdev, hhost, htags, hreg⟩ := h
  exact fun hs => hs.same hdev hhost htags hreg
theorem Sound.ite {s t u : State} {p : Prop} [Decidable p] (ht : Sound s t) (hu : Sound s u) : Sound s (if p then t else u) := by
  split
  · exact ht
  · exact hu
theorem Sound.foldl {α : Type} {f : State → α → State} (hf : ∀ s x, Sound s (f s x)) (l : List α) (s : State) : Sound s (l.foldl f s) := by
  induction l generalizing s with
  | nil => exact .refl s
  | cons x l ih => exact (hf s x).trans (ih _)

section
variable (s : State)

/-! ## Recovery -/

theorem mild_ctlResume (c : Nat) (writer : Option Nat) : Mild s (s.ctlResume c writer) := .ite (mild_modCore s c _) (.refl s)
theorem mild_publishAll (c : Nat) : Mild s (s.publishAll c) := by
  unfold State.publishAll
  refine .foldl (fun s a => ?_) _ s
  split
  · exact mild_publish s c a _
  · exact .refl s
theorem mild_ctlAbandon (c : Nat) (writer : Option Nat) : Mild s (s.ctlAbandon c writer) := by
  unfold State.ctlAbandon
  extract_lets u
  have hu : Mild s u := .ite (mild_drainAll s c) (.refl s)
  exact .ite (hu.trans (.ite (mild_modCore u c _) ((mild_publishAll u c).trans (mild_abandonTask _ c)))) (.refl s)
theorem mild_ctlAbort (c : Nat) (writer : Option Nat) : Mild s (s.ctlAbort c writer) := by
  unfold State.ctlAbort
  dsimp only
  split
  · have h : Mild s ((s.discard (.idem (s.task c).ctx (s.task c).lid (s.task c).gen (s.task c).index)).dropTask c) := (mild_discardAll s _).trans (mild_dropTask _ c)
    exact h.trans (.same (by rfl))
  · exact .refl s
theorem mild_writeFfCtl (c : Nat) (writer : Option Nat) (v : Nat) : Mild s (s.writeFfCtl c writer v) := .ite (mild_modCore s c _) (.refl s)
theorem mild_ctlRound : Mild s s.ctlRound := by
  unfold State.ctlRound
  refine .foldl (fun s x => ?_) _ s
  refine Mild.trans (mild_modCore s x.1 fun y => { y with ctl := [] }) ?_
  dsimp only
  split
  · exact mild_ctlResume _ _ _
  · exact mild_ctlAbandon _ _ _
  · exact mild_ctlAbort _ _ _
  · exact .refl _
theorem mild_timingError (c n : Nat) (commit : Option Nat) : Mild s (s.timingError c n commit) := by
  unfold State.timingError
  dsimp only
  split
  · split
    · exact .refl s
    · exact .ite (.refl s) (.ite ((mild_setAcc s c _).trans (mild_takeFault _ _ _ _ _ _)) ((mild_setAcc s c _).trans (mild_modStream _ _ _ _)))
  · exact .ite (.ite (.refl s) (.ite ((mild_modStream s _ _ _).trans (mild_takeFault _ _ _ _ _ _)) (mild_modStream s _ _ _)))
      (.ite (.refl s) (.ite ((mild_modSh s _ _).trans (mild_takeFault _ _ _ _ _ _)) (mild_modSh s _ _)))
theorem mild_softError (c : Nat) (st : Option Nat) (store : BitVec 4) (number : BitVec 8) (commit : Bool) :
    Mild s (s.softError c st store number commit) :=
  .ite (.ite (mild_takeFault s _ _ _ _ _) (.refl s)) (.ite (mild_takeFault s _ _ _ _ _) (.refl s))
theorem mild_haltRequest (c n : Nat) : Mild s (s.haltRequest c n) := by
  unfold State.haltRequest
  dsimp only
  refine .ite (.refl s) ?_
  split
  · exact mild_modCore s c _
  · exact mild_modCore s c _
  · exact mild_modCore s c _
  · exact mild_modCore s c _
  · exact .refl s
theorem mild_haltRelease (c n : Nat) : Mild s (s.haltRelease c n) := .ite (.refl s) (mild_modCore s c _)

/-! ## Table commands -/

theorem mild_purge (o : OtCmd) (r : Nat) : Mild s (s.purge o r) := by
  unfold State.purge
  dsimp only
  refine .ite (mild_modDie s _ _) ?_
  refine Mild.trans (Mild.foldl (fun t k => mild_writeBack t r k) _ s) (.ite (.refl _) (mild_modCore _ r _))
theorem sound_otDone (o : OtCmd) (code : Nat) : Sound s (s.otDone o code) := .same (by rfl)
theorem mild_otDirty (o : OtCmd) : Mild s (s.otDirty o) := by
  unfold State.otDirty
  split
  · exact .refl s
  · exact .same (by rfl)
theorem sound_putEntry (o : OtCmd) (f : Nat → Nat) : Sound s (s.putEntry o f) := memOk_putEntry o f
theorem sound_takeAck (r : Nat) : Sound s (s.takeAck r) := by
  unfold State.takeAck
  split
  · exact .refl s
  · next o t _ =>
    split
    · exact .refl s
    · next w _ =>
      extract_lets u w' v
      have hu : Sound s u := (mild_purge s o r).sound
      have hv : Sound u v := .same (by rfl)
      exact .ite (.refl s) (hu.trans (hv.trans (.ite (.refl v) (.ite (sound_otDone v o 0) (.same (by rfl))))))
theorem sound_otStart (fuel : Nat) (s : State) : Sound s (s.otStart fuel) := by
  induction fuel generalizing s with
  | zero => exact .refl s
  | succ n ih =>
    rw [State.otStart]
    split
    · exact .refl s
    · next o t _ =>
      extract_lets code u v w
      have hu : Sound s u := .ite (sound_putEntry s o _) (.refl s)
      have hv : Sound u v := .same (by rfl)
      have hw : Sound v w := .foldl sound_takeAck _ v
      refine .ite (.refl s) (.ite ((sound_otDone s o code).trans (ih _)) (.ite ?_ (hu.trans (hv.trans (hw.trans (ih w))))))
      exact (mild_otDirty s o).sound.trans ((sound_otDone _ o 0).trans (ih _))
theorem sound_writeOtCmd (fn : Nat) (v : Word) : Sound s (s.writeOtCmd fn v) := by
  unfold State.writeOtCmd
  dsimp only
  refine .ite (.refl s) (Sound.trans (.same ?_) (sound_otStart 8 _))
  rfl
theorem mild_unstall : Mild s s.unstall := by
  unfold State.unstall
  refine Mild.trans (Mild.same (t := { s with stalls := [] }) (by rfl)) (.foldl (fun t x => mild_serveStall t x) _ _)
theorem sound_migrate : Sound s s.migrate := by
  unfold State.migrate
  split
  · exact .refl s
  · next o _ _ =>
    refine .ite (.refl s) ?_
    exact (mild_movePage o).sound.trans ((mild_unstall _).sound.trans ((sound_otDone _ o 0).trans (sound_otStart 8 _)))
theorem sound_otForce : Sound s s.otForce := by
  unfold State.otForce
  split
  · exact .refl s
  · next o t _ =>
    split
    · exact .refl s
    · next w _ =>
      extract_lets u v
      have hu : Sound s u := .foldl (fun t r => (mild_purge t o r).sound) w s
      have hv : Sound u v := .same (by rfl)
      exact hu.trans (hv.trans (.ite (sound_migrate v) (sound_otDone v o 0)))
end

end Sys2Proof.Laws
end

section
/-! PROOF. Resets, the time base and the register windows leave memory in its form. -/
namespace Sys2Proof.Laws
open Sys2Proof.Machine

section
variable (s : State)

/-! ## Resets, attestation and the time base -/

theorem sound_deviceReset (signed : Bool) (record : BootRecord) : Sound s (s.deviceReset signed record) := memOk_deviceReset signed record
theorem mild_resetCore (c : Nat) : Mild s (s.resetCore c) := ((mild_dropTask s c).trans (mild_heal _ _)).trans (mild_modCore _ c _)
/-- What a function-level reset does to one context: its overflow object is emptied and its counts are zeroed. -/
theorem mild_emptyContext (c : Nat) :
    Mild s ((if (s.ctx c).ovfDies.isEmpty then s else s.ovfPut c [] []).modCtx c fun k =>
      { k with specs := 0, tsUsed := 0, ovfDies := [], ovfComing := [], ovfFreed := 0 }) :=
  (Mild.ite (.refl s) (mild_ovfPut s c [] [])).trans (mild_modCtx _ c _)
theorem sound_resetFunction (fn : Nat) : Sound s (s.resetFunction fn) := by
  unfold State.resetFunction
  refine .ite (sound_deviceReset s _ _) (.ite (.refl s) ?_)
  extract_lets cs mine s1 s2 s3 cores s4 lids s5 ofIdent lost s6 s7
  have h1 : Sound s s1 := (mild_modFn s fn _).sound
  have h2 : Sound s1 s2 := .ite (sound_otForce s1) (.refl s1)
  have h3 : Sound s2 s3 := .same (by rfl)
  have h4 : Sound s3 s4 := .foldl (fun t c => (mild_resetCore t c).sound) _ s3
  have h5 : Sound s4 s5 := .foldl (fun t l => (mild_freeLaunch t l 3).sound) _ s4
  have h6 : Sound s5 s6 := .same (by rfl)
  have h7 : Sound s6 s7 := .same (by rfl)
  have h8 : Sound s7 (cs.foldl _ s7) := .foldl (fun t c => (mild_emptyContext t c).sound) cs s7
  exact h1.trans (h2.trans (h3.trans (h4.trans (h5.trans (h6.trans (h7.trans h8))))))
theorem mild_resetWindow (fn : Nat) : Mild s (s.resetWindow fn) :=
  .ite (.refl s) ((Mild.foldl (fun t c => mild_modCtx t c _) _ s).trans (mild_modFn _ fn _))
theorem mild_attStart : Mild s s.attStart := .ite (.refl s) (.same (by rfl))
theorem mild_attReady (keeper registrar config r v : BitVec 256) : Mild s (s.attReady keeper registrar config r v) :=
  .ite (.refl s) (.same (by rfl))
theorem mild_syncTime (host synced : Bool) (time : Word) : Mild s (s.syncTime host synced time) :=
  .ite (.refl s) (.ite (.same (by rfl)) (.same (by rfl)))

/-! ## The windows of the functions -/

theorem mild_writeCtxCfg (c : Nat) (v : Word) : Mild s (s.writeCtxCfg c v) :=
  .ite (.refl s) (.ite (.refl s) (mild_modCtx s c _))
theorem mild_tagBase (v : Word) : Mild s { s with tagBase := v, tagBaseSet := true } := .same (by rfl)
/-- The single registers of the physical function's window, TAG_BASE and ATT_CMD. -/
theorem mild_writeSingle (off : Nat) (v : Word) : Mild s (if off = 0x20200 then
      if s.tagBaseSet then s else { s with tagBase := BitVec.ofNat 64 (v.toNat / 2 ^ 21 * 2 ^ 21), tagBaseSet := true }
    else if off = 0x20320 then s.attStart
    else s) :=
  .ite (.ite (.refl s) (mild_tagBase s _)) (.ite (mild_attStart s) (.refl s))
theorem mild_writePf (off : Nat) (val : BitVec 128) : Mild s (s.writePf off val) := by
  unfold State.writePf
  extract_lets v
  split
  · exact mild_writeCtxCfg s _ v
  split
  · exact .ite (.refl s) (mild_modCtx s _ _)
  split
  · exact mild_modCtx s _ _
  split
  · exact mild_modGroup s _ _
  split
  · exact .ite (.refl s) (.same (by rfl))
  split
  · exact mild_writeScfg s _ val
  · exact .ite (.refl s) (mild_modSensor s _ _)
  · exact mild_writeSerrCtl s _ v
  split
  · exact .ite (.refl s) (mild_modLbp s _ _)
  split
  · exact .ite (.refl s) (mild_modLbp s _ _)
  · exact mild_writeSingle s off v
theorem sound_writeFn (fn off : Nat) (val : BitVec 128) : Sound s (s.writeFn fn off val) := by
  unfold State.writeFn
  extract_lets v
  refine .ite (.refl s) ?_
  split
  · exact .ite (.refl s) (.ite (mild_modCtx s _ _).sound (.ite (mild_modCtx s _ _).sound (.refl s)))
  split
  · exact (mild_writeFfCtl s _ _ _).sound
  · exact .refl s
  split
  · exact (mild_modFn s fn _).sound
  · exact .ite (mild_modFn s fn _).sound (.refl s)
  · exact (mild_writeTail s fn _).sound
  · exact (mild_modFn s fn _).sound
  · exact sound_writeOtCmd s fn v
  · exact (mild_modFn s fn _).sound
  · exact .ite (mild_writePf s off val).sound (.refl s)

/-! ## The windows of the registrar, the keeper and the debug port -/

theorem mild_writeRegistrar (off : Nat) (val : BitVec 128) : Mild s (s.writeRegistrar off val) := by
  unfold State.writeRegistrar
  extract_lets v n
  split
  · exact .same (by rfl)
  · exact .same (by rfl)
  · exact .refl s
  split
  · exact mild_modCore s _ _
  split
  · exact mild_seasonRequest s _ v
  split
  · exact mild_modForm s _ _
  split
  · exact mild_modForm s _ _
  split
  · exact .ite (mild_modLaunch s _ _) (.refl s)
  · exact .refl s
  split
  · exact mild_writeFfCtl s _ _ _
  · exact .refl s
  split
  · exact .same (by rfl)
  · exact mild_ttCommitNow s
  · exact mild_writeUrg s _
  · exact mild_modDie s 0 _
  · exact mild_modDie s 1 _
  · exact .same (by rfl)
  · exact .ite (.same (by rfl)) (.refl s)
  · exact .same (by rfl)
  · exact .ite (.same (by rfl)) (.refl s)
  · exact .refl s
theorem mild_writeKeeper (off : Nat) (val : BitVec 128) : Mild s (s.writeKeeper off val) := by
  unfold State.writeKeeper
  extract_lets v
  split
  · exact mild_modDie s _ _
  · exact mild_modForm s _ _
  · exact .ite (.ite (.same (by rfl)) (.refl s)) (.ite (mild_writeRegistrar s off val) (.refl s))
theorem mild_writeStoser (c off : Nat) (v : Word) : Mild s (s.writeStoser c off v) := by
  unfold State.writeStoser
  split
  · exact mild_objWrite s _ _ _ _
  · exact .ite (.refl s) (.ite (mild_modCore s c _) (.ite (mild_snapWrite s c off _) (.refl s)))
theorem sound_writeRegister (win : RegWindow) (off : Nat) (val : BitVec 128) : Sound s (s.writeRegister win off val) := by
  unfold State.writeRegister
  split
  · exact sound_writeFn s _ off val
  · exact .ite (mild_writeRegistrar s off val).sound (.refl s)
  · exact (mild_writeKeeper s off val).sound
  · exact (mild_writeStoser s _ off _).sound
end

end Sys2Proof.Laws
end

section
/-! PROOF. A unit's cycle around its words, and the round, leave memory in its form. -/
namespace Sys2Proof.Laws
open Sys2Proof.Machine

section
variable (s : State)

/-! ## The words that a slot offers -/

theorem mild_mark (c : Nat) (ms : List Nat) (v : Verdict) : Mild s (s.mark c ms v) := .foldl (fun t m => mild_modStream t c m _) ms s
theorem mild_leaveUnjoined (c n : Nat) : Mild s (s.leaveUnjoined c n) := .ite (.refl s) (.ite (.refl s) (mild_modCore s c _))
theorem mild_countIdle (c n : Nat) : Mild s (s.countIdle c n) := by
  unfold State.countIdle
  split
  · exact mild_modStream s c n _
  · exact .ite (.ite (.refl s) (mild_modStream s c n _)) (mild_modStream s c n _)
theorem mild_slotWords (c n : Nat) : Mild s (s.slotWords c n).1 := by
  unfold State.slotWords
  split
  · exact .refl s
  split
  · exact .refl s
  extract_lets u x ms v
  have hu : Mild s u := mild_leaveUnjoined s c n
  have hv : Mild u v := .foldl (fun t m => mild_countIdle t c m) ms u
  split
  · exact hu
  split
  · exact hu
  split
  · exact hu.trans (mild_mark u c ms _)
  split
  · exact hu.trans hv
  · exact hu.trans hv
theorem mild_againWords (c n : Nat) : Mild s (s.againWords c n).1 := by
  unfold State.againWords
  dsimp only
  split
  · exact mild_mark s c _ _
  · exact .refl s
theorem mild_fetchStep : Mild s s.fetchStep.1 := by
  unfold State.fetchStep
  split
  · exact mild_slotWords s _ _
  · exact mild_againWords s _ _
  · exact .refl s

/-! ## Settling a bundle -/

theorem mild_arrive (w : Nat × Instr) : Mild s (s.arrive w) := by
  unfold State.arrive
  extract_lets c at_ o
  have hat : Mild s at_ := .same (by rfl)
  have ho : ∀ t, o = .next t → Mild at_ t := by
    intro t ht
    simp only [o] at ht
    split at ht
    · exact (gives_start.keeps frame_still ht).mild
    · exact (gives_joinCc.keeps frame_still ht).mild
    · exact (gives_bar.keeps frame_still ht).mild
    · exact (gives_sleep.keeps frame_still ht).mild
    · cases ht
      exact .refl _
  clear_value o
  split
  · next t =>
    extract_lets t'
    have ht' : Mild s t' := (hat.trans (ho t rfl)).trans (.same (by rfl))
    refine .ite (ht'.trans (mild_mark t' c _ _)) ?_
    split
    · exact .ite (mild_modCore s c _) (.refl s)
    · exact .ite (.refl s) (mild_modCore s c _)
    · exact .refl s
  · exact .refl s

/-! ## The beginning of a cycle -/

theorem mild_beginEngines (c : Nat) : Mild s (s.beginEngines c) := by
  unfold State.beginEngines
  extract_lets x run es s1 s2 da s3
  have h1 : Mild s s1 := mild_owe s _
  have h2 : Mild s1 s2 := .ite (.refl s1) (mild_owe s1 _)
  have h3 : Mild s2 s3 := .ite (mild_owe s2 _) (.refl s2)
  exact h1.trans (h2.trans (h3.trans (.foldl (fun t e => mild_tickEngine t c e) _ s3)))
theorem mild_beginOwn (c : Nat) (missed : List Nat) : Mild s (s.beginOwn c missed) := by
  unfold State.beginOwn
  refine .ite (.refl s) ?_
  extract_lets x s1 s2 near active
  have h1 : Mild s s1 := mild_owe s _
  have h2 : Mild s1 s2 := .ite (mild_owe s1 _) (.refl s1)
  exact h1.trans (h2.trans (.ite (mild_nearPart s2 c) (.refl s2)))
theorem mild_prepareCore (c : Nat) : Mild s (s.prepareCore c) := by
  unfold State.prepareCore
  extract_lets old missed s1 s2 s3 s4 s5 s6
  have h1 : Mild s s1 := (mild_modCore s c _).trans (mild_seasonCycle _ c)
  have h2 : Mild s s2 := h1.trans (mild_owe s1 _)
  split
  · have h3 : Mild s2 s3 := .ite (mild_modCore s2 c _) (.refl s2)
    have h4 : Mild s3 s4 := mild_beginEngines s3 c
    exact h2.trans (h3.trans (h4.trans (mild_beginOwn s4 c missed)))
  · exact h2.trans ((mild_beginEngines s2 c).trans (mild_beginOwn _ c []))
  · have h5 : Mild s2 s5 := (mild_beginEngines s2 c).trans (mild_beginOwn _ c [])
    have h6 : Mild s5 s6 := mild_enqueueEngine s5 c true
    exact h2.trans (h5.trans (.ite (h6.trans (.ite (mild_owe s6 _) (.refl s6))) (.refl s5)))
  · exact h2
theorem mild_prepareLbp (c : Nat) : Mild s (s.prepareLbp c) := mild_modStream s c 0 _

/-! ## Landing -/

theorem mild_landFlight (c : Nat) (f : Flight) : Mild s (s.landFlight c f) := by
  unfold State.landFlight
  extract_lets u v
  have hu : Mild s u := mild_modCore s c _
  have hv : Mild u v := mild_heal u _
  exact hu.trans (hv.trans (.ite (mild_takeFault v _ _ _ _ _) (.refl v)))
theorem mild_land (c : Nat) : Mild s (s.land c) := by
  unfold State.land
  exact .ite (.refl s) ((mild_modCore s c _).trans (.foldl (fun t f => mild_landFlight t c f) _ _))

/-! ## The end of a cycle -/

theorem mild_faultWaiters (c : Nat) (gone : BitVec 4) : Mild s (s.faultWaiters c gone) := by
  unfold State.faultWaiters
  extract_lets x ccs bars fault u v
  have hf : ∀ op m t, Mild t (fault op m t) := fun op m t => .foldl (fun t n => mild_takeFault t _ _ _ _ _) _ t
  have hu : Mild s u := .foldl (fun t r => hf _ _ t) ccs s
  have hv : Mild u v := .foldl (fun t r => hf _ _ t) bars u
  exact hu.trans (hv.trans (mild_modSh v c _))
theorem mild_undisposedFault (c : Nat) (ns : List Nat) (info : Nat) : Mild s (s.undisposedFault c ns info) :=
  .foldl (fun t n => (mild_modStream t c n _).trans (mild_takeFault _ _ _ _ _ _)) ns s
theorem mild_judgeEnds (c : Nat) : Mild s (s.judgeEnds c) := by
  unfold State.judgeEnds
  extract_lets s1 x ends dones plain info last fail ok s2 s3 gone
  have h1 : Mild s s1 := mild_modCore s c _
  have h2 : Mild s1 s2 := mild_undisposedFault s1 c fail info
  have h3 : Mild s2 s3 := mild_modCore s2 c _
  refine h1.trans (.ite (.refl s1) (.ite (mild_modCore s1 c _) ?_))
  exact h2.trans (h3.trans (.ite (.refl s3) (mild_faultWaiters s3 c gone)))
theorem mild_watchCycle (c : Nat) (counts : Bool) : Mild s (s.watchCycle c counts) :=
  .ite (mild_modSh s c _) (.ite ((mild_modSh s c _).trans (mild_watchdog _ c)) (.refl s))
theorem mild_stopCore (c : Nat) : Mild s (s.stopCore c) :=
  ((mild_modCore s c _).trans (mild_notice _ _)).trans (mild_msix _ _ 1)
theorem mild_tryRetire (c : Nat) : Mild s (s.tryRetire c) := by
  unfold State.tryRetire
  extract_lets u x
  have hu : Mild s u := mild_drainAll s c
  exact hu.trans (.ite (.refl u) (.ite (mild_stopCore u c) (.ite (mild_retireTask u c) (.refl u))))
theorem mild_finishCore (c : Nat) : Mild s (s.finishCore c) := by
  unfold State.finishCore
  extract_lets x counts s1 wins s2 s3 s4 s5 s6
  have h1 : Mild s s1 := ((mild_modCore s c _).trans (mild_memoryCycle _ c)).trans (mild_land _ c)
  have h2 : Mild s1 s2 := ((mild_modCore s1 c _).trans (mild_modCore _ c _)).trans (mild_sweepTiles _ c)
  have h3 : Mild s1 s3 := mild_watchCycle s1 c counts
  have h4 : Mild s3 s4 := mild_judgeEnds s3 c
  have h5 : Mild s4 s5 := mild_modCore s4 c _
  have h6 : Mild s5 s6 := mild_sweepTiles s5 c
  refine h1.trans (.ite ?_ ?_)
  · refine .ite (.refl s1) (.ite (.ite (mild_owe s1 _) (.refl s1)) (h2.trans (.ite ?_ (.refl s2))))
    exact (mild_modDie s2 _ _).trans (mild_stopCore _ c)
  · exact h3.trans (h4.trans (h5.trans (h6.trans (.ite (.refl s6) (.ite (mild_stopCore s6 c)
      (.ite (mild_tryRetire s6 c) (.ite (.refl s6) (mild_takeRequest s6 c))))))))
theorem mild_finishLbp (c : Nat) : Mild s (s.finishLbp c) := by
  unfold State.finishLbp
  extract_lets u v
  have hu : Mild s u := mild_land s c
  have hv : Mild u v := mild_modStream u c 0 _
  exact hu.trans (hv.trans (.ite (mild_endRun v _) (.refl v)))
theorem mild_frame : Mild s s.frame := by
  unfold State.frame
  extract_lets c
  refine .ite ?_ (.ite (.refl s) ?_)
  · split
    · exact mild_prepareLbp s c
    · exact mild_finishLbp s c
    · exact .refl s
  · split
    · exact mild_prepareCore s c
    · exact mild_finishCore s c
    · exact .refl s

/-! ## Rounds and the reference tick -/

theorem mild_refTick : Mild s s.refTick := by
  unfold State.refTick
  extract_lets late slews s1 s2 s3 s4
  have h1 : Mild s s1 := .same (by rfl)
  have h2 : Mild s1 s2 := (mild_powerTick s1).trans (mild_sensorTick _)
  have h3 : Mild s2 s3 := mild_owe s2 late
  have h4 : Mild s3 s4 := mild_owe s3 _
  exact h1.trans (h2.trans (h3.trans (h4.trans (mild_owe s4 _))))
theorem sound_roundOwn : Sound s s.roundOwn := by
  unfold State.roundOwn
  refine .ite (.refl s) ?_
  extract_lets s1 s2 s3 s4
  have h1 : Mild s s1 := .foldl mild_takePacket _ s
  have h2 : Mild s1 s2 := by
    refine .foldl (fun t k => ?_) _ s1
    split
    · exact mild_drainOverflow t _ _
    · exact .refl t
  have h3 : Mild s2 s3 := .foldl (fun t d => .ite (.refl t) (mild_startRamp t d)) _ s2
  have h4 : Mild s3 s4 := .foldl (fun t c => .ite (mild_enterSeason t c) (.refl t)) _ s3
  refine (h1.trans (h2.trans (h3.trans h4))).sound.trans ?_
  split
  · exact (Sound.foldl sound_takeAck _ s4).trans (sound_otStart 8 _)
  · exact .refl s4
theorem mild_servePops : Mild s s.servePops := mild_owe s _
theorem mild_freshRound : Mild s s.freshRound := .same (by rfl)
theorem sound_endRound : Sound s s.endRound := by
  unfold State.endRound
  extract_lets s1 s2 s3 s4
  have h1 : Sound s s1 :=
    ((((mild_servePops s).trans (mild_snapEnd _)).trans (mild_ctlRound _)).trans (mild_freshRound _)).sound.trans (sound_roundOwn _)
  clear_value s1
  have h2 : Mild s1 s2 := mild_refTick s1
  clear_value s2
  have h3 : Mild s1 s3 := .ite (h2.trans (.same (by rfl))) (.same (by rfl))
  clear_value s3
  have h4 : Mild s3 s4 := (mild_seasonRound s3).trans (mild_snapStart _)
  clear_value s4
  exact h1.trans ((h3.trans h4).sound.trans (.same (by rfl)))
theorem sound_nextUnit : Sound s s.nextUnit := by
  unfold State.nextUnit
  split
  · exact .same (by rfl)
  · exact sound_endRound s
theorem sound_advance : Sound s s.advance := by
  unfold State.advance
  extract_lets x
  split
  · exact .same (by rfl)
  · exact .ite (.same (by rfl)) (.ite (.same (by rfl)) (.same (by rfl)))
  · exact .same (by rfl)
  · exact sound_nextUnit s
end

end Sys2Proof.Laws
end

section
/-! PROOF. Every step keeps the canonical form of memory. -/
namespace Sys2Proof.Laws
open Sys2Proof.Machine

section
variable (s : State)

/-! ## Effects of happenings that stand in their meanings alone -/

theorem mild_addressTranslation (c id : Nat) :
    Mild s (match (s.core c).access id with | some a => s.translateAcc c a | none => s) := by
  split
  · exact mild_translateAcc s c _
  · exact .refl s
theorem mild_scrub (n : Nat) :
    let t : State := { s with corrected := s.corrected + n % 2 ^ 32 }
    Mild s (if n < 2 ^ 32 then t else (t.markBad (n / 2 ^ 32)).keeperVector) := by
  intro t
  have ht : Mild s t := .same (by rfl)
  exact .ite ht (ht.trans ((mild_markBad t _).trans (mild_keeperVector _)))
theorem mild_peerCeil (l : Tab (Nat × Nat)) : Mild s { s with peerCeil := l } := .same (by rfl)
theorem mild_training (port : Nat) (peer : Option Nat) :
    Mild s (match peer with
      | some p => if port ≤ 1 ∧ p < 4 then { s with peers := tabPut s.peers port p } else s
      | none => { s with peers := tabDel s.peers port }) := by
  split
  · exact .ite (.same (by rfl)) (.refl s)
  · exact .same (by rfl)
end

section
variable {s t u : State} {i : Instr}

/-! ## Every instruction and every happening -/

theorem answer_next (h : answer u = .next t) : u = t := by
  unfold answer at h
  split at h
  · cases h
  · injection h
theorem sound_answer (hu : Sound s u) (h : answer u = .next t) : Sound s t := answer_next h ▸ hu
theorem mild_answer (hu : Mild s u) (h : answer u = .next t) : Sound s t := sound_answer hu.sound h
/-- A happening, and a word that does not decode, keep the form: by the operation that each carries out. -/
theorem happening_sound (hi : Encoding.hdr i = none) (h : exec i s = .next t) : Sound s t := by
  cases i with
  | reservedOpcode w =>
    cases show execReservedOpcode w s = .next t from h
    exact (mild_takeFault s _ _ _ _ _).sound
  | engineCommandStart core eng => exact mild_answer (mild_engineStart s core eng) (show execEngineCommandStart core eng s = .next t from h)
  | engineCommandFinish core eng => exact mild_answer (mild_engineFinish s core eng) (show execEngineCommandFinish core eng s = .next t from h)
  | kStep core => exact mild_answer (mild_kStepNow s core) (show execKStep core s = .next t from h)
  | engineAutumnEntry core eng => exact mild_answer (mild_engineAutumn s core eng) (show execEngineAutumnEntry core eng s = .next t from h)
  | domainStep core => exact mild_answer (mild_domainSteps s core) (show execDomainStep core s = .next t from h)
  | domainReferenceTrigger core dom => exact mild_answer (mild_refTrigger s core dom) (show execDomainReferenceTrigger core dom s = .next t from h)
  | domainEngineTrigger core dom => exact mild_answer (mild_engTrigger s core dom) (show execDomainEngineTrigger core dom s = .next t from h)
  | copypEndMarker core => exact mild_answer (mild_markerNow s core) (show execCopypEndMarker core s = .next t from h)
  | poolRequestStep core => exact mild_answer (mild_poolStep s core) (show execPoolRequestStep core s = .next t from h)
  | loadDataReturn core id => exact mild_answer (mild_performIf s core id _) (show execLoadDataReturn core id s = .next t from h)
  | atomicReturn core id => exact mild_answer (mild_performIf s core id _) (show execAtomicReturn core id s = .next t from h)
  | addressTranslation core id => exact mild_answer (mild_addressTranslation s core id) (show execAddressTranslation core id s = .next t from h)
  | pushEntryPoppable core id => exact mild_answer (mild_landIf s core id _) (show execPushEntryPoppable core id s = .next t from h)
  | postAdditionLands core id => exact mild_answer (mild_landIf s core id _) (show execPostAdditionLands core id s = .next t from h)
  | ccsetValueLands core id => exact mild_answer (mild_landIf s core id _) (show execCcsetValueLands core id s = .next t from h)
  | instructionBufferFill core stream block => exact mild_answer (.ite (mild_fillBlock s core stream block) (.refl s)) (show execInstructionBufferFill core stream block s = .next t from h)
  | watchdogExpiry core => exact mild_answer (mild_watchdog s core) (show execWatchdogExpiry core s = .next t from h)
  | deadlineMiss lid => exact mild_answer (mild_missDeadline s lid) (show execDeadlineMiss lid s = .next t from h)
  | formSwap form => exact mild_answer (mild_swap s form) (show execFormSwap form s = .next t from h)
  | contextSave core => exact mild_answer (mild_contextSave s core) (show execContextSave core s = .next t from h)
  | contextRestore core => exact mild_answer (mild_contextRestore s core) (show execContextRestore core s = .next t from h)
  | dieQueuePop core => exact mild_answer (mild_popChild s core) (show execDieQueuePop core s = .next t from h)
  | frameDeadline sn => exact mild_answer (mild_frameDeadline s sn) (show execFrameDeadline sn s = .next t from h)
  | lbpRowRun lbp => exact mild_answer (.ite (mild_runRow s lbp) (.refl s)) (show execLbpRowRun lbp s = .next t from h)
  | rowPublish sn => exact mild_answer (mild_publishRow s sn) (show execRowPublish sn s = .next t from h)
  | storePerformed core writeBack id => exact mild_answer (.ite (mild_writeBack s core id) (mild_performIf s core id _)) (show execStorePerformed core writeBack id s = .next t from h)
  | nearPartDone core => exact mild_answer (mild_nearPart s core) (show execNearPartDone core s = .next t from h)
  | prefetchComplete core token => exact mild_answer (mild_prefetchDone s core token) (show execPrefetchComplete core token s = .next t from h)
  | timingErrorReplay core stream commit => exact mild_answer (.ite (mild_timingError s core stream commit) (.refl s)) (show execTimingErrorReplay core stream commit s = .next t from h)
  | softErrorConsumed core stream store number commit => exact mild_answer (mild_softError s core stream store number commit) (show execSoftErrorConsumed core stream store number commit s = .next t from h)
  | keeperScrub corrected => exact mild_answer (mild_scrub s corrected) (show execKeeperScrub corrected s = .next t from h)
  | ffCtlResume core writer => exact mild_answer (mild_ctlResume s core writer) (show execFfCtlResume core writer s = .next t from h)
  | ffCtlAbandon core writer => exact mild_answer (mild_ctlAbandon s core writer) (show execFfCtlAbandon core writer s = .next t from h)
  | ffCtlAbort core writer => exact mild_answer (mild_ctlAbort s core writer) (show execFfCtlAbort core writer s = .next t from h)
  | debugHaltRequest core stream => exact mild_answer (mild_haltRequest s core stream) (show execDebugHaltRequest core stream s = .next t from h)
  | debugResume core stream => exact mild_answer (mild_haltRelease s core stream) (show execDebugResume core stream s = .next t from h)
  | inboxTail fn tail => exact mild_answer (mild_writeTail s fn tail) (show execInboxTail fn tail s = .next t from h)
  | launchPacketEntry fn => exact mild_answer (mild_takePacket s fn) (show execLaunchPacketEntry fn s = .next t from h)
  | ttCommit => exact mild_answer (mild_ttCommitNow s) (show execTtCommit s = .next t from h)
  | overflowDrain die ctx => exact mild_answer (mild_drainOverflow s die ctx) (show execOverflowDrain die ctx s = .next t from h)
  | urgForms mask => exact mild_answer (mild_writeUrg s mask) (show execUrgForms mask s = .next t from h)
  | seasonReqSummer core val => exact mild_answer (mild_seasonRequest s core val) (show execSeasonReqSummer core val s = .next t from h)
  | seasonReqWinter core val => exact mild_answer (mild_seasonRequest s core val) (show execSeasonReqWinter core val s = .next t from h)
  | seasonReqMidwinter core val => exact mild_answer (mild_seasonRequest s core val) (show execSeasonReqMidwinter core val s = .next t from h)
  | seasonEntry core => exact mild_answer (mild_enterSeason s core) (show execSeasonEntry core s = .next t from h)
  | springRampStart die => exact mild_answer (mild_startRamp s die) (show execSpringRampStart die s = .next t from h)
  | springRampDone die => exact mild_answer (mild_endRamp s die) (show execSpringRampDone die s = .next t from h)
  | formImbalanceTick form work filler => exact mild_answer (.ite (.refl s) (.ite (mild_imbalanceTick s form work _ _) (mild_modForm s form _))) (show execFormImbalanceTick form work filler s = .next t from h)
  | throttleRelax form => exact mild_answer (mild_relaxForm s form) (show execThrottleRelax form s = .next t from h)
  | thermalCeilingStep die raise => exact mild_answer (.ite ((mild_ceilingStep s die raise).trans (mild_modDie _ die _)) (.refl s)) (show execThermalCeilingStep die raise s = .next t from h)
  | thermalTrip die => exact mild_answer (.ite (((mild_modDie s die _).trans (mild_keeperVector _)).trans (mild_slowDown _ die)) (.refl s)) (show execThermalTrip die s = .next t from h)
  | thermalTripRelease die => exact mild_answer (.ite ((mild_modDie s die _).trans (mild_sendAll _ _)) (.refl s)) (show execThermalTripRelease die s = .next t from h)
  | slowDownNoticeRepeat die => exact mild_answer (mild_repeatNotice s die) (show execSlowDownNoticeRepeat die s = .next t from h)
  | slowDownNotice port code => exact mild_answer (.ite (mild_peerCeil s _) (.refl s)) (show execSlowDownNotice port code s = .next t from h)
  | releaseNotice port => exact mild_answer (mild_peerCeil s _) (show execReleaseNotice port s = .next t from h)
  | peerCeilingExpiry port => exact mild_answer (mild_peerExpiry s port) (show execPeerCeilingExpiry port s = .next t from h)
  | memTempRead channel temp => exact mild_answer (.ite (mild_memTemp s channel temp) (.refl s)) (show execMemTempRead channel temp s = .next t from h)
  | otCmdInval fn val => exact sound_answer (sound_writeOtCmd s fn val) (show execOtCmdInval fn val s = .next t from h)
  | otCmdMigrate fn val => exact sound_answer (sound_writeOtCmd s fn val) (show execOtCmdMigrate fn val s = .next t from h)
  | otCmdDirty fn val => exact sound_answer (sound_writeOtCmd s fn val) (show execOtCmdDirty fn val s = .next t from h)
  | shootDownAck receiver => exact sound_answer ((sound_takeAck s receiver).trans (sound_otStart 8 _)) (show execShootDownAck receiver s = .next t from h)
  | migrationCopy => exact sound_answer (sound_migrate s) (show execMigrationCopy s = .next t from h)
  | functionLevelReset fn => exact sound_answer (sound_resetFunction s fn) (show execFunctionLevelReset fn s = .next t from h)
  | flrDone fn => exact mild_answer (mild_resetWindow s fn) (show execFlrDone fn s = .next t from h)
  | deviceReset verified record => exact sound_answer (sound_deviceReset s verified record) (show execDeviceReset verified record s = .next t from h)
  | attCmd => exact mild_answer (mild_attStart s) (show execAttCmd s = .next t from h)
  | attestationReportDone keeper registrar config sigR sigS => exact mild_answer (mild_attReady s keeper registrar config sigR sigS) (show execAttestationReportDone keeper registrar config sigR sigS s = .next t from h)
  | hostLinkError core id => exact mild_answer (mild_hostError s core id) (show execHostLinkError core id s = .next t from h)
  | scfgEnable sn val => exact mild_answer (mild_writeScfg s sn val) (show execScfgEnable sn val s = .next t from h)
  | scfgDisable sn val => exact mild_answer (mild_writeScfg s sn val) (show execScfgDisable sn val s = .next t from h)
  | serrCtlClr sn val => exact mild_answer (mild_writeSerrCtl s sn val) (show execSerrCtlClr sn val s = .next t from h)
  | csi2FrameStart port head => exact mild_answer (.ite (.refl s) (mild_camera s port _ _)) (show execCsi2FrameStart port head s = .next t from h)
  | csi2FrameEnd port head => exact mild_answer (.ite (.refl s) (mild_camera s port _ _)) (show execCsi2FrameEnd port head s = .next t from h)
  | csi2LineStart port head line => exact mild_answer (.ite (.refl s) (mild_camera s port _ _)) (show execCsi2LineStart port head line s = .next t from h)
  | csi2LongPacket port vc kind eccBad crcBad samples => exact mild_answer (.ite (.refl s) (mild_camera s port vc _)) (show execCsi2LongPacket port vc kind eccBad crcBad samples s = .next t from h)
  | lidarFrame port head payload => exact mild_answer (.ite (.refl s) (mild_lidar s port payload)) (show execLidarFrame port head payload s = .next t from h)
  | rollCallTick => exact mild_answer (mild_rollCall s) (show execRollCallTick s = .next t from h)
  | timeSyncMessage host synced time => exact mild_answer (mild_syncTime s host synced time) (show execTimeSyncMessage host synced time s = .next t from h)
  | registerWrite win offset val => exact sound_answer (sound_writeRegister s win offset val) (show execRegisterWrite win offset val s = .next t from h)
  | talothPortTraining port peer => exact mild_answer (mild_training s port peer) (show execTalothPortTraining port peer s = .next t from h)
  | talothJobPeerMessage port peer data => exact mild_answer (mild_peerMessage s port peer data) (show execTalothJobPeerMessage port peer data s = .next t from h)
  | _ => cases hi
theorem exec_sound (h : exec i s = .next t) : Sound s t := by
  cases hi : Encoding.hdr i with
  | none => exact happening_sound hi h
  | some hd => exact (word_mild (hi ▸ rfl) h).sound

/-! ## The words of a slot -/

theorem sound_consumed (h : Sound s t) (u : State) (w : Nat × Instr) : Sound s (t.consumed u w) := by
  unfold State.consumed
  split
  · exact .ite (h.trans (mild_takeFault t _ _ _ _ _).sound) h
  · exact h
theorem sound_runWords (ws : List (Nat × Instr)) (s : State) (h : runWords ws s = .next t) : Sound s t := by
  induction ws generalizing s with
  | nil =>
    cases show Host.Outcome.next s = .next t from h
    exact .refl _
  | cons w ws ih =>
    unfold runWords at h
    split at h
    · next v hv =>
      have hw : Sound s v := Sound.trans (.same (by rfl)) (exec_sound hv)
      exact (sound_consumed hw s w).trans (ih _ h)
    · cases h
    · cases h
/-- The state that a settled bundle stands or runs again in. -/
def settledState : Settled → State
  | .done s => s
  | .rerun s _ => s
theorem sound_settle (hst : Sound s t) (ws : List (Nat × Instr)) (last : Bool) : Sound s (settledState (s.settle t ws last)) := by
  have harrive : ∀ l : List (Nat × Instr), Sound s (l.foldl State.arrive s) := fun l => .foldl (fun t w => (mild_arrive t w).sound) l s
  unfold State.settle
  extract_lets c ms t' held bad took arrived go
  have ht' : Sound s t' := hst.trans (.same (by rfl))
  split
  · exact ht'
  split
  · exact (mild_mark s c ms _).sound
  split
  · exact harrive held
  split
  · exact .ite ht' (ht'.trans (mild_modCore t' c _).sound)
  split
  · exact (mild_mark s c ms _).sound
  split
  · exact harrive _
  · exact (harrive _).trans (mild_mark arrived c ms _).sound
theorem sound_runAgain {ws : List (Nat × Instr)} (h : runAgain s ws = .next t) : Sound s t := by
  unfold runAgain at h
  split at h
  · next v hv =>
    have hw : Sound s v := sound_runWords ws s hv
    have hs := sound_settle hw ws true
    split at h
    · next u hu =>
      rw [hu] at hs
      exact sound_answer (hs.trans (sound_advance u)) h
    · exact sound_answer ((hw.trans (.same (by rfl))).trans (sound_advance _)) h
  · cases h
  · cases h
theorem sound_runSettled {ws : List (Nat × Instr)} (hsu : Sound s u) (h : runSettled s ws u = .next t) : Sound s t := by
  have hs := sound_settle hsu ws false
  unfold runSettled at h
  split at h
  · next v hv =>
    rw [hv] at hs
    exact sound_answer (hs.trans (sound_advance v)) h
  · next v _ hv =>
    rw [hv] at hs
    exact hs.trans (sound_runAgain h)
theorem mild_gapSlots (c : Nat) (l : List Nat) (p : State × List (Nat × Instr)) :
    Mild p.1 (l.foldl (fun (a : State × List (Nat × Instr)) n => let r := a.1.slotWords c n; (r.1, a.2 ++ r.2)) p).1 := by
  induction l generalizing p with
  | nil => exact .refl p.1
  | cons n l ih => exact (mild_slotWords p.1 c n).trans (ih _)
theorem mild_gapWords (ws : List (Nat × Instr)) : Mild s (s.gapWords ws).1 := by
  unfold State.gapWords
  extract_lets g
  have hg : Mild s g.1 := mild_gapSlots s.curCore (gapsOf ws) (s, [])
  split
  · exact hg
  · exact hg
theorem sound_runApart {ws : List (Nat × Instr)} (h : runApart s ws = .next t) : Sound s t := by
  unfold runApart at h
  extract_lets g ms bits at h
  split at h
  · next v hv =>
    have hw : Sound s v := (mild_gapWords ws).sound.trans (sound_runWords _ _ hv)
    split at h
    · extract_lets took s' at h
      have hs' : Sound s s' := (mild_modCore s _ _).sound
      split at h
      · next u hu => exact sound_answer ((hs'.trans (sound_runWords _ _ hu)).trans (sound_advance u)) h
      · cases h
      · cases h
    · exact sound_runSettled hw h
  · cases h
  · cases h
theorem sound_runSlot {ws : List (Nat × Instr)} (h : runSlot s ws = .next t) : Sound s t := by
  unfold runSlot at h
  split at h
  · exact sound_runApart h
  split at h
  · next v hv => exact sound_runSettled (sound_runWords ws s hv) h
  · cases h
  · cases h
theorem sound_cursorStep (h : s.cursorStep = .next t) : Sound s t := by
  have hf := mild_fetchStep s
  unfold State.cursorStep at h
  split at h
  · next u hu =>
    rw [hu] at hf
    exact sound_answer (hf.sound.trans ((mild_frame u).sound.trans (sound_advance _))) h
  · next u ws _ hu =>
    rw [hu] at hf
    exact hf.sound.trans (sound_runSlot h)

/-! ## One step -/

theorem step_sound (h : step s = .next t) : Sound s t := by
  have h : s.stepNow = .next t := h
  unfold State.stepNow at h
  split at h
  · exact Sound.trans (.same (by rfl)) (exec_sound h)
  split at h
  · split at h
    · exact Sound.trans (.same (by rfl)) (exec_sound h)
    · exact sound_cursorStep h
  · exact Sound.trans (.same (by rfl)) (sound_cursorStep h)
  · exact sound_cursorStep h
end

/-- Settles O57: each operation that a happening, a word or a round carries out keeps the form, and a step is made of them. -/
theorem memoryKeepsItsForm : Obligations.MemoryKeepsItsForm := by
  unfold Obligations.MemoryKeepsItsForm
  intro s t hdev hhost hreg htags h
  exact step_sound h ⟨hdev, hhost, hreg, htags⟩

end Sys2Proof.Laws
end
